-- ==== Sys2Proof/Word.lean ====
section
/-! DEFINITION. The plain words of the Z5 and the names of its parts: bit vectors for what the spec treats as
bits, finite indices for the numbered parts of R18 and R29. -/

namespace Sys2Proof

/-- A byte. -/
abbrev Byte := BitVec 8
/-- A 32-bit word: a register of BAR0, a scalar register, one lane of a vector register (R96). -/
abbrev Word := BitVec 32
/-- A 64-bit word: an address register, the tide, an encoded instruction (R47, R96, R101). -/
abbrev DWord := BitVec 64

/-- An island die, 0 to 15 (R18). -/
abbrev Island := Fin 16
/-- A harbor die, 0 to 3 (R18). -/
abbrev Harbor := Fin 4
/-- An optical engine die, 0 to 3 (R18). -/
abbrev OE := Fin 4
/-- A Ravor port, 0 to 15 (R412). -/
abbrev Port := Fin 16
/-- A logical core, island [10:7], cluster [6:4], core [3:0] (R18). -/
abbrev LCore := Fin 2048
/-- A cluster of the package, 8 × island + cluster (R29). -/
abbrev Cluster := Fin 128
/-- A partition number (R29). -/
abbrev Part := Fin 128
/-- A tenant number (R29). -/
abbrev Tenant := Fin 4096
/-- A request stream number (R29). -/
abbrev Stream := Fin 16384
/-- An endpoint ID of the rack (R29). -/
abbrev Endpoint := Fin 65536
/-- A mold slot (R96). -/
abbrev Slot := Fin 4
/-- A ring descriptor of a core (R208). -/
abbrev Ring := Fin 16

/-- A map held as data: key and value pairs, keys strictly rising. -/
abbrev SMap (α : Type) := List (Nat × α)

end Sys2Proof
end

