-- ==== Sys2Proof/Syntax.lean ====
section
/-! DEFINITION. The commands of the Z5: one constructor of Instr per row of the table of operations and events, with
the row's operands. A core instruction carries the fields of its 64-bit word (R102 to R122, R631, R632); a register
command carries what the write carries; an event carries what the world outside the block brings with it. -/

namespace Sys2Proof

/-- A granule with its side-band: 64 data bytes, four scales, sixteen WPOIS bits, four SPOIS bits (R202, R203). -/
structure Granule where
  data   : List Byte
  scales : List Byte
  wpois  : List Bool
  spois  : List Bool
  deriving DecidableEq, Repr

/-- Fields of a matrix macro (R104). -/
structure MatF where
  adesc  : Fin 16
  wring  : Fin 16
  odesc  : Fin 16
  afmt   : BitVec 4
  wfmt   : BitVec 4
  cvt    : BitVec 8
  tag    : BitVec 8
  sparse : Fin 4
  askip  : Bool
  walk   : Fin 4
  dreg   : Fin 32
  deriving DecidableEq, Repr

/-- Fields of a vector instruction (R106). -/
structure VecF where
  vd   : Fin 16
  va   : Fin 16
  vb   : Fin 16
  fn   : BitVec 4
  cvt  : BitVec 8
  areg : Fin 8
  src  : Bool
  ring : Fin 16
  sa   : Fin 32
  imm  : BitVec 19
  deriving DecidableEq, Repr

/-- Fields of a row-statistics instruction (R109). -/
structure StatF where
  ring : Fin 16
  src  : Bool
  areg : Fin 8
  dreg : Fin 8
  fmt  : BitVec 4
  rows : BitVec 8
  len  : BitVec 13
  deriving DecidableEq, Repr

/-- Fields of a MOVE instruction (R110, R632). -/
structure MoveF where
  sd  : Fin 32
  sa  : Fin 32
  sb  : Fin 32
  fn  : BitVec 4
  imm : BitVec 32
  deriving DecidableEq, Repr

/-- Fields of an XFER instruction (R113, R631). -/
structure XferF where
  route : Fin 64
  port  : Fin 4
  areg  : Fin 8
  len   : BitVec 8
  se    : Fin 4
  tag   : Fin 16
  sb    : Fin 32
  desc  : Fin 16
  imm   : BitVec 22
  deriving DecidableEq, Repr

/-- Fields of a GATE instruction (R116); `n` is the slot count minus one. -/
structure GateF where
  ring  : Fin 16
  n     : Fin 8
  route : Fin 64
  sa    : Fin 32
  deriving DecidableEq, Repr

/-- Fields of a CTR instruction (R118). -/
structure CtrF where
  sd   : Fin 32
  sa   : Fin 32
  ctr  : Fin 64
  step : BitVec 16
  deriving DecidableEq, Repr

/-- Fields of a WAIT instruction (R119). -/
structure WaitF where
  mask  : BitVec 16
  scope : Fin 4
  sa    : Fin 32
  sb    : Fin 32
  deriving DecidableEq, Repr

/-- Fields of a FLOW instruction (R120). -/
structure FlowF where
  sa     : Fin 32
  sb     : Fin 32
  target : Fin 1024
  count  : BitVec 16
  deriving DecidableEq, Repr

/-- An entry of a step message (R391): the slot, the position of the first token fed, the number fed, whether the last
of them is sampled, whether the request is new, the tokens, the KV blocks first used. -/
structure StepEntry where
  slot   : Nat
  pos    : Nat
  count  : Nat
  sample : Bool
  isNew  : Bool
  toks   : List Nat
  blocks : List Nat
  deriving DecidableEq, Repr

/-- What KEY_INSTALL and KEY_REVOKE carry in the data window (R563): key index, key and MIN_SEC_VERSION, KEY_SEQ, the owner
root public key, and r and s of the signature. -/
structure KeyCmd where
  index  : Nat
  key    : BitVec 768
  minSec : Word
  seq    : DWord
  owner  : BitVec 768
  r      : BitVec 384
  s      : BitVec 384
  deriving DecidableEq, Repr

/-- A reading that PLDM type 2 returns (R545, R547, R565): a thermal sensor of a die, a tower, a droop monitor of an island,
a rail monitor, the power of a block and of the package, the boot phase, the state of Exkalet. -/
inductive PlatSensor where
  | thermal (die : Fin 25) (sensor : Fin 16)
  | tower (n : Fin 12)
  | droop (i : Fin 16) (monitor : Fin 8)
  | rail (n : Fin 256)
  | block (n : Fin 25)
  | package
  | phase
  | exkalet
  deriving DecidableEq, Repr

/-- A PLDM type 63 command (R565): a mailbox command with its first argument and its data, or the read of an MGT_ register. -/
inductive OemCmd where
  | mailbox (op : BitVec 8) (arg : Word) (key : Option KeyCmd) (data : List Byte)
  | read (n : Fin 1024)
  deriving DecidableEq, Repr

/-- A request that a shadow stream takes over (R407): the stream, the batch slot, the 64 bytes of its SUBMIT header,
and the number of tokens already appended. -/
structure ShadowReq where
  stream : Fin 16384
  slot   : Fin 256
  hdr    : List Byte
  count  : Nat
  deriving DecidableEq, Repr

/-- What the tests of a start find (R492, R499 to R503, R550): the islands whose fabric test passed, failed stacks by
3 × harbor + stack, ports with no expander and with one that fails training, optical engines that fail their self-test,
failing cores by island and position, the anneal records taken (island, step code, offset in mV, hottest sensor), near
frames retired by harbor, middle frames found failing by port and frame of the expander, harbors with no NAND, the
duration of the phase in ms. -/
structure BootResult where
  fabOk        : BitVec 16
  stackFail    : BitVec 12
  midAbsent    : BitVec 8
  midTrainFail : BitVec 8
  oeFail       : BitVec 4
  coreFail     : List (Fin 16 × Fin 144)
  anneal       : List (Fin 16 × Fin 5 × BitVec 8 × BitVec 7)
  nearRetired  : List (Fin 4 × Nat)
  midBad       : List (Fin 8 × Nat)
  ftlNone      : BitVec 4
  ms           : Nat
  deriving DecidableEq, Repr


/-- The commands, in the order of the table of operations and events. -/
inductive Instr where
  /-- REGISTER_WRITE (R15): A host write to a register that has no behaviour of its own takes its value, with clamping of illegal values and a clamp count. Operands: whether a doorbell page of BAR2 is written; the 4-byte word of the BAR; the word and its byte enables; for an 8-byte write the upper word and its byte enables. -/
  | registerWrite (bar2 : Bool) (dw : BitVec 26) (lo : Word) (loBe : BitVec 4) (hi : Option (Word × BitVec 4))
  /-- ROOT_PLL_LOCK (R31): The root PLL locks after REFCLK is valid and the hub rail is good. -/
  | rootPllLock
  /-- PLL_LOCK_TIMEOUT (R31): The root PLL has not locked 2 ms after its conditions hold, which is a failed start with cause 0x5. -/
  | pllLockTimeout
  /-- DESKEW_DONE (R34): Deskew completes: Exkalet switches to MCLK, the other domains leave reset and the tide starts at 0. -/
  | deskewDone
  /-- PLL_LOCK_LOSS (R37): Loss of root PLL lock after start is a hub fault that takes the package down. -/
  | pllLockLoss
  /-- GOVERNOR_EVALUATION (R39): Every 1,200 ticks the island governor reads its hottest sensor and selects the step code allowed by its entries, CAP and the droop hold. Operands: the readings of the island's 16 thermal sensors in °C and of its core-rail current in 0.1 A. -/
  | governorEvaluation (i : Island) (temps : List (BitVec 8)) (amps : Nat)
  /-- DROOP_ALARM (R42): A droop monitor alarm makes the island stretch CCLK cycles while the alarm stays raised. -/
  | droopAlarm (i : Island) (monitor : Fin 8)
  /-- DROOP_STEP_DOWN (R43): STRETCH_LIMIT + 1 consecutive stretched cycles step the governor one code slower and set DROOP_HOLD. Operands: same: the step-down falls due at the evaluation just made. -/
  | droopStepDown (i : Island) (same : Bool)
  /-- HUB_TIDE_LO_READ (R49): A read of HUB_TIDE_LO returns tide [31:0] and latches tide [63:32] into HUB_TIDE_HI. -/
  | hubTideLoRead
  /-- TIDE_SYNC_EDGE (R51): A rising edge on TIDE_SYNC while LOAD_ARM = 1 schedules the tide load. -/
  | tideSyncEdge
  /-- TIDE_LOAD (R51): In the third tick after the edge, every die's tide takes the load value, LOAD_ARM clears and LOAD_DONE sets. -/
  | tideLoad
  /-- TIDE_SLEW (R52): Once in each 1,024 ticks the tide advances by 2 or holds one tick to correct toward the rack reference. -/
  | tideSlew
  /-- FENCE_COMPLETION (R62): When every participant has issued the fence and their earlier messages are delivered, the collector stamps the completion tick and sends the notice. -/
  | fenceCompletion (c : LCore)
  /-- FENCE_NOTICE_ARRIVAL (R63): The completion notice reaches a participant, which resumes with FTICK holding the completion tick. -/
  | fenceNoticeArrival (c : LCore)
  /-- MM (R104): A matrix macro writes A × W to the output through the ladle. -/
  | mm (c : LCore) (f : MatF)
  /-- MMAC (R146): A matrix macro adds A × W to the output's existing contents. -/
  | mmac (c : LCore) (f : MatF)
  /-- VADD (R106): Lane-wise addition into VD. -/
  | vadd (c : LCore) (f : VecF)
  /-- VSUB (R106): Lane-wise subtraction into VD. -/
  | vsub (c : LCore) (f : VecF)
  /-- VMUL (R106): Lane-wise multiplication into VD. -/
  | vmul (c : LCore) (f : VecF)
  /-- VFMA (R177): Lane-wise fused multiply-add into VD, rounded once. -/
  | vfma (c : LCore) (f : VecF)
  /-- VMIN (R178): Lane-wise IEEE minimum into VD. -/
  | vmin (c : LCore) (f : VecF)
  /-- VMAX (R178): Lane-wise IEEE maximum into VD. -/
  | vmax (c : LCore) (f : VecF)
  /-- VSFU (R107): A special function chosen by FN is applied to every lane. -/
  | vsfu (c : LCore) (f : VecF)
  /-- VDIV (R177): Lane-wise correctly rounded division into VD. -/
  | vdiv (c : LCore) (f : VecF)
  /-- VRED (R94): A sum, max or min of the 64 lanes by the fixed tree is written to every lane of VD. -/
  | vred (c : LCore) (f : VecF)
  /-- VLD (R108): 64 elements are read from the tile store or a ring head slot and widened into VD. -/
  | vld (c : LCore) (f : VecF)
  /-- VST (R108): VA is converted under CVT and written to the tile store or a ring tail slot. -/
  | vst (c : LCore) (f : VecF)
  /-- VBCAST (R176): Every lane of VD takes the pattern of s[SA]. -/
  | vbcast (c : LCore) (f : VecF)
  /-- VSCALE (R176): VA is multiplied by s[SA] read as FP32. -/
  | vscale (c : LCore) (f : VecF)
  /-- RMAX (R191): The row-statistics unit writes the maximum of each row. -/
  | rmax (c : LCore) (f : StatF)
  /-- RSUM (R191): The row-statistics unit writes the sum of each row. -/
  | rsum (c : LCore) (f : StatF)
  /-- RMEAN (R192): The row-statistics unit writes the mean of each row. -/
  | rmean (c : LCore) (f : StatF)
  /-- RVAR (R193): Two passes write the mean and population variance of each row. -/
  | rvar (c : LCore) (f : StatF)
  /-- RMINMAX (R191): The row-statistics unit writes the minimum and maximum of each row. -/
  | rminmax (c : LCore) (f : StatF)
  /-- LI (R110): s[SD] takes the immediate. -/
  | li (c : LCore) (f : MoveF)
  /-- ALU (R110): s[SD] takes s[SA] FN s[SB]. -/
  | alu (c : LCore) (f : MoveF)
  /-- ALUI (R110): s[SD] takes s[SA] FN IMM. -/
  | alui (c : LCore) (f : MoveF)
  /-- LDS (R111): A 32-bit word is loaded from the tile store into a scalar register. -/
  | lds (c : LCore) (f : MoveF)
  /-- STS (R111): A scalar register is stored as a 32-bit word in the tile store. -/
  | sts (c : LCore) (f : MoveF)
  /-- AMOV (R632): A value moves between scalar and address registers, as FN selects. -/
  | amov (c : LCore) (f : MoveF)
  /-- GET (R112): A special register is read into a scalar register. -/
  | get (c : LCore) (f : MoveF)
  /-- PUT (R112): A scalar register is written to a writable special register. -/
  | put (c : LCore) (f : MoveF)
  /-- FILL (R111): A tile store range is filled with a 32-bit pattern at 256 bytes per CCLK. -/
  | fill (c : LCore) (f : MoveF)
  /-- COPY (R111): A tile store range is copied in ascending address order. -/
  | copy (c : LCore) (f : MoveF)
  /-- SEND (R114): A packet of up to 4 KiB is sent from the tile store to a destination FIFO under a credit. -/
  | send (c : LCore) (f : XferF)
  /-- SENDI (R114): A one-word packet carrying s[SB] is sent under a credit. -/
  | sendi (c : LCore) (f : XferF)
  /-- RECV (R114): The oldest visible packet of a port's FIFO is copied to the tile store and consumed. -/
  | recv (c : LCore) (f : XferF)
  /-- WPUT (R115): A stream engine writes tile store data to a remote window, ring or router. -/
  | wput (c : LCore) (f : XferF)
  /-- TGET (R115): A stream engine reads a tier object into the tile store. -/
  | tget (c : LCore) (f : XferF)
  /-- TPUT (R115): A stream engine writes tile store data to a tier object. -/
  | tput (c : LCore) (f : XferF)
  /-- TRANSFER_DELIVERED (R62): A transfer is delivered, or ends in WINDOW_CLOSED, and its tag completes. Operands: a transfer of core c, the index-th outstanding, ends; closed: in WINDOW_CLOSED. -/
  | transferDelivered (c : LCore) (index : Nat) (closed : Bool)
  /-- RPOP (R116): N head slots of a ring are released. -/
  | rpop (c : LCore) (f : GateF)
  /-- RPUSH (R116): N tail slots filled by the core are committed full. -/
  | rpush (c : LCore) (f : GateF)
  /-- RWAIT (R116): Issues once the ring holds at least N full slots, and changes nothing. -/
  | rwait (c : LCore) (f : GateF)
  /-- RSEL (R286): A conditional route is made to take the alternative in s[SA]. -/
  | rsel (c : LCore) (f : GateF)
  /-- CTAKE (R258): A work index is taken from a cluster counter. -/
  | ctake (c : LCore) (f : CtrF)
  /-- CSET (R258): A cluster counter's VALUE is set. -/
  | cset (c : LCore) (f : CtrF)
  /-- CADD (R258): A value is added to a cluster counter's VALUE. -/
  | cadd (c : LCore) (f : CtrF)
  /-- COUNTER_BANK_DECISION (R259): The counter bank applies every request that reached it in one NCLK, in CSET, CADD, CTAKE order with rotating priority. -/
  | counterBankDecision (k : Cluster)
  /-- WAITX (R119): The core waits until every tag in MASK is complete. -/
  | waitx (c : LCore) (f : WaitF)
  /-- FENCE (R61): The core issues a tide fence of the named scope and waits for its completion notice. -/
  | fence (c : LCore) (f : WaitF)
  /-- WAITT (R119): The core waits until the island tide reaches a target. -/
  | waitt (c : LCore) (f : WaitF)
  /-- WAITM (R119): The core waits until the ladle queue is empty and every macro's last output is written. -/
  | waitm (c : LCore) (f : WaitF)
  /-- LOOP (R121): A counted loop over the body up to TARGET is begun, or skipped on a count of 0. -/
  | loop (c : LCore) (f : FlowF)
  /-- BR (R120): Unconditional branch to TARGET. -/
  | br (c : LCore) (f : FlowF)
  /-- BEQZ (R120): Branch when s[SA] is zero. -/
  | beqz (c : LCore) (f : FlowF)
  /-- BNEZ (R120): Branch when s[SA] is not zero. -/
  | bnez (c : LCore) (f : FlowF)
  /-- BLT (R120): Branch when s[SA] < s[SB], signed. -/
  | blt (c : LCore) (f : FlowF)
  /-- BGE (R120): Branch when s[SA] ≥ s[SB], signed. -/
  | bge (c : LCore) (f : FlowF)
  /-- NOP (R122): Does nothing. -/
  | nop (c : LCore)
  /-- HALT (R122): The slot becomes HALTED and completion is reported to the flask sequencer. -/
  | halt (c : LCore)
  /-- SWITCH (R100): The core switches to the named mold slot. -/
  | switch (c : LCore) (slot : Slot)
  /-- YIELD (R122): A switch point for a pending external request, otherwise a NOP. -/
  | yield (c : LCore)
  /-- BKPT (R122): Stops the sequencer when BKPT_EN = 1, otherwise a NOP. -/
  | bkpt (c : LCore)
  /-- SLOT_SWITCH (R99): Once the units have written their results, the old slot becomes READY and the new one ACTIVE in one cycle. -/
  | slotSwitch (c : LCore)
  /-- SWITCH_REQUEST_ARRIVAL (R373): A flask sequencer switch request reaches a core and is pending from the next cycle. -/
  | switchRequestArrival (c : LCore) (slot : Slot)
  /-- LADLE_STEP (R124): When its weight tile and output slot are present, the ladle issues one tile step to the arrays. -/
  | ladleStep (c : LCore)
  /-- STEP_CHECKS_PASS (R151): When a step's row and column compares match, its weight slot is released and its sums are added to the running sums. -/
  | stepChecksPass (c : LCore)
  /-- OUTPUT_TILE_WRITE (R150): Twenty cycles after a tile's last step, the converted output tile is written and its slot becomes full. -/
  | outputTileWrite (c : LCore)
  /-- CHECKSUM_RECOMPUTE (R163): A step's first row or column mismatch makes it recompute once on cleared banks. -/
  | checksumRecompute (c : LCore) (row col : Bool) (array : Fin 4)
  /-- DUPLICATE_RERUN (R624): A duplicate mismatch reruns the stage once on both copies and delays the later stages by 4 cycles. Operands: conv: of the conversion stage, else of the scale-and-add stage. -/
  | duplicateRerun (c : LCore) (conv : Bool) (array : Fin 4)
  /-- PERSISTENT_MISMATCH_FENCE (R165): A mismatch that survives recompute or rerun fences the core and starts recovery onto a spare. Operands: dup: a stage rerun mismatched again, conv: of the conversion stage; else a recompute did, in its rows or columns. -/
  | persistentMismatchFence (c : LCore) (row col dup conv : Bool) (array : Fin 4)
  /-- LADLE_TILE_DROP (R245): A weight tile outside the run-time shape is released unused and still forwarded. -/
  | ladleTileDrop (c : LCore)
  /-- PREEMPT_REQUEST_AT_CORE (R134): A pre-emption request reaches a core, which stops issuing, quiesces and saves its ladle position. -/
  | preemptRequestAtCore (c : LCore)
  /-- DEBUG_HALT_REQ (R136): A write of HALT_REQ stops the sequencer after issued instructions complete, or resumes it. -/
  | debugHaltReq (c : LCore) (halt : Bool)
  /-- DEBUG_STEP (R141): A W1S of STEP while halted issues one instruction. -/
  | debugStep (c : LCore)
  /-- INJECTION_ARM (R172): A W1S of ISL_ARR_INJ.ARM arms a fault injection for the target core's next step. -/
  | injectionArm (i : Island)
  /-- RING_FILL_ARRIVAL (R213): A ring fill arrives at a core and is written, or is dropped with WINDOW_CLOSED when its slot is full. Operands: granules of a ring fill, from granule `first` of the tail slot; `final`: the last of the slot. -/
  | ringFillArrival (c : LCore) (slot : Slot) (r : Ring) (first : Fin 256) (grans : List Granule) (final : Bool)
  /-- RUNNER_FORWARD (R255): A runner member forwards each committed granule to the next member under a slot credit. -/
  | runnerForward (c : LCore) (slot : Slot) (r : Ring)
  /-- SLOT_RELEASE (R214): A slot is released once the consumer has released it and its forward has been delivered. -/
  | slotRelease (c : LCore) (slot : Slot) (r : Ring)
  /-- SLOT_CREDIT_RETURN (R212): A released slot's credit returns to its producer, combined across a pour group. Operands: the slot credit of ring r of core c returns to its producer: the upstream core and its ring, or a pour stream. -/
  | slotCreditReturn (c : LCore) (slot : Slot) (r : Ring) (upstream : Option (LCore × Fin 64)) (stream : Option (Fin 16 × Fin 64))
  /-- REMOTE_WRITE_WINDOW (R218): In WINDOW mode a remote write is accepted by an open matching window or dropped with WINDOW_CLOSED. Operands: a remote write of sender key `sender` at granule `first`; `foreign`: from another package. -/
  | remoteWriteWindow (c : LCore) (sender : BitVec 12) (foreign : Bool) (first : BitVec 15) (grans : List Granule)
  /-- REMOTE_WRITE_CREDIT (R219): In CREDIT mode a remote write is accepted against a credit entry or dropped with WINDOW_CLOSED. -/
  | remoteWriteCredit (c : LCore) (sender : BitVec 12) (first : BitVec 15) (grans : List Granule)
  /-- CREDIT_GRANT_WRITE (R219): A write of ISL_CORE_WCRED_k_n grants or changes a credit entry and sets GRANT_LEN. -/
  | creditGrantWrite (c : LCore) (n : Fin 4) (base len : BitVec 15) (valid : Bool)
  /-- PACKET_FIRST_WORD (R222): A packet's first word reserves FIFO space, swaps the banks, or raises FULL. -/
  | packetFirstWord (c : LCore) (p : Fin 4) (route source : Nat) (grans : Fin 129)
  /-- PACKET_COMMIT (R223): A packet's last word commits with a good CRC and the packet becomes visible. -/
  | packetCommit (c : LCore) (p : Fin 4) (grans : List Granule) (badWords : List Nat)
  /-- BAD_PACKET_REWIND (R224): A packet with a bad CRC or a cut sender is rewound and its credits return. -/
  | badPacketRewind (c : LCore) (p : Fin 4)
  /-- FIFO_TEST_WRITE (R225): A write of ISL_CORE_FIFO_k_p_TW adds a one-granule test packet, or sets OVERRUN while FULL. -/
  | fifoTestWrite (c : LCore) (p : Fin 4) (word : Word)
  /-- GETS (R231): A core asks the directory for a line in S. Operands: directory requests of core c for a line of object `handle`; same: in the NCLK of the cluster's previous request. -/
  | gets (c : LCore) (handle : Word) (line : Nat) (same : Bool)
  /-- GETM (R231): A core asks the directory for ownership of a line. -/
  | getm (c : LCore) (handle : Word) (line : Nat) (same : Bool)
  /-- PUTS (R231): A core reports the eviction of a clean line. -/
  | puts (c : LCore) (handle : Word) (line : Nat) (same : Bool)
  /-- PUTM (R234): A core writes back a modified line through the directory. -/
  | putm (c : LCore) (handle : Word) (line : Nat) (same : Bool)
  /-- DIRECTORY_DECISION (R232): The directory decides one request for one line, in arrival and rotating order. -/
  | directoryDecision (k : Cluster) (handle : Word) (line : Nat)
  /-- INV (R231): An invalidation reaches a sharer, which drops the line and acknowledges. Operands: messages of the protocol that reach core c on behalf of core `requester` of its cluster. -/
  | inv (c : LCore) (handle : Word) (line : Nat) (requester : Fin 16)
  /-- FWD_GETS (R231): A forwarded read reaches the owner, which moves to S and writes the line back. -/
  | fwdGets (c : LCore) (handle : Word) (line : Nat) (requester : Fin 16)
  /-- FWD_GETM (R233): A forwarded ownership request reaches the owner, which answers once its ownership completes. -/
  | fwdGetm (c : LCore) (handle : Word) (line : Nat) (requester : Fin 16)
  /-- DATA (R233): Line data arrives at a requester and its ownership completes within 4 CCLK. -/
  | data (c : LCore) (handle : Word) (line : Nat)
  /-- INV_ACK (R231): An invalidation acknowledgement reaches the requester. -/
  | invAck (c : LCore) (handle : Word) (line : Nat)
  /-- SCORE_WRITE (R274): Gate score granules reach the expert router, or are absorbed when the descriptor is full. Operands: score granules of a member for round descriptor d of the router. -/
  | scoreWrite (c : LCore) (slot : Slot) (d : Fin 8) (first : Nat) (grans : List Granule)
  /-- ROUND_DECISION (R278): A complete round is placed rank-major with risers and drops, and decisions and return entries are written. -/
  | roundDecision (k : Cluster) (slot : Slot) (d : Fin 8)
  /-- FERRY_REPORT (R287): A router's report of chosen experts reaches a FERRY station's ferry engine. Operands: the partition and station it names, the cluster that reports, the model and experts. -/
  | ferryReport (h : Harbor) (p : Part) (sid : Fin 256) (k : Cluster) (model : Fin 1024) (experts : List (Fin 4096))
  /-- FERRY_FETCH (R288): An expert not in the ferry cache is fetched from its home package. -/
  | ferryFetch (h : Harbor)
  /-- STATION_ROUND_CLOSE (R289): With every feeder's report held, the manifest is written and the experts are poured in order. -/
  | stationRoundClose (h : Harbor) (p : Part) (sid : Fin 256)
  /-- FERRY_LINK_LOST (R291): LINK_LOST on a fetch pours poisoned header-only tiles and reports a partition fault. -/
  | ferryLinkLost (h : Harbor) (model : Fin 1024) (expert : Fin 4096)
  /-- FERRY_HEAT_HALVE (R290): After 2^HALF_LIFE_LOG2 closed rounds all ferry cache heats halve. -/
  | ferryHeatHalve (h : Harbor)
  /-- EXR_READ (R301): A registry entry is read into HUB_EXR_ENT_n. -/
  | exrRead
  /-- EXR_WRITE (R294): HUB_EXR_ENT_n is written to a registry entry and VERSION increments. -/
  | exrWrite
  /-- OBJ_NOP (R312): An object command that does nothing. -/
  | objNop (h : Harbor)
  /-- OBJ_CREATE (R312): A tier object is allocated and its handle returned. -/
  | objCreate (h : Harbor)
  /-- OBJ_COMMIT (R312): A WEIGHT object is made read-only. -/
  | objCommit (h : Harbor)
  /-- OBJ_DELETE (R312): Every copy of an object is freed. -/
  | objDelete (h : Harbor)
  /-- OBJ_STAGE (R312): A near copy is made of a range of pages. -/
  | objStage (h : Harbor)
  /-- OBJ_PIN (R312): A range of pages is pinned in or unpinned from the near tier. -/
  | objPin (h : Harbor)
  /-- OBJ_SETMASK (R312): An object's tier mask is changed and copies are moved out of dropped tiers. -/
  | objSetmask (h : Harbor)
  /-- OBJ_COMMAND_COMPLETE (R312): An object command that took time ends, with DONE written and BUSY cleared. -/
  | objCommandComplete (h : Harbor)
  /-- PAGE_HEAT_HALVE (R314): Every 2^EPOCH_LOG2 ticks all page heats of a harbor halve. -/
  | pageHeatHalve (h : Harbor)
  /-- PAGE_PROMOTE (R315): A hot middle-resident page is promoted into a near frame. Operands: object table index and page. -/
  | pagePromote (h : Harbor) (index : Fin 1048576) (page : Nat)
  /-- PAGE_MOVE_SWITCH (R316): When a page's new copy is written, the page map switches to it. Operands: which of the moves under way, oldest first. -/
  | pageMoveSwitch (h : Harbor) (index : Nat)
  /-- PAGE_MOVE_RESTART (R316): A write during a copy restarts the move, and after three restarts the move is abandoned. Operands: which move, and the write that meets it. -/
  | pageMoveRestart (h : Harbor) (index : Nat) (g : Fin 1024) (grans : List Granule)
  /-- PATROL_SCRUB (R304): Patrol scrub reads near-tier words and retires frames with two uncorrectable reads. Operands: the near page, the words corrected, the uncorrectable words, whether a patrol cycle begins. -/
  | patrolScrub (h : Harbor) (frame : Fin 3145728) (corrected : Nat) (bad : List (Fin 8192)) (again : Bool)
  /-- CXL_POISON (R306): An expander returns CXL poison and the tiles it covers are poisoned. -/
  | cxlPoison (h : Harbor) (n : Fin 2) (frame : Fin 8355840) (pieces : List (Fin 256))
  /-- CXL_LINK_DOWN (R306): A middle-tier link goes down, reads return poison and the port is fenced. -/
  | cxlLinkDown (h : Harbor) (n : Fin 2)
  /-- CXL_MEDIA_EVENT (R306): An expander media event record is copied to the event log. -/
  | cxlMediaEvent (h : Harbor) (n : Fin 2) (fields : List Byte)
  /-- FLOOR_WINDOW_START (R336): At each window start every partition's deficit on a path is set from its floor. Operands: whether the window is that of the far paths. -/
  | floorWindowStart (h : Harbor) (far : Bool)
  /-- PATH_GRANT (R337): A free path grants the first request by floor, background age and time to empty. Operands: the path, and the read retries a flash read took. -/
  | pathGrant (h : Harbor) (path : Fin 13) (retries : Nat)
  /-- PAGE_LANDING (R331): A far-only page is landed into a near frame, and tiles waiting on it are poured. Operands: which of the moves under way, oldest first. -/
  | pageLanding (h : Harbor) (index : Nat)
  /-- READ_REFRESH (R327): A block at its read limit or ECC threshold is rewritten elsewhere and erased. Operands: the block, the free block it goes to, whether its codewords are the reason. -/
  | readRefresh (h : Harbor) (block dst : Nat) (ecc : Bool)
  /-- WEAR_LEVEL (R328): When the erase spread exceeds WL_DELTA, the least-erased block's data moves. -/
  | wearLevel (h : Harbor) (block dst : Nat)
  /-- BLOCK_RETIRE (R328): A block whose program or erase fails is retired. Operands: uncorrectable: far page key and 4 KiB unit of each codeword lost. -/
  | blockRetire (h : Harbor) (block dst : Nat) (uncorrectable : List (Nat × Fin 16)) (spareLow : Bool)
  /-- FTL_CHECKPOINT (R329): After every 64 MiB of journal the FTL map is checkpointed. -/
  | ftlCheckpoint (h : Harbor)
  /-- FTL_MOUNT (R329): The FTL reads its checkpoint, replays its journal and raises read counters. -/
  | ftlMount (h : Harbor) (ok : Bool) (ms : Nat)
  /-- POUR_WATCHDOG_EXPIRE (R340): A continuous wait for weights reaches LIMIT_US and raises POUR_STARVED. -/
  | pourWatchdogExpire (c : LCore) (r : Ring)
  /-- POUR_WDOG_LIMIT_WRITE (R340): A write of LIMIT_US takes effect at once against every running count. Operands: the word written to ISL_POUR_WDOG. -/
  | pourWdogLimitWrite (i : Island) (v : Word)
  /-- LDR_LOAD (R367): A LOAD is accepted into a loader context or refused. -/
  | ldrLoad
  /-- LOAD_STAGE_COMPLETE (R368): A loader stage completes on every core and the next stage begins. Operands: Stage completed by a loader context.. -/
  | loadStageComplete (ctx : Fin 4)
  /-- JOB_START (R369): At start tick T the partition's cores switch to WINDOW mode, entry 0 activates and the LOAD completes. -/
  | jobStart (p : Part)
  /-- IMG_REGISTER (R378): An image is verified, its objects bound and registry entries allocated under a model ID. -/
  | imgRegister
  /-- IMG_UNREGISTER (R379): A model ID and its registry entries are freed. -/
  | imgUnregister
  /-- ENTRY_BEGIN (R372): When the slot holds its flask everywhere, the sequencer rearms it, activates streams and sends switch requests. -/
  | entryBegin (p : Part)
  /-- ENTRY_END (R372): When every core has halted and any GO is set, the entry ends and the next begins or the job completes. -/
  | entryEnd (p : Part)
  /-- FSEQ_GO (R362): A W1S of HUB_FSEQ_GO_p.GO satisfies a GO entry. -/
  | fseqGo (p : Part)
  /-- SLOT_REWRITE (R375): The loader rewrites a free slot with its next flask and marks it READY. -/
  | slotRewrite (p : Part) (slot : Slot)
  /-- STRM_OPEN (R382): The physical function opens a request stream for a tenant. -/
  | strmOpen
  /-- STRM_CLOSE (R382): The physical function closes a request stream. -/
  | strmClose
  /-- REQUEST_DOORBELL (R385): A DB_REQ write names a new tail and the engine issues reads of the new units. -/
  | requestDoorbell (t : Tenant) (v : Word)
  /-- REQUEST_ENTRY_PARSE (R387): A fetched ring entry is parsed whole and admitted or refused. Operands: the stream, and the bytes of its ring from the head on. -/
  | requestEntryParse (stream : Stream) (bytes : List Byte)
  /-- REQUEST_READ_RETRY (R575): A failed request ring read is retried after 1 ms, and the stream closes after three failures. -/
  | requestReadRetry (stream : Stream)
  /-- SLOT_ADMIT (R387): A waiting request takes the lowest free home slot by QoS class and parse order. -/
  | slotAdmit (model : Fin 1024)
  /-- PREFIX_LOOKUP (R403): Prompt blocks are looked up in order until the first miss, and hits are reused. -/
  | prefixLookup (stream : Stream)
  /-- TOKEN_HEAD_DOORBELL (R584): A DB_TOKHEAD write returns token ring entries to the hub. -/
  | tokenHeadDoorbell (t : Tenant) (v : DWord)
  /-- CANCEL (R409): A DB_CANCEL write cancels a request according to the point it has reached. -/
  | cancel (t : Tenant) (v : DWord)
  /-- STEP_MESSAGE_SEND (R391): A home composes and sends the next step's message to every package of the group. -/
  | stepMessageSend (b : Fin 32)
  /-- STEP_MESSAGE_RECEIVE (R392): A step message from a home arrives at a package's hub. Operands: the binding, the step, the rank of the home, the entries. -/
  | stepMessageReceive (b : Fin 32) (step : DWord) (rank : Nat) (entries : List StepEntry)
  /-- FEED_WRITE (R392): With all homes' messages held and step q ended, the hub writes block tables and the feed. -/
  | feedWrite (b : Fin 32)
  /-- CANDIDATE_RECORD (R393): A shard core's candidate record commits in the sampler window. Operands: the binding, slot and shard, the 512 bytes, whether it commits in the SCLK of the last J. -/
  | candidateRecord (b : Fin 32) (slot : Fin 256) (shard : Fin 64) (grans : List Granule) (same : Bool)
  /-- DONE_GRANULE (R393): A shard's done granule arrives, and when all have arrived the package has ended the step. Operands: the binding, the shard, the step, whether it is the last local shard. -/
  | doneGranule (b : Fin 32) (shard : Fin 64) (step : DWord) (last : Bool)
  /-- SAMPLER_SERVICE (R397): A sampler unit merges, filters and draws a slot's token. -/
  | samplerService (u : Fin 4)
  /-- TOKEN_APPEND (R400): A drawn token is written to the token ring, charged, added to history and fed. -/
  | tokenAppend (stream : Stream)
  /-- MIRROR_ACK (R406): A buddy's acknowledgement of a mirrored block releases held tokens. Operands: the binding, the block and the rank of the buddy's package. -/
  | mirrorAck (b : Fin 32) (block rank : Nat)
  /-- PREFIX_AGE_SWEEP (R404): Every 2^24 ticks a sweep raises the age of every valid prefix entry. -/
  | prefixAgeSweep
  /-- BUDGET_REFILL (R408): Every 1,200 ticks RATE is added to each tenant's LEVEL up to CAP. -/
  | budgetRefill
  /-- BUDGET_LEVEL_WRITE (R411): A write of LEVEL_HI applies the LEVEL pair. -/
  | budgetLevelWrite (t : Tenant) (hi : Word)
  /-- PFX_OBJ_WRITE (R411): A write of SRV_PFX_CTRL invalidates every prefix entry. -/
  | pfxObjWrite (v : Word)
  /-- SERVING_FAILOVER (R407): After a group package is lost, jobs end, the buddy takes over, models reload and slots replay. Operands: the binding, the endpoint lost, and the requests that a buddy takes over in its shadow streams. -/
  | servingFailover (b : Fin 32) (lost : Endpoint) (shadows : List ShadowReq)
  /-- PORT_TRAINING_COMPLETE (R415): A port training ends in UP or in failure with a REASON. Operands: whether the lanes found signal and lock within 100 ms, the widest width that passes, the round trip in ticks, the duration in ms. -/
  | portTrainingComplete (p : Port) (signal : Bool) (width : Fin 4) (rtt ms : Nat)
  /-- TRAIN_RETRY (R414): 10 ms after a failed training the port trains again, or is FENCED on the third failure. -/
  | trainRetry (p : Port)
  /-- PORT_RETRAIN (R427): Loss of signal, repeated expiries or uncorrectable codewords take a port from UP to RETRAIN. Operands: cause 0 loss of signal, 1 eight timer expiries, 2 uncorrectable codewords. -/
  | portRetrain (p : Port) (cause : Fin 3)
  /-- FULL_TRAIN (R450): A W1S of FULL_TRAIN makes the next training full. -/
  | fullTrain (p : Port)
  /-- CLR_FENCE (R450): A W1S of CLR_FENCE takes a port from FENCED to DOWN. -/
  | clrFence (p : Port)
  /-- FLIT_SEND (R416): In each flit slot the port sends a DATA, CTRL or IDLE flit. -/
  | flitSend (p : Port)
  /-- DATA_FLIT_RECEIVE (R422): A good DATA flit is accepted, discarded as a gap or discarded as a duplicate. Operands: the fields of a good DATA flit. -/
  | dataFlitReceive (p : Port) (seq ack : BitVec 12) (vc : Fin 3) (dl : Bool)
  /-- BAD_FLIT (R424): A bad flit is discarded and a NAK for EXP is queued. -/
  | badFlit (p : Port)
  /-- NAK (R424): A NAK record makes the sender replay from the named SEQ. -/
  | nak (p : Port) (seq ack : BitVec 12)
  /-- NAK_REPEAT (R424): With no in-order flit 600 ticks after a NAK, the NAK is sent again. -/
  | nakRepeat (p : Port)
  /-- REPLAY_TIMEOUT (R425): The replay timer expires and every unacknowledged flit is replayed. Operands: same: a NAK arrives in the slot of the expiry. -/
  | replayTimeout (p : Port) (same : Bool)
  /-- CREDIT (R428): A CREDIT record returns flit credits for a VC and class. -/
  | credit (p : Port) (vc : Fin 3) (cls : Bool) (n : BitVec 16) (ack : BitVec 12)
  /-- TIME_REQ (R446): A child's time request reaches its parent, which answers. Operands: the record's t1 and the tick stamps of its arrival and of the answer, in 1/16 tick. -/
  | timeReq (p : Port) (t1 t2 t3 : Word)
  /-- TIME_RSP (R446): A time response gives the child four timestamps toward its offset. Operands: the record and the stamp of its arrival. -/
  | timeRsp (p : Port) (depth : BitVec 8) (t1 t2 t3 t4 : Word) (offset : BitVec 16)
  /-- TIME_EXCHANGE (R446): Every 65,536 ticks a child sends a time request to its parent. Operands: the stamp of the request, in 1/16 tick. -/
  | timeExchange (t1 : Word)
  /-- TRAIN (R415): A TRAIN record exchanges endpoint, port, epoch, width and alias. Operands: the fields of the neighbour's record. -/
  | train (p : Port) (ep : Endpoint) (nport : Port) (width : Fin 4) (epoch : BitVec 16) (alias_ : Option Endpoint) (refusal : Bool) (reason : Fin 64)
  /-- PACKET (R420): A Ravor message to a packet FIFO terminates and is admitted or absorbed. Operands: header and granules of the message. -/
  | packet (src : Endpoint) (key : BitVec 12) (vroute : BitVec 12) (id : BitVec 16) (grans : List Granule)
  /-- WRITE (R429): A Ravor message to a window or ring terminates and is admitted or absorbed. Operands: header and granules of the message, and the mold slot and ring it fills: none for a window. -/
  | write (src : Endpoint) (key : BitVec 12) (vroute : BitVec 12) (id : BitVec 16) (offset : Word) (sink : Option (Slot × Ring)) (grans : List Granule)
  /-- FERRY_REQ (R288): A ferry fetch request reaches the home harbor's ferry engine. Operands: the source, what it asks: the home's object handle, first tile byte and number of granules. -/
  | ferryReq (h : Harbor) (src : Endpoint) (id : BitVec 16) (handle : Word) (page count : Nat)
  /-- FERRY_DATA (R288): Fetched expert tiles arrive at the requesting ferry engine. Operands: the granules of a fetched expert from granule first on. -/
  | ferryData (h : Harbor) (src : Endpoint) (id : BitVec 16) (model expert : Nat) (first : Nat) (grans : List Granule)
  /-- EACK (R430): An end-to-end acknowledgement frees a resend buffer entry and completes the sender's tag. Operands: the destination that answers, the sequence and number it answers, and whether its status is DONE. -/
  | eack (src : Endpoint) (vc : Fin 3) (id : BitVec 16) (done : Bool)
  /-- BOARD_WR (R445): A board window write reaches the target, which admits it or answers WINDOW_CLOSED. -/
  | boardWr (src : Endpoint) (id : BitVec 16) (tenant : Tenant) (baddr : DWord) (grans : List Granule)
  /-- BOARD_RD (R445): A board window read reaches the target, which admits it or answers WINDOW_CLOSED. -/
  | boardRd (src : Endpoint) (id : BitVec 16) (tenant : Tenant) (baddr : DWord) (grans : Nat)
  /-- BOARD_DATA (R445): Board window read data returns to the requester. -/
  | boardData (src : Endpoint) (id : BitVec 16) (grans : List Granule)
  /-- TRANSIT_FORWARD (R435): A flit not addressed here is forwarded, or discarded with ROUTE_FAIL when the egress port is not UP. Operands: a message whose DEST is not this package, its header as it arrived, and the DL bit of its flits. -/
  | transitForward (dest src : Endpoint) (key : BitVec 12) (kind : Fin 9) (vroute : BitVec 12) (tick : DWord) (offset : Word) (resend : Bool) (id : BitVec 16) (route : DWord) (hop : Fin 16) (dl : Bool) (grans : List Granule)
  /-- EACK_TIMEOUT (R432): A message waiting TMO_US for its EACK marks its route failed. -/
  | eackTimeout (dest : Endpoint) (vc : Fin 3) (id : BitVec 16)
  /-- ROUTE_FAIL (R436): A ROUTE_FAIL marks a route failed, and the source switches route and resends. Operands: the route and hop it names. -/
  | routeFail (route : DWord) (hop : Fin 16)
  /-- HEARTBEAT_SEND (R439): Every PERIOD_US a heartbeat is sent to each target. -/
  | heartbeatSend
  /-- HEARTBEAT (R439): A watched endpoint's heartbeat arrives. -/
  | heartbeat (src : Endpoint)
  /-- HEARTBEAT_MISS (R440): After MISS periods without heartbeat and with no usable route, the watcher takes over the endpoint. Operands: a heartbeat period of watch n has passed without its heartbeat. -/
  | heartbeatMiss (n : Fin 4)
  /-- TAKEOVER (R440): A TAKEOVER announcement sets REDIR to the watcher in both banks. -/
  | takeover (src ep : Endpoint)
  /-- WITHDRAW (R441): A WITHDRAW from the higher watcher cancels its takeover claim. -/
  | withdraw (src ep : Endpoint)
  /-- ALIAS_TAKE (R440): A W1S of RVR_EP_ALIAS.TAKE forces a takeover of ALIAS at once. -/
  | aliasTake
  /-- EPOCH_DRAIN (R442): New REQ and RSP messages stall while messages in flight run to EACK. -/
  | epochDrain
  /-- EPOCH_DRAIN_TIMEOUT (R442): After 2 ms of draining, PHASE becomes DRAINED with DRAIN_TMO set. -/
  | epochDrainTimeout
  /-- EPOCH_RETRAIN (R442): Every enabled port fast-trains, proposing the next epoch. -/
  | epochRetrain
  /-- EPOCH_COMMIT (R442): SHADOW becomes ACTIVE, EPOCH increments and route marks clear. -/
  | epochCommit
  /-- EPOCH_RESUME (R442): Unacknowledged messages are resent and stalled senders proceed. -/
  | epochResume
  /-- TOPO_READ (R434): A topology table entry is read into the RVR_TOPO registers. -/
  | topoRead
  /-- TOPO_WRITE (R434): The RVR_TOPO registers are written to a SHADOW entry. -/
  | topoWrite
  /-- REFL_START (R448): A reflectometer measurement starts, or is refused when its port is up and FORCE is 0. -/
  | reflStart (n : OE)
  /-- REFL_COMPLETE (R448): A measurement ends and reports its events and DIRTY. Operands: the events found, as distance in cm, reflectance in −1/2 dB and loss in 0.05 dB. -/
  | reflComplete (n : OE) (events : List (BitVec 15 × BitVec 8 × BitVec 8))
  /-- PART_CREATE (R457): A partition is created over a set of clusters. -/
  | partCreate
  /-- PART_DESTROY (R460): An IDLE partition is freed. -/
  | partDestroy
  /-- PART_ASSIGN (R460): An IDLE partition's owner is changed. -/
  | partAssign
  /-- PREEMPT (R477): A running job is saved into its save set. -/
  | preempt
  /-- PREEMPT_STOP_TICK (R478): At a group stop tick Ts every core stops issuing. -/
  | preemptStopTick (p : Part)
  /-- SAVE_COMPLETE (R477): The header pages are written last, the job becomes SAVED and SAVE_DONE sets. -/
  | saveComplete (p : Part)
  /-- RESUME (R479): A saved job's records are restored into an IDLE partition. -/
  | resume
  /-- RESUME_TICK (R479): At the resume tick the partition enters WINDOW mode and runs, or returns to IDLE when the restore is incomplete. Operands: whether the restore has completed at the tick. -/
  | resumeTick (p : Part) (complete : Bool)
  /-- DISCARD (R479): A saved job is ended. -/
  | discard
  /-- RESET_CORE (R468): A core-scope compute reset drains, scrubs and clears one core. -/
  | resetCore
  /-- RESET_CLUSTER (R468): A cluster-scope compute reset drains, scrubs and clears one cluster. -/
  | resetCluster
  /-- RESET_PARTITION (R468): A partition reset ends the job with EJECTED_RESET and clears the partition. -/
  | resetPartition
  /-- RESET_WARM (R512): A package warm reset ends every job and runs a warm start. -/
  | resetWarm
  /-- DRAIN_CUT (R469): A reset drain exceeding DRAIN_MAX_US is cut and DRAIN_CUT sets. -/
  | drainCut (p : Part)
  /-- RESET_COMPLETE (R468): When drain, scrub and clearing are done, the partition goes IDLE and RESET_DONE sets. Operands: which of the resets under way, oldest first. -/
  | resetComplete (index : Nat)
  /-- FUNCTION_LEVEL_RESET (R471): A VF function level reset resets every partition of the tenant and closes its streams within 2 ms. -/
  | functionLevelReset (t : Tenant)
  /-- KEY_SLOT_WRITE (R455): TEN_KEY_CMD.WRITE writes a whole key slot, or is clamped when R323 forbids it. -/
  | keySlotWrite
  /-- CAUSE_MASK_WRITE (R464): Writing a mask bit to 1 while its cause is set sends an MSI-X message. Operands: the tenant's function, or the physical function; the mask word. -/
  | causeMaskWrite (who : Option Tenant) (mask : Word)
  /-- MSIX_MESSAGE (R464): A cause bit rises while masked in and one MSI-X message is sent. -/
  | msixMessage (who : Option Tenant) (cause : Fin 32)
  /-- TOKEN_MODERATION_EXPIRE (R464): TOK_MOD_US after the host clears TOKEN, the cause may set again. -/
  | tokenModerationExpire (t : Tenant)
  /-- PART_FAULT (R465): A partition-scope fault writes its record and sets PART_FAULT for the owner. -/
  | partFault (p : Part) (code : BitVec 8) (c : LCore)
  /-- STANDBY_RAIL_GOOD (R490): The standby rail becomes good and the boot ROM begins EXK_BOOT. -/
  | standbyRailGood
  /-- STANDBY_RAIL_LOST (R505): Loss of the standby rail stops everything and counts as a failed start. -/
  | standbyRailLost
  /-- PWR_OK_RISE (R491): PWR_OK is seen high and the hub rail is enabled. -/
  | pwrOkRise
  /-- PWR_OK_FALL (R597): PWR_OK is seen low and every VIN12-fed rail is removed. -/
  | pwrOkFall
  /-- HUB_RAIL_TIMEOUT (R491): The hub rail not good 2 ms after enable is a failed start with cause 0x1. -/
  | hubRailTimeout
  /-- COOL_OK_FALL (R493): COOL_OK_L goes low and compute rails may be enabled. -/
  | coolOkFall
  /-- COOL_OK_RISE (R505): COOL_OK_L goes high and no later wave begins. -/
  | coolOkRise
  /-- COOL_LOSS_TIMEOUT (R506): COOL_OK_L high for 100 ms removes compute rails or quenches every island. -/
  | coolLossTimeout
  /-- VIN12_FAULT (R597): VIN12 outside 11.5 to 12.9 V for 5 µs acts as a PWR_OK fall. -/
  | vin12Fault
  /-- BOOT_PHASE_COMPLETE (R489): A start phase completes and the next begins. Operands: what the phase found. -/
  | bootPhaseComplete (r : BootResult)
  /-- RETRY_WAIT_EXPIRE (R507): After RETRY_S seconds a new cold start begins from HUB. -/
  | retryWaitExpire
  /-- WAVE_START (R494): A wave's islands begin their core-rail soft start 400 µs after the previous wave. -/
  | waveStart
  /-- SOFT_START_FAULT (R496): An envelope or ramp fault latches an island regulator off and records it absent. Operands: ramp: the rail was below its setpoint at 300 µs; otherwise the envelope was exceeded. -/
  | softStartFault (i : Island) (ramp : Bool)
  /-- LINK_TRAIN_TIMEOUT (R503): LINK_TRAIN ends after 6 s and the port count is judged. -/
  | linkTrainTimeout
  /-- BOOT_RESTART (R511): MGT_BOOT_CMD RESTART begins a cold start. -/
  | bootRestart
  /-- BOOT_CLEAR (R511): MGT_BOOT_CMD CLEAR writes the failure count as 0. -/
  | bootClear
  /-- BOOT_CFG_WRITE (R513): A write of MGT_BOOT_CFG also updates the boot configuration record in flash. Operands: the word written. -/
  | bootCfgWrite (v : Word)
  /-- RCV_FENCE_GO (R538): A W1S of HUB_RCV_FENCE.GO fences the physical core serving LCORE. -/
  | rcvFenceGo
  /-- RECOVERY_PHASE_COMPLETE (R516): A recovery phase completes and the next begins, ending at resume or ejection. -/
  | recoveryPhaseComplete (p : Part)
  /-- ROUTER_FAULT (R525): A cluster router fault fences it and its cores, bypasses it and ejects its partition's job. -/
  | routerFault (k : Cluster)
  /-- ISLAND_QUENCH (R526): A quench trigger removes an island's core rail and ejects its jobs. Operands: the lowest code less 1 of the triggers of one evaluation, the hottest sensor in °C, the core-rail current in 0.1 A. -/
  | islandQuench (i : Island) (reason : Fin 5) (hot : BitVec 8) (amps : BitVec 16)
  /-- HARBOR_FAULT (R528): A harbor fault fences the harbor and ejects dependent jobs. -/
  | harborFault (h : Harbor)
  /-- OE_FAULT (R529): An OE die fault fences its ports, reroutes and re-issues held messages. -/
  | oeFault (d : Fin 4)
  /-- HUB_FAULT (R530): A hub fault writes the crash log, removes VIN12 rails and begins a start. -/
  | hubFault
  /-- REANNEAL_START (R552): A free anneal channel takes the oldest queued re-anneal. -/
  | reannealStart
  /-- CANARY_RUN (R551): A 40 µs canary run at one offset ends and the search moves on. Operands: the channel, and whether a canary erred. -/
  | canaryRun (ch : Fin 4) (err : Bool)
  /-- REANNEAL_COMPLETE (R551): A re-anneal writes its record and applies the new VOFF, or fails and keeps the guard. Operands: the channel, and whether a canary erred in the 200 µs of the verification. -/
  | reannealComplete (ch : Fin 4) (err : Bool)
  /-- LOCKSTEP_MISMATCH (R541): A lockstep mismatch stops the pair, writes the crash log and restarts through the boot ROM. -/
  | lockstepMismatch
  /-- EXK_WATCHDOG_EXPIRE (R542): The unserviced firmware watchdog stops and restarts the pair with crash cause 3. -/
  | exkWatchdogExpire
  /-- SENSOR_SAMPLE (R545): Every 1 µs the hardware samples every sensor and rail monitor. Operands: the thermal sensors by die, the towers, the rail monitors, whether a tower reports its thermal trip. -/
  | sensorSample (dies : List (List (BitVec 8))) (towers : List (BitVec 8)) (rails : List Nat) (trip : Bool)
  /-- POWER_REPORT (R547): Every 1 ms block powers are written and warnings and over-limit events logged. Operands: the mean power of each block and of the standby rail, in 0.25 W. -/
  | powerReport (blocks : List Nat) (standby : Nat)
  /-- PEAK_CLR (R547): A W1S of PEAK_CLR clears MGT_PWR_PEAK. -/
  | peakClr
  /-- EVENT_LOG_COPY (R557): The firmware copies staged records to the far-tier log. Operands: the number of records copied. -/
  | eventLogCopy (n : Nat)
  /-- MBX_NOP (R564): A mailbox command that does nothing. -/
  | mbxNop
  /-- READ_EVT (R564): Four event records are returned from a sequence number. -/
  | readEvt
  /-- READ_CRASH (R564): 256 bytes of the crash log are returned. -/
  | readCrash
  /-- CLEAR_CRASH (R556): The crash log's VALID and crash count are cleared. -/
  | clearCrash
  /-- KEY_INSTALL (R563): An owner-signed image verification key is installed. -/
  | keyInstall (k : KeyCmd)
  /-- KEY_REVOKE (R563): An owner-signed command revokes an image verification key. -/
  | keyRevoke (k : KeyCmd)
  /-- OWNER_PROVISION (R563): The owner root key digest is written once. -/
  | ownerProvision
  /-- MBX_QUENCH (R564): Exkalet quenches an island with QREASON 5. -/
  | mbxQuench
  /-- MBX_WARM_RESET (R564): The mailbox orders a package warm reset. -/
  | mbxWarmReset
  /-- MBX_COLD_RESET (R564): The mailbox orders a package cold reset. -/
  | mbxColdReset
  /-- MBX_REANNEAL (R553): Re-anneals of every step code of one island are queued with the guard. -/
  | mbxReanneal
  /-- MAILBOX_MESSAGE (R567): Exkalet posts a mailbox message and sets TEN_PF_CAUSE bit 25. -/
  | mailboxMessage (kind : Fin 8)
  /-- REQUEST_UPDATE (R561): A PLDM agent enters firmware update mode. -/
  | requestUpdate
  /-- PASS_COMPONENT_TABLE (R561): The agent passes the component table. Operands: whether it is the last of the table. -/
  | passComponentTable (last : Bool)
  /-- UPDATE_COMPONENT (R561): The agent begins updating the Exkalet firmware component. -/
  | updateComponent (component : BitVec 16)
  /-- REQUEST_FIRMWARE_DATA (R561): A transfer of up to 4,096 bytes of the image into the idle slot. -/
  | requestFirmwareData (offset : Nat) (bytes : List Byte)
  /-- TRANSFER_COMPLETE (R561): The image transfer is reported complete. -/
  | transferComplete (ok : Bool)
  /-- VERIFY_COMPLETE (R561): The slot's verification result is reported, marking it FAILED on failure. -/
  | verifyComplete
  /-- APPLY_COMPLETE (R561): Applying the image is reported complete. -/
  | applyComplete (ok : Bool)
  /-- ACTIVATE_FIRMWARE (R562): The pair restarts into the new slot as TRIAL and preferred. -/
  | activateFirmware
  /-- GET_STATUS (R561): The update status is returned. -/
  | getStatus
  /-- CANCEL_UPDATE_COMPONENT (R561): The component update in progress is cancelled. -/
  | cancelUpdateComponent
  /-- CANCEL_UPDATE (R561): Update mode is left. -/
  | cancelUpdate
  /-- FW_TRIAL_EXPIRE (R562): 600 s without a restart make the trial slot ACTIVE and raise the rollback counter. -/
  | fwTrialExpire
  /-- MCTP_CONTROL (R565): An MCTP control message is answered. -/
  | mctpControl (request : Nat) (args : List Byte)
  /-- PLDM_PLATFORM_READ (R565): A PLDM type 2 request returns a sensor or state reading. -/
  | pldmPlatformRead (q : PlatSensor)
  /-- PLDM_OEM_COMMAND (R565): A PLDM type 63 request runs a mailbox command or reads an MGT_ register. -/
  | pldmOemCommand (q : OemCmd)
  /-- CONVENTIONAL_RESET (R574): PERST_L, hot reset or DL_Down causes a package warm reset. Operands: perst: it is PERST_L that is asserted. -/
  | conventionalReset (perst : Bool)
  /-- PF_FLR (R574): A function level reset of the PF causes a package warm reset. -/
  | pfFlr
  /-- VF_ENABLE_CLEAR (R574): VF Enable written 0 resets every enabled VF at once. -/
  | vfEnableClear
  /-- PF_D3HOT (R574): The PF enters D3hot, answers only configuration space, and jobs keep running. -/
  | pfD3hot
  /-- POISONED_TLP (R575): A poisoned TLP written to a BAR is dropped and reported through AER. -/
  | poisonedTlp
  /-- APERTURE_READ (R580): A BAR4 read through an aperture is served from its target. Operands: the aperture, the byte offset in it, the number of bytes. -/
  | apertureRead (a : Fin 16) (off : Word) (len : Nat)
  /-- APERTURE_WRITE (R580): A BAR4 write through an aperture lands in its target or is dropped. Operands: the aperture, the byte offset in it, the bytes written. -/
  | apertureWrite (a : Fin 16) (off : Word) (bytes : List Byte)
  /-- DB_LOAD (R585): A tenant's doorbell LOAD command. -/
  | dbLoad (t : Tenant)
  /-- DB_PREEMPT (R585): A tenant's doorbell PREEMPT command. -/
  | dbPreempt (t : Tenant)
  /-- DB_RESUME (R585): A tenant's doorbell RESUME command. -/
  | dbResume (t : Tenant)
  /-- DB_DISCARD (R585): A tenant's doorbell DISCARD command. -/
  | dbDiscard (t : Tenant)
  /-- DB_RESET (R585): A tenant's doorbell partition RESET. -/
  | dbReset (t : Tenant)
  /-- DB_OBJ_CREATE (R585): A tenant's doorbell object CREATE. -/
  | dbObjCreate (t : Tenant)
  /-- DB_OBJ_COMMIT (R585): A tenant's doorbell object COMMIT. -/
  | dbObjCommit (t : Tenant)
  /-- DB_OBJ_DELETE (R585): A tenant's doorbell object DELETE. -/
  | dbObjDelete (t : Tenant)
  /-- DB_OBJ_STAGE (R585): A tenant's doorbell object STAGE. -/
  | dbObjStage (t : Tenant)
  /-- DB_OBJ_PIN (R585): A tenant's doorbell object PIN. -/
  | dbObjPin (t : Tenant)
  /-- DB_OBJ_SETMASK (R585): A tenant's doorbell object SETMASK. -/
  | dbObjSetmask (t : Tenant)
  /-- OBJ_WRITE (R586): Whole pages are copied from host memory into a tier object. Operands: what host memory holds, page by page, with the EP bit; none where the read fails. -/
  | objWrite (t : Tenant) (pages : List (Option (List Byte × Bool)))
  /-- OBJ_READ (R586): Whole pages are copied from a tier object to host memory. -/
  | objRead (t : Tenant)
  /-- DB_STRM_OPEN (R585): A tenant opens a request stream through its doorbell page. -/
  | dbStrmOpen (t : Tenant)
  /-- DB_STRM_CLOSE (R585): A tenant closes a request stream through its doorbell page. -/
  | dbStrmClose (t : Tenant)
  /-- PERST_BEFORE_READY (R600): PERST_L asserted before READY holds only the PCIe interface in reset. -/
  | perstBeforeReady
  /-- VSTBY_OUT_OF_LIMITS (R600): VSTBY leaving its limits stops every VIN12-fed regulator within 10 µs. -/
  | vstbyOutOfLimits
  /-- JTAG_INSTRUCTION (R602): A JTAG instruction is loaded, with EXTEST and CLAMP acting as BYPASS while a job holds the package. Operands: the instruction loaded: 0 BYPASS or another that drives no pad, 1 EXTEST, 2 CLAMP, 3 IDCODE. -/
  | jtagInstruction (i : Fin 4)
  /-- DROOP_ALARM_CLEAR (R42): The island's last droop monitor alarm clears and cycle stretching stops, STRETCHING going to 0. Operands: cycles: the cycles stretched since they were last counted. -/
  | droopAlarmClear (i : Island) (cycles : Nat)
  /-- IDLE_FLIT (R423): A good IDLE flit arrives and its ACK frees acknowledged flits and restarts the replay timer. Operands: the acknowledgement an IDLE flit carries. -/
  | idleFlit (p : Port) (ack : BitVec 12)
  /-- PORT_ENABLE (R414): A write of RVR_PORT_CTRL_p.EN takes a port from DOWN to TRAIN when set to 1, or to DOWN when cleared. -/
  | portEnable (p : Port) (on : Bool)
  /-- VF_ENABLE (R577): VF Enable written 1 with NumVFs makes tenants 0 to NumVFs − 1 exist and their doorbell pages live. -/
  | vfEnable (numVfs : Fin 4097)
  /-- PF_TO_D0 (R574): The PF returns from D3hot to D0 and answers BAR accesses again, package state kept. -/
  | pfToD0
  /-- PERST_DEASSERT (R600): PERST_L is deasserted and the PCIe interface leaves reset. -/
  | perstDeassert
  /-- VIN12_WITHIN_LIMITS (R597): VIN12 returns within its limits with PWR_OK high and a cold start begins from phase HUB. -/
  | vin12WithinLimits
  /-- PAIR_RESTART_COMPLETE (R541): The Exkalet pair finishes its restart through the boot ROM, the firmware runs, READY reads 1 and mailbox message 6 may be posted. -/
  | pairRestartComplete
  /-- PLDM_BASE_COMMAND (R565): A PLDM type 0 base request over MCTP is answered. -/
  | pldmBaseCommand (request : Nat) (args : List Byte)
  /-- ENTDAA (R565): The I3C controller's ENTDAA assigns the target its dynamic address using the fused provisioned ID. -/
  | entdaa (addr : BitVec 7)
  deriving DecidableEq, Repr

end Sys2Proof
end

