-- ==== Sys2Proof/Machine/Maps.lean ====
section
/-! DEFINITION. Maps held as sorted lists of key and value pairs, and the bit-field helpers: the one way every
sparse table of the state (registers, tile store bytes, tier bytes, queues by number) is read and written. -/

namespace Sys2Proof.Machine

/-- The value at key `k`, if the map lists one. -/
def lookup {α : Type} (m : SMap α) (k : Nat) : Option α :=
  match m with
  | [] => none
  | (j, v) :: rest => if j = k then some v else lookup rest k

/-- The value at key `k`, or `d` where nothing is listed. -/
def lookupD {α : Type} (m : SMap α) (k : Nat) (d : α) : α :=
  (lookup m k).getD d

/-- `m` with key `k` mapped to `v`, keys kept strictly rising. -/
def insert {α : Type} (m : SMap α) (k : Nat) (v : α) : SMap α :=
  match m with
  | [] => [(k, v)]
  | (j, u) :: rest =>
    if k < j then (k, v) :: (j, u) :: rest
    else if j = k then (k, v) :: rest
    else (j, u) :: insert rest k v

/-- `m` with key `k` no longer listed. -/
def erase {α : Type} (m : SMap α) (k : Nat) : SMap α :=
  match m with
  | [] => []
  | (j, u) :: rest => if j = k then erase rest k else (j, u) :: erase rest k

/-- `m` with key `k` reading as `v`, where an unlisted key reads as `d`: the default is never listed. -/
def store {α : Type} [DecidableEq α] (d : α) (m : SMap α) (k : Nat) (v : α) : SMap α :=
  if v = d then erase m k else insert m k v

/-- The keys rise strictly. -/
def rising {α : Type} (m : SMap α) : Bool :=
  match m with
  | [] => true
  | [_] => true
  | (j, _) :: (k, v) :: rest => decide (j < k) && rising ((k, v) :: rest)

/-- The canonical form: keys strictly rising, and the default `d` never listed. -/
def canonical {α : Type} [DecidableEq α] (d : α) (m : SMap α) : Bool :=
  rising m && m.all fun e => decide (e.2 ≠ d)

/-- `n` values starting at key `k`, an unlisted key reading as `d`. -/
def readMany {α : Type} (d : α) (m : SMap α) (k : Nat) (n : Nat) : List α :=
  match n with
  | 0 => []
  | n + 1 => lookupD m k d :: readMany d m (k + 1) n

/-- Writes the values of `vs` at the keys from `k` upward. -/
def storeMany {α : Type} [DecidableEq α] (d : α) (m : SMap α) (k : Nat) (vs : List α) : SMap α :=
  match vs with
  | [] => m
  | v :: rest => storeMany d (store d m k v) (k + 1) rest

/-- Every key of `m` in `[lo, hi)` no longer listed. -/
def eraseRange {α : Type} (m : SMap α) (lo hi : Nat) : SMap α :=
  m.filter fun e => !(decide (lo ≤ e.1) && decide (e.1 < hi))

/-- The bits `[lo + w - 1 : lo]` of `v`, as a number. -/
def bitsOf (v lo w : Nat) : Nat :=
  (v >>> lo) % 2 ^ w

/-- The field of `w` bits at `lo` of a 32-bit word, as a number. -/
def fieldGet (v : Word) (lo w : Nat) : Nat :=
  bitsOf v.toNat lo w

/-- The word `v` with the field of `w` bits at `lo` holding the low bits of `n`. -/
def fieldPut (v : Word) (lo w n : Nat) : Word :=
  let mask : Word := BitVec.ofNat 32 ((2 ^ w - 1) <<< lo)
  (v &&& ~~~mask) ||| (BitVec.ofNat 32 (n <<< lo) &&& mask)

/-- Bit `b` of a number. -/
def bit (v b : Nat) : Bool :=
  v.testBit b

/-- 1 for true, 0 for false. -/
def b2n (b : Bool) : Nat :=
  if b then 1 else 0

/-- `n` with bit `b` set or cleared. -/
def setBit (n b : Nat) (on : Bool) : Nat :=
  if n.testBit b = on then n else if on then n + 2 ^ b else n - 2 ^ b

/-- A number held in `w` bits, two's complement, as an integer (R9). -/
def signed (w n : Nat) : Int :=
  if n % 2 ^ w < 2 ^ (w - 1) then (n % 2 ^ w : Nat) else ((n % 2 ^ w : Nat) : Int) - (2 ^ w : Nat)

/-- The two's complement code of an integer in `w` bits. -/
def unsigned (w : Nat) (z : Int) : Nat :=
  (z % (2 ^ w : Nat)).toNat

/-- The number whose little-endian bytes are `bs` (R10). -/
def leNat (bs : List Byte) : Nat :=
  match bs with
  | [] => 0
  | b :: rest => b.toNat + 256 * leNat rest

/-- The low `n` bytes of `v`, little-endian (R10). -/
def leBytes (n v : Nat) : List Byte :=
  match n with
  | 0 => []
  | n + 1 => BitVec.ofNat 8 v :: leBytes n (v / 256)

/-- Round `n` up to a multiple of `m`. -/
def roundUp (n m : Nat) : Nat :=
  (n + m - 1) / m * m

/-- `n` held between `lo` and `hi`. -/
def clampTo (lo hi n : Nat) : Nat :=
  if n < lo then lo else if hi < n then hi else n

/-- `n + k`, saturating at the largest number of `w` bits. -/
def satAdd (w n k : Nat) : Nat :=
  if n + k < 2 ^ w then n + k else 2 ^ w - 1

/-- `xs` with element `i` replaced by `v`; unchanged where there is no element `i`. -/
def setAt {α : Type} (xs : List α) (i : Nat) (v : α) : List α :=
  xs.set i v

/-- The least element of `xs` under `key`, the earliest of equals. -/
def leastBy {α : Type} (key : α → Nat) (xs : List α) : Option α :=
  xs.foldl (fun best x =>
    match best with
    | none => some x
    | some b => if key x < key b then some x else some b) none

end Sys2Proof.Machine
end

