-- ==== Sys2Proof/Machine/Regs.lean ====
section
/-! DEFINITION. The register map: every register of BAR0 and of the doorbell pages under its name and offset (R17,
R578, R581, R582), and every field with its bits, its access code and its clamp (R11, R12, R15). A register of a
doorbell page is keyed at 0x1000_0000 + its BAR2 offset; every other at its BAR0 offset. -/

namespace Sys2Proof.Machine

/-- A register: its key and the value it holds at reset. -/
structure Reg where
  addr : Nat
  rst  : Word
  deriving DecidableEq, Repr

/-- A field of a register: the register, the lowest bit and the width. -/
structure RF where
  reg   : Reg
  lo    : Nat
  width : Nat
  deriving DecidableEq, Repr

/-- The access codes of R12. -/
inductive Acc where
  | ro | rw | w1c | w1s | wo | rws | rwo | rwl
  deriving DecidableEq, Repr

/-- How an out-of-range value or a reserved encoding of a field is clamped (R15 and the field's Meaning). -/
inductive Clamp where
  | none
  /-- Values outside the range become its nearer end. -/
  | range (lo hi : Nat)
  /-- Values at or above `bound` become `top`. -/
  | ge (bound top : Nat)
  /-- The field's rule looks at other fields. -/
  | special
  deriving DecidableEq, Repr

/-- The lock bit that a field's Meaning names (R12). -/
inductive Lock where
  | never | jobLock | coreJob | windowMode | clusterJob | ferryActive | aliasValid | seed | recovering | bindEn
  deriving DecidableEq, Repr

/-- One field of a register table. -/
structure FieldD where
  name  : String
  lo    : Nat
  width : Nat
  acc   : Acc
  clamp : Clamp
  lock  : Lock
  deriving DecidableEq, Repr

/-- One register table: the register's name, its key at index 0, the count and stride of each index, its reset
value, and its fields. -/
structure RegFam where
  name   : String
  addr   : Nat
  dims   : List (Nat × Nat)
  rst    : Nat
  fields : List FieldD
  deriving DecidableEq, Repr

/-- HUB_ID, 18. -/
def HUB_ID : Reg := ⟨0x0, 0x0⟩
def HUB_ID_GRADE : RF := ⟨HUB_ID, 0, 8⟩
def HUB_ID_STEPPING : RF := ⟨HUB_ID, 8, 8⟩
def HUB_ID_FUSED_OFF : RF := ⟨HUB_ID, 16, 16⟩

/-- HUB_ISLMAP, 18. -/
def HUB_ISLMAP (w : Nat) : Reg := ⟨0x4 + 0x4 * w, 0x0⟩
def HUB_ISLMAP_MAP (w : Nat) : RF := ⟨HUB_ISLMAP w, 0, 32⟩

/-- HUB_SERIAL_LO, 18. -/
def HUB_SERIAL_LO : Reg := ⟨0xC, 0x0⟩
def HUB_SERIAL_LO_SERIAL : RF := ⟨HUB_SERIAL_LO, 0, 32⟩

/-- HUB_SERIAL_HI, 18. -/
def HUB_SERIAL_HI : Reg := ⟨0x10, 0x0⟩
def HUB_SERIAL_HI_SERIAL : RF := ⟨HUB_SERIAL_HI, 0, 32⟩

/-- HUB_CLAMP, 18. -/
def HUB_CLAMP : Reg := ⟨0x20, 0x0⟩
def HUB_CLAMP_COUNT : RF := ⟨HUB_CLAMP, 0, 32⟩

/-- HUB_CLAMP_LAST, 18. -/
def HUB_CLAMP_LAST : Reg := ⟨0x24, 0x0⟩
def HUB_CLAMP_LAST_ADDR : RF := ⟨HUB_CLAMP_LAST, 0, 28⟩
def HUB_CLAMP_LAST_BAR2 : RF := ⟨HUB_CLAMP_LAST, 28, 1⟩

/-- HUB_CLK_STATUS, 02. -/
def HUB_CLK_STATUS : Reg := ⟨0x100, 0x0⟩
def HUB_CLK_STATUS_PLL_LOCK : RF := ⟨HUB_CLK_STATUS, 0, 1⟩
def HUB_CLK_STATUS_DESKEW_DONE : RF := ⟨HUB_CLK_STATUS, 1, 1⟩
def HUB_CLK_STATUS_MCLK_SEL : RF := ⟨HUB_CLK_STATUS, 2, 1⟩

/-- HUB_TIDE_LO, 02. -/
def HUB_TIDE_LO : Reg := ⟨0x110, 0x0⟩
def HUB_TIDE_LO_TIDE : RF := ⟨HUB_TIDE_LO, 0, 32⟩

/-- HUB_TIDE_HI, 02. -/
def HUB_TIDE_HI : Reg := ⟨0x114, 0x0⟩
def HUB_TIDE_HI_TIDE : RF := ⟨HUB_TIDE_HI, 0, 32⟩

/-- HUB_TIDE_CTRL, 02. -/
def HUB_TIDE_CTRL : Reg := ⟨0x118, 0x2⟩
def HUB_TIDE_CTRL_LOAD_ARM : RF := ⟨HUB_TIDE_CTRL, 0, 1⟩
def HUB_TIDE_CTRL_SLEW_EN : RF := ⟨HUB_TIDE_CTRL, 1, 1⟩

/-- HUB_TIDE_LOAD_LO, 02. -/
def HUB_TIDE_LOAD_LO : Reg := ⟨0x120, 0x0⟩
def HUB_TIDE_LOAD_LO_LOAD : RF := ⟨HUB_TIDE_LOAD_LO, 0, 32⟩

/-- HUB_TIDE_LOAD_HI, 02. -/
def HUB_TIDE_LOAD_HI : Reg := ⟨0x124, 0x0⟩
def HUB_TIDE_LOAD_HI_LOAD : RF := ⟨HUB_TIDE_LOAD_HI, 0, 32⟩

/-- HUB_TIDE_STATUS, 02. -/
def HUB_TIDE_STATUS : Reg := ⟨0x128, 0x0⟩
def HUB_TIDE_STATUS_LOAD_DONE : RF := ⟨HUB_TIDE_STATUS, 0, 1⟩
def HUB_TIDE_STATUS_LOAD_MISSED : RF := ⟨HUB_TIDE_STATUS, 1, 1⟩
def HUB_TIDE_STATUS_ALIGNED : RF := ⟨HUB_TIDE_STATUS, 2, 1⟩
def HUB_TIDE_STATUS_JOB_LOCK : RF := ⟨HUB_TIDE_STATUS, 3, 1⟩
def HUB_TIDE_STATUS_OFFSET : RF := ⟨HUB_TIDE_STATUS, 8, 8⟩
def HUB_TIDE_STATUS_SLEW_CNT : RF := ⟨HUB_TIDE_STATUS, 16, 16⟩

/-- HUB_PCIE_ERR, 18. -/
def HUB_PCIE_ERR : Reg := ⟨0x200, 0x0⟩
def HUB_PCIE_ERR_CTO_CNT : RF := ⟨HUB_PCIE_ERR, 0, 16⟩
def HUB_PCIE_ERR_POIS_CNT : RF := ⟨HUB_PCIE_ERR, 16, 16⟩

/-- HUB_EXR_IDX, 09. -/
def HUB_EXR_IDX : Reg := ⟨0x2000, 0x0⟩
def HUB_EXR_IDX_EXPERT : RF := ⟨HUB_EXR_IDX, 0, 12⟩
def HUB_EXR_IDX_MODEL : RF := ⟨HUB_EXR_IDX, 12, 10⟩

/-- HUB_EXR_CMD, 09. -/
def HUB_EXR_CMD : Reg := ⟨0x2004, 0x0⟩
def HUB_EXR_CMD_OP : RF := ⟨HUB_EXR_CMD, 0, 2⟩

/-- HUB_EXR_STATUS, 09. -/
def HUB_EXR_STATUS : Reg := ⟨0x2008, 0x0⟩
def HUB_EXR_STATUS_BUSY : RF := ⟨HUB_EXR_STATUS, 0, 1⟩
def HUB_EXR_STATUS_USED : RF := ⟨HUB_EXR_STATUS, 1, 19⟩

/-- HUB_EXR_ENT, 09. -/
def HUB_EXR_ENT (n : Nat) : Reg := ⟨0x2010 + 0x4 * n, 0x0⟩
def HUB_EXR_ENT_DATA (n : Nat) : RF := ⟨HUB_EXR_ENT n, 0, 32⟩

/-- HUB_LDR_CMD, 11. -/
def HUB_LDR_CMD : Reg := ⟨0x3000, 0x0⟩
def HUB_LDR_CMD_OP : RF := ⟨HUB_LDR_CMD, 0, 2⟩

/-- HUB_LDR_ARG, 11. -/
def HUB_LDR_ARG (n : Nat) : Reg := ⟨0x3004 + 0x4 * n, 0x0⟩
def HUB_LDR_ARG_ARG (n : Nat) : RF := ⟨HUB_LDR_ARG n, 0, 32⟩

/-- HUB_LDR_STATUS, 11. -/
def HUB_LDR_STATUS : Reg := ⟨0x3010, 0x0⟩
def HUB_LDR_STATUS_BUSY : RF := ⟨HUB_LDR_STATUS, 0, 1⟩
def HUB_LDR_STATUS_CTX : RF := ⟨HUB_LDR_STATUS, 1, 2⟩
def HUB_LDR_STATUS_CODE : RF := ⟨HUB_LDR_STATUS, 8, 8⟩
def HUB_LDR_STATUS_PART : RF := ⟨HUB_LDR_STATUS, 16, 7⟩

/-- HUB_LDR_CTX, 11. -/
def HUB_LDR_CTX (n : Nat) : Reg := ⟨0x3020 + 0x4 * n, 0x0⟩
def HUB_LDR_CTX_ACTIVE (n : Nat) : RF := ⟨HUB_LDR_CTX n, 0, 1⟩
def HUB_LDR_CTX_STAGE (n : Nat) : RF := ⟨HUB_LDR_CTX n, 1, 3⟩
def HUB_LDR_CTX_PART (n : Nat) : RF := ⟨HUB_LDR_CTX n, 4, 7⟩
def HUB_LDR_CTX_CODE (n : Nat) : RF := ⟨HUB_LDR_CTX n, 16, 8⟩

/-- HUB_LDR_FAULT, 11. -/
def HUB_LDR_FAULT (n : Nat) : Reg := ⟨0x3030 + 0x4 * n, 0x0⟩
def HUB_LDR_FAULT_CHECK (n : Nat) : RF := ⟨HUB_LDR_FAULT n, 0, 8⟩
def HUB_LDR_FAULT_SECTION (n : Nat) : RF := ⟨HUB_LDR_FAULT n, 8, 10⟩
def HUB_LDR_FAULT_RECORD (n : Nat) : RF := ⟨HUB_LDR_FAULT n, 18, 14⟩

/-- HUB_IMG_CMD, 11. -/
def HUB_IMG_CMD : Reg := ⟨0x3100, 0x0⟩
def HUB_IMG_CMD_OP : RF := ⟨HUB_IMG_CMD, 0, 2⟩

/-- HUB_IMG_ARG, 11. -/
def HUB_IMG_ARG (n : Nat) : Reg := ⟨0x3104 + 0x4 * n, 0x0⟩
def HUB_IMG_ARG_ARG (n : Nat) : RF := ⟨HUB_IMG_ARG n, 0, 32⟩

/-- HUB_IMG_STATUS, 11. -/
def HUB_IMG_STATUS : Reg := ⟨0x3110, 0x0⟩
def HUB_IMG_STATUS_BUSY : RF := ⟨HUB_IMG_STATUS, 0, 1⟩
def HUB_IMG_STATUS_CODE : RF := ⟨HUB_IMG_STATUS, 8, 8⟩
def HUB_IMG_STATUS_CHECK : RF := ⟨HUB_IMG_STATUS, 16, 10⟩

/-- HUB_FSEQ, 11. -/
def HUB_FSEQ (p : Nat) : Reg := ⟨0x4000 + 0x10 * p, 0x0⟩
def HUB_FSEQ_ENTRY (p : Nat) : RF := ⟨HUB_FSEQ p, 0, 8⟩
def HUB_FSEQ_FLASK (p : Nat) : RF := ⟨HUB_FSEQ p, 8, 6⟩
def HUB_FSEQ_SLOT (p : Nat) : RF := ⟨HUB_FSEQ p, 14, 2⟩
def HUB_FSEQ_RUNS (p : Nat) : RF := ⟨HUB_FSEQ p, 16, 16⟩

/-- HUB_FSEQ_GO, 11. -/
def HUB_FSEQ_GO (p : Nat) : Reg := ⟨0x4004 + 0x10 * p, 0x0⟩
def HUB_FSEQ_GO_GO (p : Nat) : RF := ⟨HUB_FSEQ_GO p, 0, 1⟩

/-- HUB_FSEQ_WAIT, 11. -/
def HUB_FSEQ_WAIT (p : Nat) : Reg := ⟨0x4008 + 0x10 * p, 0x0⟩
def HUB_FSEQ_WAIT_TICKS (p : Nat) : RF := ⟨HUB_FSEQ_WAIT p, 0, 32⟩

/-- HUB_RCV_CTRL, 16. -/
def HUB_RCV_CTRL : Reg := ⟨0x5000, 0x0⟩
def HUB_RCV_CTRL_WITHDRAW : RF := ⟨HUB_RCV_CTRL, 0, 1⟩

/-- HUB_RCV_STATUS, 16. -/
def HUB_RCV_STATUS : Reg := ⟨0x5004, 0x0⟩
def HUB_RCV_STATUS_ACTIVE : RF := ⟨HUB_RCV_STATUS, 0, 4⟩
def HUB_RCV_STATUS_LAST_CODE : RF := ⟨HUB_RCV_STATUS, 8, 8⟩
def HUB_RCV_STATUS_LAST_PART : RF := ⟨HUB_RCV_STATUS, 16, 7⟩

/-- HUB_RCV_FENCE, 16. -/
def HUB_RCV_FENCE : Reg := ⟨0x5008, 0x0⟩
def HUB_RCV_FENCE_LCORE : RF := ⟨HUB_RCV_FENCE, 0, 11⟩
def HUB_RCV_FENCE_GO : RF := ⟨HUB_RCV_FENCE, 11, 1⟩

/-- HUB_RCV_LAST, 16. -/
def HUB_RCV_LAST : Reg := ⟨0x500C, 0x0⟩
def HUB_RCV_LAST_TICKS : RF := ⟨HUB_RCV_LAST, 0, 32⟩

/-- HUB_RCV_CNT, 16. -/
def HUB_RCV_CNT : Reg := ⟨0x5010, 0x0⟩
def HUB_RCV_CNT_RECOVERED : RF := ⟨HUB_RCV_CNT, 0, 16⟩
def HUB_RCV_CNT_EJECTED : RF := ⟨HUB_RCV_CNT, 16, 16⟩

/-- HUB_RCV_SPOOL, 16. -/
def HUB_RCV_SPOOL (p : Nat) : Reg := ⟨0x5100 + 0x8 * p, 0x0⟩
def HUB_RCV_SPOOL_HANDLE (p : Nat) : RF := ⟨HUB_RCV_SPOOL p, 0, 32⟩

/-- HUB_RCV_PART, 16. -/
def HUB_RCV_PART (p : Nat) : Reg := ⟨0x5104 + 0x8 * p, 0x0⟩
def HUB_RCV_PART_FENCED (p : Nat) : RF := ⟨HUB_RCV_PART p, 0, 1⟩
def HUB_RCV_PART_SPOOL_FULL (p : Nat) : RF := ⟨HUB_RCV_PART p, 16, 16⟩

/-- HUB_APT_CTRL, 18. -/
def HUB_APT_CTRL (a : Nat) : Reg := ⟨0x6000 + 0x10 * a, 0x0⟩
def HUB_APT_CTRL_KIND (a : Nat) : RF := ⟨HUB_APT_CTRL a, 0, 2⟩
def HUB_APT_CTRL_HARBOR (a : Nat) : RF := ⟨HUB_APT_CTRL a, 2, 2⟩
def HUB_APT_CTRL_TIER (a : Nat) : RF := ⟨HUB_APT_CTRL a, 4, 1⟩

/-- HUB_APT_TGT, 18. -/
def HUB_APT_TGT (a : Nat) : Reg := ⟨0x6004 + 0x10 * a, 0x0⟩
def HUB_APT_TGT_TGT (a : Nat) : RF := ⟨HUB_APT_TGT a, 0, 32⟩

/-- HUB_APT_PAGE, 18. -/
def HUB_APT_PAGE (a : Nat) : Reg := ⟨0x6008 + 0x10 * a, 0x0⟩
def HUB_APT_PAGE_PAGE (a : Nat) : RF := ⟨HUB_APT_PAGE a, 0, 24⟩

/-- HUB_APT_DROP, 18. -/
def HUB_APT_DROP : Reg := ⟨0x6100, 0x0⟩
def HUB_APT_DROP_COUNT : RF := ⟨HUB_APT_DROP, 0, 32⟩

/-- MGT_STATUS, 17. -/
def MGT_STATUS : Reg := ⟨0x100000, 0x0⟩
def MGT_STATUS_READY : RF := ⟨MGT_STATUS, 0, 1⟩
def MGT_STATUS_HELD : RF := ⟨MGT_STATUS, 1, 1⟩
def MGT_STATUS_SLOT : RF := ⟨MGT_STATUS, 2, 1⟩
def MGT_STATUS_TRIAL : RF := ⟨MGT_STATUS, 3, 1⟩
def MGT_STATUS_LOCKSTEP_CNT : RF := ⟨MGT_STATUS, 8, 8⟩
def MGT_STATUS_WDOG_CNT : RF := ⟨MGT_STATUS, 16, 8⟩

/-- MGT_MBX_CMD, 17. -/
def MGT_MBX_CMD : Reg := ⟨0x100010, 0x0⟩
def MGT_MBX_CMD_OP : RF := ⟨MGT_MBX_CMD, 0, 8⟩

/-- MGT_MBX_ARG, 17. -/
def MGT_MBX_ARG (n : Nat) : Reg := ⟨0x100014 + 0x4 * n, 0x0⟩
def MGT_MBX_ARG_ARG (n : Nat) : RF := ⟨MGT_MBX_ARG n, 0, 32⟩

/-- MGT_MBX_STATUS, 17. -/
def MGT_MBX_STATUS : Reg := ⟨0x100030, 0x0⟩
def MGT_MBX_STATUS_BUSY : RF := ⟨MGT_MBX_STATUS, 0, 1⟩
def MGT_MBX_STATUS_CODE : RF := ⟨MGT_MBX_STATUS, 8, 8⟩

/-- MGT_MBX_MSG, 17. -/
def MGT_MBX_MSG : Reg := ⟨0x100034, 0x0⟩
def MGT_MBX_MSG_KIND : RF := ⟨MGT_MBX_MSG, 0, 8⟩
def MGT_MBX_MSG_PENDING : RF := ⟨MGT_MBX_MSG, 8, 1⟩

/-- MGT_MBX_DATA, 17. -/
def MGT_MBX_DATA (n : Nat) : Reg := ⟨0x100100 + 0x4 * n, 0x0⟩
def MGT_MBX_DATA_DATA (n : Nat) : RF := ⟨MGT_MBX_DATA n, 0, 32⟩

/-- MGT_BOOT_STATUS, 15. -/
def MGT_BOOT_STATUS : Reg := ⟨0x100200, 0x7000⟩
def MGT_BOOT_STATUS_PHASE : RF := ⟨MGT_BOOT_STATUS, 0, 4⟩
def MGT_BOOT_STATUS_ATTEMPTS : RF := ⟨MGT_BOOT_STATUS, 4, 2⟩
def MGT_BOOT_STATUS_CAUSE : RF := ⟨MGT_BOOT_STATUS, 6, 4⟩
def MGT_BOOT_STATUS_MINIMAL : RF := ⟨MGT_BOOT_STATUS, 10, 1⟩
def MGT_BOOT_STATUS_WARM : RF := ⟨MGT_BOOT_STATUS, 11, 1⟩
def MGT_BOOT_STATUS_MIN_HARBOR : RF := ⟨MGT_BOOT_STATUS, 12, 3⟩
def MGT_BOOT_STATUS_OOB_ONLY : RF := ⟨MGT_BOOT_STATUS, 15, 1⟩

/-- MGT_BOOT_FAB, 15. -/
def MGT_BOOT_FAB : Reg := ⟨0x100204, 0x0⟩
def MGT_BOOT_FAB_PRESENT : RF := ⟨MGT_BOOT_FAB, 0, 16⟩
def MGT_BOOT_FAB_FAB_OK : RF := ⟨MGT_BOOT_FAB, 16, 16⟩

/-- MGT_BOOT_WHY, 15. -/
def MGT_BOOT_WHY (n : Nat) : Reg := ⟨0x100208 + 0x4 * n, 0x0⟩
def MGT_BOOT_WHY_WHY (n : Nat) : RF := ⟨MGT_BOOT_WHY n, 0, 32⟩

/-- MGT_BOOT_MEM, 15. -/
def MGT_BOOT_MEM : Reg := ⟨0x100210, 0x0⟩
def MGT_BOOT_MEM_NEAR : RF := ⟨MGT_BOOT_MEM, 0, 8⟩
def MGT_BOOT_MEM_MID : RF := ⟨MGT_BOOT_MEM, 8, 16⟩
def MGT_BOOT_MEM_FTL : RF := ⟨MGT_BOOT_MEM, 24, 4⟩

/-- MGT_BOOT_MS, 15. -/
def MGT_BOOT_MS : Reg := ⟨0x100214, 0x0⟩
def MGT_BOOT_MS_MS : RF := ⟨MGT_BOOT_MS, 0, 32⟩

/-- MGT_BOOT_CFG, 15. -/
def MGT_BOOT_CFG : Reg := ⟨0x100220, 0x2000A0⟩
def MGT_BOOT_CFG_MIN_PORTS : RF := ⟨MGT_BOOT_CFG, 0, 5⟩
def MGT_BOOT_CFG_RETRY_S : RF := ⟨MGT_BOOT_CFG, 5, 8⟩
def MGT_BOOT_CFG_MID_EXPECT : RF := ⟨MGT_BOOT_CFG, 13, 8⟩
def MGT_BOOT_CFG_NEAR_RET : RF := ⟨MGT_BOOT_CFG, 21, 1⟩

/-- MGT_BOOT_CMD, 15. -/
def MGT_BOOT_CMD : Reg := ⟨0x100224, 0x0⟩
def MGT_BOOT_CMD_OP : RF := ⟨MGT_BOOT_CMD, 0, 2⟩

/-- MGT_PWR_PKG, 17. -/
def MGT_PWR_PKG : Reg := ⟨0x100400, 0x0⟩
def MGT_PWR_PKG_POWER : RF := ⟨MGT_PWR_PKG, 0, 16⟩

/-- MGT_PWR_PEAK, 17. -/
def MGT_PWR_PEAK : Reg := ⟨0x100404, 0x0⟩
def MGT_PWR_PEAK_PEAK : RF := ⟨MGT_PWR_PEAK, 0, 16⟩

/-- MGT_PWR_CTRL, 17. -/
def MGT_PWR_CTRL : Reg := ⟨0x100408, 0x3520⟩
def MGT_PWR_CTRL_WARN_W : RF := ⟨MGT_PWR_CTRL, 0, 14⟩
def MGT_PWR_CTRL_PEAK_CLR : RF := ⟨MGT_PWR_CTRL, 14, 1⟩
def MGT_PWR_CTRL_OVER_CNT : RF := ⟨MGT_PWR_CTRL, 16, 16⟩

/-- MGT_PWR_BLK, 17. -/
def MGT_PWR_BLK (n : Nat) : Reg := ⟨0x100410 + 0x4 * n, 0x0⟩
def MGT_PWR_BLK_POWER (n : Nat) : RF := ⟨MGT_PWR_BLK n, 0, 16⟩

/-- MGT_TEMP, 17. -/
def MGT_TEMP (n : Nat) : Reg := ⟨0x100480 + 0x4 * n, 0x0⟩
def MGT_TEMP_TEMP_C (n : Nat) : RF := ⟨MGT_TEMP n, 0, 8⟩

/-- MGT_FW_SLOT, 17. -/
def MGT_FW_SLOT (n : Nat) : Reg := ⟨0x100600 + 0x8 * n, 0x0⟩
def MGT_FW_SLOT_VALID (n : Nat) : RF := ⟨MGT_FW_SLOT n, 0, 1⟩
def MGT_FW_SLOT_ACTIVE (n : Nat) : RF := ⟨MGT_FW_SLOT n, 1, 1⟩
def MGT_FW_SLOT_TRIAL (n : Nat) : RF := ⟨MGT_FW_SLOT n, 2, 1⟩
def MGT_FW_SLOT_FAILED (n : Nat) : RF := ⟨MGT_FW_SLOT n, 3, 1⟩

/-- MGT_FW_SEC, 17. -/
def MGT_FW_SEC (n : Nat) : Reg := ⟨0x100604 + 0x8 * n, 0x0⟩
def MGT_FW_SEC_SEC_VERSION (n : Nat) : RF := ⟨MGT_FW_SEC n, 0, 32⟩

/-- MGT_FW_RB, 17. -/
def MGT_FW_RB : Reg := ⟨0x100610, 0x0⟩
def MGT_FW_RB_COUNTER : RF := ⟨MGT_FW_RB, 0, 8⟩

/-- MGT_KEY, 17. -/
def MGT_KEY (n : Nat) : Reg := ⟨0x100700 + 0x8 * n, 0x0⟩
def MGT_KEY_STATE (n : Nat) : RF := ⟨MGT_KEY n, 0, 2⟩

/-- MGT_KEY_MIN, 17. -/
def MGT_KEY_MIN (n : Nat) : Reg := ⟨0x100704 + 0x8 * n, 0x0⟩
def MGT_KEY_MIN_MIN_SEC_VERSION (n : Nat) : RF := ⟨MGT_KEY_MIN n, 0, 32⟩

/-- MGT_LOG_STATUS, 17. -/
def MGT_LOG_STATUS : Reg := ⟨0x100800, 0x0⟩
def MGT_LOG_STATUS_STAGED : RF := ⟨MGT_LOG_STATUS, 0, 11⟩
def MGT_LOG_STATUS_FAR_OK : RF := ⟨MGT_LOG_STATUS, 11, 1⟩
def MGT_LOG_STATUS_DROP_CNT : RF := ⟨MGT_LOG_STATUS, 16, 16⟩

/-- MGT_LOG_NEWEST, 17. -/
def MGT_LOG_NEWEST : Reg := ⟨0x100804, 0x0⟩
def MGT_LOG_NEWEST_SEQ : RF := ⟨MGT_LOG_NEWEST, 0, 32⟩

/-- MGT_LOG_OLDEST, 17. -/
def MGT_LOG_OLDEST : Reg := ⟨0x100808, 0x0⟩
def MGT_LOG_OLDEST_SEQ : RF := ⟨MGT_LOG_OLDEST, 0, 32⟩

/-- MGT_ANL_CFG, 17. -/
def MGT_ANL_CFG : Reg := ⟨0x100900, 0x78F⟩
def MGT_ANL_CFG_MARGIN_MV : RF := ⟨MGT_ANL_CFG, 0, 6⟩
def MGT_ANL_CFG_DROOP_MV : RF := ⟨MGT_ANL_CFG, 6, 6⟩
def MGT_ANL_CFG_BUSY_CH : RF := ⟨MGT_ANL_CFG, 16, 4⟩
def MGT_ANL_CFG_PENDING : RF := ⟨MGT_ANL_CFG, 20, 5⟩

/-- MGT_CLAMP, 18. -/
def MGT_CLAMP : Reg := ⟨0x100A00, 0x0⟩
def MGT_CLAMP_COUNT : RF := ⟨MGT_CLAMP, 0, 32⟩

/-- MGT_CLAMP_LAST, 18. -/
def MGT_CLAMP_LAST : Reg := ⟨0x100A04, 0x0⟩
def MGT_CLAMP_LAST_ADDR : RF := ⟨MGT_CLAMP_LAST, 0, 28⟩
def MGT_CLAMP_LAST_BAR2 : RF := ⟨MGT_CLAMP_LAST, 28, 1⟩

/-- ISL_GOV_CTRL, 02. -/
def ISL_GOV_CTRL (i : Nat) : Reg := ⟨0x1080000 + 0x100000 * i, 0x7F6430⟩
def ISL_GOV_CTRL_CAP (i : Nat) : RF := ⟨ISL_GOV_CTRL i, 0, 3⟩
def ISL_GOV_CTRL_HYST_C (i : Nat) : RF := ⟨ISL_GOV_CTRL i, 4, 4⟩
def ISL_GOV_CTRL_UP_HOLD (i : Nat) : RF := ⟨ISL_GOV_CTRL i, 8, 8⟩
def ISL_GOV_CTRL_STRETCH_EN (i : Nat) : RF := ⟨ISL_GOV_CTRL i, 16, 1⟩
def ISL_GOV_CTRL_STRETCH_LIMIT (i : Nat) : RF := ⟨ISL_GOV_CTRL i, 17, 6⟩

/-- ISL_GOV_STATUS, 02. -/
def ISL_GOV_STATUS (i : Nat) : Reg := ⟨0x1080004 + 0x100000 * i, 0x2⟩
def ISL_GOV_STATUS_STEP (i : Nat) : RF := ⟨ISL_GOV_STATUS i, 0, 3⟩
def ISL_GOV_STATUS_STRETCHING (i : Nat) : RF := ⟨ISL_GOV_STATUS i, 3, 1⟩
def ISL_GOV_STATUS_HOT_C (i : Nat) : RF := ⟨ISL_GOV_STATUS i, 4, 7⟩
def ISL_GOV_STATUS_HOT_SENSOR (i : Nat) : RF := ⟨ISL_GOV_STATUS i, 11, 4⟩
def ISL_GOV_STATUS_DROOP_HOLD (i : Nat) : RF := ⟨ISL_GOV_STATUS i, 15, 1⟩

/-- ISL_GOV_STRETCH, 02. -/
def ISL_GOV_STRETCH (i : Nat) : Reg := ⟨0x1080008 + 0x100000 * i, 0x0⟩
def ISL_GOV_STRETCH_STRETCH_CNT (i : Nat) : RF := ⟨ISL_GOV_STRETCH i, 0, 32⟩

/-- ISL_GOV_DOWN, 02. -/
def ISL_GOV_DOWN (i : Nat) : Reg := ⟨0x108000C + 0x100000 * i, 0x0⟩
def ISL_GOV_DOWN_THERM_DOWN_CNT (i : Nat) : RF := ⟨ISL_GOV_DOWN i, 0, 16⟩
def ISL_GOV_DOWN_DROOP_DOWN_CNT (i : Nat) : RF := ⟨ISL_GOV_DOWN i, 16, 16⟩

/-- The reset value of governor step entry `n` (R46). -/
def govStepReset (n : Nat) : Word :=
  match n with
  | 0 => 0x3C8
  | 1 => 0x559
  | 2 => 0x5CA
  | 3 => 0x64B
  | 4 => 0x69C
  | _ => 0x6E4

/-- ISL_GOV_STEP, 02. -/
def ISL_GOV_STEP (i : Nat) (n : Nat) : Reg := ⟨0x1080010 + 0x100000 * i + 0x4 * n, govStepReset n⟩
def ISL_GOV_STEP_CEIL (i : Nat) (n : Nat) : RF := ⟨ISL_GOV_STEP i n, 0, 3⟩
def ISL_GOV_STEP_EN (i : Nat) (n : Nat) : RF := ⟨ISL_GOV_STEP i n, 3, 1⟩
def ISL_GOV_STEP_TEMP_C (i : Nat) (n : Nat) : RF := ⟨ISL_GOV_STEP i n, 4, 7⟩

/-- ISL_ARR_CTRL, 05. -/
def ISL_ARR_CTRL (i : Nat) : Reg := ⟨0x1080100 + 0x100000 * i, 0x10⟩
def ISL_ARR_CTRL_TOL_EXP (i : Nat) : RF := ⟨ISL_ARR_CTRL i, 0, 5⟩

/-- ISL_ARR_INJ, 05. -/
def ISL_ARR_INJ (i : Nat) : Reg := ⟨0x1080104 + 0x100000 * i, 0x0⟩
def ISL_ARR_INJ_CORE (i : Nat) : RF := ⟨ISL_ARR_INJ i, 0, 7⟩
def ISL_ARR_INJ_ARRAY (i : Nat) : RF := ⟨ISL_ARR_INJ i, 7, 2⟩
def ISL_ARR_INJ_KIND (i : Nat) : RF := ⟨ISL_ARR_INJ i, 9, 2⟩
def ISL_ARR_INJ_PERSIST (i : Nat) : RF := ⟨ISL_ARR_INJ i, 11, 1⟩
def ISL_ARR_INJ_ARM (i : Nat) : RF := ⟨ISL_ARR_INJ i, 12, 1⟩
def ISL_ARR_INJ_ROW (i : Nat) : RF := ⟨ISL_ARR_INJ i, 13, 5⟩
def ISL_ARR_INJ_CELL (i : Nat) : RF := ⟨ISL_ARR_INJ i, 18, 5⟩
def ISL_ARR_INJ_BIT (i : Nat) : RF := ⟨ISL_ARR_INJ i, 23, 6⟩

/-- ISL_POUR_WDOG, 10. -/
def ISL_POUR_WDOG (i : Nat) : Reg := ⟨0x1080200 + 0x100000 * i, 0x2710⟩
def ISL_POUR_WDOG_LIMIT_US (i : Nat) : RF := ⟨ISL_POUR_WDOG i, 0, 20⟩

/-- ISL_ANL_CTRL, 16. -/
def ISL_ANL_CTRL (i : Nat) : Reg := ⟨0x1080300 + 0x100000 * i, 0x7B3⟩
def ISL_ANL_CTRL_EN (i : Nat) : RF := ⟨ISL_ANL_CTRL i, 0, 1⟩
def ISL_ANL_CTRL_GUARD_MV (i : Nat) : RF := ⟨ISL_ANL_CTRL i, 1, 6⟩
def ISL_ANL_CTRL_TEMP_BAND (i : Nat) : RF := ⟨ISL_ANL_CTRL i, 7, 5⟩

/-- ISL_ANL_STATUS, 16. -/
def ISL_ANL_STATUS (i : Nat) : Reg := ⟨0x1080304 + 0x100000 * i, 0x0⟩
def ISL_ANL_STATUS_LOAD_CLASS (i : Nat) : RF := ⟨ISL_ANL_STATUS i, 0, 2⟩
def ISL_ANL_STATUS_GUARD (i : Nat) : RF := ⟨ISL_ANL_STATUS i, 2, 1⟩
def ISL_ANL_STATUS_RUNNING (i : Nat) : RF := ⟨ISL_ANL_STATUS i, 3, 1⟩
def ISL_ANL_STATUS_FAIL (i : Nat) : RF := ⟨ISL_ANL_STATUS i, 4, 1⟩
def ISL_ANL_STATUS_REANNEAL_CNT (i : Nat) : RF := ⟨ISL_ANL_STATUS i, 16, 16⟩

/-- ISL_FLT_STATUS, 16. -/
def ISL_FLT_STATUS (i : Nat) : Reg := ⟨0x1080308 + 0x100000 * i, 0x0⟩
def ISL_FLT_STATUS_RTR_FENCED (i : Nat) : RF := ⟨ISL_FLT_STATUS i, 0, 8⟩
def ISL_FLT_STATUS_QUENCHED (i : Nat) : RF := ⟨ISL_FLT_STATUS i, 8, 1⟩
def ISL_FLT_STATUS_QREASON (i : Nat) : RF := ⟨ISL_FLT_STATUS i, 9, 3⟩
def ISL_FLT_STATUS_SPARES_FREE (i : Nat) : RF := ⟨ISL_FLT_STATUS i, 12, 5⟩

/-- ISL_ANL_REC, 16. -/
def ISL_ANL_REC (i : Nat) (n : Nat) : Reg := ⟨0x1080310 + 0x100000 * i + 0x4 * n, 0x0⟩
def ISL_ANL_REC_VOFF (i : Nat) (n : Nat) : RF := ⟨ISL_ANL_REC i n, 0, 8⟩
def ISL_ANL_REC_CLASS (i : Nat) (n : Nat) : RF := ⟨ISL_ANL_REC i n, 8, 2⟩
def ISL_ANL_REC_TEMP_C (i : Nat) (n : Nat) : RF := ⟨ISL_ANL_REC i n, 10, 7⟩
def ISL_ANL_REC_VALID (i : Nat) (n : Nat) : RF := ⟨ISL_ANL_REC i n, 17, 1⟩

/-- ISL_CLAMP, 18. -/
def ISL_CLAMP (i : Nat) : Reg := ⟨0x1080F00 + 0x100000 * i, 0x0⟩
def ISL_CLAMP_COUNT (i : Nat) : RF := ⟨ISL_CLAMP i, 0, 32⟩

/-- ISL_CLAMP_LAST, 18. -/
def ISL_CLAMP_LAST (i : Nat) : Reg := ⟨0x1080F04 + 0x100000 * i, 0x0⟩
def ISL_CLAMP_LAST_ADDR (i : Nat) : RF := ⟨ISL_CLAMP_LAST i, 0, 28⟩
def ISL_CLAMP_LAST_BAR2 (i : Nat) : RF := ⟨ISL_CLAMP_LAST i, 28, 1⟩

/-- ISL_DIR_STATUS, 07. -/
def ISL_DIR_STATUS (i : Nat) (c : Nat) : Reg := ⟨0x1000200 + 0x100000 * i + 0x10000 * c, 0x0⟩
def ISL_DIR_STATUS_RR_PTR (i : Nat) (c : Nat) : RF := ⟨ISL_DIR_STATUS i c, 0, 4⟩
def ISL_DIR_STATUS_WB_USED (i : Nat) (c : Nat) : RF := ⟨ISL_DIR_STATUS i c, 4, 5⟩

/-- ISL_DIR_RACE, 07. -/
def ISL_DIR_RACE (i : Nat) (c : Nat) : Reg := ⟨0x1000204 + 0x100000 * i + 0x10000 * c, 0x0⟩
def ISL_DIR_RACE_SAME_CYCLE_CNT (i : Nat) (c : Nat) : RF := ⟨ISL_DIR_RACE i c, 0, 16⟩
def ISL_DIR_RACE_FWD_CNT (i : Nat) (c : Nat) : RF := ⟨ISL_DIR_RACE i c, 16, 16⟩

/-- ISL_CTR_VAL, 08. -/
def ISL_CTR_VAL (i : Nat) (c : Nat) (n : Nat) : Reg := ⟨0x1000400 + 0x100000 * i + 0x10000 * c + 0x10 * n, 0x0⟩
def ISL_CTR_VAL_VALUE (i : Nat) (c : Nat) (n : Nat) : RF := ⟨ISL_CTR_VAL i c n, 0, 32⟩

/-- ISL_CTR_LIM, 08. -/
def ISL_CTR_LIM (i : Nat) (c : Nat) (n : Nat) : Reg := ⟨0x1000404 + 0x100000 * i + 0x10000 * c + 0x10 * n, 0x0⟩
def ISL_CTR_LIM_LIMIT (i : Nat) (c : Nat) (n : Nat) : RF := ⟨ISL_CTR_LIM i c n, 0, 32⟩

/-- ISL_CTR_CFG, 08. -/
def ISL_CTR_CFG (i : Nat) (c : Nat) (n : Nat) : Reg := ⟨0x1000408 + 0x100000 * i + 0x10000 * c + 0x10 * n, 0x0⟩
def ISL_CTR_CFG_MEMBERS (i : Nat) (c : Nat) (n : Nat) : RF := ⟨ISL_CTR_CFG i c n, 0, 16⟩
def ISL_CTR_CFG_ANCHOR (i : Nat) (c : Nat) (n : Nat) : RF := ⟨ISL_CTR_CFG i c n, 16, 4⟩
def ISL_CTR_CFG_DEFINED (i : Nat) (c : Nat) (n : Nat) : RF := ⟨ISL_CTR_CFG i c n, 20, 1⟩

/-- ISL_CTR_STAT, 08. -/
def ISL_CTR_STAT (i : Nat) (c : Nat) (n : Nat) : Reg := ⟨0x100040C + 0x100000 * i + 0x10000 * c + 0x10 * n, 0x0⟩
def ISL_CTR_STAT_TAKE_CNT (i : Nat) (c : Nat) (n : Nat) : RF := ⟨ISL_CTR_STAT i c n, 0, 24⟩
def ISL_CTR_STAT_EXH_CNT (i : Nat) (c : Nat) (n : Nat) : RF := ⟨ISL_CTR_STAT i c n, 24, 8⟩

/-- ISL_CTR_RR, 08. -/
def ISL_CTR_RR (i : Nat) (c : Nat) : Reg := ⟨0x1000800 + 0x100000 * i + 0x10000 * c, 0x0⟩
def ISL_CTR_RR_RR_PTR (i : Nat) (c : Nat) : RF := ⟨ISL_CTR_RR i c, 0, 4⟩
def ISL_CTR_RR_JOB (i : Nat) (c : Nat) : RF := ⟨ISL_CTR_RR i c, 4, 1⟩

/-- ISL_ERU_STATUS, 09. -/
def ISL_ERU_STATUS (i : Nat) (c : Nat) : Reg := ⟨0x1000A00 + 0x100000 * i + 0x10000 * c, 0x0⟩
def ISL_ERU_STATUS_ROUND (i : Nat) (c : Nat) : RF := ⟨ISL_ERU_STATUS i c, 0, 3⟩
def ISL_ERU_STATUS_BUSY (i : Nat) (c : Nat) : RF := ⟨ISL_ERU_STATUS i c, 3, 1⟩
def ISL_ERU_STATUS_MEMBERS_IN (i : Nat) (c : Nat) : RF := ⟨ISL_ERU_STATUS i c, 4, 16⟩

/-- ISL_ERU_PLACED, 09. -/
def ISL_ERU_PLACED (i : Nat) (c : Nat) : Reg := ⟨0x1000A04 + 0x100000 * i + 0x10000 * c, 0x0⟩
def ISL_ERU_PLACED_PLACED (i : Nat) (c : Nat) : RF := ⟨ISL_ERU_PLACED i c, 0, 32⟩

/-- ISL_ERU_RISER, 09. -/
def ISL_ERU_RISER (i : Nat) (c : Nat) : Reg := ⟨0x1000A08 + 0x100000 * i + 0x10000 * c, 0x0⟩
def ISL_ERU_RISER_RISER_PLACED (i : Nat) (c : Nat) : RF := ⟨ISL_ERU_RISER i c, 0, 16⟩
def ISL_ERU_RISER_DROPPED (i : Nat) (c : Nat) : RF := ⟨ISL_ERU_RISER i c, 16, 16⟩

/-- ISL_ERU_EVT, 09. -/
def ISL_ERU_EVT (i : Nat) (c : Nat) : Reg := ⟨0x1000A0C + 0x100000 * i + 0x10000 * c, 0x0⟩
def ISL_ERU_EVT_RISER_FULL_CNT (i : Nat) (c : Nat) : RF := ⟨ISL_ERU_EVT i c, 0, 12⟩
def ISL_ERU_EVT_ABSORB_CNT (i : Nat) (c : Nat) : RF := ⟨ISL_ERU_EVT i c, 12, 12⟩
def ISL_ERU_EVT_NAN_SEEN (i : Nat) (c : Nat) : RF := ⟨ISL_ERU_EVT i c, 24, 1⟩
def ISL_ERU_EVT_POISON_SEEN (i : Nat) (c : Nat) : RF := ⟨ISL_ERU_EVT i c, 25, 1⟩

/-- ISL_ERU_ROUNDS, 09. -/
def ISL_ERU_ROUNDS (i : Nat) (c : Nat) : Reg := ⟨0x1000A10 + 0x100000 * i + 0x10000 * c, 0x0⟩
def ISL_ERU_ROUNDS_ROUNDS (i : Nat) (c : Nat) : RF := ⟨ISL_ERU_ROUNDS i c, 0, 32⟩

/-- ISL_CORE_ID, 04. -/
def ISL_CORE_ID (i : Nat) (c : Nat) (k : Nat) : Reg := ⟨0x1008000 + 0x100000 * i + 0x10000 * c + 0x400 * k, 0x0⟩
def ISL_CORE_ID_LCORE (i : Nat) (c : Nat) (k : Nat) : RF := ⟨ISL_CORE_ID i c k, 0, 11⟩
def ISL_CORE_ID_PCORE (i : Nat) (c : Nat) (k : Nat) : RF := ⟨ISL_CORE_ID i c k, 12, 12⟩
def ISL_CORE_ID_SPARE (i : Nat) (c : Nat) (k : Nat) : RF := ⟨ISL_CORE_ID i c k, 24, 1⟩
def ISL_CORE_ID_RUNTIME_CW (i : Nat) (c : Nat) (k : Nat) : RF := ⟨ISL_CORE_ID i c k, 25, 1⟩

/-- ISL_CORE_STATE, 04. -/
def ISL_CORE_STATE (i : Nat) (c : Nat) (k : Nat) : Reg := ⟨0x1008004 + 0x100000 * i + 0x10000 * c + 0x400 * k, 0x0⟩
def ISL_CORE_STATE_ACTIVE_SLOT (i : Nat) (c : Nat) (k : Nat) : RF := ⟨ISL_CORE_STATE i c k, 0, 2⟩
def ISL_CORE_STATE_SLOT_STATE (i : Nat) (c : Nat) (k : Nat) : RF := ⟨ISL_CORE_STATE i c k, 2, 8⟩
def ISL_CORE_STATE_PC (i : Nat) (c : Nat) (k : Nat) : RF := ⟨ISL_CORE_STATE i c k, 10, 10⟩
def ISL_CORE_STATE_FENCED (i : Nat) (c : Nat) (k : Nat) : RF := ⟨ISL_CORE_STATE i c k, 20, 1⟩
def ISL_CORE_STATE_DBG_HALTED (i : Nat) (c : Nat) (k : Nat) : RF := ⟨ISL_CORE_STATE i c k, 21, 1⟩
def ISL_CORE_STATE_AT_GATE (i : Nat) (c : Nat) (k : Nat) : RF := ⟨ISL_CORE_STATE i c k, 22, 1⟩

/-- ISL_CORE_DBG, 04. -/
def ISL_CORE_DBG (i : Nat) (c : Nat) (k : Nat) : Reg := ⟨0x1008008 + 0x100000 * i + 0x10000 * c + 0x400 * k, 0x0⟩
def ISL_CORE_DBG_HALT_REQ (i : Nat) (c : Nat) (k : Nat) : RF := ⟨ISL_CORE_DBG i c k, 0, 1⟩
def ISL_CORE_DBG_STEP (i : Nat) (c : Nat) (k : Nat) : RF := ⟨ISL_CORE_DBG i c k, 1, 1⟩
def ISL_CORE_DBG_BKPT_EN (i : Nat) (c : Nat) (k : Nat) : RF := ⟨ISL_CORE_DBG i c k, 2, 1⟩

/-- ISL_CORE_STALL, 04. -/
def ISL_CORE_STALL (i : Nat) (c : Nat) (k : Nat) (n : Nat) : Reg := ⟨0x1008010 + 0x100000 * i + 0x10000 * c + 0x400 * k + 0x4 * n, 0x0⟩
def ISL_CORE_STALL_CYCLES (i : Nat) (c : Nat) (k : Nat) (n : Nat) : RF := ⟨ISL_CORE_STALL i c k n, 0, 32⟩

/-- ISL_CORE_EVT, 04. -/
def ISL_CORE_EVT (i : Nat) (c : Nat) (k : Nat) : Reg := ⟨0x1008040 + 0x100000 * i + 0x10000 * c + 0x400 * k, 0x0⟩
def ISL_CORE_EVT_WCLOSED (i : Nat) (c : Nat) (k : Nat) : RF := ⟨ISL_CORE_EVT i c k, 0, 1⟩
def ISL_CORE_EVT_ADDR_OOR (i : Nat) (c : Nat) (k : Nat) : RF := ⟨ISL_CORE_EVT i c k, 1, 1⟩
def ISL_CORE_EVT_POISON_IN (i : Nat) (c : Nat) (k : Nat) : RF := ⟨ISL_CORE_EVT i c k, 2, 1⟩
def ISL_CORE_EVT_CHK_RECOMP (i : Nat) (c : Nat) (k : Nat) : RF := ⟨ISL_CORE_EVT i c k, 3, 1⟩
def ISL_CORE_EVT_POISON_CTL (i : Nat) (c : Nat) (k : Nat) : RF := ⟨ISL_CORE_EVT i c k, 4, 1⟩

/-- ISL_CORE_CHK, 05. -/
def ISL_CORE_CHK (i : Nat) (c : Nat) (k : Nat) : Reg := ⟨0x1008050 + 0x100000 * i + 0x10000 * c + 0x400 * k, 0x0⟩
def ISL_CORE_CHK_RECOMP_CNT (i : Nat) (c : Nat) (k : Nat) : RF := ⟨ISL_CORE_CHK i c k, 0, 16⟩
def ISL_CORE_CHK_ROW_MIS (i : Nat) (c : Nat) (k : Nat) : RF := ⟨ISL_CORE_CHK i c k, 16, 1⟩
def ISL_CORE_CHK_COL_MIS (i : Nat) (c : Nat) (k : Nat) : RF := ⟨ISL_CORE_CHK i c k, 17, 1⟩
def ISL_CORE_CHK_DUP_MIS (i : Nat) (c : Nat) (k : Nat) : RF := ⟨ISL_CORE_CHK i c k, 18, 1⟩
def ISL_CORE_CHK_ARRAY (i : Nat) (c : Nat) (k : Nat) : RF := ⟨ISL_CORE_CHK i c k, 19, 2⟩
def ISL_CORE_CHK_PERSIST (i : Nat) (c : Nat) (k : Nat) : RF := ⟨ISL_CORE_CHK i c k, 21, 1⟩

/-- ISL_CORE_VEC, 06. -/
def ISL_CORE_VEC (i : Nat) (c : Nat) (k : Nat) : Reg := ⟨0x1008060 + 0x100000 * i + 0x10000 * c + 0x400 * k, 0x0⟩
def ISL_CORE_VEC_FLUSH_CNT (i : Nat) (c : Nat) (k : Nat) : RF := ⟨ISL_CORE_VEC i c k, 0, 16⟩
def ISL_CORE_VEC_NAN_CNT (i : Nat) (c : Nat) (k : Nat) : RF := ⟨ISL_CORE_VEC i c k, 16, 16⟩

/-- ISL_CORE_TS, 07. -/
def ISL_CORE_TS (i : Nat) (c : Nat) (k : Nat) : Reg := ⟨0x1008070 + 0x100000 * i + 0x10000 * c + 0x400 * k, 0x0⟩
def ISL_CORE_TS_CACHE_UNITS (i : Nat) (c : Nat) (k : Nat) : RF := ⟨ISL_CORE_TS i c k, 0, 3⟩
def ISL_CORE_TS_WMODE (i : Nat) (c : Nat) (k : Nat) : RF := ⟨ISL_CORE_TS i c k, 3, 1⟩
def ISL_CORE_TS_JOB (i : Nat) (c : Nat) (k : Nat) : RF := ⟨ISL_CORE_TS i c k, 4, 1⟩
def ISL_CORE_TS_TEST (i : Nat) (c : Nat) (k : Nat) : RF := ⟨ISL_CORE_TS i c k, 5, 1⟩
def ISL_CORE_TS_SCRUB (i : Nat) (c : Nat) (k : Nat) : RF := ⟨ISL_CORE_TS i c k, 6, 1⟩

/-- ISL_CORE_RING, 07. -/
def ISL_CORE_RING (i : Nat) (c : Nat) (k : Nat) (n : Nat) : Reg := ⟨0x1008080 + 0x100000 * i + 0x10000 * c + 0x400 * k + 0x4 * n, 0x0⟩
def ISL_CORE_RING_HEAD (i : Nat) (c : Nat) (k : Nat) (n : Nat) : RF := ⟨ISL_CORE_RING i c k n, 0, 3⟩
def ISL_CORE_RING_TAIL (i : Nat) (c : Nat) (k : Nat) (n : Nat) : RF := ⟨ISL_CORE_RING i c k n, 3, 3⟩
def ISL_CORE_RING_FULL (i : Nat) (c : Nat) (k : Nat) (n : Nat) : RF := ⟨ISL_CORE_RING i c k n, 6, 8⟩
def ISL_CORE_RING_SLOTS (i : Nat) (c : Nat) (k : Nat) (n : Nat) : RF := ⟨ISL_CORE_RING i c k n, 14, 4⟩
def ISL_CORE_RING_PRODUCER (i : Nat) (c : Nat) (k : Nat) (n : Nat) : RF := ⟨ISL_CORE_RING i c k n, 18, 3⟩

/-- ISL_CORE_WIN, 07. -/
def ISL_CORE_WIN (i : Nat) (c : Nat) (k : Nat) : Reg := ⟨0x10080C0 + 0x100000 * i + 0x10000 * c + 0x400 * k, 0x0⟩
def ISL_CORE_WIN_WDROP_CNT (i : Nat) (c : Nat) (k : Nat) : RF := ⟨ISL_CORE_WIN i c k, 0, 16⟩
def ISL_CORE_WIN_CDROP_CNT (i : Nat) (c : Nat) (k : Nat) : RF := ⟨ISL_CORE_WIN i c k, 16, 16⟩

/-- ISL_CORE_WCRED, 07. -/
def ISL_CORE_WCRED (i : Nat) (c : Nat) (k : Nat) (n : Nat) : Reg := ⟨0x10080D0 + 0x100000 * i + 0x10000 * c + 0x400 * k + 0x8 * n, 0x0⟩
def ISL_CORE_WCRED_BASE (i : Nat) (c : Nat) (k : Nat) (n : Nat) : RF := ⟨ISL_CORE_WCRED i c k n, 0, 15⟩
def ISL_CORE_WCRED_LEN (i : Nat) (c : Nat) (k : Nat) (n : Nat) : RF := ⟨ISL_CORE_WCRED i c k n, 15, 15⟩
def ISL_CORE_WCRED_VALID (i : Nat) (c : Nat) (k : Nat) (n : Nat) : RF := ⟨ISL_CORE_WCRED i c k n, 30, 1⟩

/-- ISL_CORE_WKEY, 07. -/
def ISL_CORE_WKEY (i : Nat) (c : Nat) (k : Nat) (n : Nat) : Reg := ⟨0x10080D4 + 0x100000 * i + 0x10000 * c + 0x400 * k + 0x8 * n, 0x0⟩
def ISL_CORE_WKEY_SENDER (i : Nat) (c : Nat) (k : Nat) (n : Nat) : RF := ⟨ISL_CORE_WKEY i c k n, 0, 12⟩
def ISL_CORE_WKEY_GRANT_LEN (i : Nat) (c : Nat) (k : Nat) (n : Nat) : RF := ⟨ISL_CORE_WKEY i c k n, 12, 15⟩

/-- ISL_CORE_FIFO, 07. -/
def ISL_CORE_FIFO (i : Nat) (c : Nat) (k : Nat) (p : Nat) : Reg := ⟨0x1008100 + 0x100000 * i + 0x10000 * c + 0x400 * k + 0x8 * p, 0x0⟩
def ISL_CORE_FIFO_FILL_BANK (i : Nat) (c : Nat) (k : Nat) (p : Nat) : RF := ⟨ISL_CORE_FIFO i c k p, 0, 1⟩
def ISL_CORE_FIFO_FULL (i : Nat) (c : Nat) (k : Nat) (p : Nat) : RF := ⟨ISL_CORE_FIFO i c k p, 1, 1⟩
def ISL_CORE_FIFO_OVERRUN (i : Nat) (c : Nat) (k : Nat) (p : Nat) : RF := ⟨ISL_CORE_FIFO i c k p, 2, 1⟩
def ISL_CORE_FIFO_BAD_SEEN (i : Nat) (c : Nat) (k : Nat) (p : Nat) : RF := ⟨ISL_CORE_FIFO i c k p, 3, 1⟩
def ISL_CORE_FIFO_VIS_PKTS (i : Nat) (c : Nat) (k : Nat) (p : Nat) : RF := ⟨ISL_CORE_FIFO i c k p, 4, 8⟩
def ISL_CORE_FIFO_BAD_PKT_CNT (i : Nat) (c : Nat) (k : Nat) (p : Nat) : RF := ⟨ISL_CORE_FIFO i c k p, 12, 10⟩
def ISL_CORE_FIFO_PARITY_CNT (i : Nat) (c : Nat) (k : Nat) (p : Nat) : RF := ⟨ISL_CORE_FIFO i c k p, 22, 10⟩

/-- ISL_CORE_FIFO_TW, 07. -/
def ISL_CORE_FIFO_TW (i : Nat) (c : Nat) (k : Nat) (p : Nat) : Reg := ⟨0x1008104 + 0x100000 * i + 0x10000 * c + 0x400 * k + 0x8 * p, 0x0⟩
def ISL_CORE_FIFO_TW_WORD (i : Nat) (c : Nat) (k : Nat) (p : Nat) : RF := ⟨ISL_CORE_FIFO_TW i c k p, 0, 32⟩

/-- ISL_CORE_CHIT, 07. -/
def ISL_CORE_CHIT (i : Nat) (c : Nat) (k : Nat) : Reg := ⟨0x1008120 + 0x100000 * i + 0x10000 * c + 0x400 * k, 0x0⟩
def ISL_CORE_CHIT_COUNT (i : Nat) (c : Nat) (k : Nat) : RF := ⟨ISL_CORE_CHIT i c k, 0, 32⟩

/-- ISL_CORE_CMISS, 07. -/
def ISL_CORE_CMISS (i : Nat) (c : Nat) (k : Nat) : Reg := ⟨0x1008124 + 0x100000 * i + 0x10000 * c + 0x400 * k, 0x0⟩
def ISL_CORE_CMISS_COUNT (i : Nat) (c : Nat) (k : Nat) : RF := ⟨ISL_CORE_CMISS i c k, 0, 32⟩

/-- ISL_CORE_LADLE, 08. -/
def ISL_CORE_LADLE (i : Nat) (c : Nat) (k : Nat) : Reg := ⟨0x1008140 + 0x100000 * i + 0x10000 * c + 0x400 * k, 0x0⟩
def ISL_CORE_LADLE_QUEUED (i : Nat) (c : Nat) (k : Nat) : RF := ⟨ISL_CORE_LADLE i c k, 0, 2⟩
def ISL_CORE_LADLE_SHAPE_FAULT (i : Nat) (c : Nat) (k : Nat) : RF := ⟨ISL_CORE_LADLE i c k, 2, 1⟩
def ISL_CORE_LADLE_HDR_MIS (i : Nat) (c : Nat) (k : Nat) : RF := ⟨ISL_CORE_LADLE i c k, 3, 1⟩
def ISL_CORE_LADLE_WALK (i : Nat) (c : Nat) (k : Nat) : RF := ⟨ISL_CORE_LADLE i c k, 4, 2⟩

/-- ISL_CORE_LPOS, 08. -/
def ISL_CORE_LPOS (i : Nat) (c : Nat) (k : Nat) : Reg := ⟨0x1008144 + 0x100000 * i + 0x10000 * c + 0x400 * k, 0x0⟩
def ISL_CORE_LPOS_K_IDX (i : Nat) (c : Nat) (k : Nat) : RF := ⟨ISL_CORE_LPOS i c k, 0, 9⟩
def ISL_CORE_LPOS_N_IDX (i : Nat) (c : Nat) (k : Nat) : RF := ⟨ISL_CORE_LPOS i c k, 9, 9⟩
def ISL_CORE_LPOS_S_IDX (i : Nat) (c : Nat) (k : Nat) : RF := ⟨ISL_CORE_LPOS i c k, 18, 7⟩

/-- ISL_CORE_LSTEP, 08. -/
def ISL_CORE_LSTEP (i : Nat) (c : Nat) (k : Nat) : Reg := ⟨0x1008148 + 0x100000 * i + 0x10000 * c + 0x400 * k, 0x0⟩
def ISL_CORE_LSTEP_STEPS (i : Nat) (c : Nat) (k : Nat) : RF := ⟨ISL_CORE_LSTEP i c k, 0, 32⟩

/-- ISL_CORE_LDROP, 08. -/
def ISL_CORE_LDROP (i : Nat) (c : Nat) (k : Nat) : Reg := ⟨0x100814C + 0x100000 * i + 0x10000 * c + 0x400 * k, 0x0⟩
def ISL_CORE_LDROP_DROP_CNT (i : Nat) (c : Nat) (k : Nat) : RF := ⟨ISL_CORE_LDROP i c k, 0, 16⟩
def ISL_CORE_LDROP_HAZ_CNT (i : Nat) (c : Nat) (k : Nat) : RF := ⟨ISL_CORE_LDROP i c k, 16, 16⟩

/-- ISL_CORE_SKIP, 09. -/
def ISL_CORE_SKIP (i : Nat) (c : Nat) (k : Nat) : Reg := ⟨0x1008150 + 0x100000 * i + 0x10000 * c + 0x400 * k, 0x0⟩
def ISL_CORE_SKIP_ASKIP_CNT (i : Nat) (c : Nat) (k : Nat) : RF := ⟨ISL_CORE_SKIP i c k, 0, 16⟩
def ISL_CORE_SKIP_BSKIP_CNT (i : Nat) (c : Nat) (k : Nat) : RF := ⟨ISL_CORE_SKIP i c k, 16, 16⟩

/-- ISL_CORE_RSEL, 09. -/
def ISL_CORE_RSEL (i : Nat) (c : Nat) (k : Nat) : Reg := ⟨0x1008154 + 0x100000 * i + 0x10000 * c + 0x400 * k, 0x0⟩
def ISL_CORE_RSEL_NULL_CNT (i : Nat) (c : Nat) (k : Nat) : RF := ⟨ISL_CORE_RSEL i c k, 0, 16⟩
def ISL_CORE_RSEL_OOR_CNT (i : Nat) (c : Nat) (k : Nat) : RF := ⟨ISL_CORE_RSEL i c k, 16, 16⟩

/-- ISL_CORE_PWD, 10. -/
def ISL_CORE_PWD (i : Nat) (c : Nat) (k : Nat) : Reg := ⟨0x1008160 + 0x100000 * i + 0x10000 * c + 0x400 * k, 0x0⟩
def ISL_CORE_PWD_STARVED (i : Nat) (c : Nat) (k : Nat) : RF := ⟨ISL_CORE_PWD i c k, 0, 1⟩
def ISL_CORE_PWD_RING (i : Nat) (c : Nat) (k : Nat) : RF := ⟨ISL_CORE_PWD i c k, 1, 4⟩
def ISL_CORE_PWD_EPISODES (i : Nat) (c : Nat) (k : Nat) : RF := ⟨ISL_CORE_PWD i c k, 16, 16⟩

/-- HBR_CLAMP, 18. -/
def HBR_CLAMP (h : Nat) : Reg := ⟨0x2000000 + 0x100000 * h, 0x0⟩
def HBR_CLAMP_COUNT (h : Nat) : RF := ⟨HBR_CLAMP h, 0, 32⟩

/-- HBR_CLAMP_LAST, 18. -/
def HBR_CLAMP_LAST (h : Nat) : Reg := ⟨0x2000004 + 0x100000 * h, 0x0⟩
def HBR_CLAMP_LAST_ADDR (h : Nat) : RF := ⟨HBR_CLAMP_LAST h, 0, 28⟩
def HBR_CLAMP_LAST_BAR2 (h : Nat) : RF := ⟨HBR_CLAMP_LAST h, 28, 1⟩

/-- HBR_CAP_NEAR, 10. -/
def HBR_CAP_NEAR (h : Nat) : Reg := ⟨0x2000010 + 0x100000 * h, 0x0⟩
def HBR_CAP_NEAR_FREE (h : Nat) : RF := ⟨HBR_CAP_NEAR h, 0, 28⟩

/-- HBR_CAP_MID, 10. -/
def HBR_CAP_MID (h : Nat) : Reg := ⟨0x2000014 + 0x100000 * h, 0x0⟩
def HBR_CAP_MID_FREE (h : Nat) : RF := ⟨HBR_CAP_MID h, 0, 28⟩

/-- HBR_CAP_FAR, 10. -/
def HBR_CAP_FAR (h : Nat) : Reg := ⟨0x2000018 + 0x100000 * h, 0x0⟩
def HBR_CAP_FAR_FREE (h : Nat) : RF := ⟨HBR_CAP_FAR h, 0, 28⟩

/-- HBR_ARB_CTRL, 10. -/
def HBR_ARB_CTRL (h : Nat) : Reg := ⟨0x2001000 + 0x100000 * h, 0x140A0960⟩
def HBR_ARB_CTRL_XFER_TTE (h : Nat) : RF := ⟨HBR_ARB_CTRL h, 0, 16⟩
def HBR_ARB_CTRL_BG_MAX (h : Nat) : RF := ⟨HBR_ARB_CTRL h, 16, 8⟩
def HBR_ARB_CTRL_BG_SHARE (h : Nat) : RF := ⟨HBR_ARB_CTRL h, 24, 4⟩
def HBR_ARB_CTRL_FERRY_R_SHARE (h : Nat) : RF := ⟨HBR_ARB_CTRL h, 28, 4⟩

/-- HBR_ARB_STARVE, 10. -/
def HBR_ARB_STARVE (h : Nat) : Reg := ⟨0x2001004 + 0x100000 * h, 0x0⟩
def HBR_ARB_STARVE_STREAM (h : Nat) : RF := ⟨HBR_ARB_STARVE h, 0, 8⟩
def HBR_ARB_STARVE_AGE_MAX (h : Nat) : RF := ⟨HBR_ARB_STARVE h, 8, 24⟩

/-- HBR_MIG_CTRL, 10. -/
def HBR_MIG_CTRL (h : Nat) : Reg := ⟨0x2002000 + 0x100000 * h, 0x5404201⟩
def HBR_MIG_CTRL_EN (h : Nat) : RF := ⟨HBR_MIG_CTRL h, 0, 1⟩
def HBR_MIG_CTRL_PROMOTE (h : Nat) : RF := ⟨HBR_MIG_CTRL h, 4, 8⟩
def HBR_MIG_CTRL_DEMOTE (h : Nat) : RF := ⟨HBR_MIG_CTRL h, 12, 8⟩
def HBR_MIG_CTRL_EPOCH_LOG2 (h : Nat) : RF := ⟨HBR_MIG_CTRL h, 20, 5⟩
def HBR_MIG_CTRL_MIG_SHARE (h : Nat) : RF := ⟨HBR_MIG_CTRL h, 25, 4⟩

/-- HBR_MIG_CNT, 10. -/
def HBR_MIG_CNT (h : Nat) : Reg := ⟨0x2002004 + 0x100000 * h, 0x0⟩
def HBR_MIG_CNT_PROMOTED (h : Nat) : RF := ⟨HBR_MIG_CNT h, 0, 16⟩
def HBR_MIG_CNT_DEMOTED (h : Nat) : RF := ⟨HBR_MIG_CNT h, 16, 16⟩

/-- HBR_MIG_ABORT, 10. -/
def HBR_MIG_ABORT (h : Nat) : Reg := ⟨0x2002008 + 0x100000 * h, 0x0⟩
def HBR_MIG_ABORT_RESTART_CNT (h : Nat) : RF := ⟨HBR_MIG_ABORT h, 0, 16⟩
def HBR_MIG_ABORT_ABORT_CNT (h : Nat) : RF := ⟨HBR_MIG_ABORT h, 16, 16⟩

/-- HBR_NEAR_ERR, 10. -/
def HBR_NEAR_ERR (h : Nat) : Reg := ⟨0x2003000 + 0x100000 * h, 0x0⟩
def HBR_NEAR_ERR_CE_CNT (h : Nat) : RF := ⟨HBR_NEAR_ERR h, 0, 16⟩
def HBR_NEAR_ERR_UE_CNT (h : Nat) : RF := ⟨HBR_NEAR_ERR h, 16, 16⟩

/-- HBR_NEAR_RETIRED, 10. -/
def HBR_NEAR_RETIRED (h : Nat) : Reg := ⟨0x2003004 + 0x100000 * h, 0x0⟩
def HBR_NEAR_RETIRED_FRAMES (h : Nat) : RF := ⟨HBR_NEAR_RETIRED h, 0, 22⟩

/-- HBR_MID_ERR, 10. -/
def HBR_MID_ERR (h : Nat) (n : Nat) : Reg := ⟨0x2003010 + 0x100000 * h + 0x4 * n, 0x0⟩
def HBR_MID_ERR_CRC_CNT (h : Nat) (n : Nat) : RF := ⟨HBR_MID_ERR h n, 0, 12⟩
def HBR_MID_ERR_POISON_CNT (h : Nat) (n : Nat) : RF := ⟨HBR_MID_ERR h n, 12, 12⟩
def HBR_MID_ERR_LINK_DOWN (h : Nat) (n : Nat) : RF := ⟨HBR_MID_ERR h n, 24, 1⟩

/-- HBR_FAR_ERR, 10. -/
def HBR_FAR_ERR (h : Nat) : Reg := ⟨0x2003020 + 0x100000 * h, 0x0⟩
def HBR_FAR_ERR_RETRY_CNT (h : Nat) : RF := ⟨HBR_FAR_ERR h, 0, 16⟩
def HBR_FAR_ERR_UE_CNT (h : Nat) : RF := ⟨HBR_FAR_ERR h, 16, 16⟩

/-- HBR_INFL_ERR, 10. -/
def HBR_INFL_ERR (h : Nat) : Reg := ⟨0x2003030 + 0x100000 * h, 0x0⟩
def HBR_INFL_ERR_CRC_FAIL (h : Nat) : RF := ⟨HBR_INFL_ERR h, 0, 16⟩
def HBR_INFL_ERR_DECODE_FAIL (h : Nat) : RF := ⟨HBR_INFL_ERR h, 16, 16⟩

/-- HBR_FTL_CTRL, 10. -/
def HBR_FTL_CTRL (h : Nat) : Reg := ⟨0x2004000 + 0x100000 * h, 0xC1F4003D⟩
def HBR_FTL_CTRL_RD_LIMIT (h : Nat) : RF := ⟨HBR_FTL_CTRL h, 0, 8⟩
def HBR_FTL_CTRL_WL_DELTA (h : Nat) : RF := ⟨HBR_FTL_CTRL h, 16, 12⟩
def HBR_FTL_CTRL_ECC_REFRESH (h : Nat) : RF := ⟨HBR_FTL_CTRL h, 28, 4⟩

/-- HBR_FTL_STATUS, 10. -/
def HBR_FTL_STATUS (h : Nat) : Reg := ⟨0x2004004 + 0x100000 * h, 0x0⟩
def HBR_FTL_STATUS_MOUNTED (h : Nat) : RF := ⟨HBR_FTL_STATUS h, 0, 1⟩
def HBR_FTL_STATUS_READ_ONLY (h : Nat) : RF := ⟨HBR_FTL_STATUS h, 1, 1⟩
def HBR_FTL_STATUS_MOUNT_MS (h : Nat) : RF := ⟨HBR_FTL_STATUS h, 2, 16⟩

/-- HBR_FTL_CNT, 10. -/
def HBR_FTL_CNT (h : Nat) : Reg := ⟨0x2004008 + 0x100000 * h, 0x0⟩
def HBR_FTL_CNT_REFRESH_CNT (h : Nat) : RF := ⟨HBR_FTL_CNT h, 0, 16⟩
def HBR_FTL_CNT_RETIRED_BLK (h : Nat) : RF := ⟨HBR_FTL_CNT h, 16, 16⟩

/-- HBR_FTL_WEAR, 10. -/
def HBR_FTL_WEAR (h : Nat) : Reg := ⟨0x200400C + 0x100000 * h, 0x0⟩
def HBR_FTL_WEAR_ERASE_MIN (h : Nat) : RF := ⟨HBR_FTL_WEAR h, 0, 16⟩
def HBR_FTL_WEAR_ERASE_MAX (h : Nat) : RF := ⟨HBR_FTL_WEAR h, 16, 16⟩

/-- HBR_FERRY_CTRL, 09. -/
def HBR_FERRY_CTRL (h : Nat) : Reg := ⟨0x2060000 + 0x100000 * h, 0x461⟩
def HBR_FERRY_CTRL_EN (h : Nat) : RF := ⟨HBR_FERRY_CTRL h, 0, 1⟩
def HBR_FERRY_CTRL_HALF_LIFE_LOG2 (h : Nat) : RF := ⟨HBR_FERRY_CTRL h, 4, 4⟩
def HBR_FERRY_CTRL_MAX_INFLIGHT (h : Nat) : RF := ⟨HBR_FERRY_CTRL h, 8, 4⟩

/-- HBR_FERRY_CACHE_BASE, 09. -/
def HBR_FERRY_CACHE_BASE (h : Nat) : Reg := ⟨0x2060004 + 0x100000 * h, 0x0⟩
def HBR_FERRY_CACHE_BASE_BASE_PAGE (h : Nat) : RF := ⟨HBR_FERRY_CACHE_BASE h, 0, 22⟩

/-- HBR_FERRY_CACHE_PAGES, 09. -/
def HBR_FERRY_CACHE_PAGES (h : Nat) : Reg := ⟨0x2060008 + 0x100000 * h, 0x0⟩
def HBR_FERRY_CACHE_PAGES_PAGES (h : Nat) : RF := ⟨HBR_FERRY_CACHE_PAGES h, 0, 21⟩

/-- HBR_FERRY_STATUS, 09. -/
def HBR_FERRY_STATUS (h : Nat) : Reg := ⟨0x206000C + 0x100000 * h, 0x0⟩
def HBR_FERRY_STATUS_ACTIVE (h : Nat) : RF := ⟨HBR_FERRY_STATUS h, 0, 1⟩
def HBR_FERRY_STATUS_INFLIGHT (h : Nat) : RF := ⟨HBR_FERRY_STATUS h, 1, 4⟩
def HBR_FERRY_STATUS_CACHED (h : Nat) : RF := ⟨HBR_FERRY_STATUS h, 16, 16⟩

/-- HBR_FERRY_HIT, 09. -/
def HBR_FERRY_HIT (h : Nat) : Reg := ⟨0x2060010 + 0x100000 * h, 0x0⟩
def HBR_FERRY_HIT_COUNT (h : Nat) : RF := ⟨HBR_FERRY_HIT h, 0, 32⟩

/-- HBR_FERRY_MISS, 09. -/
def HBR_FERRY_MISS (h : Nat) : Reg := ⟨0x2060014 + 0x100000 * h, 0x0⟩
def HBR_FERRY_MISS_COUNT (h : Nat) : RF := ⟨HBR_FERRY_MISS h, 0, 32⟩

/-- HBR_FERRY_BYPASS, 09. -/
def HBR_FERRY_BYPASS (h : Nat) : Reg := ⟨0x2060018 + 0x100000 * h, 0x0⟩
def HBR_FERRY_BYPASS_COUNT (h : Nat) : RF := ⟨HBR_FERRY_BYPASS h, 0, 32⟩

/-- HBR_FERRY_FAIL, 09. -/
def HBR_FERRY_FAIL (h : Nat) : Reg := ⟨0x206001C + 0x100000 * h, 0x0⟩
def HBR_FERRY_FAIL_COUNT (h : Nat) : RF := ⟨HBR_FERRY_FAIL h, 0, 32⟩

/-- HBR_OBJ_CMD, 10. -/
def HBR_OBJ_CMD (h : Nat) : Reg := ⟨0x2070000 + 0x100000 * h, 0x0⟩
def HBR_OBJ_CMD_OP (h : Nat) : RF := ⟨HBR_OBJ_CMD h, 0, 3⟩

/-- HBR_OBJ_ARG, 10. -/
def HBR_OBJ_ARG (h : Nat) (n : Nat) : Reg := ⟨0x2070004 + 0x100000 * h + 0x4 * n, 0x0⟩
def HBR_OBJ_ARG_ARG (h : Nat) (n : Nat) : RF := ⟨HBR_OBJ_ARG h n, 0, 32⟩

/-- HBR_OBJ_STATUS, 10. -/
def HBR_OBJ_STATUS (h : Nat) : Reg := ⟨0x2070010 + 0x100000 * h, 0x0⟩
def HBR_OBJ_STATUS_BUSY (h : Nat) : RF := ⟨HBR_OBJ_STATUS h, 0, 1⟩
def HBR_OBJ_STATUS_CODE (h : Nat) : RF := ⟨HBR_OBJ_STATUS h, 8, 8⟩
def HBR_OBJ_STATUS_WDROP_CNT (h : Nat) : RF := ⟨HBR_OBJ_STATUS h, 16, 16⟩

/-- OPT_CLAMP, 18. -/
def OPT_CLAMP (o : Nat) : Reg := ⟨0x2400000 + 0x100000 * o, 0x0⟩
def OPT_CLAMP_COUNT (o : Nat) : RF := ⟨OPT_CLAMP o, 0, 32⟩

/-- OPT_CLAMP_LAST, 18. -/
def OPT_CLAMP_LAST (o : Nat) : Reg := ⟨0x2400004 + 0x100000 * o, 0x0⟩
def OPT_CLAMP_LAST_ADDR (o : Nat) : RF := ⟨OPT_CLAMP_LAST o, 0, 28⟩
def OPT_CLAMP_LAST_BAR2 (o : Nat) : RF := ⟨OPT_CLAMP_LAST o, 28, 1⟩

/-- OPT_LANE, 13. -/
def OPT_LANE (o : Nat) (l : Nat) : Reg := ⟨0x2400100 + 0x100000 * o + 0x4 * l, 0x0⟩
def OPT_LANE_SIGNAL (o : Nat) (l : Nat) : RF := ⟨OPT_LANE o l, 0, 1⟩
def OPT_LANE_LOCK (o : Nat) (l : Nat) : RF := ⟨OPT_LANE o l, 1, 1⟩
def OPT_LANE_UNCORR_CNT (o : Nat) (l : Nat) : RF := ⟨OPT_LANE o l, 2, 14⟩
def OPT_LANE_CORR_CNT (o : Nat) (l : Nat) : RF := ⟨OPT_LANE o l, 16, 16⟩

/-- OPT_REFL_CMD, 13. -/
def OPT_REFL_CMD (o : Nat) : Reg := ⟨0x2401000 + 0x100000 * o, 0x0⟩
def OPT_REFL_CMD_LANE (o : Nat) : RF := ⟨OPT_REFL_CMD o, 0, 4⟩
def OPT_REFL_CMD_START (o : Nat) : RF := ⟨OPT_REFL_CMD o, 4, 1⟩
def OPT_REFL_CMD_FORCE (o : Nat) : RF := ⟨OPT_REFL_CMD o, 5, 1⟩

/-- OPT_REFL_STATUS, 13. -/
def OPT_REFL_STATUS (o : Nat) : Reg := ⟨0x2401004 + 0x100000 * o, 0x0⟩
def OPT_REFL_STATUS_BUSY (o : Nat) : RF := ⟨OPT_REFL_STATUS o, 0, 1⟩
def OPT_REFL_STATUS_DIRTY (o : Nat) : RF := ⟨OPT_REFL_STATUS o, 1, 1⟩
def OPT_REFL_STATUS_EVENTS (o : Nat) : RF := ⟨OPT_REFL_STATUS o, 2, 4⟩
def OPT_REFL_STATUS_REFUSED (o : Nat) : RF := ⟨OPT_REFL_STATUS o, 6, 1⟩

/-- OPT_REFL_CTRL, 13. -/
def OPT_REFL_CTRL (o : Nat) : Reg := ⟨0x2401008 + 0x100000 * o, 0xF50⟩
def OPT_REFL_CTRL_CLEAN_REFL (o : Nat) : RF := ⟨OPT_REFL_CTRL o, 0, 8⟩
def OPT_REFL_CTRL_CLEAN_LOSS (o : Nat) : RF := ⟨OPT_REFL_CTRL o, 8, 8⟩

/-- OPT_REFL_EVT, 13. -/
def OPT_REFL_EVT (o : Nat) (n : Nat) : Reg := ⟨0x2401010 + 0x100000 * o + 0x4 * n, 0x0⟩
def OPT_REFL_EVT_DIST_CM (o : Nat) (n : Nat) : RF := ⟨OPT_REFL_EVT o n, 0, 15⟩
def OPT_REFL_EVT_REFL (o : Nat) (n : Nat) : RF := ⟨OPT_REFL_EVT o n, 15, 8⟩
def OPT_REFL_EVT_LOSS (o : Nat) (n : Nat) : RF := ⟨OPT_REFL_EVT o n, 23, 8⟩
def OPT_REFL_EVT_CLEAN (o : Nat) (n : Nat) : RF := ⟨OPT_REFL_EVT o n, 31, 1⟩

/-- RVR_EP_ID, 13. -/
def RVR_EP_ID : Reg := ⟨0x3000000, 0x0⟩
def RVR_EP_ID_ID : RF := ⟨RVR_EP_ID, 0, 16⟩
def RVR_EP_ID_SUPERSEDED : RF := ⟨RVR_EP_ID, 16, 1⟩

/-- RVR_EP_ALIAS, 13. -/
def RVR_EP_ALIAS : Reg := ⟨0x3000004, 0x0⟩
def RVR_EP_ALIAS_ALIAS : RF := ⟨RVR_EP_ALIAS, 0, 16⟩
def RVR_EP_ALIAS_TAKE : RF := ⟨RVR_EP_ALIAS, 16, 1⟩
def RVR_EP_ALIAS_VALID : RF := ⟨RVR_EP_ALIAS, 17, 1⟩

/-- RVR_MODE, 13. -/
def RVR_MODE : Reg := ⟨0x3000008, 0x0⟩
def RVR_MODE_BW : RF := ⟨RVR_MODE, 0, 1⟩

/-- RVR_BOARD_EP, 13. -/
def RVR_BOARD_EP (n : Nat) : Reg := ⟨0x3000010 + 0x4 * n, 0x0⟩
def RVR_BOARD_EP_EP (n : Nat) : RF := ⟨RVR_BOARD_EP n, 0, 16⟩
def RVR_BOARD_EP_V (n : Nat) : RF := ⟨RVR_BOARD_EP n, 16, 1⟩

/-- RVR_PORT_CTRL, 13. -/
def RVR_PORT_CTRL (p : Nat) : Reg := ⟨0x3000100 + 0x20 * p, 0x9⟩
def RVR_PORT_CTRL_EN (p : Nat) : RF := ⟨RVR_PORT_CTRL p, 0, 1⟩
def RVR_PORT_CTRL_FULL_TRAIN (p : Nat) : RF := ⟨RVR_PORT_CTRL p, 1, 1⟩
def RVR_PORT_CTRL_RTIMER_US (p : Nat) : RF := ⟨RVR_PORT_CTRL p, 2, 5⟩
def RVR_PORT_CTRL_CLR_FENCE (p : Nat) : RF := ⟨RVR_PORT_CTRL p, 7, 1⟩
def RVR_PORT_CTRL_MIN_WIDTH (p : Nat) : RF := ⟨RVR_PORT_CTRL p, 8, 2⟩

/-- RVR_PORT_STATUS, 13. -/
def RVR_PORT_STATUS (p : Nat) : Reg := ⟨0x3000104 + 0x20 * p, 0x0⟩
def RVR_PORT_STATUS_STATE (p : Nat) : RF := ⟨RVR_PORT_STATUS p, 0, 3⟩
def RVR_PORT_STATUS_WIDTH (p : Nat) : RF := ⟨RVR_PORT_STATUS p, 3, 2⟩
def RVR_PORT_STATUS_REASON (p : Nat) : RF := ⟨RVR_PORT_STATUS p, 5, 4⟩
def RVR_PORT_STATUS_NBR_EP (p : Nat) : RF := ⟨RVR_PORT_STATUS p, 9, 16⟩
def RVR_PORT_STATUS_NBR_PORT (p : Nat) : RF := ⟨RVR_PORT_STATUS p, 25, 4⟩

/-- RVR_PORT_RTT, 13. -/
def RVR_PORT_RTT (p : Nat) : Reg := ⟨0x3000108 + 0x20 * p, 0x0⟩
def RVR_PORT_RTT_RTT (p : Nat) : RF := ⟨RVR_PORT_RTT p, 0, 16⟩
def RVR_PORT_RTT_TRAIN_MS (p : Nat) : RF := ⟨RVR_PORT_RTT p, 16, 16⟩

/-- RVR_PORT_ERR, 13. -/
def RVR_PORT_ERR (p : Nat) : Reg := ⟨0x300010C + 0x20 * p, 0x0⟩
def RVR_PORT_ERR_CRC_CNT (p : Nat) : RF := ⟨RVR_PORT_ERR p, 0, 16⟩
def RVR_PORT_ERR_NAK_CNT (p : Nat) : RF := ⟨RVR_PORT_ERR p, 16, 16⟩

/-- RVR_PORT_REPLAY, 13. -/
def RVR_PORT_REPLAY (p : Nat) : Reg := ⟨0x3000110 + 0x20 * p, 0x0⟩
def RVR_PORT_REPLAY_TMO_CNT (p : Nat) : RF := ⟨RVR_PORT_REPLAY p, 0, 16⟩
def RVR_PORT_REPLAY_DUP_CNT (p : Nat) : RF := ⟨RVR_PORT_REPLAY p, 16, 16⟩

/-- RVR_PORT_GAP, 13. -/
def RVR_PORT_GAP (p : Nat) : Reg := ⟨0x3000114 + 0x20 * p, 0x0⟩
def RVR_PORT_GAP_GAP_CNT (p : Nat) : RF := ⟨RVR_PORT_GAP p, 0, 16⟩
def RVR_PORT_GAP_RETRAIN_CNT (p : Nat) : RF := ⟨RVR_PORT_GAP p, 16, 16⟩

/-- RVR_EPOCH_CMD, 13. -/
def RVR_EPOCH_CMD : Reg := ⟨0x3001000, 0x0⟩
def RVR_EPOCH_CMD_OP : RF := ⟨RVR_EPOCH_CMD, 0, 3⟩

/-- RVR_EPOCH_STATUS, 13. -/
def RVR_EPOCH_STATUS : Reg := ⟨0x3001004, 0x0⟩
def RVR_EPOCH_STATUS_EPOCH : RF := ⟨RVR_EPOCH_STATUS, 0, 16⟩
def RVR_EPOCH_STATUS_PHASE : RF := ⟨RVR_EPOCH_STATUS, 16, 3⟩
def RVR_EPOCH_STATUS_DRAIN_TMO : RF := ⟨RVR_EPOCH_STATUS, 19, 1⟩

/-- RVR_TOPO_IDX, 13. -/
def RVR_TOPO_IDX : Reg := ⟨0x3001010, 0x10000⟩
def RVR_TOPO_IDX_EP : RF := ⟨RVR_TOPO_IDX, 0, 16⟩
def RVR_TOPO_IDX_BANK : RF := ⟨RVR_TOPO_IDX, 16, 1⟩

/-- RVR_TOPO_CMD, 13. -/
def RVR_TOPO_CMD : Reg := ⟨0x3001014, 0x0⟩
def RVR_TOPO_CMD_OP : RF := ⟨RVR_TOPO_CMD, 0, 2⟩

/-- RVR_TOPO_CTL, 13. -/
def RVR_TOPO_CTL : Reg := ⟨0x3001018, 0x0⟩
def RVR_TOPO_CTL_REDIRECT : RF := ⟨RVR_TOPO_CTL, 0, 16⟩
def RVR_TOPO_CTL_REDIR : RF := ⟨RVR_TOPO_CTL, 16, 1⟩
def RVR_TOPO_CTL_RVALID : RF := ⟨RVR_TOPO_CTL, 17, 4⟩
def RVR_TOPO_CTL_FAILED : RF := ⟨RVR_TOPO_CTL, 21, 4⟩
def RVR_TOPO_CTL_IN_USE : RF := ⟨RVR_TOPO_CTL, 25, 2⟩
def RVR_TOPO_CTL_ANN : RF := ⟨RVR_TOPO_CTL, 27, 1⟩

/-- RVR_TOPO_ROUTE, 13. -/
def RVR_TOPO_ROUTE (n : Nat) : Reg := ⟨0x3001020 + 0x4 * n, 0x0⟩
def RVR_TOPO_ROUTE_ROUTE (n : Nat) : RF := ⟨RVR_TOPO_ROUTE n, 0, 32⟩

/-- RVR_TIME_CTRL, 13. -/
def RVR_TIME_CTRL : Reg := ⟨0x3002000, 0x0⟩
def RVR_TIME_CTRL_ROLE : RF := ⟨RVR_TIME_CTRL, 0, 2⟩
def RVR_TIME_CTRL_PARENT : RF := ⟨RVR_TIME_CTRL, 2, 4⟩

/-- RVR_TIME_STATUS, 13. -/
def RVR_TIME_STATUS : Reg := ⟨0x3002004, 0x0⟩
def RVR_TIME_STATUS_LOCKED : RF := ⟨RVR_TIME_STATUS, 0, 1⟩
def RVR_TIME_STATUS_FAR : RF := ⟨RVR_TIME_STATUS, 1, 1⟩
def RVR_TIME_STATUS_DEEP : RF := ⟨RVR_TIME_STATUS, 2, 1⟩
def RVR_TIME_STATUS_DEPTH : RF := ⟨RVR_TIME_STATUS, 3, 4⟩

/-- RVR_HB_CTRL, 13. -/
def RVR_HB_CTRL : Reg := ⟨0x3003000, 0x30FA⟩
def RVR_HB_CTRL_PERIOD_US : RF := ⟨RVR_HB_CTRL, 0, 10⟩
def RVR_HB_CTRL_MISS : RF := ⟨RVR_HB_CTRL, 10, 6⟩

/-- RVR_HB_TGT, 13. -/
def RVR_HB_TGT (n : Nat) : Reg := ⟨0x3003010 + 0x4 * n, 0x0⟩
def RVR_HB_TGT_EP (n : Nat) : RF := ⟨RVR_HB_TGT n, 0, 16⟩
def RVR_HB_TGT_V (n : Nat) : RF := ⟨RVR_HB_TGT n, 16, 1⟩

/-- RVR_WATCH, 13. -/
def RVR_WATCH (n : Nat) : Reg := ⟨0x3003020 + 0x4 * n, 0x0⟩
def RVR_WATCH_EP (n : Nat) : RF := ⟨RVR_WATCH n, 0, 16⟩
def RVR_WATCH_ARM (n : Nat) : RF := ⟨RVR_WATCH n, 16, 1⟩
def RVR_WATCH_LOST (n : Nat) : RF := ⟨RVR_WATCH n, 17, 1⟩
def RVR_WATCH_TAKEN (n : Nat) : RF := ⟨RVR_WATCH n, 18, 1⟩

/-- RVR_E2E_CTRL, 13. -/
def RVR_E2E_CTRL : Reg := ⟨0x3004000, 0x2710⟩
def RVR_E2E_CTRL_TMO_US : RF := ⟨RVR_E2E_CTRL, 0, 20⟩

/-- RVR_E2E_CNT, 13. -/
def RVR_E2E_CNT : Reg := ⟨0x3004004, 0x0⟩
def RVR_E2E_CNT_RESEND_CNT : RF := ⟨RVR_E2E_CNT, 0, 16⟩
def RVR_E2E_CNT_DUP_CNT : RF := ⟨RVR_E2E_CNT, 16, 16⟩

/-- RVR_LOST, 13. -/
def RVR_LOST : Reg := ⟨0x3004008, 0x0⟩
def RVR_LOST_EP : RF := ⟨RVR_LOST, 0, 16⟩
def RVR_LOST_LOST_CNT : RF := ⟨RVR_LOST, 16, 16⟩

/-- RVR_ROUTE_SW, 13. -/
def RVR_ROUTE_SW : Reg := ⟨0x300400C, 0x0⟩
def RVR_ROUTE_SW_FAIL_SW_CNT : RF := ⟨RVR_ROUTE_SW, 0, 16⟩
def RVR_ROUTE_SW_ABSORB_CNT : RF := ⟨RVR_ROUTE_SW, 16, 16⟩

/-- RVR_CLAMP, 18. -/
def RVR_CLAMP : Reg := ⟨0x3005000, 0x0⟩
def RVR_CLAMP_COUNT : RF := ⟨RVR_CLAMP, 0, 32⟩

/-- RVR_CLAMP_LAST, 18. -/
def RVR_CLAMP_LAST : Reg := ⟨0x3005004, 0x0⟩
def RVR_CLAMP_LAST_ADDR : RF := ⟨RVR_CLAMP_LAST, 0, 28⟩
def RVR_CLAMP_LAST_BAR2 : RF := ⟨RVR_CLAMP_LAST, 28, 1⟩

/-- TEN_VF_CTRL, 14. -/
def TEN_VF_CTRL (t : Nat) : Reg := ⟨0x4000000 + 0x40 * t, 0x10⟩
def TEN_VF_CTRL_EN (t : Nat) : RF := ⟨TEN_VF_CTRL t, 0, 1⟩
def TEN_VF_CTRL_QOS (t : Nat) : RF := ⟨TEN_VF_CTRL t, 1, 3⟩
def TEN_VF_CTRL_MSIX_CNT (t : Nat) : RF := ⟨TEN_VF_CTRL t, 4, 4⟩
def TEN_VF_CTRL_FLR_BUSY (t : Nat) : RF := ⟨TEN_VF_CTRL t, 8, 1⟩

/-- TEN_VF_SEED_LO, 14. -/
def TEN_VF_SEED_LO (t : Nat) : Reg := ⟨0x4000004 + 0x40 * t, 0x0⟩
def TEN_VF_SEED_LO_SEED (t : Nat) : RF := ⟨TEN_VF_SEED_LO t, 0, 32⟩

/-- TEN_VF_SEED_HI, 14. -/
def TEN_VF_SEED_HI (t : Nat) : Reg := ⟨0x4000008 + 0x40 * t, 0x0⟩
def TEN_VF_SEED_HI_SEED (t : Nat) : RF := ⟨TEN_VF_SEED_HI t, 0, 32⟩

/-- TEN_VF_ACCT, 14. -/
def TEN_VF_ACCT (t : Nat) : Reg := ⟨0x400000C + 0x40 * t, 0x0⟩
def TEN_VF_ACCT_LOADING (t : Nat) : RF := ⟨TEN_VF_ACCT t, 0, 8⟩
def TEN_VF_ACCT_RUNNING (t : Nat) : RF := ⟨TEN_VF_ACCT t, 8, 8⟩
def TEN_VF_ACCT_SAVED (t : Nat) : RF := ⟨TEN_VF_ACCT t, 16, 8⟩

/-- TEN_VF_ENDED, 14. -/
def TEN_VF_ENDED (t : Nat) : Reg := ⟨0x4000010 + 0x40 * t, 0x0⟩
def TEN_VF_ENDED_ENDED (t : Nat) : RF := ⟨TEN_VF_ENDED t, 0, 32⟩

/-- TEN_VF_CAUSE, 14. -/
def TEN_VF_CAUSE (t : Nat) : Reg := ⟨0x4000014 + 0x40 * t, 0x0⟩
def TEN_VF_CAUSE_CAUSE (t : Nat) : RF := ⟨TEN_VF_CAUSE t, 0, 9⟩

/-- TEN_VF_MASK, 14. -/
def TEN_VF_MASK (t : Nat) : Reg := ⟨0x4000018 + 0x40 * t, 0x0⟩
def TEN_VF_MASK_MASK (t : Nat) : RF := ⟨TEN_VF_MASK t, 0, 9⟩

/-- TEN_VF_VEC, 14. -/
def TEN_VF_VEC (t : Nat) : Reg := ⟨0x400001C + 0x40 * t, 0x0⟩
def TEN_VF_VEC_VEC (t : Nat) : RF := ⟨TEN_VF_VEC t, 0, 27⟩

/-- TEN_VF_TOKMOD, 14. -/
def TEN_VF_TOKMOD (t : Nat) : Reg := ⟨0x4000020 + 0x40 * t, 0x32⟩
def TEN_VF_TOKMOD_TOK_MOD_US (t : Nat) : RF := ⟨TEN_VF_TOKMOD t, 0, 16⟩

/-- TEN_PF_CAUSE, 14. -/
def TEN_PF_CAUSE : Reg := ⟨0x4040000, 0x0⟩
def TEN_PF_CAUSE_CAUSE : RF := ⟨TEN_PF_CAUSE, 0, 32⟩

/-- TEN_PF_MASK, 14. -/
def TEN_PF_MASK : Reg := ⟨0x4040004, 0x0⟩
def TEN_PF_MASK_MASK : RF := ⟨TEN_PF_MASK, 0, 32⟩

/-- TEN_PF_VEC, 14. -/
def TEN_PF_VEC (n : Nat) : Reg := ⟨0x4040010 + 0x4 * n, 0x0⟩
def TEN_PF_VEC_VEC (n : Nat) : RF := ⟨TEN_PF_VEC n, 0, 30⟩

/-- TEN_PART_CTRL, 14. -/
def TEN_PART_CTRL (p : Nat) : Reg := ⟨0x4100000 + 0x40 * p, 0x0⟩
def TEN_PART_CTRL_STATE (p : Nat) : RF := ⟨TEN_PART_CTRL p, 0, 3⟩
def TEN_PART_CTRL_PF (p : Nat) : RF := ⟨TEN_PART_CTRL p, 3, 1⟩
def TEN_PART_CTRL_OWNER (p : Nat) : RF := ⟨TEN_PART_CTRL p, 4, 12⟩
def TEN_PART_CTRL_FLOOR (p : Nat) : RF := ⟨TEN_PART_CTRL p, 16, 8⟩

/-- TEN_PART_CL, 14. -/
def TEN_PART_CL (p : Nat) (n : Nat) : Reg := ⟨0x4100004 + 0x40 * p + 0x4 * n, 0x0⟩
def TEN_PART_CL_MASK (p : Nat) (n : Nat) : RF := ⟨TEN_PART_CL p n, 0, 32⟩

/-- TEN_PART_FAULT, 14. -/
def TEN_PART_FAULT (p : Nat) : Reg := ⟨0x4100014 + 0x40 * p, 0x0⟩
def TEN_PART_FAULT_CODE (p : Nat) : RF := ⟨TEN_PART_FAULT p, 0, 8⟩
def TEN_PART_FAULT_LCORE (p : Nat) : RF := ⟨TEN_PART_FAULT p, 8, 11⟩
def TEN_PART_FAULT_VALID (p : Nat) : RF := ⟨TEN_PART_FAULT p, 19, 1⟩
def TEN_PART_FAULT_OVERWRITTEN (p : Nat) : RF := ⟨TEN_PART_FAULT p, 20, 1⟩
def TEN_PART_FAULT_COUNT (p : Nat) : RF := ⟨TEN_PART_FAULT p, 21, 11⟩

/-- TEN_PART_FTICK, 14. -/
def TEN_PART_FTICK (p : Nat) : Reg := ⟨0x4100018 + 0x40 * p, 0x0⟩
def TEN_PART_FTICK_TICK (p : Nat) : RF := ⟨TEN_PART_FTICK p, 0, 32⟩

/-- TEN_PART_ABSORB, 14. -/
def TEN_PART_ABSORB (p : Nat) : Reg := ⟨0x410001C + 0x40 * p, 0x0⟩
def TEN_PART_ABSORB_COUNT (p : Nat) : RF := ⟨TEN_PART_ABSORB p, 0, 32⟩

/-- TEN_PART_SLOW, 14. -/
def TEN_PART_SLOW (p : Nat) : Reg := ⟨0x4100020 + 0x40 * p, 0x0⟩
def TEN_PART_SLOW_SLOW_US (p : Nat) : RF := ⟨TEN_PART_SLOW p, 0, 32⟩

/-- TEN_PART_LOSS, 14. -/
def TEN_PART_LOSS (p : Nat) : Reg := ⟨0x4100024 + 0x40 * p, 0x0⟩
def TEN_PART_LOSS_LOSS_CYC (p : Nat) : RF := ⟨TEN_PART_LOSS p, 0, 32⟩

/-- TEN_PART_STATUS, 14. -/
def TEN_PART_STATUS (p : Nat) : Reg := ⟨0x4100028 + 0x40 * p, 0x0⟩
def TEN_PART_STATUS_DRAIN_CUT (p : Nat) : RF := ⟨TEN_PART_STATUS p, 0, 1⟩
def TEN_PART_STATUS_JOB_CODE (p : Nat) : RF := ⟨TEN_PART_STATUS p, 8, 8⟩
def TEN_PART_STATUS_LAST_CODE (p : Nat) : RF := ⟨TEN_PART_STATUS p, 16, 8⟩

/-- TEN_CMD, 14. -/
def TEN_CMD : Reg := ⟨0x4200000, 0x0⟩
def TEN_CMD_OP : RF := ⟨TEN_CMD, 0, 3⟩

/-- TEN_ARG, 14. -/
def TEN_ARG (n : Nat) : Reg := ⟨0x4200004 + 0x4 * n, 0x0⟩
def TEN_ARG_ARG (n : Nat) : RF := ⟨TEN_ARG n, 0, 32⟩

/-- TEN_CMD_STATUS, 14. -/
def TEN_CMD_STATUS : Reg := ⟨0x4200020, 0x0⟩
def TEN_CMD_STATUS_BUSY : RF := ⟨TEN_CMD_STATUS, 0, 1⟩
def TEN_CMD_STATUS_CODE : RF := ⟨TEN_CMD_STATUS, 8, 8⟩

/-- TEN_KEY_IDX, 14. -/
def TEN_KEY_IDX : Reg := ⟨0x4300000, 0x0⟩
def TEN_KEY_IDX_SLOT : RF := ⟨TEN_KEY_IDX, 0, 13⟩

/-- TEN_KEY_CMD, 14. -/
def TEN_KEY_CMD : Reg := ⟨0x4300004, 0x0⟩
def TEN_KEY_CMD_WRITE : RF := ⟨TEN_KEY_CMD, 0, 1⟩

/-- TEN_KEY_DATA, 14. -/
def TEN_KEY_DATA (n : Nat) : Reg := ⟨0x4300010 + 0x4 * n, 0x0⟩
def TEN_KEY_DATA_DATA (n : Nat) : RF := ⟨TEN_KEY_DATA n, 0, 32⟩

/-- TEN_KEY_STATE, 14. -/
def TEN_KEY_STATE : Reg := ⟨0x4300050, 0x0⟩
def TEN_KEY_STATE_SET : RF := ⟨TEN_KEY_STATE, 0, 1⟩

/-- TEN_CTRL, 14. -/
def TEN_CTRL : Reg := ⟨0x4400000, 0x1403E8⟩
def TEN_CTRL_DRAIN_MAX_US : RF := ⟨TEN_CTRL, 0, 16⟩
def TEN_CTRL_WINDOW_US : RF := ⟨TEN_CTRL, 16, 16⟩

/-- TEN_FREE_ABSORB, 14. -/
def TEN_FREE_ABSORB : Reg := ⟨0x4400004, 0x0⟩
def TEN_FREE_ABSORB_COUNT : RF := ⟨TEN_FREE_ABSORB, 0, 32⟩

/-- TEN_CLAMP, 18. -/
def TEN_CLAMP : Reg := ⟨0x4400008, 0x0⟩
def TEN_CLAMP_COUNT : RF := ⟨TEN_CLAMP, 0, 32⟩

/-- TEN_CLAMP_LAST, 18. -/
def TEN_CLAMP_LAST : Reg := ⟨0x440000C, 0x0⟩
def TEN_CLAMP_LAST_ADDR : RF := ⟨TEN_CLAMP_LAST, 0, 28⟩
def TEN_CLAMP_LAST_BAR2 : RF := ⟨TEN_CLAMP_LAST, 28, 1⟩

/-- SRV_STRM_CMD, 12. -/
def SRV_STRM_CMD : Reg := ⟨0x5000000, 0x0⟩
def SRV_STRM_CMD_OP : RF := ⟨SRV_STRM_CMD, 0, 2⟩

/-- SRV_STRM_ARG, 12. -/
def SRV_STRM_ARG (n : Nat) : Reg := ⟨0x5000004 + 0x4 * n, 0x0⟩
def SRV_STRM_ARG_ARG (n : Nat) : RF := ⟨SRV_STRM_ARG n, 0, 32⟩

/-- SRV_STRM_STATUS, 12. -/
def SRV_STRM_STATUS : Reg := ⟨0x5000020, 0x0⟩
def SRV_STRM_STATUS_BUSY : RF := ⟨SRV_STRM_STATUS, 0, 1⟩
def SRV_STRM_STATUS_CODE : RF := ⟨SRV_STRM_STATUS, 8, 8⟩

/-- SRV_BIND0, 12. -/
def SRV_BIND0 (b : Nat) : Reg := ⟨0x5001000 + 0x40 * b, 0x0⟩
def SRV_BIND0_MODEL (b : Nat) : RF := ⟨SRV_BIND0 b, 0, 10⟩
def SRV_BIND0_PART (b : Nat) : RF := ⟨SRV_BIND0 b, 10, 7⟩
def SRV_BIND0_EN (b : Nat) : RF := ⟨SRV_BIND0 b, 17, 1⟩
def SRV_BIND0_FAILOVER (b : Nat) : RF := ⟨SRV_BIND0 b, 18, 1⟩
def SRV_BIND0_PFX_SHARED (b : Nat) : RF := ⟨SRV_BIND0 b, 19, 1⟩
def SRV_BIND0_STANDBY (b : Nat) : RF := ⟨SRV_BIND0 b, 20, 1⟩

/-- SRV_BIND1, 12. -/
def SRV_BIND1 (b : Nat) : Reg := ⟨0x5001004 + 0x40 * b, 0x0⟩
def SRV_BIND1_SLOTS_M1 (b : Nat) : RF := ⟨SRV_BIND1 b, 0, 8⟩
def SRV_BIND1_HOME_BASE (b : Nat) : RF := ⟨SRV_BIND1 b, 8, 8⟩
def SRV_BIND1_HOME_CNT (b : Nat) : RF := ⟨SRV_BIND1 b, 16, 9⟩

/-- SRV_BIND2, 12. -/
def SRV_BIND2 (b : Nat) : Reg := ⟨0x5001008 + 0x40 * b, 0x4001000⟩
def SRV_BIND2_SHARDS_M1 (b : Nat) : RF := ⟨SRV_BIND2 b, 0, 6⟩
def SRV_BIND2_PF_CHUNK (b : Nat) : RF := ⟨SRV_BIND2 b, 6, 8⟩
def SRV_BIND2_PF_STEP (b : Nat) : RF := ⟨SRV_BIND2 b, 14, 16⟩

/-- SRV_BIND3, 12. -/
def SRV_BIND3 (b : Nat) : Reg := ⟨0x500100C + 0x40 * b, 0x0⟩
def SRV_BIND3_FEED_ROUTE (b : Nat) : RF := ⟨SRV_BIND3 b, 0, 12⟩
def SRV_BIND3_BUDDY (b : Nat) : RF := ⟨SRV_BIND3 b, 16, 16⟩

/-- SRV_BIND4, 12. -/
def SRV_BIND4 (b : Nat) : Reg := ⟨0x5001010 + 0x40 * b, 0x0⟩
def SRV_BIND4_BT_OBJ (b : Nat) : RF := ⟨SRV_BIND4 b, 0, 32⟩

/-- SRV_BIND5, 12. -/
def SRV_BIND5 (b : Nat) : Reg := ⟨0x5001014 + 0x40 * b, 0x0⟩
def SRV_BIND5_HIST_OBJ (b : Nat) : RF := ⟨SRV_BIND5 b, 0, 32⟩

/-- SRV_BIND6, 12. -/
def SRV_BIND6 (b : Nat) : Reg := ⟨0x5001018 + 0x40 * b, 0x0⟩
def SRV_BIND6_KV_OBJ (b : Nat) : RF := ⟨SRV_BIND6 b, 0, 32⟩

/-- SRV_BIND7, 12. -/
def SRV_BIND7 (b : Nat) : Reg := ⟨0x500101C + 0x40 * b, 0x0⟩
def SRV_BIND7_KV_BASE (b : Nat) : RF := ⟨SRV_BIND7 b, 0, 24⟩

/-- SRV_BIND8, 12. -/
def SRV_BIND8 (b : Nat) : Reg := ⟨0x5001020 + 0x40 * b, 0x0⟩
def SRV_BIND8_KV_CNT (b : Nat) : RF := ⟨SRV_BIND8 b, 0, 24⟩

/-- SRV_BIND9, 12. -/
def SRV_BIND9 (b : Nat) : Reg := ⟨0x5001024 + 0x40 * b, 0x0⟩
def SRV_BIND9_BLK_BYTES (b : Nat) : RF := ⟨SRV_BIND9 b, 0, 16⟩

/-- SRV_PFX_CTRL, 12. -/
def SRV_PFX_CTRL : Reg := ⟨0x5002000, 0x0⟩
def SRV_PFX_CTRL_PFX_OBJ : RF := ⟨SRV_PFX_CTRL, 0, 32⟩

/-- SRV_PFX_CNT, 12. -/
def SRV_PFX_CNT : Reg := ⟨0x5002004, 0x0⟩
def SRV_PFX_CNT_MISMATCH : RF := ⟨SRV_PFX_CNT, 0, 16⟩
def SRV_PFX_CNT_SKIP : RF := ⟨SRV_PFX_CNT, 16, 16⟩

/-- SRV_PFX_HIT, 12. -/
def SRV_PFX_HIT : Reg := ⟨0x5002008, 0x0⟩
def SRV_PFX_HIT_COUNT : RF := ⟨SRV_PFX_HIT, 0, 32⟩

/-- SRV_PFX_MISS, 12. -/
def SRV_PFX_MISS : Reg := ⟨0x500200C, 0x0⟩
def SRV_PFX_MISS_COUNT : RF := ⟨SRV_PFX_MISS, 0, 32⟩

/-- SRV_SAMP_CNT, 12. -/
def SRV_SAMP_CNT : Reg := ⟨0x5003000, 0x0⟩
def SRV_SAMP_CNT_NAN_END : RF := ⟨SRV_SAMP_CNT, 0, 8⟩
def SRV_SAMP_CNT_TRING_HOLD : RF := ⟨SRV_SAMP_CNT, 8, 8⟩
def SRV_SAMP_CNT_KV_HOLD : RF := ⟨SRV_SAMP_CNT, 16, 8⟩
def SRV_SAMP_CNT_MIR_HOLD : RF := ⟨SRV_SAMP_CNT, 24, 8⟩

/-- SRV_BUD_LEVEL_LO, 12. -/
def SRV_BUD_LEVEL_LO (t : Nat) : Reg := ⟨0x5100000 + 0x10 * t, 0x0⟩
def SRV_BUD_LEVEL_LO_V (t : Nat) : RF := ⟨SRV_BUD_LEVEL_LO t, 0, 32⟩

/-- SRV_BUD_LEVEL_HI, 12. -/
def SRV_BUD_LEVEL_HI (t : Nat) : Reg := ⟨0x5100004 + 0x10 * t, 0x0⟩
def SRV_BUD_LEVEL_HI_V (t : Nat) : RF := ⟨SRV_BUD_LEVEL_HI t, 0, 24⟩

/-- SRV_BUD_RATE, 12. -/
def SRV_BUD_RATE (t : Nat) : Reg := ⟨0x5100008 + 0x10 * t, 0x0⟩
def SRV_BUD_RATE_V (t : Nat) : RF := ⟨SRV_BUD_RATE t, 0, 32⟩

/-- SRV_BUD_CAP, 12. -/
def SRV_BUD_CAP (t : Nat) : Reg := ⟨0x510000C + 0x10 * t, 0x0⟩
def SRV_BUD_CAP_V (t : Nat) : RF := ⟨SRV_BUD_CAP t, 0, 32⟩

/-- DB_ID, 18. -/
def DB_ID (t : Nat) : Reg := ⟨0x10000000 + 0x10000 * t, 0x10000⟩
def DB_ID_TENANT (t : Nat) : RF := ⟨DB_ID t, 0, 12⟩
def DB_ID_EN (t : Nat) : RF := ⟨DB_ID t, 12, 1⟩
def DB_ID_QOS (t : Nat) : RF := ⟨DB_ID t, 13, 3⟩
def DB_ID_MSIX_CNT (t : Nat) : RF := ⟨DB_ID t, 16, 4⟩
def DB_ID_FLR_BUSY (t : Nat) : RF := ⟨DB_ID t, 20, 1⟩

/-- DB_CLAMP, 18. -/
def DB_CLAMP (t : Nat) : Reg := ⟨0x10000004 + 0x10000 * t, 0x0⟩
def DB_CLAMP_COUNT (t : Nat) : RF := ⟨DB_CLAMP t, 0, 32⟩

/-- DB_CAUSE, 18. -/
def DB_CAUSE (t : Nat) : Reg := ⟨0x10000010 + 0x10000 * t, 0x0⟩
def DB_CAUSE_CAUSE (t : Nat) : RF := ⟨DB_CAUSE t, 0, 9⟩

/-- DB_MASK, 18. -/
def DB_MASK (t : Nat) : Reg := ⟨0x10000014 + 0x10000 * t, 0x0⟩
def DB_MASK_MASK (t : Nat) : RF := ⟨DB_MASK t, 0, 9⟩

/-- DB_VEC, 18. -/
def DB_VEC (t : Nat) : Reg := ⟨0x10000018 + 0x10000 * t, 0x0⟩
def DB_VEC_VEC (t : Nat) : RF := ⟨DB_VEC t, 0, 27⟩

/-- DB_TOKMOD, 18. -/
def DB_TOKMOD (t : Nat) : Reg := ⟨0x1000001C + 0x10000 * t, 0x32⟩
def DB_TOKMOD_TOK_MOD_US (t : Nat) : RF := ⟨DB_TOKMOD t, 0, 16⟩

/-- DB_LEVEL_LO, 18. -/
def DB_LEVEL_LO (t : Nat) : Reg := ⟨0x10000020 + 0x10000 * t, 0x0⟩
def DB_LEVEL_LO_LEVEL (t : Nat) : RF := ⟨DB_LEVEL_LO t, 0, 32⟩

/-- DB_LEVEL_HI, 18. -/
def DB_LEVEL_HI (t : Nat) : Reg := ⟨0x10000024 + 0x10000 * t, 0x0⟩
def DB_LEVEL_HI_LEVEL (t : Nat) : RF := ⟨DB_LEVEL_HI t, 0, 24⟩

/-- DB_ACCT, 18. -/
def DB_ACCT (t : Nat) : Reg := ⟨0x10000028 + 0x10000 * t, 0x0⟩
def DB_ACCT_ACCT (t : Nat) : RF := ⟨DB_ACCT t, 0, 24⟩

/-- DB_ENDED, 18. -/
def DB_ENDED (t : Nat) : Reg := ⟨0x1000002C + 0x10000 * t, 0x0⟩
def DB_ENDED_ENDED (t : Nat) : RF := ⟨DB_ENDED t, 0, 32⟩

/-- DB_PSEL, 18. -/
def DB_PSEL (t : Nat) : Reg := ⟨0x10000040 + 0x10000 * t, 0x0⟩
def DB_PSEL_PART (t : Nat) : RF := ⟨DB_PSEL t, 0, 7⟩

/-- DB_PINFO, 18. -/
def DB_PINFO (t : Nat) : Reg := ⟨0x10000044 + 0x10000 * t, 0x0⟩
def DB_PINFO_STATE (t : Nat) : RF := ⟨DB_PINFO t, 0, 3⟩
def DB_PINFO_OWNED (t : Nat) : RF := ⟨DB_PINFO t, 3, 1⟩
def DB_PINFO_JOB_CODE (t : Nat) : RF := ⟨DB_PINFO t, 8, 8⟩
def DB_PINFO_LAST_CODE (t : Nat) : RF := ⟨DB_PINFO t, 16, 8⟩
def DB_PINFO_FLT_CODE (t : Nat) : RF := ⟨DB_PINFO t, 24, 8⟩

/-- DB_PFLT, 18. -/
def DB_PFLT (t : Nat) : Reg := ⟨0x10000048 + 0x10000 * t, 0x0⟩
def DB_PFLT_LCORE (t : Nat) : RF := ⟨DB_PFLT t, 0, 11⟩
def DB_PFLT_VALID (t : Nat) : RF := ⟨DB_PFLT t, 11, 1⟩

/-- DB_CMD, 18. -/
def DB_CMD (t : Nat) : Reg := ⟨0x10000100 + 0x10000 * t, 0x0⟩
def DB_CMD_OP (t : Nat) : RF := ⟨DB_CMD t, 0, 8⟩

/-- DB_ARG, 18. -/
def DB_ARG (t : Nat) (m : Nat) : Reg := ⟨0x10000104 + 0x10000 * t + 0x4 * m, 0x0⟩
def DB_ARG_ARG (t : Nat) (m : Nat) : RF := ⟨DB_ARG t m, 0, 32⟩

/-- DB_CMD_STATUS, 18. -/
def DB_CMD_STATUS (t : Nat) : Reg := ⟨0x10000120 + 0x10000 * t, 0x0⟩
def DB_CMD_STATUS_BUSY (t : Nat) : RF := ⟨DB_CMD_STATUS t, 0, 1⟩
def DB_CMD_STATUS_CODE (t : Nat) : RF := ⟨DB_CMD_STATUS t, 8, 8⟩

/-- DB_ASYNC, 18. -/
def DB_ASYNC (t : Nat) : Reg := ⟨0x10000124 + 0x10000 * t, 0x0⟩
def DB_ASYNC_LOAD_CODE (t : Nat) : RF := ⟨DB_ASYNC t, 0, 8⟩
def DB_ASYNC_LOAD_PART (t : Nat) : RF := ⟨DB_ASYNC t, 8, 7⟩
def DB_ASYNC_OBJ_BUSY (t : Nat) : RF := ⟨DB_ASYNC t, 15, 1⟩
def DB_ASYNC_OBJ_CODE (t : Nat) : RF := ⟨DB_ASYNC t, 16, 8⟩

/-- DB_OBJ_RET, 18. -/
def DB_OBJ_RET (t : Nat) : Reg := ⟨0x10000128 + 0x10000 * t, 0x0⟩
def DB_OBJ_RET_HANDLE (t : Nat) : RF := ⟨DB_OBJ_RET t, 0, 32⟩

/-- DB_REQHEAD, 18. -/
def DB_REQHEAD (t : Nat) (q : Nat) : Reg := ⟨0x10008000 + 0x10000 * t + 0x4 * q, 0x0⟩
def DB_REQHEAD_HEAD_EVEN (t : Nat) (q : Nat) : RF := ⟨DB_REQHEAD t q, 0, 16⟩
def DB_REQHEAD_HEAD_ODD (t : Nat) (q : Nat) : RF := ⟨DB_REQHEAD t q, 16, 16⟩

/-- Register tables of the block HUB, part 0. -/
def famsHUB0 : List RegFam := [
  ⟨"HUB_ID", 0x0, [], 0x0, [
      ⟨"GRADE", 0, 8, .ro, .none, .never⟩,
      ⟨"STEPPING", 8, 8, .ro, .none, .never⟩,
      ⟨"FUSED_OFF", 16, 16, .ro, .none, .never⟩]⟩,
  ⟨"HUB_ISLMAP", 0x4, [(2, 0x4)], 0x0, [
      ⟨"MAP", 0, 32, .ro, .none, .never⟩]⟩,
  ⟨"HUB_SERIAL_LO", 0xC, [], 0x0, [
      ⟨"SERIAL", 0, 32, .ro, .none, .never⟩]⟩,
  ⟨"HUB_SERIAL_HI", 0x10, [], 0x0, [
      ⟨"SERIAL", 0, 32, .ro, .none, .never⟩]⟩,
  ⟨"HUB_CLAMP", 0x20, [], 0x0, [
      ⟨"COUNT", 0, 32, .ro, .none, .never⟩]⟩,
  ⟨"HUB_CLAMP_LAST", 0x24, [], 0x0, [
      ⟨"ADDR", 0, 28, .ro, .none, .never⟩,
      ⟨"BAR2", 28, 1, .ro, .none, .never⟩]⟩,
  ⟨"HUB_CLK_STATUS", 0x100, [], 0x0, [
      ⟨"PLL_LOCK", 0, 1, .ro, .none, .never⟩,
      ⟨"DESKEW_DONE", 1, 1, .ro, .none, .never⟩,
      ⟨"MCLK_SEL", 2, 1, .ro, .none, .never⟩]⟩,
  ⟨"HUB_TIDE_LO", 0x110, [], 0x0, [
      ⟨"TIDE", 0, 32, .ro, .none, .never⟩]⟩,
  ⟨"HUB_TIDE_HI", 0x114, [], 0x0, [
      ⟨"TIDE", 0, 32, .ro, .none, .never⟩]⟩,
  ⟨"HUB_TIDE_CTRL", 0x118, [], 0x2, [
      ⟨"LOAD_ARM", 0, 1, .rwl, .none, .jobLock⟩,
      ⟨"SLEW_EN", 1, 1, .rw, .none, .never⟩]⟩,
  ⟨"HUB_TIDE_LOAD_LO", 0x120, [], 0x0, [
      ⟨"LOAD", 0, 32, .rw, .none, .never⟩]⟩,
  ⟨"HUB_TIDE_LOAD_HI", 0x124, [], 0x0, [
      ⟨"LOAD", 0, 32, .rw, .none, .never⟩]⟩,
  ⟨"HUB_TIDE_STATUS", 0x128, [], 0x0, [
      ⟨"LOAD_DONE", 0, 1, .w1c, .none, .never⟩,
      ⟨"LOAD_MISSED", 1, 1, .w1c, .none, .never⟩,
      ⟨"ALIGNED", 2, 1, .ro, .none, .never⟩,
      ⟨"JOB_LOCK", 3, 1, .ro, .none, .never⟩,
      ⟨"OFFSET", 8, 8, .ro, .none, .never⟩,
      ⟨"SLEW_CNT", 16, 16, .ro, .none, .never⟩]⟩,
  ⟨"HUB_PCIE_ERR", 0x200, [], 0x0, [
      ⟨"CTO_CNT", 0, 16, .ro, .none, .never⟩,
      ⟨"POIS_CNT", 16, 16, .ro, .none, .never⟩]⟩,
  ⟨"HUB_EXR_IDX", 0x2000, [], 0x0, [
      ⟨"EXPERT", 0, 12, .rw, .none, .never⟩,
      ⟨"MODEL", 12, 10, .rw, .none, .never⟩]⟩,
  ⟨"HUB_EXR_CMD", 0x2004, [], 0x0, [
      ⟨"OP", 0, 2, .wo, (.ge 3 0), .never⟩]⟩]

/-- Register tables of the block HUB, part 1. -/
def famsHUB1 : List RegFam := [
  ⟨"HUB_EXR_STATUS", 0x2008, [], 0x0, [
      ⟨"BUSY", 0, 1, .ro, .none, .never⟩,
      ⟨"USED", 1, 19, .ro, .none, .never⟩]⟩,
  ⟨"HUB_EXR_ENT", 0x2010, [(4, 0x4)], 0x0, [
      ⟨"DATA", 0, 32, .rw, .none, .never⟩]⟩,
  ⟨"HUB_LDR_CMD", 0x3000, [], 0x0, [
      ⟨"OP", 0, 2, .wo, (.ge 2 0), .never⟩]⟩,
  ⟨"HUB_LDR_ARG", 0x3004, [(3, 0x4)], 0x0, [
      ⟨"ARG", 0, 32, .rw, .none, .never⟩]⟩,
  ⟨"HUB_LDR_STATUS", 0x3010, [], 0x0, [
      ⟨"BUSY", 0, 1, .ro, .none, .never⟩,
      ⟨"CTX", 1, 2, .ro, .none, .never⟩,
      ⟨"CODE", 8, 8, .ro, .none, .never⟩,
      ⟨"PART", 16, 7, .ro, .none, .never⟩]⟩,
  ⟨"HUB_LDR_CTX", 0x3020, [(4, 0x4)], 0x0, [
      ⟨"ACTIVE", 0, 1, .ro, .none, .never⟩,
      ⟨"STAGE", 1, 3, .ro, .none, .never⟩,
      ⟨"PART", 4, 7, .ro, .none, .never⟩,
      ⟨"CODE", 16, 8, .ro, .none, .never⟩]⟩,
  ⟨"HUB_LDR_FAULT", 0x3030, [(4, 0x4)], 0x0, [
      ⟨"CHECK", 0, 8, .ro, .none, .never⟩,
      ⟨"SECTION", 8, 10, .ro, .none, .never⟩,
      ⟨"RECORD", 18, 14, .ro, .none, .never⟩]⟩,
  ⟨"HUB_IMG_CMD", 0x3100, [], 0x0, [
      ⟨"OP", 0, 2, .wo, (.ge 3 0), .never⟩]⟩,
  ⟨"HUB_IMG_ARG", 0x3104, [(3, 0x4)], 0x0, [
      ⟨"ARG", 0, 32, .rw, .none, .never⟩]⟩,
  ⟨"HUB_IMG_STATUS", 0x3110, [], 0x0, [
      ⟨"BUSY", 0, 1, .ro, .none, .never⟩,
      ⟨"CODE", 8, 8, .ro, .none, .never⟩,
      ⟨"CHECK", 16, 10, .ro, .none, .never⟩]⟩,
  ⟨"HUB_FSEQ", 0x4000, [(128, 0x10)], 0x0, [
      ⟨"ENTRY", 0, 8, .ro, .none, .never⟩,
      ⟨"FLASK", 8, 6, .ro, .none, .never⟩,
      ⟨"SLOT", 14, 2, .ro, .none, .never⟩,
      ⟨"RUNS", 16, 16, .ro, .none, .never⟩]⟩,
  ⟨"HUB_FSEQ_GO", 0x4004, [(128, 0x10)], 0x0, [
      ⟨"GO", 0, 1, .w1s, .none, .never⟩]⟩,
  ⟨"HUB_FSEQ_WAIT", 0x4008, [(128, 0x10)], 0x0, [
      ⟨"TICKS", 0, 32, .ro, .none, .never⟩]⟩,
  ⟨"HUB_RCV_CTRL", 0x5000, [], 0x0, [
      ⟨"WITHDRAW", 0, 1, .rw, .none, .never⟩]⟩,
  ⟨"HUB_RCV_STATUS", 0x5004, [], 0x0, [
      ⟨"ACTIVE", 0, 4, .ro, .none, .never⟩,
      ⟨"LAST_CODE", 8, 8, .ro, .none, .never⟩,
      ⟨"LAST_PART", 16, 7, .ro, .none, .never⟩]⟩,
  ⟨"HUB_RCV_FENCE", 0x5008, [], 0x0, [
      ⟨"LCORE", 0, 11, .rw, .none, .never⟩,
      ⟨"GO", 11, 1, .w1s, .none, .never⟩]⟩]

/-- Register tables of the block HUB, part 2. -/
def famsHUB2 : List RegFam := [
  ⟨"HUB_RCV_LAST", 0x500C, [], 0x0, [
      ⟨"TICKS", 0, 32, .ro, .none, .never⟩]⟩,
  ⟨"HUB_RCV_CNT", 0x5010, [], 0x0, [
      ⟨"RECOVERED", 0, 16, .ro, .none, .never⟩,
      ⟨"EJECTED", 16, 16, .ro, .none, .never⟩]⟩,
  ⟨"HUB_RCV_SPOOL", 0x5100, [(128, 0x8)], 0x0, [
      ⟨"HANDLE", 0, 32, .rwl, .none, .recovering⟩]⟩,
  ⟨"HUB_RCV_PART", 0x5104, [(128, 0x8)], 0x0, [
      ⟨"FENCED", 0, 1, .ro, .none, .never⟩,
      ⟨"SPOOL_FULL", 16, 16, .ro, .none, .never⟩]⟩,
  ⟨"HUB_APT_CTRL", 0x6000, [(16, 0x10)], 0x0, [
      ⟨"KIND", 0, 2, .rw, .none, .never⟩,
      ⟨"HARBOR", 2, 2, .rw, .none, .never⟩,
      ⟨"TIER", 4, 1, .rw, .none, .never⟩]⟩,
  ⟨"HUB_APT_TGT", 0x6004, [(16, 0x10)], 0x0, [
      ⟨"TGT", 0, 32, .rw, .special, .never⟩]⟩,
  ⟨"HUB_APT_PAGE", 0x6008, [(16, 0x10)], 0x0, [
      ⟨"PAGE", 0, 24, .rw, .none, .never⟩]⟩,
  ⟨"HUB_APT_DROP", 0x6100, [], 0x0, [
      ⟨"COUNT", 0, 32, .ro, .none, .never⟩]⟩]

/-- Every register table of the block HUB. -/
def famsHUB : List RegFam := famsHUB0 ++ famsHUB1 ++ famsHUB2

/-- Register tables of the block MGT, part 0. -/
def famsMGT0 : List RegFam := [
  ⟨"MGT_STATUS", 0x100000, [], 0x0, [
      ⟨"READY", 0, 1, .ro, .none, .never⟩,
      ⟨"HELD", 1, 1, .ro, .none, .never⟩,
      ⟨"SLOT", 2, 1, .ro, .none, .never⟩,
      ⟨"TRIAL", 3, 1, .ro, .none, .never⟩,
      ⟨"LOCKSTEP_CNT", 8, 8, .ro, .none, .never⟩,
      ⟨"WDOG_CNT", 16, 8, .ro, .none, .never⟩]⟩,
  ⟨"MGT_MBX_CMD", 0x100010, [], 0x0, [
      ⟨"OP", 0, 8, .wo, .none, .never⟩]⟩,
  ⟨"MGT_MBX_ARG", 0x100014, [(4, 0x4)], 0x0, [
      ⟨"ARG", 0, 32, .rw, .none, .never⟩]⟩,
  ⟨"MGT_MBX_STATUS", 0x100030, [], 0x0, [
      ⟨"BUSY", 0, 1, .ro, .none, .never⟩,
      ⟨"CODE", 8, 8, .ro, .none, .never⟩]⟩,
  ⟨"MGT_MBX_MSG", 0x100034, [], 0x0, [
      ⟨"KIND", 0, 8, .ro, .none, .never⟩,
      ⟨"PENDING", 8, 1, .w1c, .none, .never⟩]⟩,
  ⟨"MGT_MBX_DATA", 0x100100, [(64, 0x4)], 0x0, [
      ⟨"DATA", 0, 32, .rw, .none, .never⟩]⟩,
  ⟨"MGT_BOOT_STATUS", 0x100200, [], 0x7000, [
      ⟨"PHASE", 0, 4, .ro, .none, .never⟩,
      ⟨"ATTEMPTS", 4, 2, .ro, .none, .never⟩,
      ⟨"CAUSE", 6, 4, .ro, .none, .never⟩,
      ⟨"MINIMAL", 10, 1, .ro, .none, .never⟩,
      ⟨"WARM", 11, 1, .ro, .none, .never⟩,
      ⟨"MIN_HARBOR", 12, 3, .ro, .none, .never⟩,
      ⟨"OOB_ONLY", 15, 1, .ro, .none, .never⟩]⟩,
  ⟨"MGT_BOOT_FAB", 0x100204, [], 0x0, [
      ⟨"PRESENT", 0, 16, .ro, .none, .never⟩,
      ⟨"FAB_OK", 16, 16, .ro, .none, .never⟩]⟩,
  ⟨"MGT_BOOT_WHY", 0x100208, [(2, 0x4)], 0x0, [
      ⟨"WHY", 0, 32, .ro, .none, .never⟩]⟩,
  ⟨"MGT_BOOT_MEM", 0x100210, [], 0x0, [
      ⟨"NEAR", 0, 8, .ro, .none, .never⟩,
      ⟨"MID", 8, 16, .ro, .none, .never⟩,
      ⟨"FTL", 24, 4, .ro, .none, .never⟩]⟩,
  ⟨"MGT_BOOT_MS", 0x100214, [], 0x0, [
      ⟨"MS", 0, 32, .ro, .none, .never⟩]⟩,
  ⟨"MGT_BOOT_CFG", 0x100220, [], 0x2000A0, [
      ⟨"MIN_PORTS", 0, 5, .rw, (.range 0 16), .never⟩,
      ⟨"RETRY_S", 5, 8, .rw, (.range 1 255), .never⟩,
      ⟨"MID_EXPECT", 13, 8, .rw, .none, .never⟩,
      ⟨"NEAR_RET", 21, 1, .rw, .none, .never⟩]⟩,
  ⟨"MGT_BOOT_CMD", 0x100224, [], 0x0, [
      ⟨"OP", 0, 2, .wo, (.ge 3 0), .never⟩]⟩,
  ⟨"MGT_PWR_PKG", 0x100400, [], 0x0, [
      ⟨"POWER", 0, 16, .ro, .none, .never⟩]⟩,
  ⟨"MGT_PWR_PEAK", 0x100404, [], 0x0, [
      ⟨"PEAK", 0, 16, .ro, .none, .never⟩]⟩,
  ⟨"MGT_PWR_CTRL", 0x100408, [], 0x3520, [
      ⟨"WARN_W", 0, 14, .rw, (.range 0 15200), .never⟩,
      ⟨"PEAK_CLR", 14, 1, .w1s, .none, .never⟩,
      ⟨"OVER_CNT", 16, 16, .ro, .none, .never⟩]⟩]

/-- Register tables of the block MGT, part 1. -/
def famsMGT1 : List RegFam := [
  ⟨"MGT_PWR_BLK", 0x100410, [(25, 0x4)], 0x0, [
      ⟨"POWER", 0, 16, .ro, .none, .never⟩]⟩,
  ⟨"MGT_TEMP", 0x100480, [(37, 0x4)], 0x0, [
      ⟨"TEMP_C", 0, 8, .ro, .none, .never⟩]⟩,
  ⟨"MGT_FW_SLOT", 0x100600, [(2, 0x8)], 0x0, [
      ⟨"VALID", 0, 1, .ro, .none, .never⟩,
      ⟨"ACTIVE", 1, 1, .ro, .none, .never⟩,
      ⟨"TRIAL", 2, 1, .ro, .none, .never⟩,
      ⟨"FAILED", 3, 1, .ro, .none, .never⟩]⟩,
  ⟨"MGT_FW_SEC", 0x100604, [(2, 0x8)], 0x0, [
      ⟨"SEC_VERSION", 0, 32, .ro, .none, .never⟩]⟩,
  ⟨"MGT_FW_RB", 0x100610, [], 0x0, [
      ⟨"COUNTER", 0, 8, .ro, .none, .never⟩]⟩,
  ⟨"MGT_KEY", 0x100700, [(8, 0x8)], 0x0, [
      ⟨"STATE", 0, 2, .ro, .none, .never⟩]⟩,
  ⟨"MGT_KEY_MIN", 0x100704, [(8, 0x8)], 0x0, [
      ⟨"MIN_SEC_VERSION", 0, 32, .ro, .none, .never⟩]⟩,
  ⟨"MGT_LOG_STATUS", 0x100800, [], 0x0, [
      ⟨"STAGED", 0, 11, .ro, .none, .never⟩,
      ⟨"FAR_OK", 11, 1, .ro, .none, .never⟩,
      ⟨"DROP_CNT", 16, 16, .ro, .none, .never⟩]⟩,
  ⟨"MGT_LOG_NEWEST", 0x100804, [], 0x0, [
      ⟨"SEQ", 0, 32, .ro, .none, .never⟩]⟩,
  ⟨"MGT_LOG_OLDEST", 0x100808, [], 0x0, [
      ⟨"SEQ", 0, 32, .ro, .none, .never⟩]⟩,
  ⟨"MGT_ANL_CFG", 0x100900, [], 0x78F, [
      ⟨"MARGIN_MV", 0, 6, .rw, (.range 5 40), .never⟩,
      ⟨"DROOP_MV", 6, 6, .rw, (.range 10 60), .never⟩,
      ⟨"BUSY_CH", 16, 4, .ro, .none, .never⟩,
      ⟨"PENDING", 20, 5, .ro, .none, .never⟩]⟩,
  ⟨"MGT_CLAMP", 0x100A00, [], 0x0, [
      ⟨"COUNT", 0, 32, .ro, .none, .never⟩]⟩,
  ⟨"MGT_CLAMP_LAST", 0x100A04, [], 0x0, [
      ⟨"ADDR", 0, 28, .ro, .none, .never⟩,
      ⟨"BAR2", 28, 1, .ro, .none, .never⟩]⟩]

/-- Every register table of the block MGT. -/
def famsMGT : List RegFam := famsMGT0 ++ famsMGT1

/-- Register tables of the block ISL, part 0. -/
def famsISL0 : List RegFam := [
  ⟨"ISL_GOV_CTRL", 0x1080000, [(16, 0x100000)], 0x7F6430, [
      ⟨"CAP", 0, 3, .rw, (.ge 5 4), .never⟩,
      ⟨"HYST_C", 4, 4, .rw, (.range 1 8), .never⟩,
      ⟨"UP_HOLD", 8, 8, .rw, (.range 10 255), .never⟩,
      ⟨"STRETCH_EN", 16, 1, .rw, .none, .never⟩,
      ⟨"STRETCH_LIMIT", 17, 6, .rw, (.range 15 63), .never⟩]⟩,
  ⟨"ISL_GOV_STATUS", 0x1080004, [(16, 0x100000)], 0x2, [
      ⟨"STEP", 0, 3, .ro, .none, .never⟩,
      ⟨"STRETCHING", 3, 1, .ro, .none, .never⟩,
      ⟨"HOT_C", 4, 7, .ro, .none, .never⟩,
      ⟨"HOT_SENSOR", 11, 4, .ro, .none, .never⟩,
      ⟨"DROOP_HOLD", 15, 1, .ro, .none, .never⟩]⟩,
  ⟨"ISL_GOV_STRETCH", 0x1080008, [(16, 0x100000)], 0x0, [
      ⟨"STRETCH_CNT", 0, 32, .ro, .none, .never⟩]⟩,
  ⟨"ISL_GOV_DOWN", 0x108000C, [(16, 0x100000)], 0x0, [
      ⟨"THERM_DOWN_CNT", 0, 16, .ro, .none, .never⟩,
      ⟨"DROOP_DOWN_CNT", 16, 16, .ro, .none, .never⟩]⟩,
  ⟨"ISL_GOV_STEP", 0x1080010, [(16, 0x100000), (8, 0x4)], 0x0, [
      ⟨"CEIL", 0, 3, .rw, (.ge 5 4), .never⟩,
      ⟨"EN", 3, 1, .rw, .none, .never⟩,
      ⟨"TEMP_C", 4, 7, .rw, .special, .never⟩]⟩,
  ⟨"ISL_ARR_CTRL", 0x1080100, [(16, 0x100000)], 0x10, [
      ⟨"TOL_EXP", 0, 5, .rw, (.range 12 18), .never⟩]⟩,
  ⟨"ISL_ARR_INJ", 0x1080104, [(16, 0x100000)], 0x0, [
      ⟨"CORE", 0, 7, .rw, .none, .never⟩,
      ⟨"ARRAY", 7, 2, .rw, .none, .never⟩,
      ⟨"KIND", 9, 2, .rw, (.ge 3 0), .never⟩,
      ⟨"PERSIST", 11, 1, .rw, .none, .never⟩,
      ⟨"ARM", 12, 1, .w1s, .none, .never⟩,
      ⟨"ROW", 13, 5, .rw, .none, .never⟩,
      ⟨"CELL", 18, 5, .rw, .none, .never⟩,
      ⟨"BIT", 23, 6, .rw, .none, .never⟩]⟩,
  ⟨"ISL_POUR_WDOG", 0x1080200, [(16, 0x100000)], 0x2710, [
      ⟨"LIMIT_US", 0, 20, .rw, (.range 100 1000000), .never⟩]⟩,
  ⟨"ISL_ANL_CTRL", 0x1080300, [(16, 0x100000)], 0x7B3, [
      ⟨"EN", 0, 1, .rw, .none, .never⟩,
      ⟨"GUARD_MV", 1, 6, .rw, (.range 10 60), .never⟩,
      ⟨"TEMP_BAND", 7, 5, .rw, (.range 5 30), .never⟩]⟩,
  ⟨"ISL_ANL_STATUS", 0x1080304, [(16, 0x100000)], 0x0, [
      ⟨"LOAD_CLASS", 0, 2, .ro, .none, .never⟩,
      ⟨"GUARD", 2, 1, .ro, .none, .never⟩,
      ⟨"RUNNING", 3, 1, .ro, .none, .never⟩,
      ⟨"FAIL", 4, 1, .w1c, .none, .never⟩,
      ⟨"REANNEAL_CNT", 16, 16, .ro, .none, .never⟩]⟩,
  ⟨"ISL_FLT_STATUS", 0x1080308, [(16, 0x100000)], 0x0, [
      ⟨"RTR_FENCED", 0, 8, .ro, .none, .never⟩,
      ⟨"QUENCHED", 8, 1, .ro, .none, .never⟩,
      ⟨"QREASON", 9, 3, .ro, .none, .never⟩,
      ⟨"SPARES_FREE", 12, 5, .ro, .none, .never⟩]⟩,
  ⟨"ISL_ANL_REC", 0x1080310, [(16, 0x100000), (5, 0x4)], 0x0, [
      ⟨"VOFF", 0, 8, .ro, .none, .never⟩,
      ⟨"CLASS", 8, 2, .ro, .none, .never⟩,
      ⟨"TEMP_C", 10, 7, .ro, .none, .never⟩,
      ⟨"VALID", 17, 1, .ro, .none, .never⟩]⟩,
  ⟨"ISL_CLAMP", 0x1080F00, [(16, 0x100000)], 0x0, [
      ⟨"COUNT", 0, 32, .ro, .none, .never⟩]⟩,
  ⟨"ISL_CLAMP_LAST", 0x1080F04, [(16, 0x100000)], 0x0, [
      ⟨"ADDR", 0, 28, .ro, .none, .never⟩,
      ⟨"BAR2", 28, 1, .ro, .none, .never⟩]⟩,
  ⟨"ISL_DIR_STATUS", 0x1000200, [(16, 0x100000), (8, 0x10000)], 0x0, [
      ⟨"RR_PTR", 0, 4, .ro, .none, .never⟩,
      ⟨"WB_USED", 4, 5, .ro, .none, .never⟩]⟩,
  ⟨"ISL_DIR_RACE", 0x1000204, [(16, 0x100000), (8, 0x10000)], 0x0, [
      ⟨"SAME_CYCLE_CNT", 0, 16, .ro, .none, .never⟩,
      ⟨"FWD_CNT", 16, 16, .ro, .none, .never⟩]⟩]

/-- Register tables of the block ISL, part 1. -/
def famsISL1 : List RegFam := [
  ⟨"ISL_CTR_VAL", 0x1000400, [(16, 0x100000), (8, 0x10000), (64, 0x10)], 0x0, [
      ⟨"VALUE", 0, 32, .rwl, .none, .clusterJob⟩]⟩,
  ⟨"ISL_CTR_LIM", 0x1000404, [(16, 0x100000), (8, 0x10000), (64, 0x10)], 0x0, [
      ⟨"LIMIT", 0, 32, .rwl, .none, .clusterJob⟩]⟩,
  ⟨"ISL_CTR_CFG", 0x1000408, [(16, 0x100000), (8, 0x10000), (64, 0x10)], 0x0, [
      ⟨"MEMBERS", 0, 16, .ro, .none, .never⟩,
      ⟨"ANCHOR", 16, 4, .ro, .none, .never⟩,
      ⟨"DEFINED", 20, 1, .ro, .none, .never⟩]⟩,
  ⟨"ISL_CTR_STAT", 0x100040C, [(16, 0x100000), (8, 0x10000), (64, 0x10)], 0x0, [
      ⟨"TAKE_CNT", 0, 24, .ro, .none, .never⟩,
      ⟨"EXH_CNT", 24, 8, .ro, .none, .never⟩]⟩,
  ⟨"ISL_CTR_RR", 0x1000800, [(16, 0x100000), (8, 0x10000)], 0x0, [
      ⟨"RR_PTR", 0, 4, .ro, .none, .never⟩,
      ⟨"JOB", 4, 1, .ro, .none, .never⟩]⟩,
  ⟨"ISL_ERU_STATUS", 0x1000A00, [(16, 0x100000), (8, 0x10000)], 0x0, [
      ⟨"ROUND", 0, 3, .ro, .none, .never⟩,
      ⟨"BUSY", 3, 1, .ro, .none, .never⟩,
      ⟨"MEMBERS_IN", 4, 16, .ro, .none, .never⟩]⟩,
  ⟨"ISL_ERU_PLACED", 0x1000A04, [(16, 0x100000), (8, 0x10000)], 0x0, [
      ⟨"PLACED", 0, 32, .ro, .none, .never⟩]⟩,
  ⟨"ISL_ERU_RISER", 0x1000A08, [(16, 0x100000), (8, 0x10000)], 0x0, [
      ⟨"RISER_PLACED", 0, 16, .ro, .none, .never⟩,
      ⟨"DROPPED", 16, 16, .ro, .none, .never⟩]⟩,
  ⟨"ISL_ERU_EVT", 0x1000A0C, [(16, 0x100000), (8, 0x10000)], 0x0, [
      ⟨"RISER_FULL_CNT", 0, 12, .ro, .none, .never⟩,
      ⟨"ABSORB_CNT", 12, 12, .ro, .none, .never⟩,
      ⟨"NAN_SEEN", 24, 1, .w1c, .none, .never⟩,
      ⟨"POISON_SEEN", 25, 1, .w1c, .none, .never⟩]⟩,
  ⟨"ISL_ERU_ROUNDS", 0x1000A10, [(16, 0x100000), (8, 0x10000)], 0x0, [
      ⟨"ROUNDS", 0, 32, .ro, .none, .never⟩]⟩]

/-- Every register table of the block ISL. -/
def famsISL : List RegFam := famsISL0 ++ famsISL1

/-- Register tables of the block CORE, part 0. -/
def famsCORE0 : List RegFam := [
  ⟨"ISL_CORE_ID", 0x1008000, [(16, 0x100000), (8, 0x10000), (16, 0x400)], 0x0, [
      ⟨"LCORE", 0, 11, .ro, .none, .never⟩,
      ⟨"PCORE", 12, 12, .ro, .none, .never⟩,
      ⟨"SPARE", 24, 1, .ro, .none, .never⟩,
      ⟨"RUNTIME_CW", 25, 1, .ro, .none, .never⟩]⟩,
  ⟨"ISL_CORE_STATE", 0x1008004, [(16, 0x100000), (8, 0x10000), (16, 0x400)], 0x0, [
      ⟨"ACTIVE_SLOT", 0, 2, .ro, .none, .never⟩,
      ⟨"SLOT_STATE", 2, 8, .ro, .none, .never⟩,
      ⟨"PC", 10, 10, .ro, .none, .never⟩,
      ⟨"FENCED", 20, 1, .ro, .none, .never⟩,
      ⟨"DBG_HALTED", 21, 1, .ro, .none, .never⟩,
      ⟨"AT_GATE", 22, 1, .ro, .none, .never⟩]⟩,
  ⟨"ISL_CORE_DBG", 0x1008008, [(16, 0x100000), (8, 0x10000), (16, 0x400)], 0x0, [
      ⟨"HALT_REQ", 0, 1, .rw, .none, .never⟩,
      ⟨"STEP", 1, 1, .w1s, .none, .never⟩,
      ⟨"BKPT_EN", 2, 1, .rw, .none, .never⟩]⟩,
  ⟨"ISL_CORE_STALL", 0x1008010, [(16, 0x100000), (8, 0x10000), (16, 0x400), (8, 0x4)], 0x0, [
      ⟨"CYCLES", 0, 32, .ro, .none, .never⟩]⟩,
  ⟨"ISL_CORE_EVT", 0x1008040, [(16, 0x100000), (8, 0x10000), (16, 0x400)], 0x0, [
      ⟨"WCLOSED", 0, 1, .w1c, .none, .never⟩,
      ⟨"ADDR_OOR", 1, 1, .w1c, .none, .never⟩,
      ⟨"POISON_IN", 2, 1, .w1c, .none, .never⟩,
      ⟨"CHK_RECOMP", 3, 1, .w1c, .none, .never⟩,
      ⟨"POISON_CTL", 4, 1, .w1c, .none, .never⟩]⟩,
  ⟨"ISL_CORE_CHK", 0x1008050, [(16, 0x100000), (8, 0x10000), (16, 0x400)], 0x0, [
      ⟨"RECOMP_CNT", 0, 16, .ro, .none, .never⟩,
      ⟨"ROW_MIS", 16, 1, .ro, .none, .never⟩,
      ⟨"COL_MIS", 17, 1, .ro, .none, .never⟩,
      ⟨"DUP_MIS", 18, 1, .ro, .none, .never⟩,
      ⟨"ARRAY", 19, 2, .ro, .none, .never⟩,
      ⟨"PERSIST", 21, 1, .ro, .none, .never⟩]⟩,
  ⟨"ISL_CORE_VEC", 0x1008060, [(16, 0x100000), (8, 0x10000), (16, 0x400)], 0x0, [
      ⟨"FLUSH_CNT", 0, 16, .ro, .none, .never⟩,
      ⟨"NAN_CNT", 16, 16, .ro, .none, .never⟩]⟩,
  ⟨"ISL_CORE_TS", 0x1008070, [(16, 0x100000), (8, 0x10000), (16, 0x400)], 0x0, [
      ⟨"CACHE_UNITS", 0, 3, .ro, .none, .never⟩,
      ⟨"WMODE", 3, 1, .ro, .none, .never⟩,
      ⟨"JOB", 4, 1, .ro, .none, .never⟩,
      ⟨"TEST", 5, 1, .rwl, .none, .coreJob⟩,
      ⟨"SCRUB", 6, 1, .ro, .none, .never⟩]⟩,
  ⟨"ISL_CORE_RING", 0x1008080, [(16, 0x100000), (8, 0x10000), (16, 0x400), (16, 0x4)], 0x0, [
      ⟨"HEAD", 0, 3, .ro, .none, .never⟩,
      ⟨"TAIL", 3, 3, .ro, .none, .never⟩,
      ⟨"FULL", 6, 8, .ro, .none, .never⟩,
      ⟨"SLOTS", 14, 4, .ro, .none, .never⟩,
      ⟨"PRODUCER", 18, 3, .ro, .none, .never⟩]⟩,
  ⟨"ISL_CORE_WIN", 0x10080C0, [(16, 0x100000), (8, 0x10000), (16, 0x400)], 0x0, [
      ⟨"WDROP_CNT", 0, 16, .ro, .none, .never⟩,
      ⟨"CDROP_CNT", 16, 16, .ro, .none, .never⟩]⟩,
  ⟨"ISL_CORE_WCRED", 0x10080D0, [(16, 0x100000), (8, 0x10000), (16, 0x400), (4, 0x8)], 0x0, [
      ⟨"BASE", 0, 15, .rwl, .special, .windowMode⟩,
      ⟨"LEN", 15, 15, .rwl, .special, .windowMode⟩,
      ⟨"VALID", 30, 1, .rwl, .none, .windowMode⟩]⟩,
  ⟨"ISL_CORE_WKEY", 0x10080D4, [(16, 0x100000), (8, 0x10000), (16, 0x400), (4, 0x8)], 0x0, [
      ⟨"SENDER", 0, 12, .rwl, .none, .windowMode⟩,
      ⟨"GRANT_LEN", 12, 15, .ro, .none, .never⟩]⟩,
  ⟨"ISL_CORE_FIFO", 0x1008100, [(16, 0x100000), (8, 0x10000), (16, 0x400), (4, 0x8)], 0x0, [
      ⟨"FILL_BANK", 0, 1, .ro, .none, .never⟩,
      ⟨"FULL", 1, 1, .ro, .none, .never⟩,
      ⟨"OVERRUN", 2, 1, .w1c, .none, .never⟩,
      ⟨"BAD_SEEN", 3, 1, .w1c, .none, .never⟩,
      ⟨"VIS_PKTS", 4, 8, .ro, .none, .never⟩,
      ⟨"BAD_PKT_CNT", 12, 10, .ro, .none, .never⟩,
      ⟨"PARITY_CNT", 22, 10, .ro, .none, .never⟩]⟩,
  ⟨"ISL_CORE_FIFO_TW", 0x1008104, [(16, 0x100000), (8, 0x10000), (16, 0x400), (4, 0x8)], 0x0, [
      ⟨"WORD", 0, 32, .wo, .none, .never⟩]⟩,
  ⟨"ISL_CORE_CHIT", 0x1008120, [(16, 0x100000), (8, 0x10000), (16, 0x400)], 0x0, [
      ⟨"COUNT", 0, 32, .ro, .none, .never⟩]⟩,
  ⟨"ISL_CORE_CMISS", 0x1008124, [(16, 0x100000), (8, 0x10000), (16, 0x400)], 0x0, [
      ⟨"COUNT", 0, 32, .ro, .none, .never⟩]⟩]

/-- Register tables of the block CORE, part 1. -/
def famsCORE1 : List RegFam := [
  ⟨"ISL_CORE_LADLE", 0x1008140, [(16, 0x100000), (8, 0x10000), (16, 0x400)], 0x0, [
      ⟨"QUEUED", 0, 2, .ro, .none, .never⟩,
      ⟨"SHAPE_FAULT", 2, 1, .w1c, .none, .never⟩,
      ⟨"HDR_MIS", 3, 1, .w1c, .none, .never⟩,
      ⟨"WALK", 4, 2, .ro, .none, .never⟩]⟩,
  ⟨"ISL_CORE_LPOS", 0x1008144, [(16, 0x100000), (8, 0x10000), (16, 0x400)], 0x0, [
      ⟨"K_IDX", 0, 9, .ro, .none, .never⟩,
      ⟨"N_IDX", 9, 9, .ro, .none, .never⟩,
      ⟨"S_IDX", 18, 7, .ro, .none, .never⟩]⟩,
  ⟨"ISL_CORE_LSTEP", 0x1008148, [(16, 0x100000), (8, 0x10000), (16, 0x400)], 0x0, [
      ⟨"STEPS", 0, 32, .ro, .none, .never⟩]⟩,
  ⟨"ISL_CORE_LDROP", 0x100814C, [(16, 0x100000), (8, 0x10000), (16, 0x400)], 0x0, [
      ⟨"DROP_CNT", 0, 16, .ro, .none, .never⟩,
      ⟨"HAZ_CNT", 16, 16, .ro, .none, .never⟩]⟩,
  ⟨"ISL_CORE_SKIP", 0x1008150, [(16, 0x100000), (8, 0x10000), (16, 0x400)], 0x0, [
      ⟨"ASKIP_CNT", 0, 16, .ro, .none, .never⟩,
      ⟨"BSKIP_CNT", 16, 16, .ro, .none, .never⟩]⟩,
  ⟨"ISL_CORE_RSEL", 0x1008154, [(16, 0x100000), (8, 0x10000), (16, 0x400)], 0x0, [
      ⟨"NULL_CNT", 0, 16, .ro, .none, .never⟩,
      ⟨"OOR_CNT", 16, 16, .ro, .none, .never⟩]⟩,
  ⟨"ISL_CORE_PWD", 0x1008160, [(16, 0x100000), (8, 0x10000), (16, 0x400)], 0x0, [
      ⟨"STARVED", 0, 1, .w1c, .none, .never⟩,
      ⟨"RING", 1, 4, .ro, .none, .never⟩,
      ⟨"EPISODES", 16, 16, .ro, .none, .never⟩]⟩]

/-- Every register table of the block CORE. -/
def famsCORE : List RegFam := famsCORE0 ++ famsCORE1

/-- Register tables of the block HBR, part 0. -/
def famsHBR0 : List RegFam := [
  ⟨"HBR_CLAMP", 0x2000000, [(4, 0x100000)], 0x0, [
      ⟨"COUNT", 0, 32, .ro, .none, .never⟩]⟩,
  ⟨"HBR_CLAMP_LAST", 0x2000004, [(4, 0x100000)], 0x0, [
      ⟨"ADDR", 0, 28, .ro, .none, .never⟩,
      ⟨"BAR2", 28, 1, .ro, .none, .never⟩]⟩,
  ⟨"HBR_CAP_NEAR", 0x2000010, [(4, 0x100000)], 0x0, [
      ⟨"FREE", 0, 28, .ro, .none, .never⟩]⟩,
  ⟨"HBR_CAP_MID", 0x2000014, [(4, 0x100000)], 0x0, [
      ⟨"FREE", 0, 28, .ro, .none, .never⟩]⟩,
  ⟨"HBR_CAP_FAR", 0x2000018, [(4, 0x100000)], 0x0, [
      ⟨"FREE", 0, 28, .ro, .none, .never⟩]⟩,
  ⟨"HBR_ARB_CTRL", 0x2001000, [(4, 0x100000)], 0x140A0960, [
      ⟨"XFER_TTE", 0, 16, .rw, (.range 120 65535), .never⟩,
      ⟨"BG_MAX", 16, 8, .rw, (.range 1 255), .never⟩,
      ⟨"BG_SHARE", 24, 4, .rw, (.range 2 8), .never⟩,
      ⟨"FERRY_R_SHARE", 28, 4, .rw, (.range 0 8), .never⟩]⟩,
  ⟨"HBR_ARB_STARVE", 0x2001004, [(4, 0x100000)], 0x0, [
      ⟨"STREAM", 0, 8, .ro, .none, .never⟩,
      ⟨"AGE_MAX", 8, 24, .ro, .none, .never⟩]⟩,
  ⟨"HBR_MIG_CTRL", 0x2002000, [(4, 0x100000)], 0x5404201, [
      ⟨"EN", 0, 1, .rw, .none, .never⟩,
      ⟨"PROMOTE", 4, 8, .rw, (.range 1 255), .never⟩,
      ⟨"DEMOTE", 12, 8, .rw, .special, .never⟩,
      ⟨"EPOCH_LOG2", 20, 5, .rw, (.range 16 28), .never⟩,
      ⟨"MIG_SHARE", 25, 4, .rw, (.range 1 8), .never⟩]⟩,
  ⟨"HBR_MIG_CNT", 0x2002004, [(4, 0x100000)], 0x0, [
      ⟨"PROMOTED", 0, 16, .ro, .none, .never⟩,
      ⟨"DEMOTED", 16, 16, .ro, .none, .never⟩]⟩,
  ⟨"HBR_MIG_ABORT", 0x2002008, [(4, 0x100000)], 0x0, [
      ⟨"RESTART_CNT", 0, 16, .ro, .none, .never⟩,
      ⟨"ABORT_CNT", 16, 16, .ro, .none, .never⟩]⟩,
  ⟨"HBR_NEAR_ERR", 0x2003000, [(4, 0x100000)], 0x0, [
      ⟨"CE_CNT", 0, 16, .ro, .none, .never⟩,
      ⟨"UE_CNT", 16, 16, .ro, .none, .never⟩]⟩,
  ⟨"HBR_NEAR_RETIRED", 0x2003004, [(4, 0x100000)], 0x0, [
      ⟨"FRAMES", 0, 22, .ro, .none, .never⟩]⟩,
  ⟨"HBR_MID_ERR", 0x2003010, [(4, 0x100000), (2, 0x4)], 0x0, [
      ⟨"CRC_CNT", 0, 12, .ro, .none, .never⟩,
      ⟨"POISON_CNT", 12, 12, .ro, .none, .never⟩,
      ⟨"LINK_DOWN", 24, 1, .ro, .none, .never⟩]⟩,
  ⟨"HBR_FAR_ERR", 0x2003020, [(4, 0x100000)], 0x0, [
      ⟨"RETRY_CNT", 0, 16, .ro, .none, .never⟩,
      ⟨"UE_CNT", 16, 16, .ro, .none, .never⟩]⟩,
  ⟨"HBR_INFL_ERR", 0x2003030, [(4, 0x100000)], 0x0, [
      ⟨"CRC_FAIL", 0, 16, .ro, .none, .never⟩,
      ⟨"DECODE_FAIL", 16, 16, .ro, .none, .never⟩]⟩,
  ⟨"HBR_FTL_CTRL", 0x2004000, [(4, 0x100000)], 0xC1F4003D, [
      ⟨"RD_LIMIT", 0, 8, .rw, (.range 16 255), .never⟩,
      ⟨"WL_DELTA", 16, 12, .rw, (.range 100 4095), .never⟩,
      ⟨"ECC_REFRESH", 28, 4, .rw, (.range 4 15), .never⟩]⟩]

/-- Register tables of the block HBR, part 1. -/
def famsHBR1 : List RegFam := [
  ⟨"HBR_FTL_STATUS", 0x2004004, [(4, 0x100000)], 0x0, [
      ⟨"MOUNTED", 0, 1, .ro, .none, .never⟩,
      ⟨"READ_ONLY", 1, 1, .ro, .none, .never⟩,
      ⟨"MOUNT_MS", 2, 16, .ro, .none, .never⟩]⟩,
  ⟨"HBR_FTL_CNT", 0x2004008, [(4, 0x100000)], 0x0, [
      ⟨"REFRESH_CNT", 0, 16, .ro, .none, .never⟩,
      ⟨"RETIRED_BLK", 16, 16, .ro, .none, .never⟩]⟩,
  ⟨"HBR_FTL_WEAR", 0x200400C, [(4, 0x100000)], 0x0, [
      ⟨"ERASE_MIN", 0, 16, .ro, .none, .never⟩,
      ⟨"ERASE_MAX", 16, 16, .ro, .none, .never⟩]⟩,
  ⟨"HBR_FERRY_CTRL", 0x2060000, [(4, 0x100000)], 0x461, [
      ⟨"EN", 0, 1, .rw, .none, .never⟩,
      ⟨"HALF_LIFE_LOG2", 4, 4, .rw, (.range 0 12), .never⟩,
      ⟨"MAX_INFLIGHT", 8, 4, .rw, (.range 1 8), .never⟩]⟩,
  ⟨"HBR_FERRY_CACHE_BASE", 0x2060004, [(4, 0x100000)], 0x0, [
      ⟨"BASE_PAGE", 0, 22, .rwl, (.range 4096 3145727), .ferryActive⟩]⟩,
  ⟨"HBR_FERRY_CACHE_PAGES", 0x2060008, [(4, 0x100000)], 0x0, [
      ⟨"PAGES", 0, 21, .rwl, .special, .ferryActive⟩]⟩,
  ⟨"HBR_FERRY_STATUS", 0x206000C, [(4, 0x100000)], 0x0, [
      ⟨"ACTIVE", 0, 1, .ro, .none, .never⟩,
      ⟨"INFLIGHT", 1, 4, .ro, .none, .never⟩,
      ⟨"CACHED", 16, 16, .ro, .none, .never⟩]⟩,
  ⟨"HBR_FERRY_HIT", 0x2060010, [(4, 0x100000)], 0x0, [
      ⟨"COUNT", 0, 32, .ro, .none, .never⟩]⟩,
  ⟨"HBR_FERRY_MISS", 0x2060014, [(4, 0x100000)], 0x0, [
      ⟨"COUNT", 0, 32, .ro, .none, .never⟩]⟩,
  ⟨"HBR_FERRY_BYPASS", 0x2060018, [(4, 0x100000)], 0x0, [
      ⟨"COUNT", 0, 32, .ro, .none, .never⟩]⟩,
  ⟨"HBR_FERRY_FAIL", 0x206001C, [(4, 0x100000)], 0x0, [
      ⟨"COUNT", 0, 32, .ro, .none, .never⟩]⟩,
  ⟨"HBR_OBJ_CMD", 0x2070000, [(4, 0x100000)], 0x0, [
      ⟨"OP", 0, 3, .wo, (.ge 7 0), .never⟩]⟩,
  ⟨"HBR_OBJ_ARG", 0x2070004, [(4, 0x100000), (3, 0x4)], 0x0, [
      ⟨"ARG", 0, 32, .rw, .none, .never⟩]⟩,
  ⟨"HBR_OBJ_STATUS", 0x2070010, [(4, 0x100000)], 0x0, [
      ⟨"BUSY", 0, 1, .ro, .none, .never⟩,
      ⟨"CODE", 8, 8, .ro, .none, .never⟩,
      ⟨"WDROP_CNT", 16, 16, .ro, .none, .never⟩]⟩]

/-- Every register table of the block HBR. -/
def famsHBR : List RegFam := famsHBR0 ++ famsHBR1

/-- Register tables of the block OPT, part 0. -/
def famsOPT0 : List RegFam := [
  ⟨"OPT_CLAMP", 0x2400000, [(4, 0x100000)], 0x0, [
      ⟨"COUNT", 0, 32, .ro, .none, .never⟩]⟩,
  ⟨"OPT_CLAMP_LAST", 0x2400004, [(4, 0x100000)], 0x0, [
      ⟨"ADDR", 0, 28, .ro, .none, .never⟩,
      ⟨"BAR2", 28, 1, .ro, .none, .never⟩]⟩,
  ⟨"OPT_LANE", 0x2400100, [(4, 0x100000), (16, 0x4)], 0x0, [
      ⟨"SIGNAL", 0, 1, .ro, .none, .never⟩,
      ⟨"LOCK", 1, 1, .ro, .none, .never⟩,
      ⟨"UNCORR_CNT", 2, 14, .ro, .none, .never⟩,
      ⟨"CORR_CNT", 16, 16, .ro, .none, .never⟩]⟩,
  ⟨"OPT_REFL_CMD", 0x2401000, [(4, 0x100000)], 0x0, [
      ⟨"LANE", 0, 4, .rw, .none, .never⟩,
      ⟨"START", 4, 1, .w1s, .none, .never⟩,
      ⟨"FORCE", 5, 1, .rw, .none, .never⟩]⟩,
  ⟨"OPT_REFL_STATUS", 0x2401004, [(4, 0x100000)], 0x0, [
      ⟨"BUSY", 0, 1, .ro, .none, .never⟩,
      ⟨"DIRTY", 1, 1, .ro, .none, .never⟩,
      ⟨"EVENTS", 2, 4, .ro, .none, .never⟩,
      ⟨"REFUSED", 6, 1, .w1c, .none, .never⟩]⟩,
  ⟨"OPT_REFL_CTRL", 0x2401008, [(4, 0x100000)], 0xF50, [
      ⟨"CLEAN_REFL", 0, 8, .rw, .none, .never⟩,
      ⟨"CLEAN_LOSS", 8, 8, .rw, .none, .never⟩]⟩,
  ⟨"OPT_REFL_EVT", 0x2401010, [(4, 0x100000), (8, 0x4)], 0x0, [
      ⟨"DIST_CM", 0, 15, .ro, .none, .never⟩,
      ⟨"REFL", 15, 8, .ro, .none, .never⟩,
      ⟨"LOSS", 23, 8, .ro, .none, .never⟩,
      ⟨"CLEAN", 31, 1, .ro, .none, .never⟩]⟩]

/-- Every register table of the block OPT. -/
def famsOPT : List RegFam := famsOPT0

/-- Register tables of the block RVR, part 0. -/
def famsRVR0 : List RegFam := [
  ⟨"RVR_EP_ID", 0x3000000, [], 0x0, [
      ⟨"ID", 0, 16, .rws, .none, .jobLock⟩,
      ⟨"SUPERSEDED", 16, 1, .ro, .none, .never⟩]⟩,
  ⟨"RVR_EP_ALIAS", 0x3000004, [], 0x0, [
      ⟨"ALIAS", 0, 16, .rwl, .none, .aliasValid⟩,
      ⟨"TAKE", 16, 1, .w1s, .none, .never⟩,
      ⟨"VALID", 17, 1, .ro, .none, .never⟩]⟩,
  ⟨"RVR_MODE", 0x3000008, [], 0x0, [
      ⟨"BW", 0, 1, .rwl, .none, .jobLock⟩]⟩,
  ⟨"RVR_BOARD_EP", 0x3000010, [(4, 0x4)], 0x0, [
      ⟨"EP", 0, 16, .rws, .none, .never⟩,
      ⟨"V", 16, 1, .rws, .none, .never⟩]⟩,
  ⟨"RVR_PORT_CTRL", 0x3000100, [(16, 0x20)], 0x9, [
      ⟨"EN", 0, 1, .rw, .none, .never⟩,
      ⟨"FULL_TRAIN", 1, 1, .w1s, .none, .never⟩,
      ⟨"RTIMER_US", 2, 5, .rw, (.range 2 20), .never⟩,
      ⟨"CLR_FENCE", 7, 1, .w1s, .none, .never⟩,
      ⟨"MIN_WIDTH", 8, 2, .rw, (.ge 3 2), .never⟩]⟩,
  ⟨"RVR_PORT_STATUS", 0x3000104, [(16, 0x20)], 0x0, [
      ⟨"STATE", 0, 3, .ro, .none, .never⟩,
      ⟨"WIDTH", 3, 2, .ro, .none, .never⟩,
      ⟨"REASON", 5, 4, .ro, .none, .never⟩,
      ⟨"NBR_EP", 9, 16, .ro, .none, .never⟩,
      ⟨"NBR_PORT", 25, 4, .ro, .none, .never⟩]⟩,
  ⟨"RVR_PORT_RTT", 0x3000108, [(16, 0x20)], 0x0, [
      ⟨"RTT", 0, 16, .ro, .none, .never⟩,
      ⟨"TRAIN_MS", 16, 16, .ro, .none, .never⟩]⟩,
  ⟨"RVR_PORT_ERR", 0x300010C, [(16, 0x20)], 0x0, [
      ⟨"CRC_CNT", 0, 16, .ro, .none, .never⟩,
      ⟨"NAK_CNT", 16, 16, .ro, .none, .never⟩]⟩,
  ⟨"RVR_PORT_REPLAY", 0x3000110, [(16, 0x20)], 0x0, [
      ⟨"TMO_CNT", 0, 16, .ro, .none, .never⟩,
      ⟨"DUP_CNT", 16, 16, .ro, .none, .never⟩]⟩,
  ⟨"RVR_PORT_GAP", 0x3000114, [(16, 0x20)], 0x0, [
      ⟨"GAP_CNT", 0, 16, .ro, .none, .never⟩,
      ⟨"RETRAIN_CNT", 16, 16, .ro, .none, .never⟩]⟩,
  ⟨"RVR_EPOCH_CMD", 0x3001000, [], 0x0, [
      ⟨"OP", 0, 3, .wo, (.ge 5 0), .never⟩]⟩,
  ⟨"RVR_EPOCH_STATUS", 0x3001004, [], 0x0, [
      ⟨"EPOCH", 0, 16, .ro, .none, .never⟩,
      ⟨"PHASE", 16, 3, .ro, .none, .never⟩,
      ⟨"DRAIN_TMO", 19, 1, .w1c, .none, .never⟩]⟩,
  ⟨"RVR_TOPO_IDX", 0x3001010, [], 0x10000, [
      ⟨"EP", 0, 16, .rw, .none, .never⟩,
      ⟨"BANK", 16, 1, .rw, .none, .never⟩]⟩,
  ⟨"RVR_TOPO_CMD", 0x3001014, [], 0x0, [
      ⟨"OP", 0, 2, .wo, (.ge 3 0), .never⟩]⟩,
  ⟨"RVR_TOPO_CTL", 0x3001018, [], 0x0, [
      ⟨"REDIRECT", 0, 16, .rw, .none, .never⟩,
      ⟨"REDIR", 16, 1, .rw, .none, .never⟩,
      ⟨"RVALID", 17, 4, .rw, .none, .never⟩,
      ⟨"FAILED", 21, 4, .ro, .none, .never⟩,
      ⟨"IN_USE", 25, 2, .ro, .none, .never⟩,
      ⟨"ANN", 27, 1, .rw, .none, .never⟩]⟩,
  ⟨"RVR_TOPO_ROUTE", 0x3001020, [(8, 0x4)], 0x0, [
      ⟨"ROUTE", 0, 32, .rw, .none, .never⟩]⟩]

/-- Register tables of the block RVR, part 1. -/
def famsRVR1 : List RegFam := [
  ⟨"RVR_TIME_CTRL", 0x3002000, [], 0x0, [
      ⟨"ROLE", 0, 2, .rws, (.ge 3 0), .never⟩,
      ⟨"PARENT", 2, 4, .rws, .none, .never⟩]⟩,
  ⟨"RVR_TIME_STATUS", 0x3002004, [], 0x0, [
      ⟨"LOCKED", 0, 1, .ro, .none, .never⟩,
      ⟨"FAR", 1, 1, .ro, .none, .never⟩,
      ⟨"DEEP", 2, 1, .ro, .none, .never⟩,
      ⟨"DEPTH", 3, 4, .ro, .none, .never⟩]⟩,
  ⟨"RVR_HB_CTRL", 0x3003000, [], 0x30FA, [
      ⟨"PERIOD_US", 0, 10, .rws, (.range 50 1000), .never⟩,
      ⟨"MISS", 10, 6, .rws, (.range 4 63), .never⟩]⟩,
  ⟨"RVR_HB_TGT", 0x3003010, [(4, 0x4)], 0x0, [
      ⟨"EP", 0, 16, .rws, .none, .never⟩,
      ⟨"V", 16, 1, .rws, .none, .never⟩]⟩,
  ⟨"RVR_WATCH", 0x3003020, [(4, 0x4)], 0x0, [
      ⟨"EP", 0, 16, .rws, .none, .never⟩,
      ⟨"ARM", 16, 1, .rws, .none, .never⟩,
      ⟨"LOST", 17, 1, .w1c, .none, .never⟩,
      ⟨"TAKEN", 18, 1, .ro, .none, .never⟩]⟩,
  ⟨"RVR_E2E_CTRL", 0x3004000, [], 0x2710, [
      ⟨"TMO_US", 0, 20, .rw, (.range 100 1000000), .never⟩]⟩,
  ⟨"RVR_E2E_CNT", 0x3004004, [], 0x0, [
      ⟨"RESEND_CNT", 0, 16, .ro, .none, .never⟩,
      ⟨"DUP_CNT", 16, 16, .ro, .none, .never⟩]⟩,
  ⟨"RVR_LOST", 0x3004008, [], 0x0, [
      ⟨"EP", 0, 16, .ro, .none, .never⟩,
      ⟨"LOST_CNT", 16, 16, .ro, .none, .never⟩]⟩,
  ⟨"RVR_ROUTE_SW", 0x300400C, [], 0x0, [
      ⟨"FAIL_SW_CNT", 0, 16, .ro, .none, .never⟩,
      ⟨"ABSORB_CNT", 16, 16, .ro, .none, .never⟩]⟩,
  ⟨"RVR_CLAMP", 0x3005000, [], 0x0, [
      ⟨"COUNT", 0, 32, .ro, .none, .never⟩]⟩,
  ⟨"RVR_CLAMP_LAST", 0x3005004, [], 0x0, [
      ⟨"ADDR", 0, 28, .ro, .none, .never⟩,
      ⟨"BAR2", 28, 1, .ro, .none, .never⟩]⟩]

/-- Every register table of the block RVR. -/
def famsRVR : List RegFam := famsRVR0 ++ famsRVR1

/-- Register tables of the block TEN, part 0. -/
def famsTEN0 : List RegFam := [
  ⟨"TEN_VF_CTRL", 0x4000000, [(4096, 0x40)], 0x10, [
      ⟨"EN", 0, 1, .rws, .none, .never⟩,
      ⟨"QOS", 1, 3, .rws, .none, .never⟩,
      ⟨"MSIX_CNT", 4, 4, .rws, (.range 1 8), .never⟩,
      ⟨"FLR_BUSY", 8, 1, .ro, .none, .never⟩]⟩,
  ⟨"TEN_VF_SEED_LO", 0x4000004, [(4096, 0x40)], 0x0, [
      ⟨"SEED", 0, 32, .rwl, .none, .seed⟩]⟩,
  ⟨"TEN_VF_SEED_HI", 0x4000008, [(4096, 0x40)], 0x0, [
      ⟨"SEED", 0, 32, .rwl, .none, .seed⟩]⟩,
  ⟨"TEN_VF_ACCT", 0x400000C, [(4096, 0x40)], 0x0, [
      ⟨"LOADING", 0, 8, .ro, .none, .never⟩,
      ⟨"RUNNING", 8, 8, .ro, .none, .never⟩,
      ⟨"SAVED", 16, 8, .ro, .none, .never⟩]⟩,
  ⟨"TEN_VF_ENDED", 0x4000010, [(4096, 0x40)], 0x0, [
      ⟨"ENDED", 0, 32, .ro, .none, .never⟩]⟩,
  ⟨"TEN_VF_CAUSE", 0x4000014, [(4096, 0x40)], 0x0, [
      ⟨"CAUSE", 0, 9, .w1c, .none, .never⟩]⟩,
  ⟨"TEN_VF_MASK", 0x4000018, [(4096, 0x40)], 0x0, [
      ⟨"MASK", 0, 9, .rw, .none, .never⟩]⟩,
  ⟨"TEN_VF_VEC", 0x400001C, [(4096, 0x40)], 0x0, [
      ⟨"VEC", 0, 27, .rw, .special, .never⟩]⟩,
  ⟨"TEN_VF_TOKMOD", 0x4000020, [(4096, 0x40)], 0x32, [
      ⟨"TOK_MOD_US", 0, 16, .rw, .none, .never⟩]⟩,
  ⟨"TEN_PF_CAUSE", 0x4040000, [], 0x0, [
      ⟨"CAUSE", 0, 32, .w1c, .none, .never⟩]⟩,
  ⟨"TEN_PF_MASK", 0x4040004, [], 0x0, [
      ⟨"MASK", 0, 32, .rw, .none, .never⟩]⟩,
  ⟨"TEN_PF_VEC", 0x4040010, [(6, 0x4)], 0x0, [
      ⟨"VEC", 0, 30, .rw, .none, .never⟩]⟩,
  ⟨"TEN_PART_CTRL", 0x4100000, [(128, 0x40)], 0x0, [
      ⟨"STATE", 0, 3, .ro, .none, .never⟩,
      ⟨"PF", 3, 1, .ro, .none, .never⟩,
      ⟨"OWNER", 4, 12, .ro, .none, .never⟩,
      ⟨"FLOOR", 16, 8, .rws, .none, .never⟩]⟩,
  ⟨"TEN_PART_CL", 0x4100004, [(128, 0x40), (4, 0x4)], 0x0, [
      ⟨"MASK", 0, 32, .ro, .none, .never⟩]⟩,
  ⟨"TEN_PART_FAULT", 0x4100014, [(128, 0x40)], 0x0, [
      ⟨"CODE", 0, 8, .ro, .none, .never⟩,
      ⟨"LCORE", 8, 11, .ro, .none, .never⟩,
      ⟨"VALID", 19, 1, .w1c, .none, .never⟩,
      ⟨"OVERWRITTEN", 20, 1, .w1c, .none, .never⟩,
      ⟨"COUNT", 21, 11, .ro, .none, .never⟩]⟩,
  ⟨"TEN_PART_FTICK", 0x4100018, [(128, 0x40)], 0x0, [
      ⟨"TICK", 0, 32, .ro, .none, .never⟩]⟩]

/-- Register tables of the block TEN, part 1. -/
def famsTEN1 : List RegFam := [
  ⟨"TEN_PART_ABSORB", 0x410001C, [(128, 0x40)], 0x0, [
      ⟨"COUNT", 0, 32, .ro, .none, .never⟩]⟩,
  ⟨"TEN_PART_SLOW", 0x4100020, [(128, 0x40)], 0x0, [
      ⟨"SLOW_US", 0, 32, .ro, .none, .never⟩]⟩,
  ⟨"TEN_PART_LOSS", 0x4100024, [(128, 0x40)], 0x0, [
      ⟨"LOSS_CYC", 0, 32, .ro, .none, .never⟩]⟩,
  ⟨"TEN_PART_STATUS", 0x4100028, [(128, 0x40)], 0x0, [
      ⟨"DRAIN_CUT", 0, 1, .w1c, .none, .never⟩,
      ⟨"JOB_CODE", 8, 8, .ro, .none, .never⟩,
      ⟨"LAST_CODE", 16, 8, .ro, .none, .never⟩]⟩,
  ⟨"TEN_CMD", 0x4200000, [], 0x0, [
      ⟨"OP", 0, 3, .wo, .none, .never⟩]⟩,
  ⟨"TEN_ARG", 0x4200004, [(6, 0x4)], 0x0, [
      ⟨"ARG", 0, 32, .rw, .none, .never⟩]⟩,
  ⟨"TEN_CMD_STATUS", 0x4200020, [], 0x0, [
      ⟨"BUSY", 0, 1, .ro, .none, .never⟩,
      ⟨"CODE", 8, 8, .ro, .none, .never⟩]⟩,
  ⟨"TEN_KEY_IDX", 0x4300000, [], 0x0, [
      ⟨"SLOT", 0, 13, .rw, (.range 0 4096), .never⟩]⟩,
  ⟨"TEN_KEY_CMD", 0x4300004, [], 0x0, [
      ⟨"WRITE", 0, 1, .wo, .none, .never⟩]⟩,
  ⟨"TEN_KEY_DATA", 0x4300010, [(16, 0x4)], 0x0, [
      ⟨"DATA", 0, 32, .wo, .none, .never⟩]⟩,
  ⟨"TEN_KEY_STATE", 0x4300050, [], 0x0, [
      ⟨"SET", 0, 1, .ro, .none, .never⟩]⟩,
  ⟨"TEN_CTRL", 0x4400000, [], 0x1403E8, [
      ⟨"DRAIN_MAX_US", 0, 16, .rws, (.range 100 65535), .never⟩,
      ⟨"WINDOW_US", 16, 16, .rws, (.range 5 1000), .never⟩]⟩,
  ⟨"TEN_FREE_ABSORB", 0x4400004, [], 0x0, [
      ⟨"COUNT", 0, 32, .ro, .none, .never⟩]⟩,
  ⟨"TEN_CLAMP", 0x4400008, [], 0x0, [
      ⟨"COUNT", 0, 32, .ro, .none, .never⟩]⟩,
  ⟨"TEN_CLAMP_LAST", 0x440000C, [], 0x0, [
      ⟨"ADDR", 0, 28, .ro, .none, .never⟩,
      ⟨"BAR2", 28, 1, .ro, .none, .never⟩]⟩]

/-- Every register table of the block TEN. -/
def famsTEN : List RegFam := famsTEN0 ++ famsTEN1

/-- Register tables of the block SRV, part 0. -/
def famsSRV0 : List RegFam := [
  ⟨"SRV_STRM_CMD", 0x5000000, [], 0x0, [
      ⟨"OP", 0, 2, .wo, (.ge 3 0), .never⟩]⟩,
  ⟨"SRV_STRM_ARG", 0x5000004, [(5, 0x4)], 0x0, [
      ⟨"ARG", 0, 32, .rw, .none, .never⟩]⟩,
  ⟨"SRV_STRM_STATUS", 0x5000020, [], 0x0, [
      ⟨"BUSY", 0, 1, .ro, .none, .never⟩,
      ⟨"CODE", 8, 8, .ro, .none, .never⟩]⟩,
  ⟨"SRV_BIND0", 0x5001000, [(32, 0x40)], 0x0, [
      ⟨"MODEL", 0, 10, .rwl, .none, .bindEn⟩,
      ⟨"PART", 10, 7, .rwl, .none, .bindEn⟩,
      ⟨"EN", 17, 1, .rw, .none, .never⟩,
      ⟨"FAILOVER", 18, 1, .rwl, .none, .bindEn⟩,
      ⟨"PFX_SHARED", 19, 1, .rwl, .none, .bindEn⟩,
      ⟨"STANDBY", 20, 1, .rwl, .none, .bindEn⟩]⟩,
  ⟨"SRV_BIND1", 0x5001004, [(32, 0x40)], 0x0, [
      ⟨"SLOTS_M1", 0, 8, .rwl, .none, .bindEn⟩,
      ⟨"HOME_BASE", 8, 8, .rwl, .none, .bindEn⟩,
      ⟨"HOME_CNT", 16, 9, .rwl, .special, .bindEn⟩]⟩,
  ⟨"SRV_BIND2", 0x5001008, [(32, 0x40)], 0x4001000, [
      ⟨"SHARDS_M1", 0, 6, .rwl, .none, .bindEn⟩,
      ⟨"PF_CHUNK", 6, 8, .rwl, (.range 1 255), .bindEn⟩,
      ⟨"PF_STEP", 14, 16, .rwl, (.range 1 65535), .bindEn⟩]⟩,
  ⟨"SRV_BIND3", 0x500100C, [(32, 0x40)], 0x0, [
      ⟨"FEED_ROUTE", 0, 12, .rwl, .none, .bindEn⟩,
      ⟨"BUDDY", 16, 16, .rwl, .none, .bindEn⟩]⟩,
  ⟨"SRV_BIND4", 0x5001010, [(32, 0x40)], 0x0, [
      ⟨"BT_OBJ", 0, 32, .rwl, .none, .bindEn⟩]⟩,
  ⟨"SRV_BIND5", 0x5001014, [(32, 0x40)], 0x0, [
      ⟨"HIST_OBJ", 0, 32, .rwl, .none, .bindEn⟩]⟩,
  ⟨"SRV_BIND6", 0x5001018, [(32, 0x40)], 0x0, [
      ⟨"KV_OBJ", 0, 32, .rwl, .none, .bindEn⟩]⟩,
  ⟨"SRV_BIND7", 0x500101C, [(32, 0x40)], 0x0, [
      ⟨"KV_BASE", 0, 24, .rwl, .none, .bindEn⟩]⟩,
  ⟨"SRV_BIND8", 0x5001020, [(32, 0x40)], 0x0, [
      ⟨"KV_CNT", 0, 24, .rwl, .none, .bindEn⟩]⟩,
  ⟨"SRV_BIND9", 0x5001024, [(32, 0x40)], 0x0, [
      ⟨"BLK_BYTES", 0, 16, .rwl, .none, .bindEn⟩]⟩,
  ⟨"SRV_PFX_CTRL", 0x5002000, [], 0x0, [
      ⟨"PFX_OBJ", 0, 32, .rw, .none, .never⟩]⟩,
  ⟨"SRV_PFX_CNT", 0x5002004, [], 0x0, [
      ⟨"MISMATCH", 0, 16, .ro, .none, .never⟩,
      ⟨"SKIP", 16, 16, .ro, .none, .never⟩]⟩,
  ⟨"SRV_PFX_HIT", 0x5002008, [], 0x0, [
      ⟨"COUNT", 0, 32, .ro, .none, .never⟩]⟩]

/-- Register tables of the block SRV, part 1. -/
def famsSRV1 : List RegFam := [
  ⟨"SRV_PFX_MISS", 0x500200C, [], 0x0, [
      ⟨"COUNT", 0, 32, .ro, .none, .never⟩]⟩,
  ⟨"SRV_SAMP_CNT", 0x5003000, [], 0x0, [
      ⟨"NAN_END", 0, 8, .ro, .none, .never⟩,
      ⟨"TRING_HOLD", 8, 8, .ro, .none, .never⟩,
      ⟨"KV_HOLD", 16, 8, .ro, .none, .never⟩,
      ⟨"MIR_HOLD", 24, 8, .ro, .none, .never⟩]⟩,
  ⟨"SRV_BUD_LEVEL_LO", 0x5100000, [(4096, 0x10)], 0x0, [
      ⟨"V", 0, 32, .rw, .none, .never⟩]⟩,
  ⟨"SRV_BUD_LEVEL_HI", 0x5100004, [(4096, 0x10)], 0x0, [
      ⟨"V", 0, 24, .rw, .special, .never⟩]⟩,
  ⟨"SRV_BUD_RATE", 0x5100008, [(4096, 0x10)], 0x0, [
      ⟨"V", 0, 32, .rw, .none, .never⟩]⟩,
  ⟨"SRV_BUD_CAP", 0x510000C, [(4096, 0x10)], 0x0, [
      ⟨"V", 0, 32, .rw, (.range 0 8388607), .never⟩]⟩]

/-- Every register table of the block SRV. -/
def famsSRV : List RegFam := famsSRV0 ++ famsSRV1

/-- Register tables of the block DB, part 0. -/
def famsDB0 : List RegFam := [
  ⟨"DB_ID", 0x10000000, [(4096, 0x10000)], 0x10000, [
      ⟨"TENANT", 0, 12, .ro, .none, .never⟩,
      ⟨"EN", 12, 1, .ro, .none, .never⟩,
      ⟨"QOS", 13, 3, .ro, .none, .never⟩,
      ⟨"MSIX_CNT", 16, 4, .ro, .none, .never⟩,
      ⟨"FLR_BUSY", 20, 1, .ro, .none, .never⟩]⟩,
  ⟨"DB_CLAMP", 0x10000004, [(4096, 0x10000)], 0x0, [
      ⟨"COUNT", 0, 32, .ro, .none, .never⟩]⟩,
  ⟨"DB_CAUSE", 0x10000010, [(4096, 0x10000)], 0x0, [
      ⟨"CAUSE", 0, 9, .w1c, .none, .never⟩]⟩,
  ⟨"DB_MASK", 0x10000014, [(4096, 0x10000)], 0x0, [
      ⟨"MASK", 0, 9, .rw, .none, .never⟩]⟩,
  ⟨"DB_VEC", 0x10000018, [(4096, 0x10000)], 0x0, [
      ⟨"VEC", 0, 27, .rw, .special, .never⟩]⟩,
  ⟨"DB_TOKMOD", 0x1000001C, [(4096, 0x10000)], 0x32, [
      ⟨"TOK_MOD_US", 0, 16, .rw, .none, .never⟩]⟩,
  ⟨"DB_LEVEL_LO", 0x10000020, [(4096, 0x10000)], 0x0, [
      ⟨"LEVEL", 0, 32, .ro, .none, .never⟩]⟩,
  ⟨"DB_LEVEL_HI", 0x10000024, [(4096, 0x10000)], 0x0, [
      ⟨"LEVEL", 0, 24, .ro, .none, .never⟩]⟩,
  ⟨"DB_ACCT", 0x10000028, [(4096, 0x10000)], 0x0, [
      ⟨"ACCT", 0, 24, .ro, .none, .never⟩]⟩,
  ⟨"DB_ENDED", 0x1000002C, [(4096, 0x10000)], 0x0, [
      ⟨"ENDED", 0, 32, .ro, .none, .never⟩]⟩,
  ⟨"DB_PSEL", 0x10000040, [(4096, 0x10000)], 0x0, [
      ⟨"PART", 0, 7, .rw, .none, .never⟩]⟩,
  ⟨"DB_PINFO", 0x10000044, [(4096, 0x10000)], 0x0, [
      ⟨"STATE", 0, 3, .ro, .none, .never⟩,
      ⟨"OWNED", 3, 1, .ro, .none, .never⟩,
      ⟨"JOB_CODE", 8, 8, .ro, .none, .never⟩,
      ⟨"LAST_CODE", 16, 8, .ro, .none, .never⟩,
      ⟨"FLT_CODE", 24, 8, .ro, .none, .never⟩]⟩,
  ⟨"DB_PFLT", 0x10000048, [(4096, 0x10000)], 0x0, [
      ⟨"LCORE", 0, 11, .ro, .none, .never⟩,
      ⟨"VALID", 11, 1, .ro, .none, .never⟩]⟩,
  ⟨"DB_CMD", 0x10000100, [(4096, 0x10000)], 0x0, [
      ⟨"OP", 0, 8, .wo, .none, .never⟩]⟩,
  ⟨"DB_ARG", 0x10000104, [(4096, 0x10000), (6, 0x4)], 0x0, [
      ⟨"ARG", 0, 32, .rw, .none, .never⟩]⟩,
  ⟨"DB_CMD_STATUS", 0x10000120, [(4096, 0x10000)], 0x0, [
      ⟨"BUSY", 0, 1, .ro, .none, .never⟩,
      ⟨"CODE", 8, 8, .ro, .none, .never⟩]⟩]

/-- Register tables of the block DB, part 1. -/
def famsDB1 : List RegFam := [
  ⟨"DB_ASYNC", 0x10000124, [(4096, 0x10000)], 0x0, [
      ⟨"LOAD_CODE", 0, 8, .ro, .none, .never⟩,
      ⟨"LOAD_PART", 8, 7, .ro, .none, .never⟩,
      ⟨"OBJ_BUSY", 15, 1, .ro, .none, .never⟩,
      ⟨"OBJ_CODE", 16, 8, .ro, .none, .never⟩]⟩,
  ⟨"DB_OBJ_RET", 0x10000128, [(4096, 0x10000)], 0x0, [
      ⟨"HANDLE", 0, 32, .ro, .none, .never⟩]⟩,
  ⟨"DB_REQHEAD", 0x10008000, [(4096, 0x10000), (8192, 0x4)], 0x0, [
      ⟨"HEAD_EVEN", 0, 16, .ro, .none, .never⟩,
      ⟨"HEAD_ODD", 16, 16, .ro, .none, .never⟩]⟩]

/-- Every register table of the block DB. -/
def famsDB : List RegFam := famsDB0 ++ famsDB1

/-- Every register table of the block that holds key `a` (R581). -/
def famsAt (a : Nat) : List RegFam :=
  if a < 0x100000 then famsHUB
  else if a < 0x200000 then famsMGT
  else if a < 0x1000000 then []
  else if a < 0x2000000 then
    if a % 0x100000 < 0x80000 ∧ 0x8000 ≤ a % 0x10000 then famsCORE else famsISL
  else if a < 0x2400000 then famsHBR
  else if a < 0x2800000 then famsOPT
  else if a < 0x3000000 then []
  else if a < 0x4000000 then famsRVR
  else if a < 0x5000000 then famsTEN
  else if a < 0x6000000 then famsSRV
  else if a < 0x10000000 then []
  else if a < 0x20000000 then famsDB
  else []

/-- The indices of key offset `o` under the index counts and strides `dims`, where it is a register of the table. -/
def indicesOf (dims : List (Nat × Nat)) (o : Nat) : Option (List Nat) :=
  match dims with
  | [] => if o = 0 then some [] else none
  | (count, stride) :: rest =>
    if o / stride < count then
      match indicesOf rest (o % stride) with
      | some is => some (o / stride :: is)
      | none => none
    else none

/-- The first table of `fs` with a register at key `a`, and its indices. -/
def findFam (fs : List RegFam) (a : Nat) : Option (RegFam × List Nat) :=
  match fs with
  | [] => none
  | f :: rest =>
    if f.addr ≤ a then
      match indicesOf f.dims (a - f.addr) with
      | some is => some (f, is)
      | none => findFam rest a
    else findFam rest a

/-- The register at key `a`: its table and its indices. -/
def regAt (a : Nat) : Option (RegFam × List Nat) :=
  findFam (famsAt a) a

/-- The value the register at key `a` holds at reset; 0 where there is none. -/
def resetAt (a : Nat) : Word :=
  match regAt a with
  | some (f, is) => if f.addr = 0x1080010 then govStepReset (is.getLastD 0) else BitVec.ofNat 32 f.rst
  | none => 0

/-- The bits of the register at key `a` that a package warm reset keeps: its RWS fields (R12, R16). -/
def keptMask (a : Nat) : Word :=
  match regAt a with
  | some (f, _) =>
    f.fields.foldl (fun m d => if d.acc = .rws then m ||| BitVec.ofNat 32 ((2 ^ d.width - 1) <<< d.lo) else m) 0
  | none => 0

end Sys2Proof.Machine
end

