-- ==== Sys2Proof/Config.lean ====
section
/-! DEFINITION. What one part fixes and what the spec leaves open: every constant here is opaque, so nothing can be
proved about its value. A free value of the state's counter `free` is `Config.freeBits` applied to it; a value that
depends on operands only is a function of them. -/

namespace Sys2Proof

/-- A value nothing constrains, fresh for every number drawn from the state's counter. DESIGN CHOICE, log 13. -/
opaque Config.freeBits (w : Nat) (n : Nat) : BitVec w

/-- The result the special-function unit would write for function code `fn` and an FP32 input, before the rules of
R181, R183 and R186 (R185: not fixed bit for bit). DESIGN CHOICE, log 18. -/
opaque Config.sfu (fn : Nat) (x : Word) : Word

/-- Which neighbour a faithful result takes when the exact value lies between two FP32 numbers (R182). DESIGN CHOICE, log 18. -/
opaque Config.faithfulUp (fn : Nat) (x : Word) : Bool

/-- The rounding seed of a job that the physical function owns: R87 names a tenant's seed only. DESIGN CHOICE, log 19. -/
opaque Config.pfSeed : DWord

/-- The AES-256 XTS transforms of IEEE 1619 (R322): key pair, tweak, data. DESIGN CHOICE, log 20. -/
opaque Config.xtsEncrypt (data tweak : BitVec 256) (sector : Nat) (bytes : List Byte) : List Byte
/-- DESIGN CHOICE, log 20. -/
opaque Config.xtsDecrypt (data tweak : BitVec 256) (sector : Nat) (bytes : List Byte) : List Byte

/-- SHA-384 of FIPS 180-4 (R351, R353, R560, R563). DESIGN CHOICE, log 20. -/
opaque Config.sha384 (bytes : List Byte) : BitVec 384

/-- ECDSA P-384 verification of FIPS 186-5: public key, digest, r and s (R353, R560, R563). DESIGN CHOICE, log 20. -/
opaque Config.ecdsaVerify (key : BitVec 768) (digest : BitVec 384) (r s : BitVec 384) : Bool

/-- The firmware key whose digest is fused (R560). DESIGN CHOICE, log 20. -/
opaque Config.firmwareKey : BitVec 768

/-- What the boot flash holds when the package is first powered: its slots are the maker's. DESIGN CHOICE, log 21. -/
opaque Config.flashSlot (slot : Nat) : List Byte

/-- The worst-case latency in NCLK that the loader computes from a sender key to a leaf key, causeway margin included
(R57, R139, R358): the spec gives the bound and no figures per hop. DESIGN CHOICE, log 22. -/
opaque Config.routeLatency (source leaf : Nat) : Nat

/-- The send credits, in granules or slots, that a core holds for a destination outside its partition's rings when a
flask is written: of a FIFO, or of a remote package's ring (R114, R226, R627: the spec gives no number). DESIGN CHOICE, log 23. -/
opaque Config.sendCredit (core slot route : Nat) : Nat

/-- The erase block that the FTL of a harbor gives a segment of an object, which is its own affair (R326). DESIGN CHOICE, log 24. -/
opaque Config.flashBlock (harbor segment : Nat) : Nat

/-- The number of tiles of an expert whose object header page never landed (R291: every tile of it is poured, and none
is known). DESIGN CHOICE, log 25. -/
opaque Config.expertTiles (model expert : Nat) : Nat

/-- The fused I3C provisioned ID (R565). DESIGN CHOICE, log 26. -/
opaque Config.i3cPid : BitVec 48

/-- Cerpafy's JEDEC manufacturer identity (R602). DESIGN CHOICE, log 26. -/
opaque Config.jedecId : BitVec 11

/-- Response bytes that a published standard defines and the spec does not restate (R561, R565, R571). DESIGN CHOICE, log 26. -/
opaque Config.standardResponse (protocol request : Nat) (args : List Byte) : List Byte

/-- The processor registers of the Exkalet pair that a crash log keeps (R555): firmware state the spec does not
give. DESIGN CHOICE, log 27. -/
opaque Config.crashCpuByte (crash offset : Nat) : Byte

end Sys2Proof
end

