-- ==== Sys2Proof/Machine/State.lean ====
section
/-! DEFINITION. The state of the Z5 as plain data, what makes a step stop, and the state of package
cold reset, before the standby rail is good. Registers of the register map live in `regs`, keyed as Machine/Regs.lean keys them,
an unlisted register holding its reset value; the structures here hold what no register holds. -/

namespace Sys2Proof.Machine

/-! ### What leaves the package, and the fuses -/

/-- Something that leaves the block that made it: a message on the wires, a packet to the host, a link transfer. -/
inductive Out where
  /-- An MSI-X message of a function (0 the PF, n + 1 the VF of tenant n) on a vector (R464). -/
  | msix (fn vector : Nat)
  /-- Bytes written to host memory under a function's routing ID; `poison` is the EP bit (R575, R586). -/
  | hostWrite (fn addr : Nat) (bytes : List Byte) (poison : Bool)
  /-- A read of host memory under a function's routing ID (R385, R586). -/
  | hostRead (fn addr len : Nat)
  /-- A completion of a read with its data and the EP bit (R579, R580). -/
  | readData (bytes : List Byte) (poison : Bool)
  /-- A message of an in-package sender: sender key, virtual route or destination, kind, send tick, bytes (R50). -/
  | noc (sender route kind : Nat) (tick : DWord) (bytes : List Nat)
  /-- A flit sent by a Ravor port: port, sequence number, records (R416). -/
  | flit (port kind seq : Nat) (bytes : List Nat)
  /-- A response of Exkalet's out-of-band interface or of its mailbox. -/
  | mgmt (kind : Nat) (bytes : List Byte)
  deriving DecidableEq, Repr

/-- The fuses, read at package cold reset (R2, R24, R138, R491, R587). -/
structure Fuses where
  grade     : Nat
  fusedOff  : List Nat
  islmap    : List Nat
  serial    : DWord
  /-- Fused causeway entries: key 128 × physical island + logical core of the island, value the spare position. -/
  causeway  : SMap Nat
  rollback  : Nat
  deriving DecidableEq, Repr

/-! ### Pads, rails, clocks -/

/-- The pads and rails the package samples and drives (R488, R546, R595 to R602). Inputs hold the level last taken. -/
structure Pads where
  vstbyGood  : Bool
  pwrOk      : Bool
  coolOkL    : Bool
  perstL     : Bool
  vin12Good  : Bool
  faultL     : Bool
  thermtripL : Bool
  hubRail    : Bool
  fabricRail : Bool
  harborRail : Bool
  jtag       : Nat
  deriving DecidableEq, Repr

/-- The tide and what is scheduled on it (R47, R51, R52). -/
structure TideSt where
  now      : DWord
  running  : Bool
  /-- The tick in which a scheduled load applies. -/
  loadAt   : Option DWord
  /-- The tick of the last slew. -/
  slewAt   : Option DWord
  /-- Ticks still to be corrected toward the rack reference: above 0 the tide is to advance. -/
  toGo     : Int
  deriving DecidableEq, Repr

/-- One island: rails, droop alarms, governor timers, causeway (R39 to R43, R137 to R139, R495, R526, R534). -/
structure IslandSt where
  railUp     : Bool
  latched    : Bool
  /-- Set while the island is absent from the start under way (R496, R499). -/
  absent     : Bool
  alarms     : Nat
  stretchRun : Nat
  /-- Governor evaluations in a row at which the hottest reading stood HYST_C below the entry being released. -/
  coolFor    : Nat
  /-- Governor evaluations in a row with no droop alarm. -/
  clearFor   : Nat
  /-- The last evaluation stepped slower. -/
  stepped    : Bool
  /-- The code a droop hold forbids going faster than. -/
  holdCode   : Nat
  over115    : Nat
  /-- Core-rail currents at the last governor evaluations, newest first, in 0.1 A (R534). -/
  currents   : List Nat
  /-- Run-time causeway entries: logical core of the island (0 to 127), to physical position 12 × row + column. -/
  causeway   : SMap Nat
  fencedPos  : List Nat
  /-- The offset in force on the core rail, in mV. -/
  voff       : Int
  /-- A re-anneal trigger met the running one: restart at this class. -/
  restartCls : Option Nat
  deriving DecidableEq, Repr

/-! ### Tenancy -/

/-- A key slot: data key and tweak key (R455). -/
structure KeyPair where
  data  : BitVec 256
  tweak : BitVec 256
  deriving DecidableEq, Repr

/-- A key to host memory and its message of one MSI-X vector, as PCIe lays the table out (R464, R581, R582). -/
structure MsixVec where
  addr    : DWord
  data    : Word
  masked  : Bool
  pending : Bool
  deriving DecidableEq, Repr

/-- The doorbell moderation of one tenant's TOKEN cause (R464). -/
structure TokenHold where
  /-- The tick before which TOKEN may not set again, after the host cleared it. -/
  until_   : DWord
  waiting  : Bool
  deriving DecidableEq, Repr

/-- A compute reset in progress (R468 to R471). -/
structure ResetRun where
  scope   : Nat
  target  : Nat
  byFlr   : Bool
  fromPF  : Bool
  drained : Bool
  deriving DecidableEq, Repr

/-- A recovery in progress (R516). -/
structure Recovery where
  phase    : Nat
  lcore    : Nat
  detected : DWord
  second   : Bool
  resumeAt : Option DWord
  noSpare  : Bool
  overflow : Bool
  deriving DecidableEq, Repr

/-! ### Exkalet -/

/-- One record of the event log (R557). -/
structure EvRec where
  tick    : DWord
  seq     : Word
  kind    : Nat
  sev     : Nat
  source  : Nat
  part    : Option Nat
  core    : Option Nat
  status  : Nat
  payload : List Byte
  cold    : Nat
  deriving DecidableEq, Repr

/-- The crash log: its header (R555) and the snapshot behind it. -/
structure CrashLog where
  valid      : Bool
  first      : Nat
  count      : Nat
  firstTide  : DWord
  coldStarts : Nat
  phase      : Nat
  slot       : Nat
  latest     : Nat
  latestTide : DWord
  regs       : SMap Word
  events     : List EvRec
  deriving DecidableEq, Repr

/-- One firmware slot of the boot flash (R559, R560) and its marks (R561, R562). -/
structure FwSlot where
  image  : List Byte
  active : Bool
  trial  : Bool
  failed : Bool
  deriving DecidableEq, Repr

/-- The states of a PLDM firmware update agent's session (R561, DMTF DSP0267). -/
inductive UpdState where
  | idle | learn | ready | download | verify | apply | activate
  deriving DecidableEq, Repr

/-- An image verification key of the key record (R563). -/
structure ImgKey where
  /-- 0 EMPTY, 1 INSTALLED, 2 REVOKED. -/
  state  : Nat
  key    : BitVec 768
  minSec : Nat
  deriving DecidableEq, Repr

/-- A re-anneal waiting or running (R551, R552). -/
structure Anneal where
  island  : Nat
  code    : Nat
  cls     : Nat
  /-- The offset being tried, in mV. -/
  v       : Int
  upward  : Option Bool
  /-- The passing offset with the margin added, once the search has ended. -/
  final   : Option Int
  oldVoff : Int
  deriving DecidableEq, Repr

/-- The Exkalet domain: the pair, its logs, the boot flash and the anneal engine (chapter 17). -/
structure Exkalet where
  powered     : Bool
  fwRunning   : Bool
  restarting  : Bool
  /-- Microsecond stamps of the restarts of the last 600 s, newest first (R543). -/
  restarts    : List Nat
  /-- Microseconds since the standby rail was good, as the firmware counts them. -/
  uptimeUs    : Nat
  crash       : CrashLog
  coldStarts  : Nat
  staged      : List EvRec
  farLog      : List EvRec
  nextSeq     : Word
  powerWarned : Bool
  /-- Boot configuration record: failed-start count, configuration word, preferred slot (R507, R513, R560). -/
  failCount   : Nat
  cfgRecord   : Option Word
  preferred   : Nat
  slots       : List FwSlot
  update      : UpdState
  updateBuf   : List Byte
  verified    : Bool
  trialSince  : Nat
  keys        : List ImgKey
  ownerDigest : Option (BitVec 384)
  keySeq      : Nat
  i3cAddr     : Option Nat
  annealQ     : List Anneal
  channels    : List (Option Anneal)
  /-- The previous sample of every thermal sensor at 125 °C or more (R546). -/
  hotSeen     : List Nat
  /-- The last samples: thermal sensors by die, towers, rail monitors (R545). -/
  temps       : List (List (BitVec 8))
  towers      : List (BitVec 8)
  rails       : List Nat
  deriving DecidableEq, Repr

/-- The start in progress (chapter 15). -/
structure BootSt where
  wave      : Nat
  startMs   : Nat
  warm      : Bool
  warmIslands : List Nat
  /-- After READY the compute rails are off and the package waits for COOL_OK_L (R506). -/
  waitCool  : Bool
  /-- After READY every VIN12-fed rail is off and the package waits for PWR_OK and VIN12 (R597). -/
  waitPower : Bool
  pairPending : Bool
  deriving DecidableEq, Repr

/-! ### Core and cluster -/

/-- State of a mold slot (R96). -/
inductive SlotState where
  | empty | ready | active | halted
  deriving DecidableEq, Repr

/-- One level of a loop stack: first and last instruction of the body, runs left (R121). -/
structure LoopLevel where
  start : Nat
  stop  : Nat
  left  : Nat
  deriving DecidableEq, Repr

/-- A matrix descriptor (R239, R356). -/
structure MatDesc where
  ringBacked : Bool
  rowsLayout : Bool
  base    : Nat
  breg    : Nat
  fmt     : BitVec 4
  rowsMax : Nat
  colsMax : Nat
  rstride : Nat
  ctr     : Nat
  wreg    : Nat
  deriving DecidableEq, Repr

/-- A ring descriptor (R210, R356). -/
structure RingDesc where
  base     : Nat
  gran     : Nat
  slots    : Nat
  producer : Nat
  consumer : Nat
  forward  : Option Nat
  deriving DecidableEq, Repr

/-- A route descriptor (R357). -/
structure RouteDesc where
  kind   : Nat
  vroute : Nat
  listLen : Nat
  dkind  : Nat
  dsel   : Nat
  remote : Bool
  rank   : Nat
  peerRoute : Nat
  port   : Nat
  deriving DecidableEq, Repr

/-- A tier-object descriptor, with the handle the load bound to its object slot (R349, R357). -/
structure ObjDesc where
  slot   : Nat
  handle : Nat
  cache  : Nat
  write  : Bool
  first  : Nat
  pages  : Nat
  deriving DecidableEq, Repr

/-- A window entry (R217, R357). -/
structure WinDesc where
  base    : Nat
  limit   : Nat
  sndBase : Nat
  sndMask : Nat
  scope   : Bool
  bind    : Bool
  deriving DecidableEq, Repr

/-- The descriptor tables of a slot (R96, R355). -/
structure Tables where
  mats   : List MatDesc
  rings  : List RingDesc
  routes : List RouteDesc
  objs   : List ObjDesc
  wins   : List WinDesc
  deriving DecidableEq, Repr

/-- The state of one tile ring (R211 to R214). `released` head slots have been released by the local consumer and
wait for their forward; `forwarded` counts head slots whose forward has been sent, `delivered` those whose forward has
been delivered; `reserved` tail slots
belong to output tiles begun and not yet written; `filled` granules of the tail slot have committed; `credits` are
the slot credits held for the next member of the runner; `due` credits wait to return to the producer. -/
structure RingSt where
  head      : Nat
  tail      : Nat
  full      : List Bool
  released  : Nat
  forwarded : Nat
  delivered : Nat
  reserved  : Nat
  filled    : Nat
  credits   : Nat
  due       : Nat
  deriving DecidableEq, Repr

/-- One mold slot of a core (R96 to R98, R283). -/
structure SlotSt where
  state  : SlotState
  /-- Marked READY and not ACTIVE since (R98). -/
  fresh  : Bool
  pc     : Nat
  imem   : SMap DWord
  sregs  : List Word
  spois  : List Bool
  aregs  : List (BitVec 21)
  loops  : List LoopLevel
  tables : Tables
  rings  : SMap RingSt
  /-- Selections of conditional routes: none the null alternative (R283, R285). -/
  rsel   : SMap (Option Nat)
  flask  : Nat
  deriving DecidableEq, Repr

/-- A vector register: tag, lanes, poison (R96, R175). -/
structure VReg where
  isInt : Bool
  lanes : List Word
  pois  : List Bool
  deriving DecidableEq, Repr

/-- The tile store: data bytes and side-band, sparse (R202, R203). Keys: byte address; 4 × granule + j for scales
and SPOIS; byte address div 4 for WPOIS. Unlisted data and scales read 0, unlisted poison reads clear (R140). -/
structure TileStore where
  data   : SMap Byte
  scales : SMap Byte
  wpois  : SMap Bool
  spois  : SMap Bool
  deriving DecidableEq, Repr

/-- A matrix macro in the ladle (R242, R250, R252, R253); `seq` numbers macros in the order they issued. -/
structure Macro where
  seq      : Nat
  f        : MatF
  acc      : Bool
  slot     : Nat
  adesc    : MatDesc
  odesc    : MatDesc
  abase    : Nat
  obase    : Nat
  m        : Nat
  tk       : Nat
  tn       : Nat
  wval     : Nat
  /-- Next (s, n, k) of the walk. -/
  pos      : Nat × Nat × Nat
  /-- Weight tiles of this macro that have left the ring, used or dropped. -/
  released : Nat
  sums     : List Word
  spois    : List Bool
  poisSeen : Bool
  /-- Its last step has passed its checks. -/
  left     : Bool
  /-- Every step of the walk has been issued. -/
  done     : Bool
  deriving DecidableEq, Repr

/-- A mismatch found in a step (R157 to R159). -/
structure Mismatch where
  row   : Bool
  col   : Bool
  dup   : Bool
  array : Nat
  deriving DecidableEq, Repr

/-- A step on the arrays whose checks have not closed (R144, R151, R163). -/
structure StepRun where
  macroSeq : Nat
  pos      : Nat × Nat × Nat
  tile     : Nat
  contrib  : List Word
  cpois    : List Bool
  init     : Option (List Word × List Bool)
  askips   : Nat
  bskips   : Nat
  mis      : Option Mismatch
  /-- The injection repeats in the recompute (PERSIST). -/
  persist  : Bool
  recomputed : Bool
  rerun    : Bool
  deriving DecidableEq, Repr

/-- An output tile group waiting for its write (R145, R150): the macro as it stood before the tile's last step, the
tile, its sums and poison, and whether its conversion has been rerun (R624). -/
structure OutTile where
  m     : Macro
  s     : Nat
  n     : Nat
  sums  : List Word
  pois  : List Bool
  rerun : Bool
  deriving DecidableEq, Repr

/-- A transfer of a stream engine (R115, R257): kind 0 WPUT, 1 TGET, 2 TPUT; `waits` counts its tier requests not yet
granted (R334), `data` what it carries, `closed` that it ends in WINDOW_CLOSED and moves nothing, `lines` the lines a
cached transfer has copied or written. -/
structure Xfer where
  id     : Nat
  se     : Nat
  tag    : Nat
  kind   : Nat
  slot   : Nat
  laddr  : Nat
  offset : Nat
  grans  : Nat
  handle : Nat
  cached : Bool
  waits  : Nat
  closed : Bool
  data   : List Granule
  lines  : List Nat
  deriving DecidableEq, Repr

/-- A packet of a FIFO bank: its granules, and the parity flags of its 8-byte words (R221, R226). -/
structure Packet where
  route  : Nat
  source : Nat
  grans  : List Granule
  badWords : List Nat
  deriving DecidableEq, Repr

/-- One packet FIFO: fill bank, committed packets and granules used per bank, the packet in progress, the held
packet (R221 to R223). -/
structure Fifo where
  fill   : Nat
  cope   : List Packet
  drag   : List Packet
  inProg : Option (Nat × Nat × Nat)
  held   : Option (Nat × Nat × Nat)
  testHeld : Option Word
  deriving DecidableEq, Repr

/-- A cached line (R229, R230): object handle, line number in the object, set, way, state. -/
structure CLine where
  handle : Nat
  line   : Nat
  set_   : Nat
  way    : Nat
  modified : Bool
  gran   : Granule
  deriving DecidableEq, Repr

/-- A line request of a core (R231 to R233): for S or M; once the directory has decided it, where its data come from:
`supply` the data themselves, `fwd` the owner that is to forward them; `invs` are the sharers still to invalidate and
`acks` the acknowledgements on their way. -/
structure LineReq where
  handle : Nat
  line   : Nat
  write  : Bool
  supply : Option Granule
  fwd    : Option Nat
  invs   : List Nat
  acks   : Nat
  deriving DecidableEq, Repr

/-- Why a core issues nothing more (R131, R243). -/
inductive StopReason where
  | poison | shape
  deriving DecidableEq, Repr

/-- One logical core (R96). -/
structure CoreSt where
  slots    : List SlotSt
  active   : Nat
  vregs    : List VReg
  epoch    : Word
  tideHi   : Word
  ftick    : DWord
  ts       : TileStore
  ladle    : List Macro
  steps    : List StepRun
  outs     : List OutTile
  xfers    : List Xfer
  /-- Send credits in granules, by route descriptor of the active image (R114). -/
  sendCred : SMap Nat
  fifos    : List Fifo
  cache    : List CLine
  plru     : SMap (BitVec 7)
  lineReqs : List LineReq
  wbHeld   : List CLine
  stopped  : Option StopReason
  fence    : Option Nat
  /-- The completion tick on its way to this core (R63). -/
  fenceTick : Option DWord
  /-- Messages sent and not yet delivered in the sense of R62, transfers apart. -/
  sends    : Nat
  switchTo : Option Nat
  request  : Option Nat
  preempt  : Bool
  dbgStop  : Bool
  stepOnce : Bool
  atGate   : Bool
  /-- The rings whose wait for weights has raised POUR_STARVED and goes on (R340). -/
  starve   : List Nat
  deriving DecidableEq, Repr

/-- A request in flight to a cluster's counter bank (R258, R259). -/
structure CtrReq where
  core : Nat
  op   : Nat
  ctr  : Nat
  val  : Word
  sd   : Nat
  slot : Nat
  deriving DecidableEq, Repr

/-- What the directory records of a line (R230). -/
inductive DirState where
  | shared (sharers : List Nat)
  | modified (owner : Nat)
  deriving DecidableEq, Repr

/-- A request waiting at the directory: kind 0 GETS, 1 GETM, 2 PUTS, 3 PUTM; `at_` numbers arrival cycles. -/
structure DirReq where
  kind   : Nat
  core   : Nat
  handle : Nat
  line   : Nat
  gran   : Granule
  at_    : Nat
  deriving DecidableEq, Repr

/-- A line of the directory's shadow tags. -/
structure DirLine where
  handle : Nat
  line   : Nat
  st     : DirState
  deriving DecidableEq, Repr

/-- A round descriptor of an expert router (R273, R361). -/
structure RoundDesc where
  model   : Nat
  e       : Nat
  k       : Nat
  cand    : Nat
  bf16    : Bool
  gate    : Nat
  renorm  : Bool
  members : List Nat
  tok     : Nat
  decBase : Nat
  deriving DecidableEq, Repr

/-- A station (R270, R361). -/
structure Station where
  sid      : Nat
  ferry    : Bool
  cluster  : Nat
  members  : List Nat
  arrBase  : Nat
  rowGran  : Nat
  capacity : Nat
  retBase  : Nat
  harbor   : Nat
  manBase  : Nat
  feeders  : List Nat
  deriving DecidableEq, Repr

/-- One entry of an expert map (R271). -/
structure ExpertEntry where
  station   : Nat
  shareBase : Nat
  quota     : Nat
  bias      : Word
  deriving DecidableEq, Repr

/-- Score granules of one round of a descriptor: key 1024 × 64 × member rank and granule (R274). -/
structure ScoreRound where
  grans : SMap Granule
  deriving DecidableEq, Repr

/-- The expert router's tables and score buffers of one mold slot (R271, R273, R276): `rounds` lists, per descriptor,
the round being gathered and, behind it, the following one. -/
structure RouterSlot where
  descs    : SMap RoundDesc
  experts  : SMap ExpertEntry
  stations : SMap Station
  rounds   : SMap (List ScoreRound)
  deriving DecidableEq, Repr

/-- One cluster: counter bank requests, directory, expert router (R230, R258, R273). -/
structure ClusterSt where
  ctrReqs : List CtrReq
  lines   : List DirLine
  wb      : List DirReq
  dirReqs : List DirReq
  cycle   : Nat
  routers : SMap RouterSlot
  deriving DecidableEq, Repr

/-! ### Images and jobs -/

/-- A virtual route of an image (R358): number, source sender key, leaf keys. -/
structure NocRoute where
  number : Nat
  source : Nat
  leaves : List Nat
  deriving DecidableEq, Repr

/-- A Ravor source route of an image (R358): peer rank and its bytes. -/
structure RavRoute where
  rank  : Nat
  bytes : List Byte
  deriving DecidableEq, Repr

/-- A stream descriptor of a pour schedule (R330, R359). -/
structure PourRec where
  slot     : Nat
  first    : Nat
  tiles    : Nat
  repeats  : Nat
  vroute   : Nat
  slots    : Nat
  gran     : Nat
  rate     : Nat
  harbor   : Nat
  engine   : Nat
  deriving DecidableEq, Repr

/-- A reduction tree (R92, R360): leaves and nodes as their raw words. -/
structure TreeRec where
  number : Nat
  int32  : Bool
  leaves : List Nat
  nodes  : List Nat
  deriving DecidableEq, Repr

/-- A counter record (R361). -/
structure CounterRec where
  value   : Word
  limit   : Word
  members : Nat
  ctr     : Nat
  cluster : Nat
  deriving DecidableEq, Repr

/-- An entry of the flask sequence (R362). -/
structure SeqEntry where
  flask : Nat
  slot  : Nat
  next  : Nat
  go    : Bool
  last  : Bool
  count : Nat
  deriving DecidableEq, Repr

/-- An OBJECTS record (R363). -/
structure ObjRec where
  slot     : Nat
  cls      : Nat
  tiers    : Nat
  writable : Bool
  pages    : Nat
  harbor   : Nat
  deriving DecidableEq, Repr

/-- What an image holds for one flask (R352): programs and tables by logical core, pours, stations, expert maps by
cluster, rounds as (cluster, descriptor, round). -/
structure ImgFlask where
  progs    : SMap (List DWord)
  tables   : SMap Tables
  pours    : List PourRec
  stations : List Station
  expmaps  : SMap (List ExpertEntry)
  rounds   : List (Nat × Nat × RoundDesc)
  deriving DecidableEq, Repr

/-- Initial tile store contents of one core (R354): first granule, data, scales. -/
structure TsInit where
  core   : Nat
  first  : Nat
  data   : List Byte
  scales : List Byte
  deriving DecidableEq, Repr

/-- A Dorfort image, read out of its container (R350 to R363). -/
structure Image where
  secVersion : Nat
  key      : Nat
  grades   : Nat
  stepping : Nat
  clusters : Nat
  experts  : Nat
  objSlots : Nat
  peers    : Nat
  flasks   : List ImgFlask
  split    : SMap Nat
  init     : List TsInit
  noc      : List NocRoute
  rav      : List RavRoute
  trees    : List TreeRec
  counters : List CounterRec
  seq      : List SeqEntry
  objects  : List ObjRec
  expertObjs : List (Nat × Nat)
  /-- Type and flask of each section, in table order. -/
  sects    : List (Nat × Nat)
  deriving DecidableEq, Repr

/-- A job that is loading or running on a partition (R347, R372, R461). -/
structure JobSt where
  handle   : Nat
  model    : Option Nat
  image    : Image
  objs     : List Nat
  peers    : List Nat
  self     : Nat
  entry    : Nat
  runs     : SMap Nat
  /-- The flask each mold slot holds, or none while the loader rewrites it (R375). -/
  held     : List (Option Nat)
  /-- The entry waits for its slot (R372). -/
  waiting  : Bool
  started  : Bool
  startAt  : Option DWord
  /-- The status the job ends with once the ladle of this core has written its last output tile (R243). -/
  ending   : Option (Nat × Nat × DWord)
  deriving DecidableEq, Repr

/-! ### Harbors -/

/-- A tier object (R309, R310): its owner (none: the physical function), class, mask (near 1, middle 2, far 4), and
its copies by page. `stack` is the stack of its first near frame (R303); `barred` lists pages whose move was abandoned
and that wait for the next halving of heats (R316). -/
structure TierObj where
  owner     : Option Nat
  cls       : Nat
  mask      : Nat
  pages     : Nat
  committed : Bool
  stack     : Option Nat
  near      : SMap Nat
  mid       : SMap Nat
  far       : SMap Nat
  pins      : List Nat
  heat      : SMap Nat
  barred    : List Nat
  deriving DecidableEq, Repr

/-- A page being copied into a near frame (R316): object index, page, the frame, whether migration moves it, restarts. -/
structure PageMove where
  index    : Nat
  page     : Nat
  frame    : Nat
  mig      : Bool
  restarts : Nat
  deriving DecidableEq, Repr

/-- What a granted request of a path does (R334). -/
inductive TierJob where
  /-- One page's share of a stream engine's transfer: the transfer's number, object index, page, the core. -/
  | xfer (core id index page : Nat)
  /-- A page staged or landed in the near tier (R312, R331). -/
  | stage (index page : Nat)
  /-- A ferry read of one page for another package (R288): source endpoint, object index, page. -/
  | ferry (source index page : Nat)
  deriving DecidableEq, Repr

/-- A request waiting on a path; `cls` 1 XFER, 2 SWITCH, 3 FERRY_R, 4 BACKGROUND (R334). -/
structure TierReq where
  cls   : Nat
  path  : Nat
  part  : Option Nat
  at_   : DWord
  bytes : Nat
  job   : TierJob
  deriving DecidableEq, Repr

/-- An active stream descriptor of a pour engine with its credits and position (R330 to R335). `back` counts the
credits each runner head has returned and the group has not combined yet (R256). -/
structure PourStream where
  part    : Nat
  flask   : Nat
  desc    : PourRec
  handle  : Nat
  credits : Nat
  pos     : Nat
  runs    : Nat
  lastAt  : DWord
  emptyAt : Option DWord
  stopped : Bool
  back    : SMap Nat
  deriving DecidableEq, Repr

/-- An object command that a harbor runs or that waits for it (R312, R585, R586): the operation (R312's, or 8 OBJ_WRITE
and 9 OBJ_READ) and its arguments, the host address, the pages host memory holds there with their EP bits (none: the read
fails), the doorbell tenant it came from, and whether the harbor has begun it. -/
structure ObjRun where
  op    : Nat
  a0    : Nat
  a1    : Nat
  a2    : Nat
  host  : Nat
  data  : List (Option (List Byte × Bool))
  via   : Option Nat
  begun : Bool
  deriving DecidableEq, Repr

/-- An erase block of the flash (R327, R328). -/
structure FlashBlock where
  reads   : Nat
  erases  : Nat
  free    : Bool
  retired : Bool
  deriving DecidableEq, Repr

/-- An expert held in the ferry cache (R290). -/
structure FerryExpert where
  model   : Nat
  expert  : Nat
  version : Nat
  frames  : List Nat
  heat    : Nat
  poured  : DWord
  deriving DecidableEq, Repr

/-- A fetch of the ferry engine (R288, R290, R291): the registry version and entry it began with, the partition it
serves, whether it runs, is poured without being cached, has lost its link and has been reported; the granules landed, the
near frames reserved for it, and the heat its expert has gathered. -/
structure FerryFetch where
  model   : Nat
  expert  : Nat
  version : Nat
  home    : Nat
  handle  : Nat
  pages   : Nat
  part    : Nat
  running : Bool
  bypass  : Bool
  lost    : Bool
  told    : Bool
  landed  : List Granule
  frames  : List Nat
  heat    : Nat
  deriving DecidableEq, Repr

/-- The rounds of one FERRY station (R287, R289): reports held by cluster, each expert with whether it was in the ferry
cache when the report came, the manifest experts still to pour, and the next tile of the first of them. -/
structure FerryStation where
  part    : Nat
  sid     : Nat
  reports : List (Nat × List (Nat × Nat × Bool))
  pouring : List (Nat × Nat)
  tile    : Nat
  deriving DecidableEq, Repr

/-- One harbor (chapter 10): the object table, the tiers' bytes and poison, the flash, the pour engines, the paths, and
the ferry engine. Near bytes are keyed 65,536 × near page + offset; middle bytes likewise with frame
2^24 × port + frame; far bytes with 2^24 × object index + page in place of a frame. -/
structure HarborSt where
  objs     : SMap TierObj
  near     : SMap Byte
  npois    : SMap Bool
  mid      : SMap Byte
  mpois    : SMap Bool
  far      : SMap Byte
  fpois    : SMap Bool
  retired  : List Nat
  /-- Middle frames excluded from allocation (R501). -/
  midBad   : List Nat
  /-- The ports that are fenced (R306). -/
  midDown  : List Nat
  /-- The harbor is fenced after a harbor fault (R528). -/
  fenced   : Bool
  badReads : SMap Nat
  moves    : List PageMove
  reqs     : List TierReq
  streams  : SMap PourStream
  deficits : SMap Nat
  sinceBg  : SMap Nat
  runs     : List ObjRun
  keyCache : List Nat
  blocks   : SMap FlashBlock
  segs     : SMap Nat
  journal  : Nat
  checkpointed : SMap Nat
  cached   : List FerryExpert
  fetches  : List FerryFetch
  stations : List FerryStation
  rounds   : Nat
  deriving DecidableEq, Repr

/-- A registered model (R378): its image handle, parsed image, permitted tenant (none: every tenant), objects. -/
structure Model where
  handle : Nat
  image  : Image
  tenant : Option Nat
  objs   : List Nat
  deriving DecidableEq, Repr

/-- A job saved into its save objects (R475, R476): what the records of the set hold. -/
structure SavedJob where
  /-- The job counts as SAVED: it has been neither resumed nor ended since (R461, R467, R478). -/
  live     : Bool
  part     : Nat
  owner    : Option Nat
  mask     : Nat
  handles  : List (Option Nat)
  tick     : DWord
  job      : JobSt
  cores    : SMap CoreSt
  clusters : SMap ClusterSt
  regs     : SMap Word
  streams  : SMap PourStream
  stations : List (Nat × FerryStation)
  deriving DecidableEq, Repr

/-- A save or a restore under way (R477, R479): the stop or resume tick, whether it names a group, and whether every
record has been moved. -/
structure MoveRun where
  part    : Nat
  handles : List (Option Nat)
  group   : Bool
  tick    : DWord
  stopped : Bool
  moved   : Bool
  deriving DecidableEq, Repr

/-! ### Serving (chapter 12) -/

/-- One entry of a token ring (R388). -/
structure TokEntry where
  token  : Nat
  seq    : Nat
  fin    : Bool
  noTok  : Bool
  ack    : Bool
  replay : Bool
  pfx    : Bool
  status : Nat
  tag    : Nat
  deriving DecidableEq, Repr

/-- A request stream (R382, R385, R388): its rings, the request ring's head, the tail the host named and whether reads
of the units before it are issued, failed reads in a row, the number of token ring entries appended and of entries the
host has returned, and status entries held for want of a free place. -/
structure ReqStream where
  tenant : Nat
  shadow : Bool
  rqBase : Nat
  tkBase : Nat
  rqLog  : Nat
  tkLog  : Nat
  head   : Nat
  tail   : Nat
  fails  : Nat
  wpos   : Nat
  rhead  : Nat
  held   : List TokEntry
  /-- REQ_TAG and SEQ of the last request that ended (R388). -/
  ended  : Option (Nat × Nat)
  deriving DecidableEq, Repr

/-- One candidate of a shard: token and logit (R393). -/
structure Cand where
  token : Nat
  logit : Word
  shard : Nat
  deriving DecidableEq, Repr

/-- A request (R386): its parameters, its place in parse order, the binding and slot it holds, whether its prefix has
been looked up, its history of prompt and drawn tokens, the number of tokens appended, the position it has been fed to,
its KV blocks, and the step under way: whether it samples, the candidate records by shard, when J came, the token
drawn and whether it is final; the mirrored blocks it awaits, as 65,536 × block + rank; and, after a failover, that the
last token is still to be fed by itself. -/
structure ServReq where
  tag     : Nat
  model   : Nat
  plen    : Nat
  maxNew  : Nat
  seed    : DWord
  temp    : Word
  topP    : Word
  minP    : Word
  repPen  : Word
  topK    : Nat
  repWin  : Nat
  stopTok : Nat
  useIndex  : Bool
  publish : Bool
  order   : Nat
  slot    : Option (Nat × Nat)
  looked  : Bool
  history : List Nat
  count   : Nat
  pos     : Nat
  reused  : Bool
  blocks  : List Nat
  isNew   : Bool
  sampling : Bool
  records : SMap (List Cand × Bool)
  atJ     : Option Nat
  drawn   : Option (Nat × Bool)
  cancelled : Bool
  lateCancel : Bool
  awaiting : List Nat
  replay  : Bool
  rerun   : Bool
  deriving DecidableEq, Repr

/-- What a binding's serving engine holds (R391 to R393, R401): the step its cores run, the next step's messages by
home rank, the shards done, the entries fed, block reference counts, the histories a buddy keeps (R405). -/
structure BindSt where
  step    : Nat
  running : Bool
  sent    : Bool
  msgs    : SMap (List StepEntry)
  done    : List Nat
  fed     : List StepEntry
  refs    : SMap Nat
  hist    : SMap (List Nat)
  deriving DecidableEq, Repr

/-- A prefix index entry (R402). -/
structure PfxEntry where
  key   : DWord
  model : Nat
  scope : Nat
  block : Nat
  age   : Nat
  deriving DecidableEq, Repr

/-! ### Ravor (chapter 13) -/

/-- A DATA flit: sequence number, virtual channel, class, first and last of a message, body (R416). -/
structure Flit where
  seq  : Nat
  vc   : Nat
  dl   : Bool
  som  : Bool
  eom  : Bool
  body : List Byte
  deriving DecidableEq, Repr

/-- A message of the fabric (R418, R419). -/
structure RMsg where
  dest   : Nat
  src    : Nat
  key    : Nat
  kind   : Nat
  vroute : Nat
  tick   : DWord
  offset : Nat
  resend : Bool
  id     : Nat
  route  : DWord
  hop    : Nat
  tenant : Nat
  baddr  : Nat
  grans  : List Granule
  deriving DecidableEq, Repr

/-- A message held by a recovery spool (R518): the ring it fills (mold slot and ring) or none for a window, and when it
came. -/
structure Spooled where
  msg  : RMsg
  sink : Option (Nat × Nat)
  at_  : DWord
  deriving DecidableEq, Repr

/-- What a TRAIN record carries (R417). -/
structure TrainRec where
  ep      : Nat
  port    : Nat
  width   : Nat
  epoch   : Nat
  alias_  : Option Nat
  refusal : Bool
  reason  : Nat
  deriving DecidableEq, Repr

/-- One port's link layer (R414, R421 to R428): DATA flits waiting for their first sending, unacknowledged flits,
flits to replay, the next SEQ, EXP, records for the next CTRL flit, credits held and owed by 2 × VC + class, and the
counts of the failure rules. -/
structure PortSt where
  queue   : List Flit
  unacked : List Flit
  replay  : List Flit
  /-- The sequence number at which the running replay began. -/
  replayFrom : Option Nat
  nextSeq : Nat
  exp     : Nat
  nakFor  : Option Nat
  records : List (List Byte)
  credits : SMap Nat
  owed    : SMap Nat
  expiries : Nat
  fails   : Nat
  /-- The neighbour's TRAIN record of the training under way. -/
  nbr      : Option TrainRec
  deriving DecidableEq, Repr

/-- An entry of the topology table (R434). -/
structure TopoEntry where
  routes   : List DWord
  valid    : Nat
  failed   : Nat
  /-- Marks made because the first-hop port left UP (R437). -/
  portFailed : Nat
  inUse    : Nat
  redirect : Nat
  redir    : Bool
  ann      : Bool
  deriving DecidableEq, Repr

/-- What a sender's message awaiting its EACK belongs to (R430, R438): a core's packet over a route (64 × mold slot +
route descriptor), a core's transfer, a hub or harbor engine, a
ferry fetch, a board access. -/
inductive RSender where
  | packet (c route : Nat)
  | core (c id : Nat)
  | engine (part : Nat)
  | ferry (harbor model expert : Nat)
  | board
  deriving DecidableEq, Repr

/-- The fabric of the package (R429 to R446): ports, the two banks of the topology table, messages awaiting EACK in
the order they were sent, messages stalled by an epoch change, next MSG_ID by 4 × destination + VC, next expected
MSG_ID by 4 × source + VC, silent heartbeat periods by watch, and the offsets of the last time exchanges. -/
structure RavorSt where
  ports    : SMap PortSt
  active   : SMap TopoEntry
  shadow   : SMap TopoEntry
  waiting  : List (RSender × RMsg)
  stalled  : List (RSender × RMsg)
  nextId   : SMap Nat
  expected : SMap Nat
  silent   : SMap Nat
  offsets  : List Int
  /-- COMMIT of the epoch change under way has been given; the tick of the last RESUME (R439, R442). -/
  committed : Bool
  /-- This package's offset from the rack reference, in 1/16 tick (R417, R446). -/
  ownOff    : Int
  resumedAt : Option DWord
  /-- The destinations found lost and not reached since (R438). -/
  lost      : List Nat
  deriving DecidableEq, Repr

/-! ### Loads and the host interface -/

/-- A LOAD command (R367): partition, registered model or image handle, bind object, the tenant that issued it (none:
the physical function). -/
structure LoadReq where
  part   : Nat
  model  : Option Nat
  handle : Nat
  bind   : Nat
  issuer : Option Nat
  deriving DecidableEq, Repr

/-- A load in a context (R367, R368): the request and its stage; the job it builds stands in `jobs`. -/
structure LoadRun where
  req   : LoadReq
  stage : Nat
  deriving DecidableEq, Repr

/-- The host interface (chapter 18): whether the link's functions exist and run. -/
structure HostSt where
  /-- VF Enable and NumVFs (R582). -/
  vfEnable : Bool
  numVfs   : Nat
  /-- The PF is in D3hot. -/
  d3hot    : Bool
  /-- The PCIe interface is held in reset by PERST_L. -/
  held     : Bool
  /-- Board window reads of the host's apertures under way, oldest first: endpoint, bytes to skip, bytes to return. -/
  boardReads : List (Nat × Nat × Nat)
  /-- Uncorrectable Error Status of the PF's Advanced Error Reporting capability (R571, R575). -/
  aer : Word
  deriving DecidableEq, Repr

/-! ### The machine -/

/-- Why the block stops: it never does. The spec gives every command an effect, if only that of changing nothing, so no
meaning raises a fault. -/
inductive Fault where
  deriving DecidableEq, Repr

/-- Why a command has no meaning. -/
inductive Refusal where
  /-- The command has no meaning yet. Raised by the arms of Machine/Dispatch.lean; safe. -/
  | notModelled (mnemonic : String)
  /-- The command names an encoding that the spec reserves and that the loader refuses (R103). Raised by the core
  instructions; safe. -/
  | reservedEncoding
  deriving DecidableEq, Repr

/-- The whole block. -/
structure State where
  /-- The commands waiting, first in, first out. -/
  pending  : List Instr
  /-- The number of free values drawn so far (the model's own, not the spec's). DESIGN CHOICE, log 12. -/
  free     : Nat
  /-- The number given to the next transfer of a stream engine (the model's own). DESIGN CHOICE, log 12. -/
  nextId   : Nat
  /-- Everything that has left a block, newest last. -/
  out      : List Out
  fuses    : Fuses
  /-- The register file: keys and values of the registers that do not hold their reset value. -/
  regs     : SMap Word
  pads     : Pads
  tide     : TideSt
  boot     : BootSt
  exk      : Exkalet
  islands  : SMap IslandSt
  cores    : SMap CoreSt
  clusters : SMap ClusterSt
  jobs     : SMap JobSt
  recov    : SMap Recovery
  spools   : SMap (List Spooled)
  resets   : List ResetRun
  keys     : SMap KeyPair
  msix     : SMap MsixVec
  tokens   : SMap TokenHold
  /-- LEVEL_LO words written and not yet taken with their LEVEL_HI (R411). -/
  levelLo  : SMap Word
  harbors  : SMap HarborSt
  /-- The hub expert registry by 4,096 × model + expert (R293). -/
  registry : SMap (BitVec 128)
  models   : SMap Model
  saved    : List SavedJob
  saves    : List MoveRun
  restores : List MoveRun
  /-- The loads that wait for a context, in command order (R367). -/
  loadsWaiting : List LoadReq
  loads    : SMap LoadRun
  /-- The last LOAD accepted for each partition (R407). -/
  lastLoad : SMap LoadReq
  streams  : SMap ReqStream
  reqs     : SMap ServReq
  binds    : SMap BindSt
  pfx      : SMap PfxEntry
  ravor    : RavorSt
  host     : HostSt
  deriving DecidableEq, Repr

/-! ### Reset -/

/-- Exkalet with its standby rail off: the boot flash holds the maker's slots and no record. -/
def exkaletReset : Exkalet :=
  { powered := false, fwRunning := false, restarting := false, restarts := [], uptimeUs := 0,
    crash := { valid := false, first := 0, count := 0, firstTide := 0, coldStarts := 0, phase := 0, slot := 0, latest := 0,
               latestTide := 0, regs := [], events := [] },
    coldStarts := 0, staged := [], farLog := [], nextSeq := 0, powerWarned := false, failCount := 0, cfgRecord := none,
    preferred := 0, slots := [{ image := Config.flashSlot 0, active := true, trial := false, failed := false },
              { image := Config.flashSlot 1, active := false, trial := false, failed := false }], update := .idle,
    updateBuf := [], verified := false, trialSince := 0, keys := List.replicate 8 { state := 0, key := 0, minSec := 0 }, ownerDigest := none, keySeq := 0, i3cAddr := none,
    annealQ := [], channels := [none, none, none, none], hotSeen := [], temps := [], towers := [], rails := [] }

/-- The machine right after package cold reset: no rail is up, MGT_BOOT_STATUS.PHASE is 0 (OFF), every register holds
its reset value, and every memory is as R140, R236, R263, R296, R344, R371, R410, R449, R474, R558 and R588 leave it.
The fuses of the part modelled: a ZRT5-16, no island fused off, no causeway entry, serial number 0. DESIGN CHOICE, logs 10 to 12,
15 and 21; PRESUMED, log 14. -/
def State.reset : State :=
  { pending := [], free := 0, nextId := 0, out := [],
    fuses := { grade := 0x10, fusedOff := [], islmap := List.range 16, serial := 0, causeway := [], rollback := 0 },
    regs := [],
    pads := { vstbyGood := false, pwrOk := false, coolOkL := true, perstL := false, vin12Good := false,
              faultL := true, thermtripL := true, hubRail := false, fabricRail := false, harborRail := false, jtag := 0 },
    tide := { now := 0, running := false, loadAt := none, slewAt := none, toGo := 0 },
    boot := { wave := 0, startMs := 0, warm := false, warmIslands := [], waitCool := false, waitPower := false, pairPending := false },
    exk := exkaletReset, islands := [], cores := [], clusters := [], jobs := [], recov := [], spools := [], resets := [],
    keys := [], msix := [], tokens := [], levelLo := [], harbors := [], registry := [], models := [], saved := [], saves := [],
    restores := [], loadsWaiting := [], loads := [], lastLoad := [], streams := [], reqs := [], binds := [], pfx := [],
    ravor := { ports := [], active := [], shadow := [], waiting := [], stalled := [], nextId := [], expected := [],
               silent := [], offsets := [], committed := false, ownOff := 0, resumedAt := none, lost := [] },
    host := { vfEnable := false, numVfs := 0, d3hot := false, held := true, boardReads := [], aer := 0 } }

end Sys2Proof.Machine
end

