-- ==== Sys2Proof/Machine/Ops.lean ====
section
/-! DEFINITION. The named operations over the state: registers and fields, free values, what leaves a block, and the
parts of the package by their numbers. -/

namespace Sys2Proof.Machine

/-! ### Registers -/

/-- The value a register holds. DESIGN CHOICE, log 17. -/
def State.reg (s : State) (r : Reg) : Word :=
  lookupD s.regs r.addr r.rst

/-- The state with register `r` holding `v`. -/
def State.setReg (s : State) (r : Reg) (v : Word) : State :=
  { s with regs := store r.rst s.regs r.addr v }

/-- The value of a field, as a number. -/
def State.get (s : State) (f : RF) : Nat :=
  fieldGet (s.reg f.reg) f.lo f.width

/-- The state with a field holding the low bits of `n`. -/
def State.put (s : State) (f : RF) (n : Nat) : State :=
  s.setReg f.reg (fieldPut (s.reg f.reg) f.lo f.width n)

/-- Whether a one-bit field is set. -/
def State.flag (s : State) (f : RF) : Bool :=
  decide (s.get f ≠ 0)

/-- The state with a one-bit field set or cleared. -/
def State.setFlag (s : State) (f : RF) (b : Bool) : State :=
  s.put f (b2n b)

/-- A counter field raised by `k`, saturating (R12, "saturating" in the field's Meaning). -/
def State.bump (s : State) (f : RF) (k : Nat) : State :=
  s.put f (satAdd f.width (s.get f) k)

/-- A counter field raised by one, saturating. -/
def State.inc (s : State) (f : RF) : State :=
  s.bump f 1

/-- The registers with keys in `[lo, hi)` at their reset values. -/
def State.resetRegs (s : State) (lo hi : Nat) : State :=
  { s with regs := eraseRange s.regs lo hi }

/-! ### Free values and messages -/

/-- A value of `w` bits that nothing constrains, and the state with the counter of free values advanced. DESIGN CHOICE, log 12; DESIGN CHOICE, log 13. -/
def State.fresh (s : State) (w : Nat) : BitVec w × State :=
  (Config.freeBits w s.free, { s with free := s.free + 1 })

/-- The state after `o` has left a block. DESIGN CHOICE, log 12. -/
def State.emit (s : State) (o : Out) : State :=
  { s with out := s.out ++ [o] }

/-! ### Numbers of parts (R18, R29) -/

/-- The island, cluster of the island, core of the cluster, and cluster of the package of a logical core. -/
def islOf (c : Nat) : Nat := c / 128
def clOf (c : Nat) : Nat := c / 16 % 8
def ixOf (c : Nat) : Nat := c % 16
def clusterOf (c : Nat) : Nat := c / 16

/-- The physical island of a logical island (R3, R24, HUB_ISLMAP). -/
def State.phys (s : State) (l : Nat) : Nat :=
  s.fuses.islmap.getD l l

/-- A register family of the core groups at logical core `c` (R141, R581). -/
def State.atCore {α : Type} (s : State) (c : Nat) (f : Nat → Nat → Nat → α) : α :=
  f (s.phys (islOf c)) (clOf c) (ixOf c)

/-- A register family of the clusters at cluster `k` of the package. -/
def State.atCluster {α : Type} (s : State) (k : Nat) (f : Nat → Nat → α) : α :=
  f (s.phys (k / 8)) (k % 8)

/-! ### Islands, clusters, cores -/

/-- An island before it has been started: rails off, no alarm, no timer running. -/
def islandReset : IslandSt :=
  { railUp := false, latched := false, absent := false, alarms := 0, stretchRun := 0, coolFor := 0, clearFor := 0,
    stepped := false, holdCode := 0, over115 := 0, currents := [], causeway := [], fencedPos := [], voff := 0, restartCls := none }

def emptyTables : Tables :=
  { mats := [], rings := [], routes := [], objs := [], wins := [] }

/-- A slot after a reset of cluster scope or above (R98, R140). -/
def slotReset : SlotSt :=
  { state := .empty, fresh := false, pc := 0, imem := [], sregs := List.replicate 32 0,
    spois := List.replicate 32 false, aregs := List.replicate 8 0, loops := [], tables := emptyTables, rings := [],
    rsel := [], flask := 0 }

def vregReset : VReg :=
  { isInt := false, lanes := List.replicate 64 0, pois := List.replicate 64 false }

/-- DESIGN CHOICE, log 16. -/
def tileStoreReset : TileStore :=
  { data := [], scales := [], wpois := [], spois := [] }

def fifoReset : Fifo :=
  { fill := 0, cope := [], drag := [], inProg := none, held := none, testHeld := none }

/-- A core after a package reset (R140, R174, R236, R263). -/
def coreReset : CoreSt :=
  { slots := List.replicate 4 slotReset, active := 0, vregs := List.replicate 16 vregReset, epoch := 0, tideHi := 0,
    ftick := 0, ts := tileStoreReset, ladle := [], steps := [], outs := [], xfers := [], sendCred := [],
    fifos := List.replicate 4 fifoReset, cache := [], plru := [], lineReqs := [], wbHeld := [], stopped := none,
    fence := none, fenceTick := none, sends := 0, switchTo := none, request := none, preempt := false, dbgStop := false,
    stepOnce := false, atGate := false, starve := [] }

def ringReset : RingSt :=
  { head := 0, tail := 0, full := List.replicate 8 false, released := 0, forwarded := 0, delivered := 0, reserved := 0, filled := 0,
    credits := 0, due := 0 }

def clusterReset : ClusterSt :=
  { ctrReqs := [], lines := [], wb := [], dirReqs := [], cycle := 0, routers := [] }

def State.isl (s : State) (i : Nat) : IslandSt :=
  lookupD s.islands i islandReset
def State.setIsl (s : State) (i : Nat) (x : IslandSt) : State :=
  { s with islands := insert s.islands i x }
def State.core (s : State) (c : Nat) : CoreSt :=
  lookupD s.cores c coreReset
def State.setCore (s : State) (c : Nat) (x : CoreSt) : State :=
  { s with cores := insert s.cores c x }
def State.cluster (s : State) (k : Nat) : ClusterSt :=
  lookupD s.clusters k clusterReset
def State.setCluster (s : State) (k : Nat) (x : ClusterSt) : State :=
  { s with clusters := insert s.clusters k x }

/-- The active slot of a core. -/
def CoreSt.slot (k : CoreSt) : SlotSt :=
  k.slots.getD k.active slotReset
def CoreSt.setSlot (k : CoreSt) (i : Nat) (x : SlotSt) : CoreSt :=
  { k with slots := setAt k.slots i x }
def CoreSt.setActive (k : CoreSt) (x : SlotSt) : CoreSt :=
  k.setSlot k.active x

/-! ### Partitions (R457, R459) -/

/-- The clusters of partition `p`, as a mask (R457). -/
def State.partMask (s : State) (p : Nat) : Nat :=
  s.get (TEN_PART_CL_MASK p 0) + s.get (TEN_PART_CL_MASK p 1) * 2 ^ 32 + s.get (TEN_PART_CL_MASK p 2) * 2 ^ 64
    + s.get (TEN_PART_CL_MASK p 3) * 2 ^ 96

/-- The clusters of partition `p`, ascending. -/
def State.partClusters (s : State) (p : Nat) : List Nat :=
  (List.range 128).filter fun k => bit (s.partMask p) k

/-- The logical cores of partition `p`, ascending. -/
def State.partCores (s : State) (p : Nat) : List Nat :=
  (s.partClusters p).flatMap fun k => (List.range 16).map fun j => 16 * k + j

/-- The partition that holds cluster `k`, if one does (R457). -/
def State.partOf (s : State) (k : Nat) : Option Nat :=
  (List.range 128).find? fun p => decide (s.get (TEN_PART_CTRL_STATE p) ≠ 0) && bit (s.partMask p) k

/-- The partition state codes of R459. -/
def psFree : Nat := 0
def psIdle : Nat := 1
def psLoading : Nat := 2
def psRunning : Nat := 3
def psRecovering : Nat := 4
def psSaving : Nat := 5
def psRestoring : Nat := 6
def psResetting : Nat := 7

/-- The tenant that owns partition `p`; none for the physical function. -/
def State.ownerOf (s : State) (p : Nat) : Option Nat :=
  if s.flag (TEN_PART_CTRL_PF p) then none else some (s.get (TEN_PART_CTRL_OWNER p))

/-- The 64-bit rounding seed of the tenant that owns partition `p` (R87, R454). DESIGN CHOICE, log 19. -/
def State.seedOf (s : State) (p : Nat) : DWord :=
  match s.ownerOf p with
  | none => Config.pfSeed
  | some t => BitVec.ofNat 64 (s.get (TEN_VF_SEED_LO_SEED t) + s.get (TEN_VF_SEED_HI_SEED t) * 2 ^ 32)

/-- Whether any partition holds a job: loading, running, recovering, saving or restoring (R51, R53). -/
def State.anyJob (s : State) : Bool :=
  !s.jobs.isEmpty

/-- HUB_TIDE_STATUS.JOB_LOCK follows the jobs (R53); with one, no JTAG instruction drives the pads (R602). -/
def State.refreshJobLock (s : State) : State :=
  ({ s with pads := { s.pads with jtag := if s.anyJob then 0 else s.pads.jtag } }).setFlag HUB_TIDE_STATUS_JOB_LOCK s.anyJob

/-- Whether bit `n` of ISL_CORE_EVT_k of core `c` is raised: it is set (R141). -/
def State.raiseEvt (s : State) (c : Nat) (f : Nat → Nat → Nat → RF) : State :=
  s.setFlag (s.atCore c f) true

/-! ### The physical side of a logical core (R137 to R139) -/

/-- Spare positions of an island, as 12 × row + column (R137). -/
def isSpare (pos : Nat) : Bool :=
  decide ((pos / 12 = 11 ∧ pos % 12 ≤ 7) ∨ (pos % 12 = 11 ∧ pos / 12 ≤ 7))

def spares : List Nat :=
  (List.range 144).filter isSpare

/-- The position the default map gives logical core `j` (0 to 127) of an island (R137). -/
def defaultPos (j : Nat) : Nat :=
  ((List.range 144).filter fun p => !isSpare p).getD j 0

/-- The position that serves logical core `j` of physical island `i`: a run-time entry, a fuse entry, the default. -/
def State.posOf (s : State) (i j : Nat) : Nat :=
  match lookup (s.isl i).causeway j with
  | some p => p
  | none => lookupD s.fuses.causeway (128 * i + j) (defaultPos j)

/-- The logical core's index in its island. -/
def inIsland (c : Nat) : Nat := c % 128

/-- Whether the physical core that serves logical core `c` is fenced (R139). -/
def State.fenced (s : State) (c : Nat) : Bool :=
  let i := s.phys (islOf c)
  (s.isl i).fencedPos.contains (s.posOf i (inIsland c))

/-- The 12-bit physical core ID of R29: island [11:8], row × 12 + column [7:0]. -/
def State.pcore (s : State) (c : Nat) : Nat :=
  let i := s.phys (islOf c)
  i * 256 + s.posOf i (inIsland c)

end Sys2Proof.Machine
end

