-- ==== Sys2Proof/Machine/Flags.lean ====
section
/-! DEFINITION. Status flags, causes and records: interrupt causes and their MSI-X messages (R462 to R464), partition
fault records (R465), mailbox messages (R567), event records (R557), and the condition flags the core's branches and
ALU functions compute (R110, R120). -/

namespace Sys2Proof.Machine

/-! ### MSI-X (R464) -/

/-- A vector before the host has written it: masked, as PCIe lays the table out. PRESUMED, log 14. -/
def msixReset : MsixVec :=
  { addr := 0, data := 0, masked := true, pending := false }

/-- The table key of vector `v` of function `fn` (0 the PF, n + 1 the VF of tenant n). -/
def msixKey (fn v : Nat) : Nat :=
  32 * fn + v

/-- A message on vector `v` of function `fn`: sent, or left pending while the vector is masked (R464). -/
def State.message (s : State) (fn v : Nat) : State :=
  let e := lookupD s.msix (msixKey fn v) msixReset
  if e.masked then { s with msix := insert s.msix (msixKey fn v) { e with pending := true } }
  else s.emit (.msix fn v)

/-- The vector mapped to cause `c` of tenant `t` (TEN_VF_VEC_n). -/
def State.vfVector (s : State) (t c : Nat) : Nat :=
  bitsOf (s.get (TEN_VF_VEC_VEC t)) (3 * c) 3

/-- The vector mapped to cause `c` of the physical function (TEN_PF_VEC_n). -/
def State.pfVector (s : State) (c : Nat) : Nat :=
  bitsOf (s.get (TEN_PF_VEC_VEC (c / 6))) (5 * (c % 6)) 5

/-- Cause `c` of tenant `t` occurs: the bit sets, and a rise while the mask bit is 1 sends one message (R464). -/
def State.raiseVF (s : State) (t c : Nat) : State :=
  let old := s.get (TEN_VF_CAUSE_CAUSE t)
  let s1 := s.put (TEN_VF_CAUSE_CAUSE t) (setBit old c true)
  if bit old c = false ∧ bit (s.get (TEN_VF_MASK_MASK t)) c = true then s1.message (t + 1) (s1.vfVector t c) else s1

/-- Cause `c` of the physical function occurs (R463, R464). -/
def State.raisePF (s : State) (c : Nat) : State :=
  let old := s.get TEN_PF_CAUSE_CAUSE
  let s1 := s.put TEN_PF_CAUSE_CAUSE (setBit old c true)
  if bit old c = false ∧ bit (s.get TEN_PF_MASK_MASK) c = true then s1.message 0 (s1.pfVector c) else s1

/-- A cause of partition `p` goes to its owner (R462). -/
def State.raisePart (s : State) (p c : Nat) : State :=
  match s.ownerOf p with
  | some t => s.raiseVF t c
  | none => s.raisePF c

/-- Cause bits of R462. -/
def cLoadDone : Nat := 0
def cJobEnd : Nat := 1
def cSaveDone : Nat := 2
def cRestoreDone : Nat := 3
def cPartFault : Nat := 4
def cToken : Nat := 5
def cBudget : Nat := 6
def cObjDone : Nat := 7
def cResetDone : Nat := 8
/-- Cause bits of R463. -/
def cCoreFenced : Nat := 16
def cSpareLow : Nat := 17
def cIslandLost : Nat := 18
def cHarborFault : Nat := 19
def cCxlDown : Nat := 20
def cOeFault : Nat := 21
def cPortState : Nat := 22
def cEpEvent : Nat := 23
def cThermal : Nat := 24
def cMgt : Nat := 25
def cFtlRo : Nat := 26

/-! ### Status codes (R21) -/

def stDone : Nat := 0x00
def stDoneAlready : Nat := 0x01
def stCancelled : Nat := 0x02
def stRefusedFit : Nat := 0x10
def stRefusedSignature : Nat := 0x11
def stRefusedShape : Nat := 0x12
def stPoisoned : Nat := 0x20
def stWindowClosed : Nat := 0x21
def stPourStarved : Nat := 0x22
def stBudgetExhausted : Nat := 0x30
def stEjectedFence : Nat := 0x40
def stEjectedCompound : Nat := 0x41
def stEjectedReset : Nat := 0x42
def stLinkLost : Nat := 0x50

/-! ### Mailbox messages and event records -/

/-- Exkalet posts mailbox message `k`: KIND is written, and the rise of PENDING sets cause 25 (R567). -/
def State.postMessage (s : State) (k : Nat) : State :=
  let was := s.flag MGT_MBX_MSG_PENDING
  let s1 := (s.put MGT_MBX_MSG_KIND k).setFlag MGT_MBX_MSG_PENDING true
  if was then s1 else s1.raisePF cMgt

/-- The log registers follow the logs (R557, MGT_LOG_STATUS). -/
def State.refreshLog (s : State) : State :=
  let held := s.exk.farLog ++ s.exk.staged
  let s1 := s.put MGT_LOG_STATUS_STAGED s.exk.staged.length
  let s2 := s1.put MGT_LOG_NEWEST_SEQ (match s.exk.staged.getLast?.or s.exk.farLog.getLast? with
    | some r => r.seq.toNat
    | none => 0)
  s2.put MGT_LOG_OLDEST_SEQ (match held.head? with
    | some r => r.seq.toNat
    | none => 0)

/-- The log engine stages one record; a full buffer loses its oldest record and counts the drop (R557). -/
def State.logEvent (s : State) (kind sev source : Nat) (part core : Option Nat) (status : Nat) (payload : List Byte) :
    State :=
  let r : EvRec :=
    { tick := s.tide.now, seq := s.exk.nextSeq, kind := kind, sev := sev, source := source, part := part,
      core := core, status := status, payload := payload, cold := s.exk.coldStarts }
  let full := decide (1024 ≤ s.exk.staged.length)
  let staged := (if full then s.exk.staged.drop 1 else s.exk.staged) ++ [r]
  let s1 := { s with exk := { s.exk with staged := staged, nextSeq := s.exk.nextSeq + 1 } }
  let s2 := if full then (s1.inc MGT_LOG_STATUS_DROP_CNT).postMessage 7 else s1
  s2.refreshLog

/-- Bytes of a payload field: `n` bytes of `v`, little-endian. -/
def pay (n v : Nat) : List Byte := leBytes n v

/-- A partition-scope fault writes its record and sets PART_FAULT for the owner (R465). -/
def State.partFault (s : State) (p code lcore : Nat) (tick : DWord) : State :=
  let s1 := if s.flag (TEN_PART_FAULT_VALID p) then s.setFlag (TEN_PART_FAULT_OVERWRITTEN p) true else s
  let s2 := (s1.put (TEN_PART_FAULT_CODE p) code).put (TEN_PART_FAULT_LCORE p) lcore
  let s3 := ((s2.setFlag (TEN_PART_FAULT_VALID p) true).inc (TEN_PART_FAULT_COUNT p)).put
    (TEN_PART_FTICK_TICK p) tick.toNat
  s3.raisePart p cPartFault

/-! ### Conditions of the sequencer (R110, R120) -/

/-- The ALU functions of R110: none for a reserved function. -/
def aluFn (fn : BitVec 4) (a b : Word) : Option Word :=
  match fn.toNat with
  | 0 => some (a + b)
  | 1 => some (a - b)
  | 2 => some (a &&& b)
  | 3 => some (a ||| b)
  | 4 => some (a ^^^ b)
  | 5 => some (a <<< (b.toNat % 32))
  | 6 => some (a >>> (b.toNat % 32))
  | 7 => some (a.sshiftRight (b.toNat % 32))
  | 8 => some (a * b)
  | 9 => some (if b.toInt < a.toInt then b else a)
  | 10 => some (if a.toInt < b.toInt then b else a)
  | 11 => some (if a.toInt < b.toInt then 1 else 0)
  | 12 => some (if a.toNat < b.toNat then 1 else 0)
  | _ => none

/-- The branch conditions of R120. -/
def condEqz (a _b : Word) : Bool := decide (a = 0)
def condNez (a _b : Word) : Bool := decide (a ≠ 0)
def condLt (a b : Word) : Bool := decide (a.toInt < b.toInt)
def condGe (a b : Word) : Bool := decide (b.toInt ≤ a.toInt)

end Sys2Proof.Machine
end

