-- ==== Sys2Proof/Machine/Jobs.lean ====
section
/-! DEFINITION. Partition states, job accounting, the end of a job, and what each compute reset scope leaves of cores,
clusters and their registers (R140, R174, R216, R236, R263, R459, R461, R465, R468). -/

namespace Sys2Proof.Machine

/-! ### Partition states and accounting (R459, R461) -/

/-- The count of R461 that a partition in state `st` adds to: 1 LOADING, 2 RUNNING, 0 none. -/
def acctOf (st : Nat) : Nat :=
  if st = psLoading then 1 else if st = psRunning ∨ st = psRecovering ∨ st = psSaving then 2 else 0

/-- One count of a tenant moves by one, up or down. -/
def State.acct (s : State) (t kind : Nat) (up : Bool) : State :=
  let f := if kind = 1 then TEN_VF_ACCT_LOADING t else if kind = 2 then TEN_VF_ACCT_RUNNING t else TEN_VF_ACCT_SAVED t
  if kind = 0 then s else if up then s.inc f else s.put f (s.get f - 1)

/-- Partition `p` enters state `st`, and its tenant's counts follow (R459, R461). -/
def State.toPart (s : State) (p st : Nat) : State :=
  let old := s.get (TEN_PART_CTRL_STATE p)
  let s1 := s.put (TEN_PART_CTRL_STATE p) st
  match s.ownerOf p with
  | none => s1
  | some t => if acctOf old = acctOf st then s1 else (s1.acct t (acctOf old) false).acct t (acctOf st) true

/-- One more job of partition `p`'s owner has ended (R461). -/
def State.countEnded (s : State) (p : Nat) : State :=
  match s.ownerOf p with
  | none => s
  | some t => s.inc (TEN_VF_ENDED_ENDED t)

/-- `f` applied to every core of partition `p`, ascending. -/
def State.overCores (s : State) (p : Nat) (f : State → Nat → State) : State :=
  (s.partCores p).foldl f s

/-- `f` applied to every cluster of partition `p`, ascending. -/
def State.overClusters (s : State) (p : Nat) (f : State → Nat → State) : State :=
  (s.partClusters p).foldl f s

/-! ### The mode of remote writes (R216) -/

/-- All credit entries of core `c` are invalidated (R216). -/
def State.dropCredits (s : State) (c : Nat) : State :=
  let v (n : Nat) (s : State) : State :=
    s.setFlag (s.atCore c fun i k j => ISL_CORE_WCRED_VALID i k j n) false
  v 3 (v 2 (v 1 (v 0 s)))

/-- Core `c` enters WINDOW mode; its credit entries are invalidated (R216). -/
def State.toWindow (s : State) (c : Nat) : State :=
  (s.setFlag (s.atCore c ISL_CORE_TS_WMODE) true).dropCredits c

/-- Core `c` enters CREDIT mode; no credit is opened (R216). DEDUCED, log 65. -/
def State.toCredit (s : State) (c : Nat) : State :=
  s.setFlag (s.atCore c ISL_CORE_TS_WMODE) false

/-- The cores of partition `p` in CREDIT mode. DEDUCED, log 65. -/
def State.creditAll (s : State) (p : Nat) : State :=
  s.overCores p State.toCredit

/-- JOB of every core and cluster of partition `p` (R369). -/
def State.setJobBits (s : State) (p : Nat) (b : Bool) : State :=
  (s.overCores p fun s c => s.setFlag (s.atCore c ISL_CORE_TS_JOB) b).overClusters p fun s k =>
    s.setFlag (s.atCluster k ISL_CTR_RR_JOB) b

/-! ### Scopes (R140, R174, R236, R263) -/

/-- The first key of the register group of logical core `c`, and of the registers of cluster `k` of the package. -/
def State.coreKey (s : State) (c : Nat) : Nat := (s.atCore c ISL_CORE_ID).addr
def State.clusterKey (s : State) (k : Nat) : Nat := s.atCluster k fun i c => 0x1000000 + 0x100000 * i + 0x10000 * c

/-- A slot after a core reset: a slot that is not EMPTY is READY, its program and tables stay (R140). -/
def SlotSt.coreReset (x : SlotSt) : SlotSt :=
  { slotReset with state := (if x.state = .empty then .empty else .ready), fresh := (x.state != .empty),
                   imem := x.imem, tables := x.tables, flask := x.flask }

/-- A core after a core reset (R140): the state of its slots' programs and tables stays. -/
def CoreSt.coreReset (k : CoreSt) : CoreSt :=
  { Sys2Proof.Machine.coreReset with slots := k.slots.map SlotSt.coreReset }

/-- Registers of core `c` after a core reset: DBG zero, credits cleared, CREDIT mode, queue and position zero; STALL,
EVT and the counters stay (R140, R236, R263). -/
def State.coreRegsKept (s : State) (c : Nat) : State :=
  let b := s.coreKey c
  let s1 := ((s.resetRegs (b + 0x008) (b + 0x00C)).resetRegs (b + 0x0D0) (b + 0x0F0)).resetRegs (b + 0x144) (b + 0x148)
  let s2 := ((s1.toCredit c).put (s1.atCore c ISL_CORE_LADLE_QUEUED) 0).put (s1.atCore c ISL_CORE_LADLE_WALK) 0
  (List.range 4).foldl (fun s p =>
    ((s.put (s.atCore c fun i k j => ISL_CORE_FIFO_FILL_BANK i k j p) 0).put
      (s.atCore c fun i k j => ISL_CORE_FIFO_FULL i k j p) 0).put
      (s.atCore c fun i k j => ISL_CORE_FIFO_VIS_PKTS i k j p) 0) s2

/-- Registers of core `c` after a reset of cluster or partition scope: zero but for the split and JOB (R140, R236). -/
def State.coreRegsZero (s : State) (c : Nat) : State :=
  let b := s.coreKey c
  let units := s.get (s.atCore c ISL_CORE_TS_CACHE_UNITS)
  let job := s.flag (s.atCore c ISL_CORE_TS_JOB)
  let s1 := s.resetRegs b (b + 0x400)
  (s1.put (s1.atCore c ISL_CORE_TS_CACHE_UNITS) units).setFlag (s1.atCore c ISL_CORE_TS_JOB) job

/-- Core `c` cleared at core scope (R140). -/
def State.clearCore (s : State) (c : Nat) : State :=
  (s.setCore c (s.core c).coreReset).coreRegsKept c

/-- Core `c` cleared at cluster or partition scope (R140). -/
def State.wipeCore (s : State) (c : Nat) : State :=
  ({ s with cores := erase s.cores c }).coreRegsZero c

/-- Cluster `k` cleared at cluster scope: directory, counters, router (R236, R263, R296). -/
def State.wipeCluster (s : State) (k : Nat) (keepRR : Bool) : State :=
  let b := s.clusterKey k
  let rr := s.get (s.atCluster k ISL_DIR_STATUS_RR_PTR)
  let job := s.flag (s.atCluster k ISL_CTR_RR_JOB)
  let s1 := ({ s with clusters := erase s.clusters k }).resetRegs b (b + 0x8000)
  let s2 := s1.setFlag (s1.atCluster k ISL_CTR_RR_JOB) job
  if keepRR then s2.put (s2.atCluster k ISL_DIR_STATUS_RR_PTR) rr else s2

/-- Everything of partition `p`'s cores and clusters cleared as a partition reset clears it (R140, R371). -/
def State.wipePart (s : State) (p : Nat) : State :=
  (s.overCores p State.wipeCore).overClusters p fun s k => s.wipeCluster k true

/-! ### The end of a job (R459, R461, R462) -/

/-- Whether a tier request serves partition `p` (R334): its floor's, the transfers of its cores apart, which end as
they stand. -/
def TierReq.ofPart (r : TierReq) (p : Nat) : Bool :=
  match r.job with
  | .xfer _ _ _ _ => false
  | _ => decide (r.part = some p)

/-- A harbor without the streams, stations, fetches and requests of partition `p` (R296, R344). -/
def HarborSt.release (x : HarborSt) (p : Nat) : HarborSt :=
  { x with streams := x.streams.filter fun e => decide (e.2.part ≠ p),
           stations := x.stations.filter fun t => decide (t.part ≠ p),
           deficits := x.deficits.filter fun e => decide (e.1 / 16 ≠ p),
           reqs := x.reqs.filter fun r => !r.ofPart p }

/-- Every harbor released of partition `p`. -/
def State.releaseHarbors (s : State) (p : Nat) : State :=
  { s with harbors := s.harbors.map fun e => (e.1, e.2.release p) }

/-- A completed LOAD as its tenant's page reports it (R582). DEDUCED, log 67. -/
def State.showLoad (s : State) (r : LoadReq) (code : Nat) : State :=
  match r.issuer with
  | some t => (s.put (DB_ASYNC_LOAD_CODE t) code).put (DB_ASYNC_LOAD_PART t) r.part
  | none => s

/-- A load of partition `p`, in a context or waiting for one, is gone with status `code` (R368, R371, R381). -/
def State.closeLoad (s : State) (p code : Nat) : State :=
  let one (s : State) (n : Nat) : State := match lookup s.loads n with
    | none => s
    | some l =>
      if l.req.part = p then
        let s1 := ({ s with loads := erase s.loads n }.setFlag (HUB_LDR_CTX_ACTIVE n) false).put (HUB_LDR_CTX_STAGE n) 0
        (((s1.put (HUB_LDR_CTX_CODE n) code).put HUB_LDR_STATUS_CODE code).put HUB_LDR_STATUS_PART p).showLoad l.req code
      else s
  let s1 := (List.range 4).foldl one s
  { s1 with loadsWaiting := s1.loadsWaiting.filter fun r => decide (r.part ≠ p) }

/-- A load takes the lowest free context, or waits for one in command order (R367, R381). -/
def State.giveContext (s : State) (r : LoadReq) : State :=
  match (List.range 4).find? fun n => (lookup s.loads n).isNone with
  | none => { s with loadsWaiting := s.loadsWaiting ++ [r] }
  | some n =>
    let s1 := { s with loads := insert s.loads n { req := r, stage := 1 } }.setFlag (HUB_LDR_CTX_ACTIVE n) true
    let s2 := ((s1.put (HUB_LDR_CTX_STAGE n) 1).put (HUB_LDR_CTX_PART n) r.part).setReg (HUB_LDR_FAULT n) 0
    s2.put HUB_LDR_STATUS_CTX n

/-- The first accepted load that waits takes a context that has become free (R367). -/
def State.nextLoad (s : State) : State :=
  match s.loadsWaiting.find? fun r => decide (s.get (TEN_PART_CTRL_STATE r.part) = psLoading) with
  | some r =>
    if (List.range 4).any fun n => (lookup s.loads n).isNone then
      { s with loadsWaiting := s.loadsWaiting.erase r }.giveContext r
    else s
  | none => s

/-- HBR_FERRY_STATUS.ACTIVE follows the stations of running jobs (R300). DESIGN CHOICE, log 73. -/
def State.refreshFerry (s : State) : State :=
  (List.range 4).foldl (fun s h => s.setFlag (HBR_FERRY_STATUS_ACTIVE h)
    ((lookup s.harbors h).any fun x => !x.stations.isEmpty)) s

/-- Whether a save set is the one a restore names. -/
def SavedJob.named (j : SavedJob) (r : MoveRun) : Bool :=
  decide (j.part = r.part) && decide (j.handles = r.handles)

/-- The saved job of a restore into partition `p` counts as SAVED no longer (R461). DEDUCED, log 121. -/
def State.unsave (s : State) (p : Nat) : State :=
  match s.restores.find? fun r => decide (r.part = p) with
  | none => s
  | some r =>
    let was := s.saved.any fun j => j.live && j.named r
    let s1 := { s with saved := s.saved.map fun j => if j.named r then { j with live := false } else j }
    match was, s.ownerOf p with
    | true, some t => s1.acct t 3 false
    | _, _ => s1

/-- Saves and restores of partition `p` are over; a PREEMPT that was held is refused (R473, R481). -/
def State.dropMoves (s : State) (p : Nat) : State :=
  let held := (s.saves.any fun r => decide (r.part = p)) && decide (s.get (TEN_PART_CTRL_STATE p) ≠ psSaving)
  let s1 := { s with saves := s.saves.filter (fun r => decide (r.part ≠ p)),
                     restores := s.restores.filter fun r => decide (r.part ≠ p) }
  if held then s1.put (TEN_PART_STATUS_LAST_CODE p) stRefusedFit else s1

/-- The job of partition `p` ends with status `code` and the partition enters state `st`: its code, JOB_END and the
counts are written, its cores hold no job and are in CREDIT mode, its streams, spool and recovery are released. DEDUCED, log 65. -/
def State.closeJob (s0 : State) (p code st : Nat) : State :=
  let s := (((s0.releaseHarbors p).closeLoad p code).unsave p).dropMoves p
  let s1 := { s with jobs := erase s.jobs p, recov := erase s.recov p, spools := erase s.spools p }
  let s2 := ((s1.toPart p st).countEnded p).put (TEN_PART_STATUS_JOB_CODE p) code
  let s3 := (((s2.setJobBits p false).creditAll p).refreshJobLock).refreshFerry
  (s3.raisePart p cJobEnd).nextLoad

/-- The job of partition `p`, if it holds one, ends with `code` and the partition is IDLE. -/
def State.endJob (s : State) (p code : Nat) : State :=
  if (lookup s.jobs p).isSome then s.closeJob p code psIdle else s

/-- A partition-scope fault of core `c` ends its job: the record, PART_FAULT and JOB_END (R465). DEDUCED, log 124. -/
def State.faultEnd (s : State) (p code c : Nat) (tick : DWord) : State :=
  if (lookup s.jobs p).isSome then (s.partFault p code c tick).endJob p code else s

end Sys2Proof.Machine
end

