-- ==== Sys2Proof/Machine/Float.lean ====
section
/-! DEFINITION. The number formats (R66 to R72) and the exact arithmetic behind every operation: a value is a NaN, an
infinity, or a sign, a natural significand and a binary exponent; every operation is exact on values and rounds once. -/

namespace Sys2Proof.Machine

/-- A value of the formats of R66: `fin neg m e` stands for ±m × 2^e, and m = 0 is a signed zero. -/
inductive FV where
  | nan
  | inf (neg : Bool)
  | fin (neg : Bool) (m : Nat) (e : Int)
  deriving DecidableEq, Repr

/-- What lies beyond the finite values of a floating-point format (R68). -/
inductive Special where
  /-- Infinities and NaNs with the largest exponent, as IEEE 754. -/
  | ieee
  /-- E4M3: no infinity, and the all-ones code is NaN. -/
  | nanOnly
  /-- Every code is a number. -/
  | none
  deriving DecidableEq, Repr

/-- A floating-point format: exponent bits, mantissa bits, bias, specials (R66). -/
structure FFmt where
  ebits : Nat
  mbits : Nat
  bias  : Nat
  spec  : Special
  deriving DecidableEq, Repr

def fmtFP32 : FFmt := ⟨8, 23, 127, .ieee⟩
def fmtBF16 : FFmt := ⟨8, 7, 127, .ieee⟩
def fmtFP16 : FFmt := ⟨5, 10, 15, .ieee⟩
def fmtE4M3 : FFmt := ⟨4, 3, 7, .nanOnly⟩
def fmtE5M2 : FFmt := ⟨5, 2, 15, .ieee⟩
def fmtE2M3 : FFmt := ⟨2, 3, 1, .none⟩
def fmtE3M2 : FFmt := ⟨3, 2, 3, .none⟩
def fmtE2M1 : FFmt := ⟨2, 1, 1, .none⟩

/-- The exponent of the least significant bit of a subnormal of the format (R67). -/
def FFmt.emin (f : FFmt) : Int :=
  1 - (f.bias : Int) - (f.mbits : Int)

/-- The width of an element of the format. -/
def FFmt.width (f : FFmt) : Nat :=
  1 + f.ebits + f.mbits

/-- The largest finite magnitude as significand and exponent (R66). -/
def FFmt.maxFinite (f : FFmt) : Nat × Int :=
  let top : Nat := match f.spec with
    | .ieee => 2 ^ f.ebits - 2
    | _ => 2 ^ f.ebits - 1
  let m : Nat := match f.spec with
    | .nanOnly => 2 ^ (f.mbits + 1) - 2
    | _ => 2 ^ (f.mbits + 1) - 1
  (m, f.emin + (top : Int) - 1)

/-- The canonical NaN code of the format (R68); 0 for a format that has none. -/
def FFmt.nanCode (f : FFmt) : Nat :=
  match f.spec with
  | .ieee => (2 ^ f.ebits - 1) * 2 ^ f.mbits + 2 ^ (f.mbits - 1)
  | .nanOnly => 2 ^ (f.ebits + f.mbits) - 1
  | .none => 0

/-- The value of code `c` of format `f` (R67, R68). -/
def decodeF (f : FFmt) (c : Nat) : FV :=
  let neg := bit c (f.ebits + f.mbits)
  let e := bitsOf c f.mbits f.ebits
  let m := bitsOf c 0 f.mbits
  if e = 0 then .fin neg m f.emin
  else if f.spec = .ieee ∧ e = 2 ^ f.ebits - 1 then (if m = 0 then .inf neg else .nan)
  else if f.spec = .nanOnly ∧ e = 2 ^ f.ebits - 1 ∧ m = 2 ^ f.mbits - 1 then .nan
  else .fin neg (2 ^ f.mbits + m) (f.emin + (e : Int) - 1)

/-- How a conversion rounds (R84, R86). -/
inductive Rounding where
  | nearest
  /-- Stochastic, with the draw r. -/
  | stochastic (r : Nat)
  /-- Toward +infinity on magnitudes (R161). -/
  | up
  deriving DecidableEq, Repr

/-- The magnitude m × 2^e rounded to a multiple of 2^q: how many multiples. -/
def roundTo (rm : Rounding) (m : Nat) (e q : Int) : Nat :=
  if q ≤ e then m <<< (e - q).toNat
  else
    let d := (q - e).toNat
    let lo := m >>> d
    let rem := m % 2 ^ d
    if rem = 0 then lo
    else match rm with
      | .nearest =>
        if 2 * rem < 2 ^ d then lo
        else if 2 ^ d < 2 * rem then lo + 1
        else if lo % 2 = 0 then lo else lo + 1
      | .stochastic r => if r < rem * 2 ^ 32 / 2 ^ d then lo + 1 else lo
      | .up => lo + 1

/-- The exponent of the last place of the format for the magnitude m × 2^e, m > 0. -/
def FFmt.quantum (f : FFmt) (m : Nat) (e : Int) : Int :=
  max f.emin ((Nat.log2 m : Int) + e - (f.mbits : Int))

/-- m × 2^e rounded to the format's precision, range not yet looked at: significand and exponent. -/
def roundF (f : FFmt) (rm : Rounding) (m : Nat) (e : Int) : Nat × Int :=
  if m = 0 then (0, f.emin)
  else
    let q := f.quantum m e
    (roundTo rm m e q, q)

/-- Whether magnitude a × 2^x exceeds b × 2^y. -/
def magLt (b : Nat) (y : Int) (a : Nat) (x : Int) : Bool :=
  let lo := min x y
  decide (b <<< (y - lo).toNat < a <<< (x - lo).toNat)

/-- The code of the finite magnitude n × 2^q, n at most 2^(mbits + 1), in range, with a sign. -/
def encodeMag (f : FFmt) (neg : Bool) (n : Nat) (q : Int) : Nat :=
  let s := b2n neg * 2 ^ (f.ebits + f.mbits)
  if n < 2 ^ f.mbits then s + n
  else if n = 2 ^ (f.mbits + 1) then s + ((q + 1 - f.emin).toNat + 1) * 2 ^ f.mbits
  else s + (q - f.emin).toNat * 2 ^ f.mbits + n

/-- The FP32 pattern of a value, rounded to nearest even, overflow to infinity (R76, R80). -/
def toF32 (v : FV) : Word :=
  match v with
  | .nan => 0x7FC00000
  | .inf neg => if neg then 0xFF800000 else 0x7F800000
  | .fin neg m e =>
    let (n, q) := roundF fmtFP32 .nearest m e
    let (mx, me) := fmtFP32.maxFinite
    if magLt mx me n q then (if neg then 0xFF800000 else 0x7F800000)
    else BitVec.ofNat 32 (encodeMag fmtFP32 neg n q)

/-- The value of an FP32 pattern. -/
def ofF32 (w : Word) : FV :=
  decodeF fmtFP32 w.toNat

/-- The signed significand of a finite value scaled to exponent `lo`, which is at or below its own. -/
def scaledInt (neg : Bool) (m : Nat) (e lo : Int) : Int :=
  let n : Int := (m <<< (e - lo).toNat : Nat)
  if neg then -n else n

/-- The exact value of an integer times 2^e; zero takes the given sign. -/
def ofInt (z : Int) (e : Int) (zeroNeg : Bool) : FV :=
  if z = 0 then .fin zeroNeg 0 e else .fin (decide (z < 0)) z.natAbs e

/-- Exact sum; a zero sum of opposite signs is +0 (R80). -/
def addV (a b : FV) : FV :=
  match a, b with
  | .nan, _ => .nan
  | _, .nan => .nan
  | .inf s, .inf t => if s = t then .inf s else .nan
  | .inf s, .fin _ _ _ => .inf s
  | .fin _ _ _, .inf t => .inf t
  | .fin s m e, .fin t n g =>
    if m = 0 ∧ n = 0 then .fin (s && t) 0 e
    else
      let lo := min e g
      ofInt (scaledInt s m e lo + scaledInt t n g lo) lo false

def negV (a : FV) : FV :=
  match a with
  | .nan => .nan
  | .inf s => .inf (!s)
  | .fin s m e => .fin (!s) m e

/-- Exact product. -/
def mulV (a b : FV) : FV :=
  match a, b with
  | .nan, _ => .nan
  | _, .nan => .nan
  | .inf s, .inf t => .inf (s != t)
  | .inf s, .fin t n _ => if n = 0 then .nan else .inf (s != t)
  | .fin s m _, .inf t => if m = 0 then .nan else .inf (s != t)
  | .fin s m e, .fin t n g => .fin (s != t) (m * n) (e + g)

/-- Quotient with enough bits below the last place of any format that one rounding is correct (R177). -/
def divV (a b : FV) : FV :=
  match a, b with
  | .nan, _ => .nan
  | _, .nan => .nan
  | .inf _, .inf _ => .nan
  | .inf s, .fin t _ _ => .inf (s != t)
  | .fin s _ _, .inf t => .fin (s != t) 0 0
  | .fin s m e, .fin t n g =>
    if n = 0 then (if m = 0 then .nan else .inf (s != t))
    else if m = 0 then .fin (s != t) 0 0
    else
      let k := 40 + Nat.log2 n
      let num := m <<< k
      let sticky := b2n (decide (num % n ≠ 0))
      .fin (s != t) (2 * (num / n) + sticky) (e - g - (k : Int) - 1)

def isNaN (v : FV) : Bool :=
  match v with
  | .nan => true
  | _ => false

def isFin (v : FV) : Bool :=
  match v with
  | .fin _ _ _ => true
  | _ => false

def isZero (v : FV) : Bool :=
  match v with
  | .fin _ m _ => decide (m = 0)
  | _ => false

def signV (v : FV) : Bool :=
  match v with
  | .nan => false
  | .inf s => s
  | .fin s _ _ => s

/-- The order of two values other than NaN, with -0 below +0 when `zeros` asks for it (R178). -/
def ltV (zeros : Bool) (a b : FV) : Bool :=
  match a, b with
  | .nan, _ => false
  | _, .nan => false
  | .inf s, .inf t => s && !t
  | .inf s, .fin _ _ _ => s
  | .fin _ _ _, .inf t => !t
  | .fin s m e, .fin t n g =>
    if m = 0 ∧ n = 0 then zeros && s && !t
    else
      let lo := min e g
      decide (scaledInt s m e lo < scaledInt t n g lo)

/-- FP32 addition, subtraction, multiplication, fused multiply-add, division (R80, R177). -/
def fadd (a b : Word) : Word := toF32 (addV (ofF32 a) (ofF32 b))
def fsub (a b : Word) : Word := toF32 (addV (ofF32 a) (negV (ofF32 b)))
def fmul (a b : Word) : Word := toF32 (mulV (ofF32 a) (ofF32 b))
def ffma (a b c : Word) : Word := toF32 (addV (mulV (ofF32 a) (ofF32 b)) (ofF32 c))
def fdiv (a b : Word) : Word := toF32 (divV (ofF32 a) (ofF32 b))

/-- The IEEE 754-2019 minimum and maximum (R178). -/
def fmin (a b : Word) : Word :=
  if isNaN (ofF32 a) || isNaN (ofF32 b) then 0x7FC00000
  else if ltV true (ofF32 b) (ofF32 a) then b else a
def fmax (a b : Word) : Word :=
  if isNaN (ofF32 a) || isNaN (ofF32 b) then 0x7FC00000
  else if ltV true (ofF32 a) (ofF32 b) then b else a

/-- Whether two FP32 patterns compare equal (R192). -/
def feq (a b : Word) : Bool :=
  !isNaN (ofF32 a) && !isNaN (ofF32 b) && !ltV false (ofF32 a) (ofF32 b) && !ltV false (ofF32 b) (ofF32 a)

/-- An integer held within 32 bits, two's complement (R78, R176). -/
def satI32 (z : Int) : Word :=
  if z < -2147483648 then 0x80000000
  else if 2147483647 < z then 0x7FFFFFFF
  else BitVec.ofInt 32 z

/-- INT32 addition, subtraction and multiplication with saturation (R176). -/
def iadd (a b : Word) : Word := satI32 (a.toInt + b.toInt)
def isub (a b : Word) : Word := satI32 (a.toInt - b.toInt)
def imul (a b : Word) : Word := satI32 (a.toInt * b.toInt)
def imin (a b : Word) : Word := if b.toInt < a.toInt then b else a
def imax (a b : Word) : Word := if a.toInt < b.toInt then b else a

/-- An INT32 lane as FP32, rounded to nearest even (R176). -/
def i2f (a : Word) : Word := toF32 (ofInt a.toInt 0 false)

/-! ### Format codes and elements -/

/-- The floating-point format of an element code of R72, where it is one. -/
def elemFFmt (c : BitVec 4) : Option FFmt :=
  if c = 0 then some fmtFP32
  else if c = 1 then some fmtBF16
  else if c = 2 then some fmtFP16
  else if c = 4 then some fmtE4M3
  else if c = 5 then some fmtE5M2
  else if c = 6 then some fmtE2M3
  else if c = 7 then some fmtE3M2
  else if c = 8 then some fmtE2M1
  else none

/-- The MX block formats (R72). -/
def isMX (c : BitVec 4) : Bool :=
  decide (4 ≤ c.toNat ∧ c.toNat ≤ 9)

/-- The width in bits of an element (R66). -/
def elemBits (c : BitVec 4) : Nat :=
  if c = 0 ∨ c = 0xA then 32
  else if c = 1 ∨ c = 2 then 16
  else if c = 6 ∨ c = 7 then 6
  else if c = 8 then 4
  else 8

/-- The value of an element code of format `c` before any block scale (R66, R67). -/
def elemValue (c : BitVec 4) (code : Nat) : FV :=
  match elemFFmt c with
  | some f => decodeF f code
  | none =>
    if c = 9 then ofInt (signed 8 code) (-6) false
    else if c = 3 then ofInt (signed 8 code) 0 false
    else ofInt (signed 32 code) 0 false

/-- A value times 2^k. -/
def scaleV (v : FV) (k : Int) : FV :=
  match v with
  | .fin s m e => .fin s m (e + k)
  | w => w

/-- The value of element `code` under block scale `s` (R70). -/
def mxValue (c : BitVec 4) (s code : Nat) : FV :=
  if s = 0xFF then .nan else scaleV (elemValue c code) ((s : Int) - 127)

/-- What a conversion of one value to an element gives: a code, or the block NaN of R83. -/
inductive Conv where
  | code (n : Nat)
  | blockNaN
  deriving DecidableEq, Repr

/-- A value rounded to an integer in units of 2^unit and held in `w` bits, two's complement (R82). -/
def convInt (w : Nat) (unit : Int) (rm : Rounding) (v : FV) : Conv :=
  let top : Nat := 2 ^ (w - 1) - 1
  match v with
  | .nan => .code 0
  | .inf neg => .code (if neg then top + 1 else top)
  | .fin neg m e =>
    let n := roundTo rm m e unit
    if neg then .code (if top + 1 < n then top + 1 else (2 ^ w - n) % 2 ^ w)
    else .code (if top < n then top else n)

/-- Conversion of a value to an element of floating-point format `f` (R82). -/
def convF (f : FFmt) (rm : Rounding) (sat : Bool) (v : FV) : Conv :=
  let (mx, me) := f.maxFinite
  let sbit (neg : Bool) : Nat := b2n neg * 2 ^ (f.ebits + f.mbits)
  let beyond (neg : Bool) : Conv :=
    if sat then .code (encodeMag f neg mx me)
    else match f.spec with
      | .ieee => .code (sbit neg + (2 ^ f.ebits - 1) * 2 ^ f.mbits)
      | .nanOnly => .code f.nanCode
      | .none => .blockNaN
  match v with
  | .nan => if f.spec = .none then .blockNaN else .code f.nanCode
  | .inf neg =>
    if f.spec = .ieee ∧ f.ebits + f.mbits ≠ 7 then .code (sbit neg + (2 ^ f.ebits - 1) * 2 ^ f.mbits)
    else beyond neg
  | .fin neg m e =>
    let (n, q) := roundF f rm m e
    if magLt mx me n q then beyond neg else .code (encodeMag f neg n q)

/-- Conversion of a value to an element of format code `c`, without a block scale (R81, R82). FP32 and INT32 take
the nearest value whatever the rounding mode. -/
def convElem (c : BitVec 4) (rm : Rounding) (sat : Bool) (v : FV) : Conv :=
  match elemFFmt c with
  | some f => if c = 0 then .code (toF32 v).toNat else convF f rm sat v
  | none =>
    if c = 9 then convInt 8 (-6) rm v
    else if c = 3 then convInt 8 0 rm v
    else convInt 32 0 .nearest v

/-- Emax and Vmax of an MX element format (R83): Vmax as significand and exponent. -/
def mxEmax (c : BitVec 4) : Int :=
  if c = 4 then 8 else if c = 5 then 15 else if c = 6 then 2 else if c = 7 then 4 else if c = 8 then 2 else 0
def mxVmax (c : BitVec 4) : Nat × Int :=
  match elemFFmt c with
  | some f => f.maxFinite
  | none => (127, -6)

/-- The larger of two magnitudes, infinities above every finite value (R83). -/
def maxMag (a b : FV) : FV :=
  match a, b with
  | .inf _, _ => .inf false
  | _, .inf _ => .inf false
  | .fin _ m e, .fin _ n g => if magLt m e n g then .fin false n g else .fin false m e
  | v, .nan => v
  | .nan, v => v

/-- The scale exponent of R83 step 3, before the clamp of step 4. -/
def mxExp (c : BitVec 4) (scl : Bool) (a : FV) : Int :=
  match a with
  | .fin _ m e =>
    let top := (Nat.log2 m : Int) + e
    if scl then
      let (vm, ve) := mxVmax c
      let x := top - ((Nat.log2 vm : Int) + ve)
      if magLt vm (ve + x) m e then x + 1 else x
    else top - mxEmax c
  | _ => 127

/-- Conversion of the values of a block along the reduction dimension into an MX block: scale and element codes
(R83). `rm i` is the rounding of element i. -/
def toMXBlock (c : BitVec 4) (scl sat : Bool) (rm : Nat → Rounding) (vs : List FV) : Nat × List Nat :=
  let zeros := vs.map fun _ => 0
  if vs.any isNaN then (0xFF, zeros)
  else
    let a := vs.foldl maxMag (.fin false 0 0)
    if isZero a then
      (0, vs.map fun v => if c = 9 then 0 else b2n (signV v) * 2 ^ (elemBits c - 1))
    else
      let x := max (-127) (min 127 (mxExp c scl a))
      let codes := vs.mapIdx fun i v => convElem c (rm i) sat (scaleV v (-x))
      if codes.any (fun k => decide (k = .blockNaN)) then (0xFF, zeros)
      else ((x + 127).toNat, codes.map fun k => match k with
        | .code n => n
        | .blockNaN => 0)

/-! ### Stochastic rounding draws -/

def mix64 (x : BitVec 64) : BitVec 64 :=
  let x := x ^^^ (x >>> 30)
  let x := x * 0xB3C519E74A2D8F61#64
  let x := x ^^^ (x >>> 27)
  let x := x * 0xE7A13C59D2F486AB#64
  x ^^^ (x >>> 31)

/-- The 32-bit draw of key `k` at the 128-bit counter `c` (R88). -/
def drawAt (k : BitVec 64) (c : BitVec 128) : Nat :=
  let x := mix64 (c.extractLsb' 0 64 ^^^ k)
  let x := mix64 (x ^^^ c.extractLsb' 64 64 ^^^ k.rotateLeft 32)
  (x.extractLsb' 32 32).toNat

/-- The counter of R87. -/
def drawCounter (core elem tile tag source epoch : Nat) : BitVec 128 :=
  BitVec.ofNat 128 (core % 2 ^ 11 + (elem % 2 ^ 10) * 2 ^ 11 + (tile % 2 ^ 32) * 2 ^ 21 + (tag % 2 ^ 8) * 2 ^ 53
    + (source % 8) * 2 ^ 61 + (epoch % 2 ^ 32) * 2 ^ 64)

/-- The seven fields of a conversion control byte (R81). -/
def cvtDfmt (cvt : BitVec 8) : BitVec 4 := cvt.extractLsb' 0 4
def cvtStochastic (cvt : BitVec 8) : Bool := cvt.getLsbD 4
def cvtSat (cvt : BitVec 8) : Bool := cvt.getLsbD 5
def cvtScl (cvt : BitVec 8) : Bool := cvt.getLsbD 6

/-! ### Reductions -/

/-- The first half of a list combined with the second half, element by element: one level of the tree of R94. -/
def foldHalves (op : Word → Word → Word) (xs : List Word) : List Word :=
  let h := xs.length / 2
  List.zipWith op (xs.take h) (xs.drop h)

/-- The six-level tree of R94 over 64 lanes. -/
def laneTree (op : Word → Word → Word) (xs : List Word) : Word :=
  let x1 := foldHalves op xs
  let x2 := foldHalves op x1
  let x3 := foldHalves op x2
  let x4 := foldHalves op x3
  let x5 := foldHalves op x4
  (foldHalves op x5).headD 0

/-- One level of the pairwise tree of R79: element 2j with element 2j + 1. -/
def foldPairs (op : Word → Word → Word) (xs : List Word) : List Word :=
  match xs with
  | a :: b :: rest => op a b :: foldPairs op rest
  | rest => rest

/-- The five-level pairwise tree of R79 over 32 products. -/
def pairTree (xs : List Word) : Word :=
  let x1 := foldPairs fadd xs
  let x2 := foldPairs fadd x1
  let x3 := foldPairs fadd x2
  let x4 := foldPairs fadd x3
  (foldPairs fadd x4).headD 0

end Sys2Proof.Machine
end

