-- ==== Sys2Proof/Machine/Operands.lean ====
section
/-! DEFINITION. The operand forms of the core: scalar and address registers, tile store bytes and granules with their
side-band, elements of every format in the tile store and in ring slots, and their conversion on the way out
(R96, R108, R132, R175, R179, R203 to R209). -/

namespace Sys2Proof.Machine

/-! ### Scalar and address registers (R96) -/

/-- s0 reads 0 (R96). -/
def SlotSt.sreg (x : SlotSt) (i : Nat) : Word :=
  if i = 0 then 0 else x.sregs.getD i 0
def SlotSt.spoison (x : SlotSt) (i : Nat) : Bool :=
  if i = 0 then false else x.spois.getD i false
/-- s0 ignores writes (R96). -/
def SlotSt.setS (x : SlotSt) (i : Nat) (v : Word) (p : Bool) : SlotSt :=
  if i = 0 then x else { x with sregs := setAt x.sregs i v, spois := setAt x.spois i p }
def SlotSt.areg (x : SlotSt) (i : Nat) : BitVec 21 :=
  x.aregs.getD i 0
def SlotSt.setA (x : SlotSt) (i : Nat) (v : BitVec 21) : SlotSt :=
  { x with aregs := setAt x.aregs i v }

/-- a[i] plus a signed offset, modulo 2^21 (R96, R108). DEDUCED, log 38. -/
def addr21 (a : BitVec 21) (off : Int) : Nat :=
  (a + BitVec.ofInt 21 off).toNat

/-- An address with its low bits taken as zero, down to a power-of-two width (R108, R111). DEDUCED, log 38. -/
def alignDown (a w : Nat) : Nat :=
  a / w * w

/-! ### The tile store (R202 to R206) -/

/-- The end of the scratchpad of core `c` (R206). -/
def State.scratchEnd (s : State) (c : Nat) : Nat :=
  (8 - s.get (s.atCore c ISL_CORE_TS_CACHE_UNITS)) * 0x40000

def TileStore.byte (t : TileStore) (a : Nat) : Byte :=
  lookupD t.data a 0
def TileStore.bytePois (t : TileStore) (a : Nat) : Bool :=
  lookupD t.wpois (a / 4) false
def TileStore.bytes (t : TileStore) (a n : Nat) : List Byte :=
  readMany 0 t.data a n
def TileStore.setBytes (t : TileStore) (a : Nat) (bs : List Byte) : TileStore :=
  { t with data := storeMany 0 t.data a bs }
/-- WPOIS of `n` 4-byte words from word `w` upward (R203). -/
def TileStore.setWords (t : TileStore) (w : Nat) (ps : List Bool) : TileStore :=
  { t with wpois := storeMany false t.wpois w ps }
def TileStore.scale (t : TileStore) (g j : Nat) : Byte :=
  lookupD t.scales (4 * g + j) 0
def TileStore.setScales (t : TileStore) (g : Nat) (ss : List Byte) : TileStore :=
  { t with scales := storeMany 0 t.scales (4 * g) ss }
def TileStore.spoison (t : TileStore) (g j : Nat) : Bool :=
  lookupD t.spois (4 * g + j) false
def TileStore.setSpois (t : TileStore) (g : Nat) (ps : List Bool) : TileStore :=
  { t with spois := storeMany false t.spois (4 * g) ps }

/-- The granule at granule address `g`, with its side-band (R202, R203). -/
def TileStore.granule (t : TileStore) (g : Nat) : Granule :=
  { data := t.bytes (64 * g) 64, scales := readMany 0 t.scales (4 * g) 4,
    wpois := readMany false t.wpois (16 * g) 16, spois := readMany false t.spois (4 * g) 4 }

/-- A granule written whole, side-band included (R205). -/
def TileStore.setGranule (t : TileStore) (g : Nat) (x : Granule) : TileStore :=
  (((t.setBytes (64 * g) (x.data.take 64)).setWords (16 * g) (x.wpois.take 16)).setScales g (x.scales.take 4)).setSpois g
    (x.spois.take 4)

def TileStore.granules (t : TileStore) (g n : Nat) : List Granule :=
  (List.range n).map fun i => t.granule (g + i)
def TileStore.setGranules (t : TileStore) (g : Nat) (xs : List Granule) : TileStore :=
  match xs with
  | [] => t
  | x :: rest => (t.setGranule g x).setGranules (g + 1) rest

/-- The store as it reads where every byte from `e` on reads zero (R132). -/
def TileStore.below (t : TileStore) (e : Nat) : TileStore :=
  { data := eraseRange t.data e 0x200000, scales := eraseRange t.scales (e / 16) 0x20000,
    wpois := eraseRange t.wpois (e / 4) 0x80000, spois := eraseRange t.spois (e / 16) 0x20000 }

/-- A granule of zeros with every byte and scale poisoned (R132). -/
def poisonGranule : Granule :=
  { data := List.replicate 64 0, scales := List.replicate 4 0, wpois := List.replicate 16 true,
    spois := List.replicate 4 true }

/-- A granule of `bytes` with clear poison and scales 0. -/
def plainGranule (bytes : List Byte) : Granule :=
  { data := (bytes ++ List.replicate (64 - bytes.length) 0).take 64, scales := List.replicate 4 0,
    wpois := List.replicate 16 false, spois := List.replicate 4 false }

/-- Whether any byte or scale of a granule carries poison. -/
def granPoisoned (x : Granule) : Bool :=
  x.wpois.any id || x.spois.any id

/-! ### Elements in granules (R71, R204) -/

/-- Block j of an MX format within its granule: first byte and byte length (R204). -/
def mxPlace (c : BitVec 4) (j : Nat) : Nat × Nat :=
  if elemBits c = 8 then (32 * j, 32) else if elemBits c = 6 then (24 * j, 24) else (16 * j, 16)

/-- Blocks a granule holds (R204). -/
def mxPerGranule (c : BitVec 4) : Nat :=
  if elemBits c = 4 then 4 else 2

/-- The 32 element codes, the scale and the element poison of MX block `j` of granule `g` (R71, R203, R204). -/
def TileStore.mxBlock (t : TileStore) (c : BitVec 4) (g j : Nat) : List Nat × Nat × List Bool :=
  let (b, n) := mxPlace c j
  let payload := leNat (t.bytes (64 * g + b) n)
  let w := elemBits c
  let sp := t.spoison g j
  ((List.range 32).map (fun i => bitsOf payload (w * i) w), (t.scale g j).toNat,
    (List.range 32).map fun i =>
      sp || t.bytePois (64 * g + b + w * i / 8) || t.bytePois (64 * g + b + (w * i + w - 1) / 8))

/-- MX block `j` of granule `g` written: elements, scale, and the poison of its 4-byte words and its scale (R205). -/
def TileStore.setMxBlock (t : TileStore) (c : BitVec 4) (g j scale : Nat) (codes : List Nat) (ps : List Bool) :
    TileStore :=
  let (b, n) := mxPlace c j
  let w := elemBits c
  let payload := (codes.mapIdx fun i k => k <<< (w * i)).foldl (· + ·) 0
  let word (i : Nat) : Bool := (List.range 32).any fun e =>
    ps.getD e false && (decide (w * e / 32 = i) || decide ((w * e + w - 1) / 32 = i))
  let t1 := t.setBytes (64 * g + b) (leBytes n payload)
  let t2 := if w = 6 ∧ j = 1 then t1.setBytes (64 * g + 48) (List.replicate 16 0) else t1
  let t3 := t2.setWords ((64 * g + b) / 4) ((List.range (n / 4)).map word)
  { t3 with scales := store 0 t3.scales (4 * g + j) (BitVec.ofNat 8 scale),
            spois := store false t3.spois (4 * g + j) (ps.any id) }

/-! ### Vector operands (R108, R175, R179) -/

/-- The bytes one access of 64 elements touches (R108). -/
def vecBytes (c : BitVec 4) : Nat :=
  if isMX c then (if elemBits c = 4 then 32 else 64) else 8 * elemBits c

/-- A widened element: FP32 formats give the FP32 pattern; INT8 and INT32 the INT32 pattern (R179). -/
def widen (c : BitVec 4) (code : Nat) : Word :=
  if c = 3 then BitVec.ofInt 32 (signed 8 code)
  else if c = 0xA then BitVec.ofNat 32 code
  else toF32 (elemValue c code)

/-- The tag a VLD of format `c` gives (R175). -/
def loadsInt (c : BitVec 4) : Bool :=
  decide (c = 3 ∨ c = 0xA)

/-- `n` elements of a non-MX format from byte address `a`: patterns and poison (R179, R203). -/
def TileStore.plainElems (t : TileStore) (c : BitVec 4) (a n : Nat) : List Word × List Bool :=
  let w := elemBits c / 8
  ((List.range n).map (fun i => widen c (leNat (t.bytes (a + w * i) w))),
    (List.range n).map fun i => t.bytePois (a + w * i) || t.bytePois (a + w * i + w - 1))

/-- The 64 lanes of a vector access at aligned byte address `a` (R108, R179). -/
def TileStore.vecLoad (t : TileStore) (c : BitVec 4) (a : Nat) : List Word × List Bool :=
  if isMX c then
    let g := a / 64
    let j := if elemBits c = 4 then a % 64 / 16 else 0
    let (c0, s0, p0) := t.mxBlock c g j
    let (c1, s1, p1) := t.mxBlock c g (j + 1)
    (c0.map (fun k => toF32 (mxValue c s0 k)) ++ c1.map (fun k => toF32 (mxValue c s1 k)), p0 ++ p1)
  else t.plainElems c a 64

/-- The value of a lane under the register's tag (R176). -/
def laneValue (isInt : Bool) (w : Word) : FV :=
  if isInt then ofInt w.toInt 0 false else ofF32 w

/-- The value a conversion of a lane starts from (R179): INT32 lanes go through FP32 first, but for integer
destinations. -/
def storeValue (isInt : Bool) (c : BitVec 4) (w : Word) : FV :=
  if isInt then (if c = 3 ∨ c = 0xA then ofInt w.toInt 0 false else ofF32 (i2f w)) else ofF32 w

/-- Elements of a non-MX format written from byte address `a`, with the poison of each 4-byte word (R205). -/
def TileStore.setPlain (t : TileStore) (c : BitVec 4) (a : Nat) (codes : List Nat) (ps : List Bool) : TileStore :=
  let w := elemBits c / 8
  let n := codes.length * w / 4
  let word (i : Nat) : Bool := (List.range codes.length).any fun e =>
    ps.getD e false && (decide (w * e / 4 = i))
  (t.setBytes a (codes.flatMap fun k => leBytes w k)).setWords (a / 4) ((List.range n).map word)

/-- The code a conversion leaves outside an MX block. -/
def convCode (v : Conv) : Nat :=
  match v with
  | .code n => n
  | .blockNaN => 0

/-- 64 lane values converted under a control byte and written at aligned byte address `a` (R81 to R83, R108, R205). -/
def TileStore.vecStore (t : TileStore) (cvt : BitVec 8) (a : Nat) (rm : Nat → Rounding) (vs : List FV)
    (ps : List Bool) : TileStore :=
  let c := cvtDfmt cvt
  if isMX c then
    let g := a / 64
    let j := if elemBits c = 4 then a % 64 / 16 else 0
    let (s0, k0) := toMXBlock c (cvtScl cvt) (cvtSat cvt) rm (vs.take 32)
    let (s1, k1) := toMXBlock c (cvtScl cvt) (cvtSat cvt) (fun i => rm (32 + i)) (vs.drop 32)
    (t.setMxBlock c g j s0 k0 (ps.take 32)).setMxBlock c g (j + 1) s1 k1 (ps.drop 32)
  else t.setPlain c a (vs.mapIdx fun i v => convCode (convElem c (rm i) (cvtSat cvt) v)) ps

/-! ### Rings (R209 to R214) -/

def SlotSt.ring (x : SlotSt) (r : Nat) : RingSt :=
  lookupD x.rings r ringReset
def SlotSt.setRing (x : SlotSt) (r : Nat) (v : RingSt) : SlotSt :=
  { x with rings := insert x.rings r v }
def SlotSt.ringDesc (x : SlotSt) (r : Nat) : Option RingDesc :=
  x.tables.rings[r]?

def RingSt.count (r : RingSt) : Nat :=
  (r.full.filter id).length
/-- Full slots the consumer has not released (R116, R214). DEDUCED, log 31. -/
def RingSt.avail (r : RingSt) : Nat :=
  r.count - r.released
/-- Slots that are neither full nor reserved (R212). -/
def RingSt.free (r : RingSt) (d : RingDesc) : Nat :=
  d.slots - r.count - r.reserved

/-- The first granule of slot `i` of a ring (R210). -/
def RingDesc.slotGran (d : RingDesc) (i : Nat) : Nat :=
  d.base + i % max d.slots 1 * d.gran
/-- The consumer's head slot (R211, R214). -/
def RingSt.headSlot (r : RingSt) (d : RingDesc) : Nat :=
  (r.head + r.released) % max d.slots 1

/-- The tail slot becomes full (R211): its full bit sets and TAIL advances. -/
def RingSt.commit (r : RingSt) (d : RingDesc) : RingSt :=
  { r with full := setAt r.full r.tail true, tail := (r.tail + 1) % max d.slots 1, filled := 0 }

/-- The head slot leaves the ring: its full bit clears, HEAD advances, its credit is due to the producer (R211,
R212). -/
def RingSt.drop (r : RingSt) (d : RingDesc) : RingSt :=
  { r with full := setAt r.full r.head false, head := (r.head + 1) % max d.slots 1,
           released := r.released - 1, forwarded := r.forwarded - 1, delivered := r.delivered - 1,
           due := if d.producer ≤ 2 then r.due + 1 else r.due }

/-- Drops head slots while both conditions of R214 hold, at most `n` of them. -/
def RingSt.settle (r : RingSt) (d : RingDesc) (n : Nat) : RingSt :=
  match n with
  | 0 => r
  | n + 1 =>
    if 0 < r.released ∧ (d.forward = none ∨ 0 < r.delivered) then (r.drop d).settle d n else r

/-- The consumer releases one head slot (R211, R214). -/
def RingSt.release (r : RingSt) (d : RingDesc) : RingSt :=
  ({ r with released := r.released + 1 }).settle d 8

/-- The consumer releases `n` head slots. -/
def RingSt.releaseN (r : RingSt) (d : RingDesc) (n : Nat) : RingSt :=
  match n with
  | 0 => r
  | n + 1 => (r.release d).releaseN d n

/-- The producer commits `n` tail slots. -/
def RingSt.commitN (r : RingSt) (d : RingDesc) (n : Nat) : RingSt :=
  match n with
  | 0 => r
  | n + 1 => (r.commit d).commitN d n

end Sys2Proof.Machine
end

