-- ==== Sys2Proof/Machine/Issue.lean ====
section
/-! DEFINITION. The issue of one instruction by a core: when the sequencer may issue at all, the checks of R123 and their
stall counters, the program counter with its loop stack (R121), and the poison stop of R131. -/

namespace Sys2Proof.Machine

/-- What a command answers. -/
abbrev Answer := Host.Outcome State Fault Refusal

/-- Whether a compute reset of a scope that holds core `c` is under way (R468). DEDUCED, log 45. -/
def State.inReset (s : State) (c : Nat) : Bool :=
  s.resets.any fun r =>
    (decide (r.scope = 0) && decide (r.target = c)) || (decide (r.scope = 1) && decide (r.target = clusterOf c))
      || (decide (2 ≤ r.scope) && bit (s.partMask r.target) (clusterOf c))

/-- The partition that holds core `c`. -/
def State.corePart (s : State) (c : Nat) : Option Nat :=
  s.partOf (clusterOf c)

/-- Whether the core's own state lets its sequencer issue: an ACTIVE slot whose next instruction exists, and no stop,
fence, switch, pre-emption or debug halt (R61, R99, R131, R134, R136). -/
def CoreSt.ready (k : CoreSt) : Bool :=
  decide (k.slot.state = .active) && decide (k.slot.pc < 1024) && k.stopped.isNone && k.fence.isNone
    && k.switchTo.isNone && !k.preempt && (!k.dbgStop || k.stepOnce)

/-- Whether a partition's job goes on: it is RUNNING, or SAVING or RECOVERING until the request reaches each core (R134,
R477, R516). -/
def State.partLive (s : State) (p : Nat) : Bool :=
  let st := s.get (TEN_PART_CTRL_STATE p)
  decide (st = psRunning) || decide (st = psSaving) || decide (st = psRecovering)

/-- Whether core `c` may issue an instruction: its partition runs a job, it is neither fenced nor in a reset, and its
sequencer is ready. DESIGN CHOICE, log 7. -/
def State.canIssue (s : State) (c : Nat) : Bool :=
  match s.corePart c with
  | none => false
  | some p =>
    s.partLive p && (lookup s.jobs p).isSome && !s.fenced c && !s.inReset c
      && (s.core c).ready

/-- The command of core `c`'s sequencer: `run` where the core may issue, nothing otherwise. -/
def issue (c : Nat) (run : State → State) (s : State) : Answer :=
  .next (if s.canIssue c then run s else s)

/-- One cycle held on check `n` of R123 or R124. DESIGN CHOICE, log 7. -/
def State.hold (s : State) (c n : Nat) : State :=
  s.inc (s.atCore c fun i k j => ISL_CORE_STALL_CYCLES i k j n)

/-- The checks in order, each with its stall counter: the first that fails holds the instruction one cycle (R123). -/
def State.gate (s : State) (c : Nat) (checks : List (Bool × Nat)) (run : State → State) : State :=
  match checks with
  | [] => run s
  | (ok, n) :: rest => if ok then s.gate c rest run else s.hold c n

/-! ### The program counter (R101, R121) -/

/-- The loop stack and the instruction index after the instruction at `pc` of a straight run. -/
def afterPc (loops : List LoopLevel) (pc : Nat) : List LoopLevel × Nat :=
  match loops with
  | [] => ([], pc + 1)
  | l :: rest =>
    if pc = l.stop then
      (if 1 < l.left then ({ l with left := l.left - 1 } :: rest, l.start) else afterPc rest pc)
    else (l :: rest, pc + 1)

/-- DEDUCED, log 30. -/
def SlotSt.advance (x : SlotSt) : SlotSt :=
  let (ls, pc) := afterPc x.loops x.pc
  { x with loops := ls, pc := pc }

/-- A jump to `target`, the loop stack unchanged (R120). -/
def SlotSt.jump (x : SlotSt) (target : Nat) : SlotSt :=
  { x with pc := target }

/-- The active slot of core `c` updated; an instruction issued by a debug step is the only one (R141). -/
def State.setSlotDone (s : State) (c : Nat) (x : SlotSt) : State :=
  let k := s.core c
  let s1 := s.setCore c { (k.setActive x) with stepOnce := false }
  if k.stepOnce then s1.setFlag (s1.atCore c ISL_CORE_DBG_STEP) false else s1

/-- The instruction has issued: the program counter moves on. DESIGN CHOICE, log 6. -/
def State.advance (s : State) (c : Nat) : State :=
  s.setSlotDone c (s.core c).slot.advance

/-- The active slot changed by `g`, and the program counter moved on. -/
def State.finish (s : State) (c : Nat) (g : SlotSt → SlotSt) : State :=
  s.setSlotDone c (g (s.core c).slot).advance

/-! ### Scoreboard, events, poison -/

/-- The scalar registers of the active slot that await a CTAKE (R118, R123). DESIGN CHOICE, log 9. -/
def State.awaited (s : State) (c : Nat) : List Nat :=
  ((s.cluster (clusterOf c)).ctrReqs.filter fun r =>
    decide (r.core = c) && decide (r.op = 0) && decide (r.slot = (s.core c).active)).map (·.sd)

/-- Check 1 of R123 over the scalar registers an instruction names. DESIGN CHOICE, log 9. -/
def State.scored (s : State) (c : Nat) (regs : List Nat) : Bool :=
  regs.all fun r => decide (r = 0) || !(s.awaited c).contains r

def State.sreg (s : State) (c i : Nat) : Word := (s.core c).slot.sreg i
def State.spoison (s : State) (c i : Nat) : Bool := (s.core c).slot.spoison i
def State.areg (s : State) (c i : Nat) : BitVec 21 := (s.core c).slot.areg i

/-- A poisoned operand was consumed (R141). DEDUCED, log 28. -/
def State.poisonIn (s : State) (c : Nat) (p : Bool) : State :=
  if p then s.raiseEvt c ISL_CORE_EVT_POISON_IN else s

/-- An access fell outside the scratchpad (R132). -/
def State.outOfRange (s : State) (c : Nat) (o : Bool) : State :=
  if o then s.raiseEvt c ISL_CORE_EVT_ADDR_OOR else s

/-- The core stops issuing and its job ends with POISONED (R131, R465). -/
def State.poisonStop (s : State) (c : Nat) : State :=
  let s1 := (s.raiseEvt c ISL_CORE_EVT_POISON_CTL).setCore c { s.core c with stopped := some .poison }
  match s1.corePart c with
  | none => s1
  | some p => s1.faultEnd p stPoisoned c s1.tide.now

/-- `run` where no scalar register used for control carries poison, else the stop of R131. -/
def State.control (s : State) (c : Nat) (regs : List Nat) (run : State → State) : State :=
  if regs.any (s.spoison c) then s.poisonStop c else run s

def State.ts (s : State) (c : Nat) : TileStore := (s.core c).ts
def State.setTs (s : State) (c : Nat) (t : TileStore) : State :=
  s.setCore c { s.core c with ts := t }

/-- Whether `n` bytes from `a` lie in the scratchpad of core `c` (R132, R206). -/
def State.inScratch (s : State) (c a n : Nat) : Bool :=
  decide (a + n ≤ s.scratchEnd c)

/-- Granule `g` of core `c`'s tile store as an instruction reads it: zeros with poison outside the scratchpad. -/
def State.readGran (s : State) (c g : Nat) : Granule :=
  if s.inScratch c (64 * g) 64 then (s.ts c).granule g else poisonGranule

/-- Granules written from granule `g` on; what lies outside the scratchpad is discarded (R132). -/
def State.writeGrans (s : State) (c g : Nat) (xs : List Granule) : State :=
  match xs with
  | [] => s
  | x :: rest =>
    let s1 := if s.inScratch c (64 * g) 64 then s.setTs c ((s.ts c).setGranule g x) else s
    s1.writeGrans c (g + 1) rest

/-- Granules read from granule address `g`. -/
def State.readGrans (s : State) (c g n : Nat) : List Granule :=
  (List.range n).map fun i => s.readGran c (g + i)

/-- Whether a run of granules leaves the scratchpad. -/
def State.gransOut (s : State) (c g n : Nat) : Bool :=
  decide (0 < n) && !s.inScratch c (64 * g) (64 * n)

end Sys2Proof.Machine
end

