-- ==== Sys2Proof/Machine/Tile.lean ====
section
/-! DEFINITION. Packed tiles and the tile inflater (R209, R266, R317 to R321, R324, R325, R629): the packed form that
tiers store, the engine-ready form that pours deliver, the checks between them. Bytes travel with their poison. -/

namespace Sys2Proof.Machine

/-- A stored byte and whether it carries poison. -/
abbrev PByte := Byte × Bool

def pval (bs : List PByte) : Nat := leNat (bs.map (·.1))
def ppois (bs : List PByte) : Bool := bs.any (·.2)
def clean (bs : List Byte) : List PByte := bs.map fun b => (b, false)
def pzeros (n : Nat) : List PByte := List.replicate n (0, false)

/-! ### CRC-32C (R318) -/

def crcBit (c : Word) : Word :=
  if c.getLsbD 0 then (c >>> 1) ^^^ 0x82F63B78 else c >>> 1
def crcByte (c : Word) (b : Byte) : Word :=
  let x := c ^^^ b.setWidth 32
  crcBit (crcBit (crcBit (crcBit (crcBit (crcBit (crcBit (crcBit x)))))))
/-- CRC-32C (Castagnoli), initial value and final XOR all ones. -/
def crc32c (bs : List Byte) : Word :=
  (bs.foldl crcByte 0xFFFFFFFF) ^^^ 0xFFFFFFFF

/-! ### Packed tiles (R318, R319) -/

/-- A packed tile: its 16-byte header and its body. -/
structure PTile where
  hdr  : List PByte
  body : List PByte
  deriving DecidableEq, Repr

def PTile.wfmt (t : PTile) : BitVec 4 := BitVec.ofNat 4 (pval (t.hdr.take 1))
def PTile.sparse (t : PTile) : Nat := bitsOf (pval (t.hdr.take 1)) 4 2
def PTile.raw (t : PTile) : Bool := bit (pval (t.hdr.take 1)) 6
def PTile.cmp (t : PTile) : Nat := bitsOf (pval (t.hdr.drop 1 |>.take 1)) 0 4
def PTile.tbl (t : PTile) : Nat := bitsOf (pval (t.hdr.drop 1 |>.take 1)) 4 4
def PTile.occ (t : PTile) : Nat := pval (t.hdr.drop 2 |>.take 2)
def PTile.count (t : PTile) : Nat := pval (t.hdr.drop 4 |>.take 1)
def PTile.bodyLen (t : PTile) : Nat := pval (t.hdr.drop 6 |>.take 2)
def PTile.crc (t : PTile) : Nat := pval (t.hdr.drop 8 |>.take 4)

/-- The present blocks of an occupancy map. -/
def popCount (n : Nat) : Nat :=
  ((List.range 16).filter fun i => bit n i).length

/-- The block size of R266; none for a pair it does not list. -/
def blockSize (w : BitVec 4) (sparse : Nat) : Option Nat :=
  let half := sparse = 1 ∨ sparse = 3
  if w = 3 ∨ w = 4 ∨ w = 5 ∨ w = 9 then some (if half then 32 else 64)
  else if w = 6 ∨ w = 7 then some (if half then 24 else 48)
  else if w = 8 then some (if half then 16 else 32)
  else if w = 1 ∨ w = 2 then (if sparse = 0 then some 128 else none)
  else none

/-- Bytes of scales and of 2:4 metadata before the blocks (R319). -/
def scaleBytes (w : BitVec 4) : Nat := if isMX w then 32 else 0
def metaBytes (sparse : Nat) : Nat := if sparse = 1 ∨ sparse = 3 then 128 else 0

/-- The blocks a tile's header presents: all sixteen but for block-skipped tiles (R209, R266). -/
def PTile.blocks (t : PTile) : Nat :=
  if t.sparse = 0 ∨ t.sparse = 1 then 16 else popCount t.occ

/-- The first 16-byte header and its body at the head of the stored bytes. -/
def takeTile (bs : List PByte) : Option PTile :=
  let h := bs.take 16
  let n := pval (h.drop 6 |>.take 2)
  if h.length = 16 ∧ 16 + n ≤ bs.length then some { hdr := h, body := (bs.drop 16).take n } else none

/-- `n` tiles at 16-byte boundaries from the head of the stored bytes; none from the first that does not fit on. -/
def takeTiles (bs : List PByte) (n : Nat) : List (Option PTile) :=
  match n with
  | 0 => []
  | n + 1 =>
    match takeTile bs with
    | none => List.replicate (n + 1) none
    | some t => some t :: takeTiles (bs.drop (roundUp (16 + t.bodyLen) 16)) n

/-- The tiles of a tile page (R317). -/
def pageTiles (page : List PByte) : List (Option PTile) :=
  takeTiles ((page.drop 64).take (pval (page.drop 6 |>.take 2) - 64)) (pval (page.drop 4 |>.take 2))

/-! ### Canonical Huffman (R320) -/

/-- The 256 code lengths of table `t` of an object header page. -/
def codeLengths (page0 : List PByte) (t : Nat) : List Nat :=
  ((page0.drop (64 + 128 * t)).take 128).flatMap fun b => [b.1.toNat % 16, b.1.toNat / 16]

/-- Symbols with their lengths, by length and then by value. -/
def sortedSymbols (ls : List Nat) : List (Nat × Nat) :=
  (List.range 15).flatMap fun l => (ls.zipIdx.filter fun e => decide (e.1 = l + 1)).map fun e => (l + 1, e.2)

/-- Canonical codes: the first 0, each next the previous plus one shifted by the increase in length. -/
def assignCodes (xs : List (Nat × Nat)) (len code : Nat) : List (Nat × Nat × Nat) :=
  match xs with
  | [] => []
  | (l, s) :: rest =>
    let c := code <<< (l - len)
    (l, c, s) :: assignCodes rest l (c + 1)

/-- Whether the Kraft sum exceeds 1. -/
def overfull (ls : List Nat) : Bool :=
  decide (2 ^ 15 < (ls.filter (fun l => decide (l ≠ 0))).foldl (fun a l => a + 2 ^ (15 - l)) 0)

/-- The bits of the body, most significant bit of each byte first. -/
def bitsMsb (bs : List PByte) : List (Bool × Bool) :=
  bs.flatMap fun b => (List.range 8).map fun i => (b.1.getLsbD (7 - i), b.2)

/-- Decodes `want` symbols: the code read so far has `len` bits and value `acc`; none on an unassigned code or when the
bits run out. -/
def decodeBits (codes : List (Nat × Nat × Nat)) (bits : List (Bool × Bool)) (len acc : Nat) (pois : Bool) (want : Nat)
    (out : List (Nat × Bool)) : Option (List (Nat × Bool)) :=
  if want = 0 then some out.reverse
  else match bits with
    | [] => none
    | (b, p) :: rest =>
      let acc2 := 2 * acc + b2n b
      match codes.find? fun e => decide (e.1 = len + 1) && decide (e.2.1 = acc2) with
      | some e => decodeBits codes rest 0 0 false (want - 1) ((e.2.2, pois || p) :: out)
      | none => if len + 1 < 15 then decodeBits codes rest (len + 1) acc2 (pois || p) want out else none

/-- Elements of `w` bits packed little-endian (R71), a byte poisoned when an element in it is. -/
def packElems (w : Nat) (xs : List (Nat × Bool)) : List PByte :=
  let n := xs.length * w / 8
  let v := (xs.mapIdx fun i e => e.1 <<< (w * i)).foldl (· + ·) 0
  (leBytes n v).mapIdx fun i b =>
    (b, (xs.getD (8 * i / w) (0, false)).2 || (xs.getD ((8 * i + 7) / w) (0, false)).2)

/-- The present blocks of a tile, decoded where they are coded; none where R325 or R629 finds fault. -/
def PTile.payload (t : PTile) (page0 : List PByte) (near : Bool) : Option (List PByte) :=
  match blockSize t.wfmt t.sparse with
  | none => none
  | some b =>
    let n := t.blocks * b
    let skip := scaleBytes t.wfmt + metaBytes t.sparse
    let blocks := t.body.drop skip
    if t.raw || decide (t.count ≠ popCount t.occ) || decide (t.body.length < skip) then none
    else if t.cmp = 0 then (if n ≤ blocks.length then some (blocks.take n) else none)
    else if t.cmp = 1 ∧ near = false then
      let ls := codeLengths page0 t.tbl
      let w := elemBits t.wfmt
      let sym := if w = 16 then 8 else w
      if overfull ls then none
      else (decodeBits (assignCodes (sortedSymbols ls) 0 0) (bitsMsb blocks) 0 0 false (n * 8 / sym) []).map
        (packElems sym)
    else none

/-- Bytes cut into granules, scales zero (R209, R266). -/
def toGranules (bs : List PByte) (n : Nat) : List Granule :=
  match n with
  | 0 => []
  | n + 1 =>
    let h := bs.take 64 ++ pzeros (64 - bs.length)
    { data := h.map (·.1), scales := List.replicate 4 0,
      wpois := (List.range 16).map fun i => ppois ((h.drop (4 * i)).take 4),
      spois := List.replicate 4 false } :: toGranules (bs.drop 64) n

/-- A header-only tile with occupancy map 0 and a poisoned header (R325, R629). -/
def poisonTile (b0 : Byte) : List Granule :=
  [{ data := [0, 0, b0, 0] ++ List.replicate 60 0, scales := List.replicate 4 0, wpois := List.replicate 16 true,
     spois := List.replicate 4 false }]

/-- The engine-ready tile (R209, R266). -/
def PTile.ready (t : PTile) (blocks : List PByte) : List Granule :=
  let sc := t.body.take (scaleBytes t.wfmt)
  let md := (t.body.drop (scaleBytes t.wfmt)).take (metaBytes t.sparse)
  let hp := ppois t.hdr
  let occ := if t.sparse = 0 ∨ t.sparse = 1 then 0xFFFF else t.occ
  let hdr := (leBytes 2 occ ++ leBytes 1 (t.wfmt.toNat + 16 * t.sparse) ++ leBytes 1 (popCount occ)).map fun b =>
    (b, hp)
  let all := hdr ++ pzeros 28 ++ sc ++ pzeros (32 - sc.length) ++ md ++ blocks
  toGranules all ((all.length + 63) / 64)

/-- A tile as its destination receives it, and what it counts: none, CRC_FAIL, DECODE_FAIL. -/
inductive TileFault where
  | good | crc | decode
  deriving DecidableEq, Repr

/-- Whether the CRC of a stored tile holds (R318). -/
def PTile.crcOk (t : PTile) : Bool :=
  let h := t.hdr.map (·.1)
  decide ((crc32c (h.take 8 ++ [0, 0, 0, 0] ++ h.drop 12 ++ t.body.map (·.1))).toNat = t.crc)

/-- Delivery of a tile to a pour engine: from the near tier under R629, else through the inflater (R324, R325). -/
def deliverTile (t : Option PTile) (page0 : List PByte) (near : Bool) : List Granule × TileFault :=
  match t with
  | none => (poisonTile 0, .decode)
  | some t =>
    let b0 : Byte := BitVec.ofNat 8 (t.wfmt.toNat + 16 * t.sparse)
    if !near && !t.crcOk then (poisonTile b0, .crc)
    else match t.payload page0 near with
      | none => (poisonTile b0, .decode)
      | some bl => (t.ready bl, .good)

/-- A tile rewritten with CMP 0x0 and a recomputed CRC (R324). -/
def PTile.plain (t : PTile) (blocks : List PByte) : List PByte :=
  let body0 := t.body.take (scaleBytes t.wfmt + metaBytes t.sparse) ++ blocks
  let body := body0 ++ pzeros (roundUp body0.length 16 - body0.length)
  let hp := ppois t.hdr
  let h0 := (t.hdr.take 1).map (·.1) ++ [0] ++ ((t.hdr.drop 2).take 4).map (·.1) ++ leBytes 2 body.length
  let tail := (t.hdr.drop 12).map (·.1)
  let crc := crc32c (h0 ++ [0, 0, 0, 0] ++ tail ++ body.map (·.1))
  (h0 ++ leBytes 4 crc.toNat ++ tail).map (fun b => (b, hp)) ++ body

/-- A tile delivered with a poisoned header to a near frame: no block present, every byte poisoned (R325). -/
def poisonPacked (b0 : Byte) : List PByte :=
  let h := [b0, 0, 0, 0, 0, 0, 0, 0]
  ((h ++ leBytes 4 (crc32c (h ++ List.replicate 8 0)).toNat ++ [0, 0, 0, 0]).map fun b => (b, true))

/-- One tile on its way from the middle or far tier into a near frame (R324). -/
def inflateTile (t : Option PTile) (page0 : List PByte) : List PByte × TileFault :=
  match t with
  | none => (poisonPacked 0, .decode)
  | some t =>
    let b0 : Byte := BitVec.ofNat 8 (pval (t.hdr.take 1))
    if !t.crcOk then (poisonPacked b0, .crc)
    else match t.payload page0 false with
      | none => (poisonPacked b0, .decode)
      | some bl => (t.plain bl, .good)

/-- A stored tile page in the form a near frame holds (R317, R324); every tile poisoned when it does not fit 64 KiB. -/
def inflatePage (page page0 : List PByte) : List PByte × List TileFault :=
  let xs := (pageTiles page).map fun t => inflateTile t page0
  let len : Nat := 64 + (xs.map fun x => x.1.length).foldl (· + ·) 0
  let bad := (pageTiles page).map fun _ => (poisonPacked 0, TileFault.decode)
  let ys := if len ≤ 65536 then xs else bad
  let used : Nat := 64 + (ys.map fun x => x.1.length).foldl (· + ·) 0
  let all := page.take 6 ++ clean (leBytes 2 used) ++ (page.drop 8).take 56 ++ ys.flatMap (·.1)
  (all ++ pzeros (65536 - all.length), ys.map (·.2))

end Sys2Proof.Machine
end

