-- ==== Sys2Proof/Machine/Arrays.lean ====
section
/-! DEFINITION. What one array step computes (R74 to R79, R142 to R147, R152 to R156, R168, R169, R209, R240, R241,
R246, R251, R268): where a matrix descriptor puts each token block, how a ring slot spells a weight tile, the
contribution of a step to its outputs, and the output tile's conversion and write. -/

namespace Sys2Proof.Machine

/-! ### Matrices in the tile store (R239 to R241) -/

/-- Granules of a region of the tiled layout (R240). -/
def regionGrans (c : BitVec 4) : Nat :=
  if isMX c then (if elemBits c = 4 then 32 else 64) else 2 * elemBits c * 4

/-- The block of token `m` and column tile `t`: granule and block in it for an MX format, byte address and 0 for the
others (R240, R241). -/
def MatDesc.place (d : MatDesc) (c : BitVec 4) (base m t : Nat) : Nat × Nat :=
  let size := 32 * (elemBits c / 8)
  if d.rowsLayout then
    let row := base + m * d.rstride
    if isMX c then (row + t / mxPerGranule c, t % mxPerGranule c) else (64 * row + t * size, 0)
  else
    let reg := base + (m / 128 * (d.colsMax / 32) + t) * regionGrans c
    let r := m % 128
    if isMX c then (reg + r / mxPerGranule c, r % mxPerGranule c) else (64 * reg + r * size, 0)

/-- The bytes of a block: first byte and length. -/
def placeBytes (c : BitVec 4) (p : Nat × Nat) : Nat × Nat :=
  if isMX c then
    let (b, n) := mxPlace c p.2
    (64 * p.1 + b, n)
  else (p.1, 32 * (elemBits c / 8))

/-- A block as an instruction reads it: element codes, scale, element poison, and whether it lies outside. -/
structure Block where
  codes : List Nat
  scale : Nat
  pois  : List Bool
  out   : Bool
  deriving DecidableEq, Repr

/-- A block of +0 without poison (R246), and one read outside the scratchpad (R132). -/
def zeroBlock : Block :=
  { codes := List.replicate 32 0, scale := 0, pois := List.replicate 32 false, out := false }
def outBlock : Block :=
  { codes := List.replicate 32 0, scale := 0, pois := List.replicate 32 true, out := true }

/-- The 32 elements of format `c` at place `p` of core `k`'s tile store. -/
def State.block (s : State) (k : Nat) (c : BitVec 4) (p : Nat × Nat) : Block :=
  let (a, n) := placeBytes c p
  if !s.inScratch k a n then outBlock
  else if isMX c then
    let (codes, sc, ps) := (s.ts k).mxBlock c p.1 p.2
    { codes := codes, scale := sc, pois := ps, out := false }
  else
    let w := elemBits c / 8
    { codes := (List.range 32).map fun i => leNat ((s.ts k).bytes (a + w * i) w), scale := 0,
      pois := (List.range 32).map fun i => (s.ts k).bytePois (a + w * i) || (s.ts k).bytePois (a + w * i + w - 1),
      out := false }

/-- The value of an element of a block. -/
def Block.value (b : Block) (c : BitVec 4) (i : Nat) : FV :=
  let code := b.codes.getD i 0
  if isMX c then mxValue c b.scale code else elemValue c code

/-- Whether a block gates its row under ASKIP: only ±0, and a scale other than 0xFF (R155). -/
def Block.idle (b : Block) (c : BitVec 4) : Bool :=
  !(isMX c && decide (b.scale = 0xFF)) && b.codes.all fun k => isZero (elemValue c k)

/-! ### The weight tile of a slot (R152, R153, R168, R209) -/

/-- A weight tile: per output column the codes that meet each feature, the column's scale and poison. -/
structure WTile where
  cols  : List (List (List Nat))
  scales : List Nat
  pois  : List Bool
  present : Nat
  mis   : Bool
  deriving DecidableEq, Repr

/-- The codes of features 8 × fb to 8 × fb + 7 in one block-column of `vals` values from bit `at_` of the body (R152). -/
def blockColumn (body at_ w vals pos fb : Nat) : List (List Nat) :=
  (List.range 8).map fun i =>
    if vals = 8 then [bitsOf body (at_ + w * i) w]
    else
      let g := 2 * fb + i / 4
      (List.range 2).filterMap fun v =>
        if bitsOf pos (4 * g + 2 * v) 2 = i % 4 then some (bitsOf body (at_ + w * (2 * (i / 4) + v)) w) else none

/-- The tile that the granules of a slot spell, for a macro of weight format `w` and sparsity `sp`; a header that
disagrees counts as poisoned (R251, R268). -/
def parseTile (wf : BitVec 4) (sp : Nat) (gs : List Granule) : WTile :=
  let bytes := gs.flatMap (·.data)
  let wp := gs.flatMap (·.wpois)
  let occ := leNat (bytes.take 2)
  let b2 := leNat ((bytes.drop 2).take 1)
  let mis := decide (bitsOf b2 0 4 ≠ wf.toNat) || decide (bitsOf b2 4 2 ≠ sp)
    || decide (leNat ((bytes.drop 3).take 1) ≠ popCount occ)
  let half := decide (sp = 1 ∨ sp = 3)
  let skip := if half then 192 else 64
  let hp := (wp.take (skip / 4)).any id || (gs.take (skip / 64)).any fun g => g.spois.any id
  let w := elemBits wf
  let vals := if half then 4 else 8
  let body := leNat (bytes.drop skip)
  let at_ (fb j : Nat) : Option Nat :=
    let ix := 4 * fb + j / 8
    if bit occ ix then some ((popCount (occ % 2 ^ ix)) * (8 * vals * w) + j % 8 * (vals * w)) else none
  { cols := (List.range 32).map fun j => (List.range 4).flatMap fun fb => match at_ fb j with
      | none => List.replicate 8 []
      | some a => blockColumn body a w vals (leNat ((bytes.drop (64 + 4 * j)).take 4)) fb
    scales := (List.range 32).map fun j => leNat ((bytes.drop (32 + j)).take 1)
    pois := (List.range 32).map fun j => hp || mis || (List.range 4).any fun fb => match at_ fb j with
      | none => false
      | some a =>
        let lo := (skip + a / 8) / 4
        let hi := (skip + (a + vals * w - 1) / 8) / 4
        (wp.drop lo |>.take (hi + 1 - lo)).any id
    present := popCount occ, mis := mis }

/-! ### Contributions (R75 to R79, R156) -/

/-- The contribution of one token block and one weight column to the running sum. -/
def contribution (af wf : BitVec 4) (a : Block) (col : List (List Nat)) (scale : Nat) : Word :=
  let weights (f : Nat) : List Nat := match col.getD f [] with
    | [] => [0]
    | ks => ks
  if wf = 3 then
    BitVec.ofInt 32 ((List.range 32).foldl (fun acc f =>
      acc + signed 8 (a.codes.getD f 0) * ((weights f).map (signed 8)).foldl (· + ·) 0) 0)
  else if isMX wf then
    toF32 ((List.range 32).foldl (fun acc f =>
      (weights f).foldl (fun acc k => addV acc (mulV (a.value af f) (mxValue wf scale k))) acc) (.fin false 0 0))
  else
    pairTree ((List.range 32).map fun f =>
      fmul (toF32 (elemValue af (a.codes.getD f 0))) (toF32 (elemValue wf ((weights f).headD 0))))

/-- The sum after a contribution is added (R76, R78, R79). -/
def addContribution (wf : BitVec 4) (sum x : Word) : Word :=
  if wf = 3 then iadd sum x else fadd sum x

/-- What a step of the arrays computes: contributions and poison of 128 × 32 outputs, row-major, the rows gated, the
blocks skipped, and whether an operand lay outside the scratchpad. -/
structure StepSums where
  sums   : List Word
  pois   : List Bool
  askips : Nat
  bskips : Nat
  out    : Bool
  deriving DecidableEq, Repr

/-- The step of macro `f` on token blocks `rows` (absent beyond M) and weight tile `w`. -/
def stepSums (f : MatF) (rows : List (Option Block)) (w : WTile) : StepSums :=
  let row (r : Option Block) : List (Word × Bool) := match r with
    | none => List.replicate 32 (0, false)
    | some a =>
      let ap := a.pois.any id
      (List.range 32).map fun j =>
        (contribution f.afmt f.wfmt a (w.cols.getD j []) (w.scales.getD j 0), ap || w.pois.getD j false)
  let all := rows.flatMap row
  let busy (i : Nat) : Bool := (rows.getD (i / 32 * 32) none).isSome
  { sums := all.map (·.1), pois := all.map (·.2),
    askips := if f.askip then ((List.range 128).filter fun i => busy i && match rows.getD i none with
        | none => true
        | some a => a.idle f.afmt).length else 0,
    bskips := 16 - w.present,
    out := rows.any fun r => match r with
      | none => false
      | some a => a.out }

/-! ### Output tiles (R82, R83, R87, R145 to R147, R246, R250) -/

/-- An existing output as an MMAC's initial value: its pattern in the running sum's format (R146). -/
def initialValue (wf c : BitVec 4) (b : Block) (i : Nat) : Word :=
  if isMX c then toF32 (b.value c i)
  else
    let v := widen c (b.codes.getD i 0)
    if wf ≠ 3 ∧ loadsInt c then i2f v else v

/-- The value a running sum converts from. -/
def sumValue (wf : BitVec 4) (x : Word) : FV :=
  if wf = 3 then ofInt x.toInt 0 false else ofF32 x

/-- The tile number of token tile `mt` and column tile `nt` (R250). -/
def tileNumber (d : MatDesc) (wval mt nt : Nat) : Nat :=
  let base := mt * (d.colsMax / 32) + nt
  if d.ctr = 64 then base else (wval * ((d.rowsMax + 31) / 32) * (d.colsMax / 32) + base) % 2 ^ 32

/-- 32 values converted under CVT and written at place `p`; discarded outside the scratchpad (R132, R145). -/
def State.putBlock (s : State) (k : Nat) (cvt : BitVec 8) (p : Nat × Nat) (rm : Nat → Rounding) (vs : List FV)
    (ps : List Bool) : State :=
  let c := cvtDfmt cvt
  let (a, n) := placeBytes c p
  if !s.inScratch k a n then s.outOfRange k true
  else if isMX c then
    let (sc, codes) := toMXBlock c (cvtScl cvt) (cvtSat cvt) rm vs
    s.setTs k ((s.ts k).setMxBlock c p.1 p.2 sc codes ps)
  else
    s.setTs k ((s.ts k).setPlain c a (vs.mapIdx fun i v => convCode (convElem c (rm i) (cvtSat cvt) v)) ps)

end Sys2Proof.Machine
end

