-- ==== Sys2Proof/Machine/Special.lean ====
section
/-! DEFINITION. The special-function unit (R107, R181 to R188): inputs whose result R183 fixes, the results R181 and
R182 fix, the bounds of R186 around what the spec leaves open, and the three Z4 algorithms bit for bit. -/

namespace Sys2Proof.Machine

def f32NaN : Word := 0x7FC00000
def f32PosInf : Word := 0x7F800000
def f32NegInf : Word := 0xFF800000
def f32One : Word := 0x3F800000
def f32MinusOne : Word := 0xBF800000
def f32Half : Word := 0x3F000000

/-- Whether the magnitude of a pattern lies below 2^-126 (R181). -/
def tiny (w : Word) : Bool :=
  decide (w.toNat % 2 ^ 31 < 2 ^ 23)

/-- R181: a magnitude below 2^-126 is written as +0; every NaN is the canonical NaN. -/
def flush (w : Word) : Word :=
  if tiny w then 0 else if isNaN (ofF32 w) then f32NaN else w

/-! ### Faithful functions (R182) -/

/-- The largest n with n^2 ≤ v, found bit by bit from bit `b` downward. -/
def sqrtBits (v b acc : Nat) : Nat :=
  match b with
  | 0 => acc
  | b + 1 => if (acc + 2 ^ b) * (acc + 2 ^ b) ≤ v then sqrtBits v b (acc + 2 ^ b) else sqrtBits v b acc

/-- One of the two FP32 numbers around ±(n + fraction) × 2^q, n at least 2^23: n itself where the fraction is zero. -/
def faithful (fn : Nat) (x : Word) (neg : Bool) (n : Nat) (q : Int) (exact : Bool) : Word :=
  let m := if exact then n else if Config.faithfulUp fn x then n + 1 else n
  toF32 (.fin neg m q)

/-- The reciprocal of ±m × 2^e, m > 0, as a 24-bit quotient. -/
def recipF (x : Word) (neg : Bool) (m : Nat) (e : Int) : Word :=
  let k := 23 + Nat.log2 m + (if 2 ^ Nat.log2 m = m then 0 else 1)
  faithful 3 x neg (2 ^ k / m) (-(k : Int) - e) (decide (2 ^ k % m = 0))

/-- The reciprocal square root of m × 2^e, m > 0, as a 24-bit root. -/
def rsqrtF (x : Word) (m : Nat) (e : Int) : Word :=
  let odd := decide (e % 2 ≠ 0)
  let m2 := if odd then 2 * m else m
  let e2 := if odd then e - 1 else e
  let h := 24 + (Nat.log2 m2 + 1) / 2
  let q := 2 ^ (2 * h) / m2
  let r := sqrtBits q 80 0
  let ex := decide (2 ^ (2 * h) % m2 = 0) && decide (r * r = q)
  let d := Nat.log2 r - 23
  faithful 4 x false (r / 2 ^ d) ((d : Int) - (h : Int) - e2 / 2) (ex && decide (r % 2 ^ d = 0))

/-- The open results of R185, held to R181 and R186 and written as R181 says. -/
def openSfu (fn : Nat) (x : Word) : Word :=
  let w := flush (Config.sfu fn x)
  let v := ofF32 w
  match fn with
  | 2 => if signV v then 0 else w
  | 5 =>
    if isNaN v then 0 else if ltV false (.fin false 1 0) v then f32One
    else if ltV false v (.fin true 1 0) then f32MinusOne else w
  | 6 => if isNaN v || signV v then 0 else if ltV false (.fin false 1 0) v then f32One else w
  | _ => w

/-! ### Z4 compatibility (R187, R188) -/

/-- An exact value scaled by 2^k and written: infinity at or above 2^128, +0 below 2^-126. -/
def writeScaled (v : FV) (k : Int) : Word :=
  flush (toF32 (scaleV v k))

def z4KL : Word := 0x42B8AA3B
def z4CL : Word := 0x3C317218
def z4C3 : Word := 0x3E2AAAAB
def z4K1 : Word := 0x3D372713
def z4K2 : Word := 0x3F4C422A

/-- The largest 24-bit significand whose 64th power is at most 2^(64 × 23 + j), from bit `b` downward. -/
def root64 (j b acc : Nat) : Nat :=
  match b with
  | 0 => acc
  | b + 1 => if (acc + 2 ^ b) ^ 64 ≤ 2 ^ (1472 + j) then root64 j b (acc + 2 ^ b) else root64 j b acc

/-- T[j]: the FP32 number nearest 2^(j/64). -/
def z4T (j : Nat) : Word :=
  let m := root64 j 24 0
  let n := if (2 * m + 1) ^ 64 < 2 ^ (1536 + j) then m + 1 else m
  toF32 (.fin false n (-23))

/-- Y[i]: 1/(1 + (i + 0.5)/128) at 12 significant bits. -/
def z4Y (i : Nat) : Word :=
  let d := 257 + 2 * i
  let n := 2 ^ 20 / d
  let r := 2 ^ 20 % d
  let m := if d < 2 * r then n + 1 else n
  toF32 (.fin false m (-12))

/-- The integer nearest a value, ties to even. -/
def nearestInt (v : FV) : Int :=
  match v with
  | .fin neg m e => let n : Int := roundTo .nearest m e 0; if neg then -n else n
  | _ => 0

/-- z4_exp before its special inputs. -/
def z4ExpCore (x : Word) : Word :=
  let v := ofF32 x
  if ltV false (.fin false 89 0) v then f32PosInf
  else if ltV false v (.fin true 104 0) then 0
  else
    let n := nearestInt (ofF32 (fmul x z4KL))
    let r := ffma (toF32 (ofInt (-n) 0 false)) z4CL x
    let q := ffma r z4C3 f32Half
    let q := ffma q r f32One
    let p := ffma q r f32One
    let j := (n % 64).toNat
    writeScaled (ofF32 (fmul (z4T j) p)) ((n - j) / 64)

def z4Exp (x : Word) : Word :=
  match ofF32 x with
  | .nan => f32NaN
  | .inf true => 0
  | .inf false => f32PosInf
  | .fin _ m _ => if m = 0 then f32One else z4ExpCore x

/-- z4_recip of a finite nonzero input of either sign. -/
def z4RecipCore (neg : Bool) (m : Nat) (e : Int) : Word :=
  let k := Nat.log2 m
  let one := toF32 (.fin false m (-(k : Int)))
  let i := bitsOf one.toNat 16 7
  let mm := one ^^^ 0x80000000
  let y := z4Y i
  let d := ffma mm y f32One
  let y := ffma y d y
  let d := ffma mm y f32One
  let y := ffma y d y
  match ofF32 y with
  | .fin _ n g => writeScaled (.fin neg n g) (-(e + (k : Int)))
  | v => toF32 v

def z4Recip (x : Word) : Word :=
  match ofF32 x with
  | .nan => f32NaN
  | .inf _ => 0
  | .fin neg m e => if m = 0 then (if neg then f32NegInf else f32PosInf) else z4RecipCore neg m e

def z4Gelu (x : Word) : Word :=
  match ofF32 x with
  | .nan => f32NaN
  | .inf true => 0
  | .inf false => f32PosInf
  | .fin _ m _ =>
    if m = 0 then 0
    else
      let u := fmul x x
      let u := ffma u z4K1 f32One
      let u := fmul u x
      let u := fmul u z4K2
      let e := z4Exp (fmul (toF32 (.fin true 2 0)) u)
      let d := z4Recip (fadd e f32One)
      flush (fmul x d)

/-! ### The unit -/

/-- The results R183 fixes for special inputs of FN 0 to 6; none for another input. -/
def sfuSpecial (fn : Nat) (x : Word) : Option Word :=
  match ofF32 x with
  | .nan => some f32NaN
  | .inf neg =>
    match fn with
    | 0 | 1 => some (if neg then 0 else f32PosInf)
    | 2 => some (if neg then 0 else f32PosInf)
    | 3 => some 0
    | 4 => some (if neg then f32NaN else 0)
    | 5 => some (if neg then f32MinusOne else f32One)
    | _ => some (if neg then 0 else f32One)
  | .fin neg m _ =>
    if m = 0 then
      match fn with
      | 2 => some f32One
      | 3 => some (if neg then f32NegInf else f32PosInf)
      | 4 => some (if neg then f32NegInf else f32PosInf)
      | 6 => some f32Half
      | _ => some 0
    else if fn = 4 ∧ neg then some f32NaN
    else if fn = 2 ∧ !neg ∧ 0x42B17218 ≤ x.toNat then some f32PosInf
    else none

/-- The result of function FN for an FP32 input: none for a reserved function (R107). -/
def sfuFn (fn : BitVec 4) (x : Word) : Option Word :=
  let k := fn.toNat
  if k ≤ 6 then
    match sfuSpecial k x with
    | some w => some w
    | none =>
      match ofF32 x with
      | .fin neg m e => some (if k = 3 then flush (recipF x neg m e) else if k = 4 then flush (rsqrtF x m e)
          else openSfu k x)
      | _ => some f32NaN
  else if k = 7 then some (z4Exp x)
  else if k = 8 then some (z4Gelu x)
  else if k = 9 then some (z4Recip x)
  else none

/-- Whether a result counts in FLUSH_CNT: +0 from a finite nonzero input (R201). -/
def sfuFlushed (x y : Word) : Bool :=
  match ofF32 x with
  | .fin _ m _ => decide (m ≠ 0 ∧ y = 0)
  | _ => false

end Sys2Proof.Machine
end

