-- ==== Sys2Proof/Machine/CoreVec.lean ====
section
/-! DEFINITION. The vector instructions (R106 to R108, R175 to R188): one shared operation for lane-wise arithmetic,
one for loads and one for stores. -/

namespace Sys2Proof.Machine

def CoreSt.vreg (k : CoreSt) (i : Nat) : VReg :=
  k.vregs.getD i vregReset

/-- The lanes of a register as an FP32 operation reads them (R176). -/
def VReg.asF (v : VReg) : List Word :=
  if v.isInt then v.lanes.map i2f else v.lanes

/-- Vector register `vd` of core `c` written: tag, lanes, poison. -/
def State.setV (s : State) (c vd : Nat) (isInt : Bool) (lanes : List Word) (pois : List Bool) : State :=
  let k := s.core c
  s.setCore c { k with vregs := setAt k.vregs vd { isInt := isInt, lanes := lanes, pois := pois } }

/-- Lanes that became a NaN from inputs that hold none (R201). -/
def newNaNs (ins : List (List Word)) (out : List Word) : Nat :=
  ((List.range out.length).filter fun i =>
    isNaN (ofF32 (out.getD i 0)) && ins.all fun l => !isNaN (ofF32 (l.getD i 0))).length

def State.countNaN (s : State) (c n : Nat) : State :=
  s.bump (s.atCore c ISL_CORE_VEC_NAN_CNT) n
def State.countFlush (s : State) (c n : Nat) : State :=
  s.bump (s.atCore c ISL_CORE_VEC_FLUSH_CNT) n

def orLanes (a b : List Bool) : List Bool :=
  List.zipWith (· || ·) a b

/-- A lane-wise result written: counters, poison, and the program counter moved on. -/
def State.vecDone (s : State) (c vd : Nat) (isInt : Bool) (ins : List (List Word)) (out : List Word) (pois : List Bool) :
    State :=
  (((s.setV c vd isInt out pois).countNaN c (if isInt then 0 else newNaNs ins out)).poisonIn c (pois.any id)).advance c

/-- VADD, VSUB, VMUL, VMIN, VMAX: INT32 where both sources are, else FP32 (R175 to R178). -/
def State.vecArith (s : State) (c : Nat) (f : VecF) (fi ff : Word → Word → Word) : State :=
  let a := (s.core c).vreg f.va
  let b := (s.core c).vreg f.vb
  let p := orLanes a.pois b.pois
  if a.isInt && b.isInt then s.vecDone c f.vd true [] (List.zipWith fi a.lanes b.lanes) p
  else s.vecDone c f.vd false [a.asF, b.asF] (List.zipWith ff a.asF b.asF) p

def execVadd (c : LCore) (f : VecF) (s : State) : Answer := issue c (fun s => s.vecArith c f iadd fadd) s
def execVsub (c : LCore) (f : VecF) (s : State) : Answer := issue c (fun s => s.vecArith c f isub fsub) s
def execVmul (c : LCore) (f : VecF) (s : State) : Answer := issue c (fun s => s.vecArith c f imul fmul) s
def execVmin (c : LCore) (f : VecF) (s : State) : Answer := issue c (fun s => s.vecArith c f imin fmin) s
def execVmax (c : LCore) (f : VecF) (s : State) : Answer := issue c (fun s => s.vecArith c f imax fmax) s

/-- VDIV: always FP32 (R175, R177). -/
def State.vecDiv (s : State) (c : Nat) (f : VecF) : State :=
  let a := (s.core c).vreg f.va
  let b := (s.core c).vreg f.vb
  s.vecDone c f.vd false [a.asF, b.asF] (List.zipWith fdiv a.asF b.asF) (orLanes a.pois b.pois)
def execVdiv (c : LCore) (f : VecF) (s : State) : Answer := issue c (fun s => s.vecDiv c f) s

/-- VFMA: VA × VB + VD, rounded once (R106, R177). -/
def State.vecFma (s : State) (c : Nat) (f : VecF) : State :=
  let a := (s.core c).vreg f.va
  let b := (s.core c).vreg f.vb
  let d := (s.core c).vreg f.vd
  let out := List.zipWith (fun ab z => ffma ab.1 ab.2 z) (List.zip a.asF b.asF) d.asF
  s.vecDone c f.vd false [a.asF, b.asF, d.asF] out (orLanes (orLanes a.pois b.pois) d.pois)
def execVfma (c : LCore) (f : VecF) (s : State) : Answer := issue c (fun s => s.vecFma c f) s

/-- VSFU: function FN of every lane (R107, R181 to R188). -/
def State.vecSfu (s : State) (c : Nat) (f : VecF) : State :=
  let a := (s.core c).vreg f.va
  let out := a.asF.map fun x => (sfuFn f.fn x).getD f32NaN
  let n := ((List.zip a.asF out).filter fun e => sfuFlushed e.1 e.2).length
  (s.countFlush c n).vecDone c f.vd false [a.asF] out a.pois
def execVsfu (c : LCore) (f : VecF) (s : State) : Answer :=
  if (sfuFn f.fn 0).isNone then .refused .reservedEncoding else issue c (fun s => s.vecSfu c f) s

/-- The node operation of VRED: FN 0 sum, 1 max, 2 min (R106, R178). -/
def redFn (fn : BitVec 4) (isInt : Bool) : Option (Word → Word → Word) :=
  match fn.toNat with
  | 0 => some (if isInt then iadd else fadd)
  | 1 => some (if isInt then imax else fmax)
  | 2 => some (if isInt then imin else fmin)
  | _ => none

/-- VRED: the tree of R94 over the 64 lanes, written to every lane (R106, R175, R180). -/
def State.vecRed (s : State) (c : Nat) (f : VecF) (op : Word → Word → Word) : State :=
  let a := (s.core c).vreg f.va
  let r := laneTree op a.lanes
  let ins := if a.lanes.any fun w => isNaN (ofF32 w) then [List.replicate 64 f32NaN] else []
  s.vecDone c f.vd a.isInt ins (List.replicate 64 r) (List.replicate 64 (a.pois.any id))
def execVred (c : LCore) (f : VecF) (s : State) : Answer :=
  match redFn f.fn ((s.core c).vreg f.va).isInt with
  | none => .refused .reservedEncoding
  | some op => issue c (fun s => s.vecRed c f op) s

/-- VBCAST: the pattern of s[SA] in every lane (R176, R180). -/
def State.vecBcast (s : State) (c : Nat) (f : VecF) : State :=
  let p := s.spoison c f.sa
  s.gate c [(s.scored c [f.sa], 0)] fun s =>
    ((s.setV c f.vd false (List.replicate 64 (s.sreg c f.sa)) (List.replicate 64 p)).poisonIn c p).advance c
def execVbcast (c : LCore) (f : VecF) (s : State) : Answer := issue c (fun s => s.vecBcast c f) s

/-- VSCALE: VA × s[SA] read as FP32 (R176, R177, R180). -/
def State.vecScale (s : State) (c : Nat) (f : VecF) : State :=
  s.gate c [(s.scored c [f.sa], 0)] fun s =>
    let a := (s.core c).vreg f.va
    let k := s.sreg c f.sa
    let p := s.spoison c f.sa
    s.vecDone c f.vd false [a.asF, List.replicate 64 k] (a.asF.map fun x => fmul x k) (a.pois.map fun q => q || p)
def execVscale (c : LCore) (f : VecF) (s : State) : Answer := issue c (fun s => s.vecScale c f) s

/-- The tile store address of a VLD or VST with SRC 0, or in the ring slot that begins at granule `g` (R108). DEDUCED, log 38. -/
def State.vecAddr (s : State) (c : Nat) (f : VecF) (fmt : BitVec 4) (slot : Option Nat) : Nat :=
  let off := signed 19 f.imm.toNat
  let a := match slot with
    | none => addr21 (s.areg c f.areg) off
    | some g => addr21 (BitVec.ofNat 21 (64 * g)) off
  alignDown a (vecBytes fmt)

/-- VLD at an aligned address: 64 elements widened, or zeros with poison outside the scratchpad (R108, R132, R179). -/
def State.vecLoadAt (s : State) (c : Nat) (f : VecF) (slot : Option Nat) : State :=
  let a := s.vecAddr c f f.fn slot
  let ok := s.inScratch c a (vecBytes f.fn)
  let (lanes, pois) := if ok then (s.ts c).vecLoad f.fn a else (List.replicate 64 0, List.replicate 64 true)
  (((s.setV c f.vd (loadsInt f.fn) lanes pois).outOfRange c !ok).poisonIn c (pois.any id)).advance c

/-- VLD: from a[AREG] + IMM, or from the head slot of a ring that holds one (R108, R123). -/
def State.vecVld (s : State) (c : Nat) (f : VecF) : State :=
  if f.src then
    let x := (s.core c).slot
    match x.ringDesc f.ring with
    | none => s.hold c 2
    | some d =>
      s.gate c [(decide (0 < (x.ring f.ring).avail), 2)] fun s =>
        s.vecLoadAt c f (some (d.slotGran ((x.ring f.ring).headSlot d)))
  else s.vecLoadAt c f none
def execVld (c : LCore) (f : VecF) (s : State) : Answer :=
  if 0xA < f.fn.toNat then .refused .reservedEncoding else issue c (fun s => s.vecVld c f) s

/-- The rounding of lane `i` of a VST at address `a` (R86, R87, R625). -/
def State.vstRounding (s : State) (c : Nat) (cvt : BitVec 8) (a i : Nat) : Rounding :=
  if cvtStochastic cvt then
    let key := match s.corePart c with
      | some p => s.seedOf p
      | none => Config.pfSeed
    .stochastic (drawAt key (drawCounter c i (a / 64) 0 1 (s.core c).epoch.toNat))
  else .nearest

/-- VST at an aligned address: VA converted under CVT and written, or discarded outside the scratchpad (R108, R131,
R132). -/
def State.vecStoreAt (s : State) (c : Nat) (f : VecF) (slot : Option Nat) : State :=
  let fmt := cvtDfmt f.cvt
  let a := s.vecAddr c f fmt slot
  let v := (s.core c).vreg f.va
  let ok := s.inScratch c a (vecBytes fmt)
  let s1 := if ok then
      s.setTs c ((s.ts c).vecStore f.cvt a (s.vstRounding c f.cvt a) ((v.lanes.take 64).map (storeValue v.isInt fmt)) v.pois)
    else s
  (s1.outOfRange c !ok).advance c

/-- VST: to a[AREG] + IMM, or to the tail slot of a ring that has a free one (R108, R123). -/
def State.vecVst (s : State) (c : Nat) (f : VecF) : State :=
  if f.src then
    let x := (s.core c).slot
    match x.ringDesc f.ring with
    | none => s.hold c 3
    | some d =>
      s.gate c [(decide (0 < (x.ring f.ring).free d), 3)] fun s =>
        s.vecStoreAt c f (some (d.slotGran (x.ring f.ring).tail))
  else s.vecStoreAt c f none
def execVst (c : LCore) (f : VecF) (s : State) : Answer :=
  if 0xA < (cvtDfmt f.cvt).toNat then .refused .reservedEncoding else issue c (fun s => s.vecVst c f) s

end Sys2Proof.Machine
end

