-- ==== Sys2Proof/Machine/CoreStat.lean ====
section
/-! DEFINITION. The row-statistics instructions (R109, R189 to R196): each row read, reduced in its fixed order, and
written before the next row is read. -/

namespace Sys2Proof.Machine

/-- Byte length of a row: LEN + 1 elements rounded up to 64 bytes (R189, R204). -/
def rowBytes (fmt : BitVec 4) (len : Nat) : Nat :=
  if isMX fmt then roundUp (len / 32) (mxPerGranule fmt) / mxPerGranule fmt * 64
  else roundUp (len * (elemBits fmt / 8)) 64

/-- The elements of a row at granule-aligned or element-aligned byte address `a`, as FP32, with poison (R179, R189). DEDUCED, log 37. -/
def TileStore.rowElems (t : TileStore) (fmt : BitVec 4) (a len : Nat) : List Word × List Bool :=
  if isMX fmt then
    let blocks := (List.range (len / 32)).map fun b =>
      t.mxBlock fmt (a / 64 + b / mxPerGranule fmt) (b % mxPerGranule fmt)
    (blocks.flatMap fun e => e.1.map fun k => toF32 (mxValue fmt e.2.1 k), blocks.flatMap fun e => e.2.2)
  else
    let (xs, ps) := t.plainElems fmt a len
    (if loadsInt fmt then xs.map i2f else xs, ps)

/-- The elements of lane `j`, in ascending order (R190). -/
def laneElems (xs : List Word) (j : Nat) : List Word :=
  (List.range ((xs.length + 63 - j) / 64)).map fun i => xs.getD (64 * i + j) 0

/-- The sum of a row: lanes in ascending order from +0, then the tree (R190). -/
def rowSum (xs : List Word) : Word :=
  laneTree fadd ((List.range 64).map fun j => (laneElems xs j).foldl fadd 0)

/-- One level of the tree over lanes that may be empty (R190). -/
def foldHalvesO (op : Word → Word → Word) (xs : List (Option Word)) : List (Option Word) :=
  let h := xs.length / 2
  List.zipWith (fun a b => match a, b with
    | some u, some v => some (op u v)
    | some u, none => some u
    | none, w => w) (xs.take h) (xs.drop h)

/-- An extreme of a row: lanes start empty and an empty lane takes no part (R190, R191). -/
def rowExt (op : Word → Word → Word) (xs : List Word) : Word :=
  let lane (j : Nat) : Option Word := match laneElems xs j with
    | [] => none
    | x :: rest => some (rest.foldl op x)
  let l0 := (List.range 64).map lane
  let l6 := foldHalvesO op (foldHalvesO op (foldHalvesO op (foldHalvesO op (foldHalvesO op (foldHalvesO op l0)))))
  let r := (l6.headD none).getD 0
  if isNaN (ofF32 r) || xs.any (fun x => isNaN (ofF32 x)) then f32NaN else r

/-- An element count as FP32. -/
def lenF (xs : List Word) : Word :=
  i2f (BitVec.ofNat 32 xs.length)

/-- The mean of a row (R192). -/
def rowMean (xs : List Word) : Word :=
  if feq (rowExt fmin xs) (rowExt fmax xs) then rowExt fmax xs else fdiv (rowSum xs) (lenF xs)

/-- The population variance of a row (R193 to R195). -/
def rowVar (xs : List Word) : Word :=
  if feq (rowExt fmin xs) (rowExt fmax xs) then 0
  else
    let mean := rowMean xs
    let lane (j : Nat) : Word :=
      (laneElems xs j).foldl (fun acc x => let d := fsub x mean; ffma d d acc) 0
    let v := fdiv (laneTree fadd ((List.range 64).map lane)) (lenF xs)
    if isNaN (ofF32 v) then f32NaN else if signV (ofF32 v) then 0 else v

/-- The operations of R191. -/
inductive StatOp where
  | rmax | rsum | rmean | rvar | rminmax
  deriving DecidableEq, Repr

/-- What one row writes (R191). -/
def statRow (op : StatOp) (xs : List Word) : List Word :=
  match op with
  | .rmax => [rowExt fmax xs]
  | .rsum => [rowSum xs]
  | .rmean => [rowMean xs]
  | .rvar => [rowMean xs, rowVar xs]
  | .rminmax => [rowExt fmin xs, rowExt fmax xs]

/-- Words written from byte address `a` on with one poison tag; a word outside the scratchpad is discarded. -/
def State.writeWords (s : State) (c a : Nat) (ws : List Word) (p : Bool) : State :=
  match ws with
  | [] => s
  | w :: rest =>
    let ok := s.inScratch c a 4
    let s1 := if ok then s.setTs c (((s.ts c).setBytes a (leBytes 4 w.toNat)).setWords (a / 4) [p]) else s
    (s1.outOfRange c !ok).writeWords c (a + 4) rest p

/-- Row `r` read, reduced and written (R189, R196). -/
def State.statOneRow (s : State) (c : Nat) (op : StatOp) (fmt : BitVec 4) (src dst len r : Nat) : State :=
  let a := src + r * rowBytes fmt len
  let ok := s.inScratch c a (rowBytes fmt len)
  let (xs, ps0) := (if ok then s.ts c else (s.ts c).below (s.scratchEnd c)).rowElems fmt a len
  let ps := if ok then ps0 else true :: ps0
  let ws := statRow op xs
  let p := ps.any id
  let nan := if xs.any fun x => isNaN (ofF32 x) then 0 else (ws.filter fun w => isNaN (ofF32 w)).length
  (((s.outOfRange c !ok).poisonIn c p).countNaN c nan).writeWords c (dst + 4 * ws.length * r) ws p

/-- Every row in turn. -/
def State.statRows (s : State) (c : Nat) (op : StatOp) (fmt : BitVec 4) (src dst len rows : Nat) : State :=
  (List.range rows).foldl (fun s r => s.statOneRow c op fmt src dst len r) s

/-- A STAT instruction: its source at a[AREG] or in the head slot of a ring (R109, R123, R189). DEDUCED, log 37. -/
def State.stat (s : State) (c : Nat) (f : StatF) (op : StatOp) : State :=
  let dst := alignDown (s.areg c f.dreg).toNat 4
  let rows := f.rows.toNat + 1
  let len := f.len.toNat + 1
  if f.src then
    let x := (s.core c).slot
    match x.ringDesc f.ring with
    | none => s.hold c 2
    | some d =>
      s.gate c [(decide (0 < (x.ring f.ring).avail), 2)] fun s =>
        (s.statRows c op f.fmt (64 * d.slotGran ((x.ring f.ring).headSlot d)) dst len rows).advance c
  else
    (s.statRows c op f.fmt (alignDown (s.areg c f.areg).toNat (if isMX f.fmt then 64 else elemBits f.fmt / 8)) dst len
      rows).advance c

/-- A STAT instruction of core `c`; a reserved format code is refused (R103). -/
def execStat (op : StatOp) (c : LCore) (f : StatF) (s : State) : Answer :=
  if 0xA < f.fmt.toNat then .refused .reservedEncoding else issue c (fun s => s.stat c f op) s

def execRmax (c : LCore) (f : StatF) (s : State) : Answer := execStat .rmax c f s
def execRsum (c : LCore) (f : StatF) (s : State) : Answer := execStat .rsum c f s
def execRmean (c : LCore) (f : StatF) (s : State) : Answer := execStat .rmean c f s
def execRvar (c : LCore) (f : StatF) (s : State) : Answer := execStat .rvar c f s
def execRminmax (c : LCore) (f : StatF) (s : State) : Answer := execStat .rminmax c f s

end Sys2Proof.Machine
end

