-- ==== Sys2Proof/Machine/CoreMove.lean ====
section
/-! DEFINITION. The scalar, move, fill and copy instructions (R110 to R112, R131, R632). -/

namespace Sys2Proof.Machine

/-- A scalar result with its poison, and the program counter moved on. -/
def State.scalarDone (s : State) (c sd : Nat) (v : Word) (p : Bool) : State :=
  (s.poisonIn c p).finish c fun x => x.setS sd v p

/-- LI (R110). -/
def execLi (c : LCore) (f : MoveF) (s : State) : Answer :=
  issue c (fun s => s.gate c [(s.scored c [f.sd], 0)] fun s => s.finish c fun x => x.setS f.sd f.imm false) s

/-- ALU: s[SD] = s[SA] FN s[SB]; poison is inherited (R110, R111, R131). -/
def State.aluOp (s : State) (c : Nat) (f : MoveF) : State :=
  s.gate c [(s.scored c [f.sa, f.sb, f.sd], 0)] fun s =>
    s.scalarDone c f.sd ((aluFn f.fn (s.sreg c f.sa) (s.sreg c f.sb)).getD 0) (s.spoison c f.sa || s.spoison c f.sb)
def execAlu (c : LCore) (f : MoveF) (s : State) : Answer :=
  if (aluFn f.fn 0 0).isNone then .refused .reservedEncoding else issue c (fun s => s.aluOp c f) s

/-- ALUI: s[SD] = s[SA] FN IMM (R110, R111, R131). -/
def State.aluiOp (s : State) (c : Nat) (f : MoveF) : State :=
  s.gate c [(s.scored c [f.sa, f.sd], 0)] fun s =>
    s.scalarDone c f.sd ((aluFn f.fn (s.sreg c f.sa) f.imm).getD 0) (s.spoison c f.sa)
def execAlui (c : LCore) (f : MoveF) (s : State) : Answer :=
  if (aluFn f.fn 0 0).isNone then .refused .reservedEncoding else issue c (fun s => s.aluiOp c f) s

/-- The address of an LDS or STS: a[SA] + IMM, its low two bits zero (R111, R632). -/
def State.wordAddr (s : State) (c : Nat) (f : MoveF) : Nat :=
  alignDown (addr21 (s.areg c f.sa) f.imm.toInt) 4

/-- LDS: a 32-bit word of the tile store, with its poison (R110, R131, R132). -/
def State.ldsOp (s : State) (c : Nat) (f : MoveF) : State :=
  s.gate c [(s.scored c [f.sd], 0)] fun s =>
    let a := s.wordAddr c f
    let ok := s.inScratch c a 4
    let v : Word := if ok then BitVec.ofNat 32 (leNat ((s.ts c).bytes a 4)) else 0
    let p := if ok then (s.ts c).bytePois a else true
    (s.outOfRange c !ok).scalarDone c f.sd v p
def execLds (c : LCore) (f : MoveF) (s : State) : Answer := issue c (fun s => s.ldsOp c f) s

/-- STS: s[SB] stored, its poison with it (R110, R131, R132, R205). -/
def State.stsOp (s : State) (c : Nat) (f : MoveF) : State :=
  s.gate c [(s.scored c [f.sb], 0)] fun s =>
    (s.writeWords c (s.wordAddr c f) [s.sreg c f.sb] (s.spoison c f.sb)).advance c
def execSts (c : LCore) (f : MoveF) (s : State) : Answer := issue c (fun s => s.stsOp c f) s

/-- AMOV: FN 0 a[SD] = s[SA] + IMM; FN 1 a[SD] = a[SA] + IMM; FN 2 s[SD] = a[SA] (R110, R632). A poisoned s[SA] of
FN 0 is used as an address (R131). -/
def State.amovOp (s : State) (c : Nat) (f : MoveF) : State :=
  match f.fn.toNat with
  | 0 => s.gate c [(s.scored c [f.sa], 0)] fun s => s.control c [f.sa] fun s =>
      s.finish c fun x => x.setA f.sd (BitVec.ofNat 21 (x.sreg f.sa + f.imm).toNat)
  | 1 => s.finish c fun x => x.setA f.sd (BitVec.ofNat 21 (addr21 (x.areg f.sa) f.imm.toInt))
  | _ => s.gate c [(s.scored c [f.sd], 0)] fun s =>
      s.finish c fun x => x.setS f.sd (BitVec.ofNat 32 (x.areg f.sa).toNat) false
def execAmov (c : LCore) (f : MoveF) (s : State) : Answer :=
  if 2 < f.fn.toNat then .refused .reservedEncoding else issue c (fun s => s.amovOp c f) s

/-- The special registers of R112 that GET reads: none for a reserved index. -/
def State.special (s : State) (c : Nat) (ix : Nat) : Option Word :=
  let k := s.core c
  match ix with
  | 0 => some (BitVec.ofNat 32 c)
  | 1 => some (BitVec.ofNat 32 (s.pcore c))
  | 2 => some (BitVec.ofNat 32 ((s.corePart c).getD 0))
  | 3 => some (BitVec.ofNat 32 k.active)
  | 4 => some (s.tide.now.setWidth 32)
  | 5 => some k.tideHi
  | 6 => some k.epoch
  | 7 => some (k.ftick.setWidth 32)
  | 8 => some ((k.ftick >>> 32).setWidth 32)
  | 9 => some (s.reg (s.atCore c ISL_CORE_EVT))
  | _ => none

/-- GET; a read of TIDE_LO latches tide [63:32] into TIDE_HI (R110, R112). -/
def State.getOp (s : State) (c : Nat) (f : MoveF) (v : Word) : State :=
  s.gate c [(s.scored c [f.sd], 0)] fun s =>
    let s1 := if f.imm.toNat % 256 = 4 then
        s.setCore c { s.core c with tideHi := (s.tide.now >>> 32).setWidth 32 }
      else s
    s1.finish c fun x => x.setS f.sd v false
def execGet (c : LCore) (f : MoveF) (s : State) : Answer :=
  match s.special c (f.imm.toNat % 256) with
  | none => .refused .reservedEncoding
  | some v => issue c (fun s => s.getOp c f v) s

/-- PUT: EPOCH is the one writable special register (R110, R112, R131). -/
def State.putOp (s : State) (c : Nat) (f : MoveF) : State :=
  s.gate c [(s.scored c [f.sa], 0)] fun s => s.control c [f.sa] fun s =>
    (s.setCore c { s.core c with epoch := s.sreg c f.sa }).advance c
def execPut (c : LCore) (f : MoveF) (s : State) : Answer :=
  if f.imm.toNat % 256 = 6 then issue c (fun s => s.putOp c f) s else .refused .reservedEncoding

/-- A granule of a FILL: the pattern sixteen times, every scale 0x7F, poisoned with the pattern (R205). DEDUCED, log 29. -/
def fillGranule (v : Word) (p : Bool) : Granule :=
  { data := (List.replicate 16 (leBytes 4 v.toNat)).flatten, scales := List.replicate 4 0x7F,
    wpois := List.replicate 16 p, spois := List.replicate 4 false }

/-- FILL s[SA] bytes from a[SD] with s[SB] (R110, R111, R131, R205). DEDUCED, log 29. -/
def State.fillOp (s : State) (c : Nat) (f : MoveF) : State :=
  s.gate c [(s.scored c [f.sa, f.sb], 0)] fun s => s.control c [f.sa] fun s =>
    let g := (s.areg c f.sd).toNat / 64
    let n := (s.sreg c f.sa).toNat / 64
    let room := s.scratchEnd c / 64 - g
    let x := fillGranule (s.sreg c f.sb) (s.spoison c f.sb)
    ((s.writeGrans c g (List.replicate (min n room) x)).outOfRange c (decide (room < n))).advance c
def execFill (c : LCore) (f : MoveF) (s : State) : Answer := issue c (fun s => s.fillOp c f) s

/-- One granule after the other, in ascending order (R111). DESIGN CHOICE, log 39. -/
def State.copyGrans (s : State) (c dst src n : Nat) : State :=
  match n with
  | 0 => s
  | n + 1 => (s.writeGrans c dst [s.readGran c src]).copyGrans c (dst + 1) (src + 1) n

/-- COPY s[SB] bytes from a[SA] to a[SD] (R110, R111, R131, R205). DESIGN CHOICE, log 39. -/
def State.copyOp (s : State) (c : Nat) (f : MoveF) : State :=
  s.gate c [(s.scored c [f.sb], 0)] fun s => s.control c [f.sb] fun s =>
    let d := (s.areg c f.sd).toNat / 64
    let g := (s.areg c f.sa).toNat / 64
    let n := (s.sreg c f.sb).toNat / 64
    let room := s.scratchEnd c / 64 - d
    ((s.copyGrans c d g (min n room)).outOfRange c (s.gransOut c g n || s.gransOut c d n)).advance c
def execCopy (c : LCore) (f : MoveF) (s : State) : Answer := issue c (fun s => s.copyOp c f) s

end Sys2Proof.Machine
end

