-- ==== Sys2Proof/Machine/Fifo.lean ====
section
/-! DEFINITION. Packet FIFOs (R221 to R227): reservation, commit, rewind, the bank swap, the test write. -/

namespace Sys2Proof.Machine

/-- Granules of one bank (R221). -/
def bankGrans : Nat := 128

/-- Granules the committed packets of a bank hold. -/
def packetGrans (ps : List Packet) : Nat :=
  (ps.map fun p => p.grans.length).foldl (· + ·) 0

def Fifo.filling (x : Fifo) : List Packet := if x.fill = 0 then x.cope else x.drag
def Fifo.draining (x : Fifo) : List Packet := if x.fill = 0 then x.drag else x.cope
def Fifo.setFilling (x : Fifo) (ps : List Packet) : Fifo :=
  if x.fill = 0 then { x with cope := ps } else { x with drag := ps }
def Fifo.setDraining (x : Fifo) (ps : List Packet) : Fifo :=
  if x.fill = 0 then { x with drag := ps } else { x with cope := ps }
def Fifo.swap (x : Fifo) : Fifo :=
  { x with fill := 1 - x.fill }

/-- FIFO_BANK_SWAP: the banks swap once the draining bank is empty and the filling bank holds a committed packet and
none in progress (R223). DEDUCED, log 46. -/
def Fifo.settle (x : Fifo) : Fifo :=
  if x.draining = [] ∧ x.filling ≠ [] ∧ x.inProg = none then x.swap else x

/-- The first word of a packet of `n` granules: space is reserved in the filling bank, or the banks swap, or FULL is
raised and the packet is held (R222). -/
def Fifo.begin (x : Fifo) (route source n : Nat) : Fifo :=
  if x.inProg ≠ none then { x with held := some (route, source, n) }
  else if packetGrans x.filling + n ≤ bankGrans then { x with inProg := some (route, source, n), held := none }
  else if x.draining = [] then { x.swap with inProg := some (route, source, n), held := none }
  else { x with held := some (route, source, n) }

/-- A held packet is judged again when the banks have changed (R225). DEDUCED, log 46. -/
def Fifo.retry (x : Fifo) : Fifo :=
  match x.held with
  | some (r, s, n) => if x.inProg = none then x.begin r s n else x
  | none => x

/-- Core `c`'s FIFO `p`, and the registers that show it (R237). -/
def State.fifo (s : State) (c p : Nat) : Fifo :=
  (s.core c).fifos.getD p fifoReset
def State.setFifo (s : State) (c p : Nat) (x : Fifo) : State :=
  let s1 := s.setCore c { s.core c with fifos := setAt (s.core c).fifos p x }
  let s2 := s1.put (s1.atCore c fun i k j => ISL_CORE_FIFO_FILL_BANK i k j p) x.fill
  let s3 := s2.setFlag (s2.atCore c fun i k j => ISL_CORE_FIFO_FULL i k j p) x.held.isSome
  s3.put (s3.atCore c fun i k j => ISL_CORE_FIFO_VIS_PKTS i k j p) (x.cope.length + x.drag.length)

/-- The credits of `n` granules go back to the sender: `source` is a logical core, `route` its slot × 64 + route
descriptor (R114, R224, R226). DESIGN CHOICE, log 33. -/
def State.returnSendCredit (s : State) (source route n : Nat) : State :=
  if source < 2048 then
    let k := s.core source
    s.setCore source { k with sendCred := insert k.sendCred route (lookupD k.sendCred route 0 + n) }
  else s

/-- A message of a core is delivered in the sense of R62. -/
def State.sendDelivered (s : State) (source : Nat) : State :=
  if source < 2048 then
    let k := s.core source
    s.setCore source { k with sends := k.sends - 1 }
  else s

/-- Whether inbound traffic to core `c` is absorbed: its scope is in a reset, or its physical core is fenced (R139,
R468). DEDUCED, log 45. -/
def State.absorbs (s : State) (c : Nat) : Bool :=
  s.inReset c || (s.corePart c).isNone

/-- An absorbed message is counted for the partition, or as free traffic (R457, R468). DEDUCED, log 45. -/
def State.countAbsorb (s : State) (c : Nat) : State :=
  match s.corePart c with
  | some p => s.inc (TEN_PART_ABSORB_COUNT p)
  | none => s.inc TEN_FREE_ABSORB_COUNT

/-- PACKET_FIRST_WORD. -/
def execPacketFirstWord (c : LCore) (p : Fin 4) (route source : Nat) (grans : Fin 129) (s : State) : Answer :=
  .next (if s.absorbs c then ((s.countAbsorb c).returnSendCredit source route grans).sendDelivered source
    else s.setFifo c p ((s.fifo c p).begin route source grans))

/-- A held test write completes when no packet is in progress (R227): ignored with OVERRUN while FULL. -/
def State.testPacket (s : State) (c p : Nat) (w : Word) : State :=
  let x := s.fifo c p
  if x.held.isSome then s.setFlag (s.atCore c fun i k j => ISL_CORE_FIFO_OVERRUN i k j p) true
  else
    let pk : Packet := { route := 0, source := 4095, grans := [plainGranule (leBytes 4 w.toNat)], badWords := [] }
    let y := x.begin 0 4095 1
    match y.inProg with
    | some _ => s.setFifo c p (({ y with inProg := none }).setFilling (y.filling ++ [pk])).settle
    | none => s.setFlag (s.atCore c fun i k j => ISL_CORE_FIFO_OVERRUN i k j p) true

/-- The packet in progress has left: a test write that waited for it is judged, a held packet tried again (R227). -/
def State.fifoDone (s : State) (c p : Nat) (x : Fifo) : State :=
  match x.testHeld with
  | some w => (s.setFifo c p { x with testHeld := none }).testPacket c p w
  | none => s.setFifo c p x.retry

/-- PACKET_COMMIT: the last word with a good CRC; the packet becomes visible (R223). -/
def execPacketCommit (c : LCore) (p : Fin 4) (grans : List Granule) (badWords : List Nat) (s : State) : Answer :=
  let x := s.fifo c p
  .next (match x.inProg with
    | none => s
    | some (route, source, n) =>
      let pk : Packet := { route := route, source := source, grans := grans.take n, badWords := badWords }
      let y := (({ x with inProg := none }).setFilling (x.filling ++ [pk])).settle
      (s.fifoDone c p y).sendDelivered source)

/-- BAD_PACKET_REWIND: nothing of the packet becomes visible, its credits return, it counts as delivered (R224). -/
def execBadPacketRewind (c : LCore) (p : Fin 4) (s : State) : Answer :=
  let x := s.fifo c p
  .next (match x.inProg with
    | none => s
    | some (route, source, n) =>
      let s1 := s.fifoDone c p ({ x with inProg := none }).settle
      let s2 := s1.inc (s1.atCore c fun i k j => ISL_CORE_FIFO_BAD_PKT_CNT i k j p)
      let s3 := s2.setFlag (s2.atCore c fun i k j => ISL_CORE_FIFO_BAD_SEEN i k j p) true
      (s3.returnSendCredit source route n).sendDelivered source)

/-- A clamped write counts in a block's clamp counter, with its address (R15, R588). -/
def State.clampAt (s : State) (count last bar2 : RF) (addr : Nat) (b2 : Bool) : State :=
  ((s.inc count).put last addr).setFlag bar2 b2

/-- A write of core `c`'s register group is clamped: the island's clamp counter (R141). -/
def State.clampCore (s : State) (c : Nat) (r : Reg) : State :=
  let i := s.phys (islOf c)
  s.clampAt (ISL_CLAMP_COUNT i) (ISL_CLAMP_LAST_ADDR i) (ISL_CLAMP_LAST_BAR2 i) r.addr false

/-- FIFO_TEST_WRITE: a one-granule test packet while TEST = 1; otherwise ignored and clamped (R225, R227, R237). -/
def execFifoTestWrite (c : LCore) (p : Fin 4) (word : Word) (s : State) : Answer :=
  .next (if !s.flag (s.atCore c ISL_CORE_TS_TEST) then
      s.clampCore c (s.atCore c fun i k j => ISL_CORE_FIFO_TW i k j p)
    else if (s.fifo c p).inProg.isSome then s.setFifo c p { s.fifo c p with testHeld := some word }
    else s.testPacket c p word)

/-- The poison of a packet's granule with its bad words: 16 × granule + k, k below 8 a data word, k from 8 the scale
k − 8 (R226). -/
def parityMark (bad : List Nat) (i : Nat) (g : Granule) : Granule :=
  { g with wpois := g.wpois.mapIdx fun w b => b || bad.contains (16 * i + w / 2),
           spois := g.spois.mapIdx fun j b => b || bad.contains (16 * i + 8 + j) }

/-- RECV: the oldest committed packet of the draining bank leaves it (R114, R223, R226). -/
def Fifo.take (x : Fifo) : Option (Packet × Fifo) :=
  match x.draining with
  | [] => none
  | pk :: rest => some (pk, (x.setDraining rest).settle.retry)

end Sys2Proof.Machine
end

