-- ==== Sys2Proof/Machine/TierOps.lean ====
section
/-! DEFINITION. Tier objects and what the tiers hold (R303, R304, R308 to R316, R628): frames, copies, reads from the
fastest copy, writes into the one copy, allocation and eviction. -/

namespace Sys2Proof.Machine

/-- A harbor with empty tiers (R344). DESIGN CHOICE, log 15. -/
def harborReset : HarborSt :=
  { objs := [], near := [], npois := [], mid := [], mpois := [], far := [], fpois := [], retired := [], midBad := [], midDown := [],
    fenced := false, badReads := [],
    moves := [], reqs := [], streams := [], deficits := [], sinceBg := [], runs := [], keyCache := [], blocks := [],
    segs := [], journal := 0, checkpointed := [], cached := [], fetches := [], stations := [], rounds := 0 }

def State.harbor (s : State) (h : Nat) : HarborSt :=
  lookupD s.harbors h harborReset
def State.setHarbor (s : State) (h : Nat) (x : HarborSt) : State :=
  { s with harbors := insert s.harbors h x }

/-! ### Handles (R309) -/

def handleOf (h index : Nat) : Nat := h * 2 ^ 30 + index
def harborOf (handle : Nat) : Nat := handle / 2 ^ 30 % 4
def indexOf (handle : Nat) : Nat := handle % 2 ^ 20

/-- The object a handle names: bits [29:20] are zero (R309). -/
def State.obj (s : State) (handle : Nat) : Option TierObj :=
  if bitsOf handle 20 10 = 0 ∧ handle < 2 ^ 32 ∧ (s.harbor (harborOf handle)).fenced = false then
    lookup (s.harbor (harborOf handle)).objs (indexOf handle) else none

def HarborSt.setObj (x : HarborSt) (i : Nat) (o : TierObj) : HarborSt :=
  { x with objs := insert x.objs i o }

/-! ### Bytes of a page (R304, R311, R321, R628) -/

/-- The stored bytes of a page from offset `off`, with poison at the tier's granularity: 8-byte words in the near
tier, 256-byte pieces in the middle tier, 4 KiB units in the far tier. DESIGN CHOICE, log 15. -/
def HarborSt.nearBytes (x : HarborSt) (frame off n : Nat) : List PByte :=
  (List.range n).map fun i =>
    (lookupD x.near (65536 * frame + off + i) 0, lookupD x.npois ((65536 * frame + off + i) / 8) false)
/-- DESIGN CHOICE, log 15. -/
def HarborSt.midBytes (x : HarborSt) (frame off n : Nat) : List PByte :=
  (List.range n).map fun i =>
    if x.midDown.contains (frame / 2 ^ 24) then (0, true)
    else (lookupD x.mid (65536 * frame + off + i) 0, lookupD x.mpois ((65536 * frame + off + i) / 256) false)
/-- DESIGN CHOICE, log 15. -/
def HarborSt.farBytes (x : HarborSt) (page off n : Nat) : List PByte :=
  (List.range n).map fun i =>
    (lookupD x.far (65536 * page + off + i) 0, lookupD x.fpois ((65536 * page + off + i) / 4096) false)

/-- The far key of a page. -/
def farPage (index page : Nat) : Nat := 2 ^ 24 * index + page

/-- The fastest tier that holds a copy of a page: 0 near, 1 middle, 2 far (R311). -/
def TierObj.fastest (o : TierObj) (page : Nat) : Option Nat :=
  if (lookup o.near page).isSome then some 0
  else if (lookup o.mid page).isSome then some 1
  else if (lookup o.far page).isSome then some 2
  else none

/-- Bytes of a page as its fastest copy stores them; none where no copy exists. -/
def HarborSt.pageBytes (x : HarborSt) (index page off n : Nat) : Option (List PByte) :=
  match lookup x.objs index with
  | none => none
  | some o =>
    match lookup o.near page, lookup o.mid page, lookup o.far page with
    | some f, _, _ => some (x.nearBytes f off n)
    | none, some f, _ => some (x.midBytes f off n)
    | none, none, some _ => some (x.farBytes (farPage index page) off n)
    | none, none, none => none

/-- A granule of a page as a transfer reads it: scales 0, WPOIS from the poison the tier holds (R628). -/
def asGranule (bs : List PByte) : Granule :=
  { data := bs.map (·.1), scales := List.replicate 4 0,
    wpois := (List.range 16).map fun i => ppois ((bs.drop (4 * i)).take 4), spois := List.replicate 4 false }

/-- One granule written to a near frame: a word is marked when either half is poisoned (R304). -/
def HarborSt.nearPut (x : HarborSt) (frame g : Nat) (v : Granule) : HarborSt :=
  let a := 65536 * frame + 64 * g
  { x with near := storeMany 0 x.near a v.data,
           npois := storeMany false x.npois (a / 8)
             ((List.range 8).map fun i => v.wpois.getD (2 * i) false || v.wpois.getD (2 * i + 1) false) }

/-- One granule written to a middle frame; a clean granule leaves its piece's poison as it is unless `whole` says that
every granule of the piece is being written (R321). -/
def HarborSt.midPut (x : HarborSt) (frame g : Nat) (v : Granule) : HarborSt :=
  let a := 65536 * frame + 64 * g
  if x.midDown.contains (frame / 2 ^ 24) then x
  else { x with mid := storeMany 0 x.mid a v.data,
                mpois := if v.wpois.any id then store false x.mpois (a / 256) true else x.mpois }

def HarborSt.farPut (x : HarborSt) (page g : Nat) (v : Granule) : HarborSt :=
  let a := 65536 * page + 64 * g
  { x with far := storeMany 0 x.far a v.data,
           fpois := if v.wpois.any id then store false x.fpois (a / 4096) true else x.fpois }

/-- Granules written one after the other. -/
def putAll (put : HarborSt → Nat → Granule → HarborSt) (x : HarborSt) (g : Nat) (vs : List Granule) : HarborSt :=
  match vs with
  | [] => x
  | v :: rest => putAll put (put x g v) (g + 1) rest

/-- The pieces that a run of granules covers whole lose their poison before the run is written (R321). -/
def HarborSt.clearPieces (x : HarborSt) (frame g n : Nat) : HarborSt :=
  let lo := (g + 3) / 4
  let hi := (g + n) / 4
  { x with mpois := eraseRange x.mpois (256 * frame + lo) (256 * frame + max lo hi) }

/-- The far units that a run of granules covers whole lose theirs. -/
def HarborSt.clearUnits (x : HarborSt) (page g n : Nat) : HarborSt :=
  let lo := (g + 63) / 64
  let hi := (g + n) / 64
  { x with fpois := eraseRange x.fpois (16 * page + lo) (16 * page + max lo hi) }

/-- A run of granules written into every copy a page has (R311): a writable object has one. -/
def HarborSt.pagePut (x : HarborSt) (index page g : Nat) (vs : List Granule) : HarborSt :=
  match lookup x.objs index with
  | none => x
  | some o =>
    let x1 := match lookup o.near page with
      | some f => putAll (fun x g v => x.nearPut f g v) x g vs
      | none => x
    let x2 := match lookup o.mid page with
      | some f => putAll (fun x g v => x.midPut f g v) (x1.clearPieces f g vs.length) g vs
      | none => x1
    match lookup o.far page with
    | some _ => putAll (fun x g v => x.farPut (farPage index page) g v) (x2.clearUnits (farPage index page) g vs.length) g vs
    | none => x2

/-- One more read of a page (R314): heat of an object with near and middle in its mask, saturating at 255. DESIGN CHOICE, log 15. -/
def HarborSt.warm (x : HarborSt) (index page : Nat) : HarborSt :=
  match lookup x.objs index with
  | none => x
  | some o =>
    if bit o.mask 0 && bit o.mask 1 then
      x.setObj index { o with heat := insert o.heat page (satAdd 8 (lookupD o.heat page 0) 1) }
    else x

/-! ### Frames (R303, R308) -/

/-- Near pages in use by objects and by moves under way. -/
def HarborSt.nearUsed (x : HarborSt) : List Nat :=
  (x.objs.flatMap fun e => e.2.near.map (·.2)) ++ x.moves.map (·.frame)
def HarborSt.midUsed (x : HarborSt) : List Nat :=
  x.objs.flatMap fun e => e.2.mid.map (·.2)

/-- The lowest number from `n` on that is neither listed nor inside `[lo, hi)`, below `top`; `fuel` tries. -/
def lowestFree (used : List Nat) (lo hi top n fuel : Nat) : Option Nat :=
  match fuel with
  | 0 => none
  | fuel + 1 =>
    if top ≤ n then none
    else if lo ≤ n ∧ n < hi then lowestFree used lo hi top hi fuel
    else if used.contains n then lowestFree used lo hi top (n + 1) fuel
    else some n

/-- The near pages of the harbor's ferry cache (R290, R300). -/
def State.ferryRegion (s : State) (h : Nat) : Nat × Nat :=
  let b := s.get (HBR_FERRY_CACHE_BASE_BASE_PAGE h)
  (b, b + s.get (HBR_FERRY_CACHE_PAGES_PAGES h))

/-- The lowest free frame of stack `k` as a near page: the FTL map, retired frames and the ferry cache are never
allocated (R303, R304, R308). -/
def State.stackFrame (s : State) (h k : Nat) : Option Nat :=
  let x := s.harbor h
  let used := x.nearUsed ++ x.retired
  let (lo, hi) := s.ferryRegion h
  lowestFree used lo hi (1048576 * (k + 1)) (if k = 0 then 4096 else 1048576 * k) (used.length + 2)

/-- Free frames of stack `k`. -/
def State.stackFree (s : State) (h k : Nat) : Nat :=
  let x := s.harbor h
  let (lo, hi) := s.ferryRegion h
  let inside (n : Nat) : Bool := decide (1048576 * k ≤ n) && decide (n < 1048576 * (k + 1))
  let used := ((x.nearUsed ++ x.retired).filter inside).length
  let cut := min hi (1048576 * (k + 1)) - max lo (1048576 * k)
  1048576 - (if k = 0 then 4096 else 0) - used - cut

/-- The stack of an object's first near frame: most free frames, the lower on a tie (R303). PRESUMED, log 74. -/
def State.firstStack (s : State) (h : Nat) : Nat :=
  let f := s.stackFree h
  if f 1 ≤ f 0 ∧ f 2 ≤ f 0 then 0 else if f 2 ≤ f 1 then 1 else 2

/-- The near frame a page takes: stack (s₀ + p) mod 3, then the next stacks in order (R303). -/
def State.nearFrame (s : State) (h s0 page : Nat) : Option Nat :=
  let k := (s0 + page) % 3
  (s.stackFrame h k).or ((s.stackFrame h ((k + 1) % 3)).or (s.stackFrame h ((k + 2) % 3)))

/-- Frames of one expander, at full population (R305, R308). PRESUMED, log 74. -/
def midFrames : Nat := 8355840

/-- What the middle-tier test found on a port (MGT_BOOT_MEM.MID): 0 passed, 1 absent, 2 failed, 3 not tested. -/
def State.midCode (s : State) (h p : Nat) : Nat := bitsOf (s.get MGT_BOOT_MEM_MID) (2 * (2 * h + p)) 2
/-- A free middle frame: on the port the page number names, or on the other; a fenced port takes none (R306). -/
def State.midFrame (s : State) (h page : Nat) : Option Nat :=
  let used := (s.harbor h).midUsed ++ (s.harbor h).midBad
  let port (p : Nat) : Option Nat :=
    if s.flag (HBR_MID_ERR_LINK_DOWN h p) || decide (s.midCode h p ≠ 0) then none
    else lowestFree used 0 0 (2 ^ 24 * p + midFrames) (2 ^ 24 * p) (used.length + 1)
  match port (page % 2) with
  | some f => some f
  | none => port ((page + 1) % 2)

/-- Segments of 256 KiB the flash holds for objects, at full population (R308, R326). PRESUMED, log 74. -/
def farSegments (h : Nat) : Nat := if h = 0 then 58720256 - 256 else 58720256

/-- Segments in use. -/
def HarborSt.farUsed (x : HarborSt) : Nat :=
  (x.objs.map fun e => ((e.2.far.map fun p => p.1 / 4).eraseDups).length).foldl (· + ·) 0

/-- HBR_CAP_NEAR, HBR_CAP_MID and HBR_CAP_FAR follow the tables (R308). -/
def State.refreshCap (s : State) (h : Nat) : State :=
  let x := s.harbor h
  let near := s.stackFree h 0 + s.stackFree h 1 + s.stackFree h 2
  let s1 := s.put (HBR_CAP_NEAR_FREE h) near
  let ports := b2n (s.midCode h 0 == 0) + b2n (s.midCode h 1 == 0)
  let s2 := s1.put (HBR_CAP_MID_FREE h) (ports * midFrames - x.midBad.length - x.midUsed.length)
  s2.put (HBR_CAP_FAR_FREE h) (farSegments h - x.farUsed)

/-! ### Victims (R313) -/

/-- A near page that may be given up: object, page, frame, heat, whether it is a faster copy. -/
structure Victim where
  index : Nat
  page  : Nat
  frame : Nat
  heat  : Nat
  copy  : Bool
  deriving DecidableEq, Repr

/-- The unpinned near pages, faster copies of WEIGHT pages apart from writable pages. -/
def HarborSt.victims (x : HarborSt) : List Victim :=
  x.objs.flatMap fun e => (e.2.near.filter fun p => !e.2.pins.contains p.1).map fun p =>
    { index := e.1, page := p.1, frame := p.2, heat := lookupD e.2.heat p.1 0,
      copy := decide (e.2.cls = 0) && ((lookup e.2.mid p.1).isSome || (lookup e.2.far p.1).isSome) }

/-- The victim of one kind: lowest heat, then lowest frame. -/
def pickVictim (vs : List Victim) : Option Victim :=
  leastBy (fun v => v.heat * 2 ^ 24 + v.frame) vs

/-- The victim of R313: faster copies of WEIGHT objects before any writable page. -/
def HarborSt.victim (x : HarborSt) : Option Victim :=
  match pickVictim (x.victims.filter (·.copy)) with
  | some v => some v
  | none => pickVictim (x.victims.filter fun v => !v.copy &&
      decide (((lookup x.objs v.index).map (·.cls)).getD 0 ≠ 0))

/-- The page of a near frame copied into a middle frame, poison by pieces (R316, R321). -/
def HarborSt.copyToMid (x : HarborSt) (frame dst : Nat) : HarborSt :=
  putAll (fun x g v => x.midPut dst g v) (x.clearPieces dst 0 1024) 0
    ((List.range 1024).map fun g => asGranule (x.nearBytes frame (64 * g) 64))

/-- The frame's bytes and poison forgotten (R312, "scrubbed before reuse"). -/
def HarborSt.scrubNear (x : HarborSt) (frame : Nat) : HarborSt :=
  { x with near := eraseRange x.near (65536 * frame) (65536 * frame + 65536),
           npois := eraseRange x.npois (8192 * frame) (8192 * frame + 8192) }
def HarborSt.scrubMid (x : HarborSt) (frame : Nat) : HarborSt :=
  { x with mid := eraseRange x.mid (65536 * frame) (65536 * frame + 65536),
           mpois := eraseRange x.mpois (256 * frame) (256 * frame + 256) }

/-- A victim leaves the near tier: a faster copy is dropped, a writable page moves to the middle tier; none when the
middle tier has no room (R313, R315). -/
def State.evict (s : State) (h : Nat) (v : Victim) : Option State :=
  let x := s.harbor h
  match lookup x.objs v.index with
  | none => none
  | some o =>
    let o1 := { o with near := erase o.near v.page }
    if v.copy then
      some ((s.setHarbor h ((x.setObj v.index o1).scrubNear v.frame)).inc (HBR_MIG_CNT_DEMOTED h))
    else match s.midFrame h v.page with
      | none => none
      | some f =>
        let x1 := (x.copyToMid v.frame f).setObj v.index { o1 with mid := insert o1.mid v.page f }
        some ((s.setHarbor h (x1.scrubNear v.frame)).inc (HBR_MIG_CNT_DEMOTED h))

/-- The state after one page of harbor `h` has left the near tier, the one to be evicted next (R313). -/
def State.evictOne (s : State) (h : Nat) : Option State :=
  match (s.harbor h).victim with
  | none => none
  | some v => s.evict h v

/-- The frame of a page: the free one found, or the one an eviction frees. -/
def State.placeNear (s : State) (h s0 page : Nat) (f : Option Nat) : Option (State × Nat) :=
  match f with
  | some f => some (s, f)
  | none => (s.evictOne h).bind fun s2 => (s2.nearFrame h s0 page).map fun f => (s2, f)

/-- A near frame for a page of an object, one freed first when none is free (R303, R313): NEAR_FRAME_EVICT. DEDUCED, log 82. -/
def State.takeNear (s : State) (h index page : Nat) : Option (State × Nat) :=
  match lookup (s.harbor h).objs index with
  | none => none
  | some o =>
    let s0 := o.stack.getD (s.firstStack h)
    let s1 := s.setHarbor h ((s.harbor h).setObj index { o with stack := some s0 })
    s1.placeNear h s0 page (s1.nearFrame h s0 page)

/-! ### Access rights (R311) -/

/-- Whether a write to the object is dropped: a WEIGHT object after COMMIT (R311). -/
def TierObj.sealed (o : TierObj) : Bool :=
  decide (o.cls = 0) && o.committed

/-- A write dropped under R311 is counted. -/
def State.writeDropped (s : State) (h : Nat) : State :=
  s.inc (HBR_OBJ_STATUS_WDROP_CNT h)

/-- Bytes `[off, off + 64 n)` of an object as granules, read from the fastest copies. -/
def State.readObj (s : State) (handle off n : Nat) : List Granule :=
  let x := s.harbor (harborOf handle)
  (List.range n).map fun i =>
    let a := off + 64 * i
    match x.pageBytes (indexOf handle) (a / 65536) (a % 65536) 64 with
    | some bs => asGranule bs
    | none => poisonGranule

/-- A write meets the page while it is copied: the copy restarts, and with three restarts behind it the move is
abandoned until heats next halve (R316). DEDUCED, log 79. -/
def State.writeMeets (s : State) (h index page : Nat) : State :=
  let x := s.harbor h
  match x.moves.find? fun m => decide (m.index = index) && decide (m.page = page) with
  | none => s
  | some m =>
    if m.restarts < 3 then
      (s.setHarbor h { x with moves := x.moves.map fun q => if q = m then { m with restarts := m.restarts + 1 } else q }).inc
        (HBR_MIG_ABORT_RESTART_CNT h)
    else
      let x1 := ({ x with moves := x.moves.erase m }).scrubNear m.frame
      let x2 := match lookup x1.objs index with
        | some o => x1.setObj index { o with barred := page :: o.barred }
        | none => x1
      (s.setHarbor h x2).inc (HBR_MIG_ABORT_ABORT_CNT h)

/-- Granules written into a page from outside its harbor's engines: dropped at a committed WEIGHT object (R311, R316). -/
def State.writePage (s : State) (h index page g : Nat) (vs : List Granule) : State :=
  match lookup (s.harbor h).objs index with
  | none => s
  | some o =>
    if o.sealed then s.writeDropped h
    else (s.setHarbor h ((s.harbor h).pagePut index page g vs)).writeMeets h index page

/-- Granules written into an object, one page's share at a time. -/
def HarborSt.objPut (x : HarborSt) (index g : Nat) (vs : List Granule) : HarborSt :=
  (List.range (vs.length / 1024 + 2)).foldl (fun x i =>
    let p := g / 1024 + i
    let lo := if i = 0 then 0 else 1024 * p - g
    let n := if i = 0 then 1024 - g % 1024 else 1024
    let part := (vs.drop lo).take n
    if part = [] then x else x.pagePut index p (if i = 0 then g % 1024 else 0) part) x
def State.writeObj (s : State) (handle off : Nat) (vs : List Granule) : State :=
  let h := harborOf handle
  let s1 := s.setHarbor h ((s.harbor h).objPut (indexOf handle) (off / 64) vs)
  (List.range ((off + 64 * vs.length + 65535) / 65536 - off / 65536)).foldl (fun s i =>
    s.writeMeets h (indexOf handle) (off / 65536 + i)) s1

/-- Plain bytes of an object, little-endian words of the rings and tables the hub keeps in it. DEDUCED, log 83. -/
def State.objBytes (s : State) (handle off n : Nat) : List PByte :=
  let x := s.harbor (harborOf handle)
  (List.range n).map fun i =>
    match x.pageBytes (indexOf handle) ((off + i) / 65536) ((off + i) % 65536) 1 with
    | some [b] => b
    | _ => (0, true)

/-- A few bytes of an object replaced; the rest of their granules stays. -/
def State.setObjBytes (s : State) (handle off : Nat) (bs : List Byte) : State :=
  let g0 := off / 64
  let n := (off + bs.length + 63) / 64 - g0
  let old := (s.objBytes handle (64 * g0) (64 * n))
  let new := old.mapIdx fun i b =>
    if 64 * g0 + i < off ∨ off + bs.length ≤ 64 * g0 + i then b else (bs.getD (64 * g0 + i - off) 0, b.2)
  s.writeObj handle (64 * g0) (toGranules new n)

end Sys2Proof.Machine
end

