-- ==== Sys2Proof/Machine/RavorOps.lean ====
section
/-! DEFINITION. Sending over the fabric (R416 to R420, R430, R433 to R438): messages as bytes and flits, the route in
use to a destination, the switch to another route, and the loss of a destination. -/

namespace Sys2Proof.Machine

/-- A topology entry before the host has written it. -/
def topoReset : TopoEntry :=
  { routes := [0, 0, 0, 0], valid := 0, failed := 0, portFailed := 0, inUse := 0, redirect := 0, redir := false, ann := false }

/-- Port state codes (R414). -/
def ptDown : Nat := 0
def ptTrain : Nat := 1
def ptUp : Nat := 2
def ptRetrain : Nat := 3
def ptFenced : Nat := 4

/-- Flit credits granted at training, by 2 × VC + class (R428). -/
def initialCredits : SMap Nat :=
  [(0, 384), (1, 384), (2, 256), (3, 256), (4, 128), (5, 128)]

/-- A port's link layer with nothing sent and nothing received (R421, R422, R427). -/
def portReset : PortSt :=
  { queue := [], unacked := [], replay := [], replayFrom := none, nextSeq := 0, exp := 0, nakFor := none, records := [], credits := [],
    owed := [], expiries := 0, fails := 0, nbr := none }

def State.port (s : State) (p : Nat) : PortSt :=
  lookupD s.ravor.ports p portReset
def State.setPort (s : State) (p : Nat) (x : PortSt) : State :=
  { s with ravor := { s.ravor with ports := insert s.ravor.ports p x } }
def State.portUp (s : State) (p : Nat) : Bool :=
  decide (s.get (RVR_PORT_STATUS_STATE p) = ptUp)

/-- The virtual channel of a message KIND (R418): 0 REQ, 1 RSP, 2 MGT. -/
def vcOf (kind : Nat) : Nat :=
  if kind = 8 then 2 else if kind = 3 ∨ kind = 4 ∨ kind = 7 then 1 else 0

/-- Whether a KIND is acknowledged end to end (R418). -/
def acked (kind : Nat) : Bool :=
  decide (kind ≠ 4 ∧ kind ≠ 8)

/-! ### Messages as flits (R416, R418, R419) -/

/-- The 8 side-band bytes of a granule (R419). -/
def granSideBand (g : Granule) : List Byte :=
  let bits (ps : List Bool) : Nat := (ps.mapIdx fun i p => b2n p <<< i).foldl (· + ·) 0
  g.scales.take 4 ++ leBytes 2 (bits g.wpois) ++ leBytes 2 (bits g.spois)

/-- Whether a granule has a nonzero scale or any poison (R419). -/
def granHasSide (g : Granule) : Bool :=
  granPoisoned g || g.scales.any fun b => decide (b ≠ 0)

/-- A message as the bytes its flits carry (R418, R419). The granules that a BOARD_RD asks for stand in LEN; the model
keeps their number in `offset` (R420). DESIGN CHOICE, log 113. -/
def RMsg.bytes (m : RMsg) : List Byte :=
  let sb := m.grans.any granHasSide
  let flags := b2n sb + 2 * b2n m.resend + 4 * b2n m.grans.isEmpty
  leBytes 2 m.dest ++ leBytes 2 m.src ++ leBytes 2 (m.key % 4096 + 4096 * m.kind) ++ leBytes 2 (m.vroute % 4096)
    ++ leBytes 8 m.tick.toNat ++ leBytes 4 (if m.kind = 6 then 0 else m.offset)
    ++ leBytes 1 ((if m.kind = 6 then m.offset else m.grans.length) - 1) ++ leBytes 1 flags
    ++ leBytes 2 m.id ++ leBytes 8 m.route.toNat ++ leBytes 1 m.hop ++ [0] ++ leBytes 2 m.tenant ++ leBytes 4 0
    ++ leBytes 8 m.baddr ++ m.grans.flatMap (·.data) ++ (if sb then m.grans.flatMap granSideBand else [])

/-- `n` flits of a message from its bytes; the last is padded with zeros. -/
def cutFlits (vc : Nat) (dl : Bool) (bs : List Byte) (n : Nat) (first : Bool) : List Flit :=
  match n with
  | 0 => []
  | n + 1 =>
    { seq := 0, vc := vc, dl := dl, som := first, eom := decide (n = 0),
      body := bs.take 248 ++ List.replicate (248 - bs.length) 0 } :: cutFlits vc dl (bs.drop 248) n false

def RMsg.flits (m : RMsg) (dl : Bool) : List Flit :=
  cutFlits (vcOf m.kind) dl m.bytes ((m.bytes.length + 247) / 248) true

/-- Hop `i` of a source route: egress port and dateline bit; the hop count (R433). -/
def hopPort (r : DWord) (i : Nat) : Nat := bitsOf r.toNat (5 * i) 4
def hopDate (r : DWord) (i : Nat) : Bool := bit r.toNat (5 * i + 4)
def hopCount (r : DWord) : Nat := bitsOf r.toNat 60 4

/-! ### Routes in use (R434, R436) -/

def State.topo (s : State) (e : Nat) : TopoEntry :=
  lookupD s.ravor.active e topoReset
def State.setTopo (s : State) (e : Nat) (t : TopoEntry) : State :=
  { s with ravor := { s.ravor with active := insert s.ravor.active e t } }

/-- The entry whose route leads to endpoint `e`: its own, or REDIRECT's (R434). -/
def State.via (s : State) (e : Nat) : Nat :=
  if (s.topo e).redir then (s.topo e).redirect else e

/-- Whether route `n` of an entry is valid, not marked failed, and leaves by a port that is UP (R436). -/
def State.usable (s : State) (t : TopoEntry) (n : Nat) : Bool :=
  bit t.valid n && !bit t.failed n && !bit t.portFailed n && s.portUp (hopPort (t.routes.getD n 0) 0)

/-- The lowest-numbered usable route of an entry. -/
def State.bestRoute (s : State) (t : TopoEntry) : Option Nat :=
  (List.range 4).find? (s.usable t)

/-- A message put on the first hop of a route; its HOP names the hop of the next package (R418, R433). -/
def State.enqueue (s : State) (m : RMsg) (route : DWord) : State :=
  let p := hopPort route 0
  let x := s.port p
  s.setPort p { x with queue := x.queue ++ { m with route := route, hop := 1 }.flits (hopDate route 0) }

/-! ### Loss (R438) -/

/-- Whether the route table of partition `p`'s job names endpoint `e`. -/
def State.jobNames (s : State) (p e : Nat) : Bool :=
  match lookup s.jobs p with
  | none => false
  | some j => j.peers.contains e && decide (0 < j.image.peers)

/-- A packet of core `c` is delivered in the sense of R62, and its credits return to route `r` (R114). -/
def State.packetDone (s : State) (c r n : Nat) : State :=
  let k := s.core c
  s.setCore c { k with sends := k.sends - 1, sendCred := insert k.sendCred r (lookupD k.sendCred r 0 + n) }

/-- The transfer numbered `id` of core `c` ends in WINDOW_CLOSED once delivered (R115, R438). -/
def State.closeXfer (s : State) (c id : Nat) : State :=
  let k := s.core c
  s.setCore c { k with xfers := k.xfers.map fun x => if x.id = id then { x with closed := true, waits := 0 } else x }

/-- A fetch of the ferry engine is lost (R291). -/
def State.fetchLost (s : State) (h m x : Nat) : State :=
  let b := s.harbor h
  s.setHarbor h { b with fetches := b.fetches.map fun f =>
    if f.model = m ∧ f.expert = x then { f with lost := true } else f }

/-- A board window access of an aperture ends in WINDOW_CLOSED: a read returns zeros, and the drop is counted (R445,
R580). -/
def State.boardClosed (s : State) (m : RMsg) : State :=
  let s1 := s.inc HUB_APT_DROP_COUNT
  if m.kind = 6 then
    match s1.host.boardReads.find? fun r => decide (r.1 = m.dest) with
    | some r =>
      { s1 with host := { s1.host with boardReads := s1.host.boardReads.erase r } }.emit
        (.readData (List.replicate r.2.2 0) false)
    | none => s1
  else s1

/-- A message completes as undeliverable, by its sender (R438). -/
def State.undelivered (s : State) (who : RSender) (m : RMsg) : State :=
  match who with
  | .packet c r => s.packetDone c r m.grans.length
  | .core c id => s.closeXfer c id
  | .ferry h n x => s.fetchLost h n x
  | .board => if m.kind = 5 ∨ m.kind = 6 then s.boardClosed m else s
  | .engine _ => s

/-- EP_EVENT with its record: 1 lost, 2 takeover made, 3 takeover announced (R463, R558). DEDUCED, log 115. -/
def State.epEvent (s : State) (e what : Nat) : State :=
  (s.raisePF cEpEvent).logEvent 0x000B 1 24 none none 0 (pay 2 e ++ pay 1 what)

/-- A destination is lost: it is recorded, its messages complete by their senders' rules, and the jobs whose tables name
it end with LINK_LOST (R438). DEDUCED, log 115. -/
def State.destinationLost (s : State) (e : Nat) : State :=
  let s1 := if s.ravor.lost.contains e then s else
    ({ s with ravor := { s.ravor with lost := e :: s.ravor.lost } }.put RVR_LOST_EP e |>.inc RVR_LOST_LOST_CNT).epEvent e 1
  let gone := (s1.ravor.waiting ++ s1.ravor.stalled).filter fun w => decide (w.2.dest = e)
  let s2 := { s1 with ravor := { s1.ravor with
    waiting := s1.ravor.waiting.filter (fun w => decide (w.2.dest ≠ e)),
    stalled := s1.ravor.stalled.filter fun w => decide (w.2.dest ≠ e) } }
  let s3 := gone.foldl (fun s w => s.undelivered w.1 w.2) s2
  (List.range 128).foldl (fun s p => if s.jobNames p e then s.faultEnd p stLinkLost 0 s.tide.now else s) s3

/-! ### Sending (R430, R436, R442) -/

/-- A message numbered in its destination's sequence and put on the route in use; where no route is usable the
destination is lost (R430, R438). DEDUCED, log 106. -/
def State.sendOn (s : State) (who : RSender) (m : RMsg) : State :=
  let v := s.via m.dest
  let t := s.topo v
  match (if s.usable t t.inUse then some t.inUse else s.bestRoute t) with
  | none => if acked m.kind then (s.destinationLost m.dest).undelivered who m else s
  | some n =>
    let key := 4 * m.dest + vcOf m.kind
    let id := lookupD s.ravor.nextId key 0
    let m1 := { m with id := if m.resend then m.id else id }
    let s0 := s.setTopo v { t with inUse := n }
    let s1 := { s0 with ravor := { s0.ravor with lost := s0.ravor.lost.filter fun e => decide (e ≠ m.dest) } }
    let s2 := if m.resend then s1 else
      { s1 with ravor := { s1.ravor with
          nextId := insert s1.ravor.nextId key ((id + 1) % 65536),
          waiting := if acked m.kind then s1.ravor.waiting ++ [(who, m1)] else s1.ravor.waiting } }
    s2.enqueue m1 (t.routes.getD n 0)

/-- A new message: it stalls at its sender while the epoch phase is not RUN, MGT and EACK apart: messages in flight run
to EACK (R442). DEDUCED, see the log. -/
def State.ravorSend (s : State) (who : RSender) (m : RMsg) : State :=
  if s.get RVR_EPOCH_STATUS_PHASE ≠ 0 ∧ acked m.kind then
    { s with ravor := { s.ravor with stalled := s.ravor.stalled ++ [(who, m)] } }
  else s.sendOn who m

/-- A message of this package with nothing but its destination and kind set. -/
def State.newMsg (s : State) (dest kind : Nat) : RMsg :=
  { dest := dest, src := s.get RVR_EP_ID_ID, key := 0, kind := kind, vroute := 0, tick := s.tide.now, offset := 0,
    resend := false, id := 0, route := 0, hop := 0, tenant := 0, baddr := 0, grans := [] }

/-- The acknowledgement of message `id` of source `dest` with a status (R429): ACK of KIND EACK. DEDUCED, log 106. -/
def State.sendEack (s : State) (dest id status : Nat) : State :=
  s.ravorSend .board { s.newMsg dest 4 with offset := id % 65536 + 65536 * (status % 256) }

/-- ROUTE_SWITCH: the route in use to the destinations that entry `v` serves changes to its lowest usable route;
unacknowledged messages are resent first, flagged RESEND, in their order (R436). DESIGN CHOICE, log 109. -/
def State.routeSwitch (s : State) (v : Nat) : State :=
  let t := s.topo v
  match s.bestRoute t with
  | none =>
    ((s.ravor.waiting.filter fun w => decide (s.via w.2.dest = v)).map (·.2.dest)).eraseDups.foldl
      (fun s e => s.destinationLost e) s
  | some n =>
    let s1 := (s.setTopo v { t with inUse := n }).inc RVR_ROUTE_SW_FAIL_SW_CNT
    let again := s1.ravor.waiting.filter fun w => decide (s1.via w.2.dest = v)
    again.foldl (fun s w => (s.enqueue { w.2 with resend := true } (t.routes.getD n 0)).inc RVR_E2E_CNT_RESEND_CNT) s1

/-- Route `n` of entry `v` is marked failed, and the route in use switches when it was the one (R436, R437). -/
def State.markFailed (s : State) (v n : Nat) (byPort : Bool) : State :=
  let t := s.topo v
  let s1 := s.setTopo v (if byPort then { t with portFailed := setBit t.portFailed n true }
    else { t with failed := setBit t.failed n true })
  if t.inUse = n ∧ bit t.valid n then s1.routeSwitch v else s1

/-- Every route that leaves by port `p` is marked failed (R436). -/
def State.portLost (s : State) (p : Nat) : State :=
  s.ravor.active.foldl (fun s e => (List.range 4).foldl (fun s n =>
    if bit e.2.valid n ∧ hopPort (e.2.routes.getD n 0) 0 = p ∧ !bit (s.topo e.1).portFailed n then
      s.markFailed e.1 n true
    else s) s) s

/-- Port `p` goes to state `st` with a REASON. Leaving UP clears its link layer and fails the routes over it (R414,
R427, R436); leaving UP and entering FENCED set PORT_STATE and are logged (R463, R558). -/
def State.portTo (s : State) (p st reason : Nat) : State :=
  let old := s.get (RVR_PORT_STATUS_STATE p)
  let s1 := (s.put (RVR_PORT_STATUS_STATE p) st).put (RVR_PORT_STATUS_REASON p) reason
  if (old = ptUp ∧ st ≠ ptUp) ∨ (old ≠ ptFenced ∧ st = ptFenced) then
    let s2 := (s1.raisePF cPortState).logEvent 0x000A 1 (20 + p / 4) none none 0 (pay 1 p ++ pay 1 st ++ pay 1 reason)
    if old = ptUp then
      let x := s2.port p
      ((s2.put (RVR_PORT_STATUS_WIDTH p) 0).setPort p
        { portReset with fails := x.fails }).portLost p
    else s2
  else s1

/-- Whether a message of `who` awaits its EACK or stalls. -/
def State.awaits (s : State) (who : RSender) : Bool :=
  (s.ravor.waiting ++ s.ravor.stalled).any fun w => decide (w.1 = who)

end Sys2Proof.Machine
end

