-- ==== Sys2Proof/Machine/CoreXfer.lean ====
section
/-! DEFINITION. Send, receive and stream transfers (R113 to R115, R228, R235, R257, R283 to R286, R311, R627, R628,
R631): where a route leads, what a transfer carries, and its delivery. -/

namespace Sys2Proof.Machine

/-! ### Where a route leads (R283 to R285, R357) -/

/-- The end of a route: an in-package virtual route, a station's members with the offset of its arrival region, one
core, a peer endpoint with the virtual route there, the null alternative, or an alternative that does not exist. -/
inductive Dest where
  | route (n : Nat)
  | station (members : List Nat) (base : Nat)
  | core (c : Nat)
  | peer (endpoint vroute : Nat)
  | null
  | missing
  deriving DecidableEq, Repr

/-- The expert map's station of expert `e` for the active slot (R271, R284). -/
def State.stationOf (s : State) (c slot e : Nat) : Option Station :=
  let r := lookup (s.cluster (clusterOf c)).routers slot
  r.bind fun r => (lookup r.experts e).bind fun x => lookup r.stations x.station

/-- The destination of route descriptor `ix` as the core stands: an RSEL's alternative, or the one a slot begins with
(R283). -/
def State.dest (s : State) (c ix : Nat) : Dest :=
  let k := s.core c
  match k.slot.tables.routes[ix]? with
  | none => .missing
  | some d =>
    let sel := lookup k.slot.rsel ix
    if d.kind = 0 then
      if d.remote then
        match s.corePart c with
        | some p => match (lookup s.jobs p).bind fun j => j.peers[d.rank]? with
          | some e => .peer e d.peerRoute
          | none => .missing
        | none => .missing
      else .route d.vroute
    else if d.kind = 1 then
      match sel.getD (some 0) with
      | none => .null
      | some i => if i < d.listLen then .route (d.vroute + i) else .missing
    else if d.kind = 2 then
      match sel.getD none with
      | none => .null
      | some e => match s.stationOf c k.active e with
        | some st => .station (st.members.map fun m => 16 * st.cluster + m) st.arrBase
        | none => .missing
    else match sel.getD none with
      | none => .null
      | some t => if s.corePart t = s.corePart c then .core t else .missing

/-- The key a route's message carries in the output log: the virtual route, or 4,096 plus the core it goes to. -/
def destKey (d : Dest) : Nat :=
  match d with
  | .route n => n
  | .core c => 4096 + c
  | .station ms _ => 8192 + ms.headD 0
  | .peer e _ => 65536 + e
  | _ => 0

/-- Granules as the numbers the output log lists: data, scales, poison. -/
def granNats (g : Granule) : List Nat :=
  g.data.map (·.toNat) ++ g.scales.map (·.toNat) ++ g.wpois.map b2n ++ g.spois.map b2n

/-- An in-package message of core `c` (R50): its send tick is the tide. -/
def State.coreSend (s : State) (c : Nat) (d : Dest) (kind offset : Nat) (gs : List Granule) : State :=
  s.emit (.noc c (destKey d) kind s.tide.now (offset :: gs.flatMap granNats))

def nullCount (s : State) (c : Nat) : State := s.inc (s.atCore c ISL_CORE_RSEL_NULL_CNT)
def oorCount (s : State) (c : Nat) : State :=
  (s.inc (s.atCore c ISL_CORE_RSEL_OOR_CNT)).raiseEvt c ISL_CORE_EVT_WCLOSED

/-! ### SEND, SENDI, RECV (R114) -/

/-- Credits the core holds on a route descriptor of the active slot: granules of the FIFO, or slots of the ring. DEDUCED, log 32. -/
def State.credit (s : State) (c route : Nat) : Nat :=
  lookupD (s.core c).sendCred (64 * (s.core c).active + route) 0
/-- DESIGN CHOICE, log 33. -/
def State.spendCredit (s : State) (c route n : Nat) : State :=
  let k := s.core c
  let key := 64 * k.active + route
  s.setCore c { k with sendCred := insert k.sendCred key (lookupD k.sendCred key 0 - n) }

/-- A packet leaves: credits are spent, the message is on its way (R62, R114). -/
def State.sendPacket (s : State) (c route : Nat) (d : Dest) (gs : List Granule) : State :=
  let s1 := s.spendCredit c route gs.length
  let s2 := s1.setCore c { s1.core c with sends := (s1.core c).sends + 1 }
  match d with
  | .peer e v => s2.ravorSend (.packet c (64 * (s.core c).active + route)) { s2.newMsg e 0 with key := c, vroute := v, grans := gs }
  | d => s2.coreSend c d 0 0 gs

/-- SEND and SENDI over a route: the null and missing alternatives move nothing (R285). DESIGN CHOICE, log 107. -/
def State.sendOver (s : State) (c route : Nat) (gs : List Granule) : State :=
  match s.dest c route with
  | .null => (nullCount s c).advance c
  | .missing => (oorCount s c).advance c
  | d => s.gate c [(decide (gs.length ≤ s.credit c route), 6)] fun s => (s.sendPacket c route d gs).advance c

/-- The first granule of a[AREG], its low 6 bits zero (R631). -/
def State.granAddr (s : State) (c a : Nat) : Nat :=
  (s.areg c a).toNat / 64

def execSend (c : LCore) (f : XferF) (s : State) : Answer :=
  issue c (fun s =>
    let g := s.granAddr c f.areg
    let n := f.len.toNat + 1
    (s.outOfRange c (s.gransOut c g n)).sendOver c f.route (s.readGrans c g n)) s

/-- The granule of a SENDI: the word in bytes [3:0], poisoned with the scalar (R131, R221). -/
def wordGranule (w : Word) (p : Bool) : Granule :=
  { plainGranule (leBytes 4 w.toNat) with wpois := p :: List.replicate 15 false }

def execSendi (c : LCore) (f : XferF) (s : State) : Answer :=
  issue c (fun s => s.gate c [(s.scored c [f.sb], 0)] fun s =>
    s.sendOver c f.route [wordGranule (s.sreg c f.sb) (s.spoison c f.sb)]) s

/-- RECV of the oldest packet of FIFO `p`, truncated to `n` granules, consumed whole (R114, R226). -/
def State.recvPacket (s : State) (c p g n : Nat) (pk : Packet) (x : Fifo) : State :=
  let gs := (pk.grans.mapIdx fun i v => parityMark pk.badWords i v).take n
  let s1 := (s.setFifo c p x).bump (s.atCore c fun i k j => ISL_CORE_FIFO_PARITY_CNT i k j p) pk.badWords.length
  let s2 := s1.returnSendCredit pk.source pk.route pk.grans.length
  ((s2.outOfRange c (s2.gransOut c g gs.length)).writeGrans c g gs).advance c

def execRecv (c : LCore) (f : XferF) (s : State) : Answer :=
  issue c (fun s => match (s.fifo c f.port).take with
    | none => s.hold c 6
    | some (pk, x) => s.recvPacket c f.port (s.granAddr c f.areg) (f.len.toNat + 1) pk x) s

/-! ### Transfers (R115, R257) -/

/-- A stream engine's place is free: it holds fewer than four transfers (R115). -/
def State.placeFree (s : State) (c se : Nat) : Bool :=
  decide (((s.core c).xfers.filter fun x => decide (x.se = se)).length < 4)

/-- The remote offset s[SB] + IMM, modulo 2^32, its low 6 bits zero (R631). -/
def State.remoteOff (s : State) (c : Nat) (f : XferF) : Nat :=
  alignDown (s.sreg c f.sb + f.imm.setWidth 32).toNat 64

/-- A transfer takes its place and its number. -/
def State.addXfer (s : State) (c : Nat) (x : Xfer) : State :=
  let k := s.core c
  { s.setCore c { k with xfers := k.xfers ++ [{ x with id := s.nextId }] } with nextId := s.nextId + 1 }

/-! ### The cache (R228, R229, R231, R233, R235) -/

/-- The line of an object a core's cache holds. -/
def CoreSt.line (k : CoreSt) (handle line : Nat) : Option CLine :=
  k.cache.find? fun l => decide (l.handle = handle) && decide (l.line = line)

/-- A use of way `w` of a set: every node of its 7-bit tree on the way points away from it (R229). DESIGN CHOICE, log 43. -/
def plruTouch (t : BitVec 7) (w : Nat) : BitVec 7 :=
  let n := setBit t.toNat 0 (decide (w / 4 = 0))
  let n := setBit n (1 + w / 4) (decide (w / 2 % 2 = 0))
  BitVec.ofNat 7 (setBit n (3 + w / 2) (decide (w % 2 = 0)))
/-- The way the tree points to (R229). DESIGN CHOICE, log 43. -/
def plruVictim (t : BitVec 7) : Nat :=
  let a := b2n (t.getLsbD 0)
  let b := b2n (t.getLsbD (1 + a))
  4 * a + 2 * b + b2n (t.getLsbD (3 + 2 * a + b))

def CoreSt.touch (k : CoreSt) (l : CLine) : CoreSt :=
  { k with plru := store 0 k.plru l.set_ (plruTouch (lookupD k.plru l.set_ 0) l.way) }

/-- Whether a transfer still has to copy or write a line. -/
def Xfer.wants (x : Xfer) (handle line : Nat) : Bool :=
  x.cached && !x.closed && decide (x.handle = handle) && decide (x.offset / 64 ≤ line)
    && decide (line < x.offset / 64 + x.grans) && !x.lines.contains line

/-- One transfer copies the line to the scratchpad, or writes it where it is in M (R231, R233, R235). -/
def State.serveOne (s : State) (c line : Nat) (x : Xfer) : State :=
  let k := s.core c
  match k.line x.handle line with
  | none => s
  | some l =>
    let i := line - x.offset / 64
    let done (k : CoreSt) : CoreSt :=
      { k with xfers := k.xfers.map fun y => if y.id = x.id then { y with lines := line :: y.lines } else y }
    if x.kind = 1 then
      let g := x.laddr / 64 + i
      let s1 := (s.outOfRange c (s.gransOut c g 1)).writeGrans c g [l.gran]
      s1.setCore c (done (s1.core c))
    else if l.modified then
      let write (e : CLine) : CLine :=
        if e.handle = x.handle ∧ e.line = line then { e with gran := x.data.getD i e.gran } else e
      s.setCore c (done { k with cache := k.cache.map write })
    else s

/-- Every outstanding transfer that wants the line is served, in issue order. -/
def State.serveLine (s : State) (c handle line : Nat) : State :=
  ((s.core c).xfers.filter fun x => x.wants handle line).foldl (fun s x => s.serveOne c line x) s

/-- A transfer's lines that the cache holds are served as it issues; each counts a hit (R229, R237). -/
def State.serveHits (s : State) (c handle line n : Nat) : State :=
  match n with
  | 0 => s
  | n + 1 =>
    let s1 := match (s.core c).line handle line with
      | some l =>
        let s2 := (s.inc (s.atCore c ISL_CORE_CHIT_COUNT)).setCore c ((s.core c).touch l)
        s2.serveLine c handle line
      | none => s
    s1.serveHits c handle (line + 1) n

/-- Every line of a cached transfer has been copied or written (R235). -/
def Xfer.served (x : Xfer) : Bool :=
  decide (x.grans ≤ x.lines.length)

/-- The members of a ring's WPUT destination: whether this transfer writes the slot's last granule (R627). -/
def State.fillsSlot (s : State) (c route off n : Nat) : Bool :=
  let k := s.core c
  match k.slot.tables.routes[route]?, s.corePart c with
  | some d, some p =>
    if d.remote then false else
    match (lookup s.jobs p).bind fun j => j.image.noc.find? fun r => decide (r.number = d.vroute) with
    | some r =>
      match ((s.core (r.leaves.headD 0)).slots.getD k.active slotReset).tables.rings[d.dsel]? with
      | some rd => decide (off / 64 + n = rd.gran)
      | none => false
    | none => false
  | _, _ => false

/-- A WPUT issues: data read at once, a place taken, the message on its way; over a ring a slot credit is spent when
the transfer writes the slot's last granule (R115, R285, R627). DEDUCED, log 32; DESIGN CHOICE, log 34. -/
def State.wputOp (s : State) (c : Nat) (f : XferF) : State :=
  s.gate c [(s.scored c [f.sb], 0), (s.placeFree c f.se, 1)] fun s => s.control c [f.sb] fun s =>
    let g := s.granAddr c f.areg
    let n := f.len.toNat + 1
    let off := s.remoteOff c f
    let gs := s.readGrans c g n
    let ringed := match (s.core c).slot.tables.routes[f.route.val]? with
      | some d => decide (d.dkind = 2)
      | none => false
    match s.dest c f.route with
    | .null => (nullCount s c).advance c
    | .missing => (oorCount s c).advance c
    | d =>
      s.gate c [(!ringed || decide (0 < s.credit c f.route), 6)] fun s =>
        let x : Xfer := { id := 0, se := f.se, tag := f.tag, kind := 0, slot := (s.core c).active, laddr := 64 * g,
                          offset := off, grans := n, handle := 0, cached := false, waits := 0, closed := false,
                          data := gs, lines := [] }
        let id := s.nextId
        let s1 := (s.outOfRange c (s.gransOut c g n)).addXfer c x
        let s2 := if ringed && s1.fillsSlot c f.route off n then s1.spendCredit c f.route 1 else s1
        let s3 := match d with
          | .peer e v => s2.ravorSend (.core c id) { s2.newMsg e 1 with key := c, vroute := v, offset := off, grans := gs }
          | .station _ b => s2.coreSend c d 1 (64 * b + off) gs
          | d => s2.coreSend c d 1 off gs
        s3.advance c
def execWput (c : LCore) (f : XferF) (s : State) : Answer := issue c (fun s => s.wputOp c f) s

/-- The path of a page's fastest copy: near stack 0 to 2, CXL port 3 and 4, flash channel 5 to 12 (R334). -/
def TierObj.path (o : TierObj) (page : Nat) : Nat :=
  match lookup o.near page, lookup o.mid page, lookup o.far page with
  | some f, _, _ => f / 1048576
  | none, some f, _ => 3 + f / 2 ^ 24
  | none, none, some g => 5 + g % 8
  | none, none, none => 0

/-- The pages `[off, off + n)` bytes of an object touch, with the bytes on each (R334). -/
def pageSplit (off n : Nat) : List (Nat × Nat) :=
  (List.range ((off + n + 65535) / 65536 - off / 65536)).map fun i =>
    let p := off / 65536 + i
    (p, min (off + n) (65536 * (p + 1)) - max off (65536 * p))

/-- One request per page of a transfer joins its paths (R334). -/
def State.askTier (s : State) (h cls : Nat) (part : Option Nat) (o : TierObj) (off n : Nat)
    (job : Nat → TierJob) : State :=
  let x := s.harbor h
  s.setHarbor h { x with reqs := x.reqs ++ (pageSplit off n).map fun e =>
    { cls := cls, path := o.path e.1, part := part, at_ := s.tide.now, bytes := e.2, job := job e.1 } }

/-- A TGET or TPUT issues: beyond the descriptor's pages or the bound object it moves nothing and is to complete with
WINDOW_CLOSED; cached, it waits for its lines; otherwise it asks its harbor page by page (R115, R228, R311, R334). DESIGN CHOICE, log 34. -/
def State.tierOp (s : State) (c : Nat) (f : XferF) (put : Bool) : State :=
  s.gate c [(s.scored c [f.sb], 0), (s.placeFree c f.se, 1)] fun s => s.control c [f.sb] fun s =>
    match (s.core c).slot.tables.objs[f.desc.val]? with
    | none => s.advance c
    | some d =>
      let g := s.granAddr c f.areg
      let n := f.len.toNat + 1
      let rel := s.remoteOff c f
      let off := 65536 * d.first + rel
      let x : Xfer := { id := 0, se := f.se, tag := f.tag, kind := if put then 2 else 1, slot := (s.core c).active,
                        laddr := 64 * g, offset := off, grans := n, handle := d.handle, cached := decide (d.cache ≠ 0),
                        waits := 0, closed := false, data := if put then s.readGrans c g n else List.replicate n poisonGranule,
                        lines := [] }
      let s1 := if put then s.outOfRange c (s.gransOut c g n) else s
      match s.obj d.handle with
      | none => (s1.addXfer c { x with closed := true }).advance c
      | some o =>
        if 65536 * d.pages < rel + 64 * n ∨ 65536 * o.pages < off + 64 * n then
          (s1.addXfer c { x with closed := true }).advance c
        else if put ∧ o.sealed then
          ((s1.writeDropped (harborOf d.handle)).addXfer c { x with closed := true }).advance c
        else if d.cache ≠ 0 then ((s1.addXfer c x).serveHits c d.handle (off / 64) n).advance c
        else
          let id := s1.nextId
          let s2 := s1.addXfer c { x with waits := (pageSplit off (64 * n)).length }
          (s2.askTier (harborOf d.handle) 1 (s2.corePart c) o off (64 * n)
            fun p => .xfer c id (indexOf d.handle) p).advance c

def execTget (c : LCore) (f : XferF) (s : State) : Answer := issue c (fun s => s.tierOp c f false) s
def execTput (c : LCore) (f : XferF) (s : State) : Answer := issue c (fun s => s.tierOp c f true) s

/-! ### Delivery (R62, R115, R235) -/

/-- The transfer numbered `id` leaves its place and completes its tag; in WINDOW_CLOSED it sets WCLOSED (R115). -/
def State.endXfer (s : State) (c id : Nat) (closed : Bool) : State :=
  let k := s.core c
  let s1 := s.setCore c { k with xfers := k.xfers.filter fun x => decide (x.id ≠ id) }
  if closed then s1.raiseEvt c ISL_CORE_EVT_WCLOSED else s1

/-- A transfer of core `c` is delivered (R62, R115): an uncached TGET's data are those its grants read. DESIGN CHOICE, log 34. -/
def State.deliver (s : State) (c : Nat) (x : Xfer) (closed : Bool) : State :=
  if x.closed || closed then s.endXfer c x.id true
  else if x.kind = 1 ∧ !x.cached then
    let g := x.laddr / 64
    let s1 := (s.outOfRange c (s.gransOut c g x.grans)).writeGrans c g x.data
    s1.endXfer c x.id false
  else s.endXfer c x.id false

/-- TRANSFER_DELIVERED: the index-th outstanding transfer of the core, once its tier requests are granted or its lines
held. Only a WPUT can meet a closed window on the way. -/
def execTransferDelivered (c : LCore) (index : Nat) (closed : Bool) (s : State) : Answer :=
  .next (match (s.core c).xfers[index]? with
    | none => s
    | some x =>
      if x.closed then s.deliver c x true
      else if 0 < x.waits ∨ (x.cached ∧ !x.served) ∨ s.awaits (.core c x.id) then s
      else s.deliver c x (closed && decide (x.kind = 0)))

end Sys2Proof.Machine
end

