-- ==== Sys2Proof/Machine/CoreFlow.lean ====
section
/-! DEFINITION. Ring and route control, counters, waits, loops, branches and context (R97 to R101, R116 to R122, R131,
R136, R283, R286), the slot switch, the flask sequencer's request, the debug commands and the pre-emption request. -/

namespace Sys2Proof.Machine

/-! ### GATE (R116, R283, R286) -/

/-- A ring of the active slot changed by the consumer or the producer, and the program counter moved on. -/
def State.ringDone (s : State) (c r : Nat) (v : RingSt) : State :=
  s.finish c fun x => x.setRing r v

/-- RPOP: releases N head slots once N are full (R116, R214). DEDUCED, log 31. -/
def State.rpopOp (s : State) (c : Nat) (f : GateF) : State :=
  let x := (s.core c).slot
  match x.ringDesc f.ring with
  | none => s.hold c 2
  | some d => s.gate c [(decide (f.n.val + 1 ≤ (x.ring f.ring).avail), 2)] fun s =>
      s.ringDone c f.ring ((x.ring f.ring).releaseN d (f.n.val + 1))
def execRpop (c : LCore) (f : GateF) (s : State) : Answer := issue c (fun s => s.rpopOp c f) s

/-- RPUSH: commits N tail slots that the core owns (R116, R212). -/
def State.rpushOp (s : State) (c : Nat) (f : GateF) : State :=
  let x := (s.core c).slot
  match x.ringDesc f.ring with
  | none => s.hold c 3
  | some d => s.gate c [(decide (f.n.val + 1 ≤ (x.ring f.ring).free d), 3)] fun s =>
      s.ringDone c f.ring ((x.ring f.ring).commitN d (f.n.val + 1))
def execRpush (c : LCore) (f : GateF) (s : State) : Answer := issue c (fun s => s.rpushOp c f) s

/-- RWAIT: issues once N slots are full, and changes nothing (R116). DEDUCED, log 31. -/
def State.rwaitOp (s : State) (c : Nat) (f : GateF) : State :=
  let x := (s.core c).slot
  s.gate c [(decide (f.n.val + 1 ≤ (x.ring f.ring).avail), 2)] fun s => s.advance c
def execRwait (c : LCore) (f : GateF) (s : State) : Answer := issue c (fun s => s.rwaitOp c f) s

/-- The alternative that s[SA] selects on a route of kind `k` (R283): bit 31 the null alternative. -/
def altOf (k : Nat) (v : Word) : Option Nat :=
  if v.getLsbD 31 then none
  else if k = 1 then some (v.toNat % 8) else if k = 2 then some (v.toNat % 4096) else some (v.toNat % 2048)

/-- RSEL (R116, R131, R283, R286). -/
def State.rselOp (s : State) (c : Nat) (f : GateF) : State :=
  s.gate c [(s.scored c [f.sa], 0)] fun s => s.control c [f.sa] fun s =>
    match (s.core c).slot.tables.routes[f.route.val]? with
    | none => s.advance c
    | some d => s.finish c fun x => { x with rsel := insert x.rsel f.route (altOf d.kind (x.sreg f.sa)) }
def execRsel (c : LCore) (f : GateF) (s : State) : Answer := issue c (fun s => s.rselOp c f) s

/-! ### CTR (R118, R258, R260) -/

/-- A request to the cluster's counter bank: op 0 CTAKE, 1 CSET, 2 CADD. -/
def State.ctrAsk (s : State) (c op ctr : Nat) (val : Word) (sd : Nat) : State :=
  let k := clusterOf c
  let x := s.cluster k
  (s.setCluster k { x with ctrReqs := x.ctrReqs ++
    [{ core := c, op := op, ctr := ctr, val := val, sd := sd, slot := (s.core c).active }] }).advance c

def execCtake (c : LCore) (f : CtrF) (s : State) : Answer :=
  issue c (fun s => s.gate c [(s.scored c [f.sd], 0)] fun s => s.ctrAsk c 0 f.ctr (f.step.setWidth 32) f.sd) s
def execCset (c : LCore) (f : CtrF) (s : State) : Answer :=
  issue c (fun s => s.gate c [(s.scored c [f.sa], 0)] fun s => s.control c [f.sa] fun s =>
    s.ctrAsk c 1 f.ctr (s.sreg c f.sa) 0) s
def execCadd (c : LCore) (f : CtrF) (s : State) : Answer :=
  issue c (fun s => s.gate c [(s.scored c [f.sa], 0)] fun s => s.control c [f.sa] fun s =>
    s.ctrAsk c 2 f.ctr (s.sreg c f.sa) 0) s

/-! ### WAIT (R61, R119, R235) -/

/-- A WAIT: held on check 6 until its condition is true (R119, R123). -/
def State.waitFor (s : State) (c : Nat) (ok : Bool) : State :=
  s.gate c [(ok, 7)] fun s => s.advance c

/-- Whether every tag of a mask is complete (R115, R119). -/
def State.tagsDone (s : State) (c : Nat) (mask : BitVec 16) : Bool :=
  (s.core c).xfers.all fun x => !mask.getLsbD x.tag
def execWaitx (c : LCore) (f : WaitF) (s : State) : Answer :=
  issue c (fun s => s.waitFor c (s.tagsDone c f.mask)) s

/-- WAITT: the island's tide is at or above s[SB]:s[SA] (R119). -/
def execWaitt (c : LCore) (f : WaitF) (s : State) : Answer :=
  issue c (fun s => s.gate c [(s.scored c [f.sa, f.sb], 0)] fun s =>
    s.waitFor c (decide ((s.sreg c f.sb).toNat * 2 ^ 32 + (s.sreg c f.sa).toNat ≤ s.tide.now.toNat))) s

/-- Whether the ladle holds no macro and every last output tile has been written (R119). DEDUCED, log 35. -/
def CoreSt.ladleQuiet (k : CoreSt) : Bool :=
  k.ladle.all (fun m => m.left) && k.steps.isEmpty && k.outs.isEmpty
def execWaitm (c : LCore) (_f : WaitF) (s : State) : Answer :=
  issue c (fun s => s.waitFor c (s.core c).ladleQuiet) s

/-- The data of a modified line reach its object, and its WEIGHT drop if any is counted (R234, R235, R628). DESIGN CHOICE, log 77. -/
def State.writeBack (s : State) (l : CLine) : State :=
  match s.obj l.handle with
  | none => s
  | some o =>
    if o.sealed then s.writeDropped (harborOf l.handle)
    else if 1024 * o.pages ≤ l.line then s
    else s.writeObj l.handle (64 * l.line) [l.gran]

/-- The directory's record of a line. -/
def ClusterSt.dirLine (x : ClusterSt) (handle line : Nat) : Option DirState :=
  (x.lines.find? fun l => decide (l.handle = handle) && decide (l.line = line)).map (·.st)
def ClusterSt.setDir (x : ClusterSt) (handle line : Nat) (d : Option DirState) : ClusterSt :=
  let rest := x.lines.filter fun l => !(decide (l.handle = handle) && decide (l.line = line))
  match d with
  | none => { x with lines := rest }
  | some st => { x with lines := { handle := handle, line := line, st := st } :: rest }

/-- Every M line of a core's cache is written back and kept in S (R235). DEDUCED, log 36. -/
def State.cleanCache (s : State) (c : Nat) : State :=
  let k := s.core c
  let s1 := (k.cache.filter (·.modified)).foldl (fun s l =>
    let s2 := s.writeBack l
    s2.setCluster (clusterOf c) ((s2.cluster (clusterOf c)).setDir l.handle l.line (some (.shared [ixOf c])))) s
  s1.setCore c { s1.core c with cache := (s1.core c).cache.map fun l => { l with modified := false } }

/-- FENCE: the core issues the tide fence and waits for its notice; at island scope and above its M lines are written
back (R61, R119, R235). DEDUCED, log 36. -/
def State.fenceOp (s : State) (c : Nat) (f : WaitF) : State :=
  let s1 := if f.scope.val = 0 then s else s.cleanCache c
  (s1.setCore c { s1.core c with fence := some f.scope.val }).advance c
def execFence (c : LCore) (f : WaitF) (s : State) : Answer := issue c (fun s => s.fenceOp c f) s

/-! ### FLOW (R120, R121, R131) -/

/-- LOOP: COUNT runs of the body up to TARGET, or s[SA] runs; a count of 0 skips the body (R121). DEDUCED, log 30. -/
def State.loopOp (s : State) (c : Nat) (f : FlowF) : State :=
  let run (n : Nat) (s : State) : State :=
    let x := (s.core c).slot
    if n = 0 then
      let (ls, pc) := afterPc x.loops f.target
      s.setSlotDone c { x with loops := ls, pc := pc }
    else s.setSlotDone c { x with loops := { start := x.pc + 1, stop := f.target, left := n } :: x.loops, pc := x.pc + 1 }
  if f.count.toNat = 0 then
    s.gate c [(s.scored c [f.sa], 0)] fun s => s.control c [f.sa] fun s => run (s.sreg c f.sa).toNat s
  else run f.count.toNat s
def execLoop (c : LCore) (f : FlowF) (s : State) : Answer := issue c (fun s => s.loopOp c f) s

/-- A branch: taken to TARGET, or the program counter moves on (R120). -/
def State.branch (s : State) (c target : Nat) (taken : Bool) : State :=
  if taken then s.setSlotDone c ((s.core c).slot.jump target) else s.advance c
def execBr (c : LCore) (f : FlowF) (s : State) : Answer := issue c (fun s => s.branch c f.target true) s

/-- A branch on scalar registers; a poisoned operand stops the core (R120, R131). -/
def State.condBranch (s : State) (c : Nat) (f : FlowF) (regs : List Nat) (cond : Word → Word → Bool) : State :=
  s.gate c [(s.scored c regs, 0)] fun s => s.control c regs fun s =>
    s.branch c f.target (cond (s.sreg c f.sa) (s.sreg c f.sb))
def execBeqz (c : LCore) (f : FlowF) (s : State) : Answer := issue c (fun s => s.condBranch c f [f.sa] condEqz) s
def execBnez (c : LCore) (f : FlowF) (s : State) : Answer := issue c (fun s => s.condBranch c f [f.sa] condNez) s
def execBlt (c : LCore) (f : FlowF) (s : State) : Answer := issue c (fun s => s.condBranch c f [f.sa, f.sb] condLt) s
def execBge (c : LCore) (f : FlowF) (s : State) : Answer := issue c (fun s => s.condBranch c f [f.sa, f.sb] condGe) s

/-! ### CTX (R99 to R101, R122) -/

def execNop (c : LCore) (s : State) : Answer := issue c (fun s => s.advance c) s

/-- HALT: the slot is HALTED; a pending request is a switch point (R100, R122). -/
def State.haltOp (s : State) (c : Nat) : State :=
  let k := s.core c
  let s1 := s.setSlotDone c { k.slot with state := .halted }
  match k.request with
  | some t => s1.setCore c { s1.core c with switchTo := some t, request := none }
  | none => s1

/-- Whether the sequencer of core `c` may halt: as `canIssue`, and also past the last instruction (R101). -/
def State.canHalt (s : State) (c : Nat) : Bool :=
  let k := s.core c
  s.canIssue c || (s.setCore c (k.setActive { k.slot with pc := 0 })).canIssue c
def execHalt (c : LCore) (s : State) : Answer := .next (if s.canHalt c then s.haltOp c else s)

/-- SWITCH: to the active slot, one cycle and no change; otherwise held until the target is READY and the units have
written their results (R99, R100, R123). DEDUCED, log 35. -/
def State.switchOp (s : State) (c : Nat) (slot : Nat) : State :=
  let k := s.core c
  if slot = k.active then s.advance c
  else
    s.gate c [(decide ((k.slots.getD slot slotReset).state = .ready) && k.ladleQuiet, 7)] fun s =>
      let s1 := s.advance c
      s1.setCore c { s1.core c with switchTo := some slot }
def execSwitch (c : LCore) (slot : Slot) (s : State) : Answer := issue c (fun s => s.switchOp c slot) s

/-- YIELD: a switch point for a pending request, otherwise a NOP (R100, R122). -/
def State.yieldOp (s : State) (c : Nat) : State :=
  let s1 := s.advance c
  match (s.core c).request with
  | some t => s1.setCore c { s1.core c with switchTo := some t, request := none }
  | none => s1
def execYield (c : LCore) (s : State) : Answer := issue c (fun s => s.yieldOp c) s

/-- BKPT: stops the sequencer before the next instruction when BKPT_EN = 1 (R122). -/
def State.bkptOp (s : State) (c : Nat) : State :=
  let s1 := s.advance c
  if s.flag (s.atCore c ISL_CORE_DBG_BKPT_EN) then s1.setCore c { s1.core c with dbgStop := true } else s1
def execBkpt (c : LCore) (s : State) : Answer := issue c (fun s => s.bkptOp c) s

/-- A slot that becomes ACTIVE: after READY was marked, its registers, PC and loop stack are zero and its conditional
routes at their first selections (R98, R283). -/
def SlotSt.activate (x : SlotSt) : SlotSt :=
  if x.fresh then
    { x with state := .active, fresh := false, pc := 0, sregs := List.replicate 32 0,
             spois := List.replicate 32 false, aregs := List.replicate 8 0, loops := [], rsel := [] }
  else { x with state := .active }

/-- The switch itself: the old slot READY unless it is HALTED, the new one ACTIVE (R99, R100). -/
def CoreSt.switchSlot (k : CoreSt) (t : Nat) : CoreSt :=
  let old := k.slot
  let k1 := if old.state = .active then k.setActive { old with state := .ready } else k
  let k2 := k1.setSlot t (k1.slots.getD t slotReset).activate
  { k2 with active := t, switchTo := none }

/-- SLOT_SWITCH: once the units have written their results (R99); a slot that is not READY keeps it waiting (R100). -/
def execSlotSwitch (c : LCore) (s : State) : Answer :=
  let k := s.core c
  .next (match k.switchTo with
    | none => s
    | some t =>
      if k.ladleQuiet ∧ ((k.slots.getD t slotReset).state = .ready ∨ t = k.active) ∧ !k.preempt
      then s.setCore c (k.switchSlot t) else s)

/-- SWITCH_REQUEST_ARRIVAL: pending from the next cycle; a core whose active slot is not running switches at once
(R100, R373). DESIGN CHOICE, log 86. -/
def execSwitchRequestArrival (c : LCore) (slot : Slot) (s : State) : Answer :=
  let k := s.core c
  .next (s.setCore c (if k.slot.state = .active then { k with request := some slot.val }
    else { k with switchTo := some slot.val }))

/-! ### Debug and pre-emption requests (R133 to R136, R141) -/

/-- DEBUG_HALT_REQ: 1 stops the sequencer once issued instructions complete, 0 resumes it (R136, R141). -/
def execDebugHaltReq (c : LCore) (halt : Bool) (s : State) : Answer :=
  let s1 := s.setFlag (s.atCore c ISL_CORE_DBG_HALT_REQ) halt
  .next (s1.setCore c { s1.core c with dbgStop := halt })

/-- DEBUG_STEP: while halted, one instruction is to issue (R141). -/
def execDebugStep (c : LCore) (s : State) : Answer :=
  .next (if (s.core c).dbgStop then
      (s.setFlag (s.atCore c ISL_CORE_DBG_STEP) true).setCore c { s.core c with stepOnce := true }
    else s)

/-- PREEMPT_REQUEST_AT_CORE: the core stops issuing at once; running steps and their checks finish (R133, R134, R167). -/
def State.preemptCore (s : State) (c : Nat) : State :=
  s.setCore c { s.core c with preempt := true, starve := [] }
/-- Whether a pre-emption request of partition `p` is on its way: a save without a stop tick, or a recovery (R477,
R516). -/
def State.stopsNow (s : State) (p : Nat) : Bool :=
  let st := s.get (TEN_PART_CTRL_STATE p)
  decide (st = psRecovering) || (decide (st = psSaving) && s.saves.any fun r => decide (r.part = p) && !r.group)
def execPreemptRequestAtCore (c : LCore) (s : State) : Answer :=
  .next (match s.corePart c with
    | some p => if s.stopsNow p then s.preemptCore c else s
    | none => s)

end Sys2Proof.Machine
end

