-- ==== Sys2Proof/Machine/Ladle.lean ====
section
/-! DEFINITION. The ladle (R104, R105, R124, R129, R134, R144 to R174, R238 to R253): matrix macros, their steps, the
checks of a step, output tile writes, dropped tiles, and the armed injection. -/

namespace Sys2Proof.Machine

/-! ### Issue of a macro (R103 to R105, R123, R242 to R244) -/

/-- The pairs of R74. -/
def pairAllowed (a w : BitVec 4) : Bool :=
  (isMX a && isMX w) || decide (a = 3 ∧ w = 3) || decide (a = 1 ∧ w = 1) || decide (a = 2 ∧ w = 2)

/-- The fields of a MAT word that the loader accepts (R103, R105, R146, R154). -/
def matLegal (f : MatF) : Bool :=
  pairAllowed f.afmt f.wfmt && decide (f.walk.val ≠ 3) && decide ((cvtDfmt f.cvt).toNat ≤ 0xA) && !f.cvt.getLsbD 7
    && (decide (f.sparse.val = 0) || (f.sparse.val == 2 && (decide (f.wfmt = 3) || isMX f.wfmt))
        || (decide (f.sparse.val ≠ 2) && decide (f.wfmt = 3 ∨ f.wfmt = 4 ∨ f.wfmt = 5 ∨ f.wfmt = 9)))
    && (decide (f.wfmt ≠ 3) || decide (cvtDfmt f.cvt = 3 ∨ cvtDfmt f.cvt = 0xA))

/-- The run-time shape: M, K / 32 and N / 32 (R242). -/
def runShape (f : MatF) (a o : MatDesc) (v : Word) : Nat × Nat × Nat :=
  if f.dreg.val = 0 then (a.rowsMax, a.colsMax / 32, o.colsMax / 32)
  else (fieldGet v 0 14 + 1, fieldGet v 14 9 + 1, fieldGet v 23 9 + 1)

/-- The granules a descriptor's BREG adds to its BASE (R239). -/
def State.bregGrans (s : State) (c : Nat) (d : MatDesc) : Nat :=
  if d.breg < 8 then (s.areg c d.breg).toNat / 64 else 0

/-- Macros that count toward the queue (R252). -/
def CoreSt.queued (k : CoreSt) : List Macro :=
  k.ladle.filter fun m => !m.left

/-- The ladle registers follow the queue (R264). -/
def State.syncLadle (s : State) (c : Nat) : State :=
  let q := (s.core c).queued
  let s1 := s.put (s.atCore c ISL_CORE_LADLE_QUEUED) q.length
  match q with
  | [] => s1.put (s1.atCore c ISL_CORE_LADLE_WALK) 0
  | m :: _ =>
    let s2 := s1.put (s1.atCore c ISL_CORE_LADLE_WALK) m.f.walk
    if m.done then s2
    else
      let s3 := s2.put (s2.atCore c ISL_CORE_LPOS_S_IDX) m.pos.1
      let s4 := s3.put (s3.atCore c ISL_CORE_LPOS_N_IDX) m.pos.2.1
      s4.put (s4.atCore c ISL_CORE_LPOS_K_IDX) m.pos.2.2

/-- A macro beyond its declared shape is refused: the core stops, and its job ends with REFUSED_SHAPE, at once or
after the last output tile of the macro in the queue (R243). -/
def State.refuseShape (s : State) (c : Nat) : State :=
  let s1 := (s.setFlag (s.atCore c ISL_CORE_LADLE_SHAPE_FAULT) true).setCore c { s.core c with stopped := some .shape }
  match s1.corePart c with
  | none => s1
  | some p =>
    if (s.core c).ladleQuiet then s1.faultEnd p stRefusedShape c s1.tide.now
    else match lookup s1.jobs p with
      | none => s1
      | some j => { s1 with jobs := insert s1.jobs p { j with ending := some (stRefusedShape, c, s1.tide.now) } }

/-- A macro enters the queue (R104, R239, R242). -/
def State.queueMacro (s : State) (c : Nat) (f : MatF) (acc : Bool) (a o : MatDesc) : State :=
  let k := s.core c
  let shape := runShape f a o (s.sreg c f.dreg)
  if a.rowsMax < shape.1 ∨ a.colsMax / 32 < shape.2.1 ∨ o.colsMax / 32 < shape.2.2 then s.refuseShape c
  else
    let m : Macro :=
      { seq := s.nextId, f := f, acc := acc, slot := k.active, adesc := a, odesc := o, abase := a.base + s.bregGrans c a,
        obase := if o.ringBacked then o.base else o.base + s.bregGrans c o, m := shape.1, tk := shape.2.1,
        tn := shape.2.2, wval := if o.ctr < 64 then (s.sreg c o.wreg).toNat else 0, pos := (0, 0, 0), released := 0,
        sums := List.replicate 4096 0, spois := List.replicate 4096 false, poisSeen := false, left := false,
        done := false }
    (({ s with nextId := s.nextId + 1 }.setCore c { k with ladle := k.ladle ++ [m] }).advance c).syncLadle c

/-- The scalar registers a macro reads as control (R239, R242, R244). -/
def matRegs (f : MatF) (o : MatDesc) : List Nat :=
  f.dreg.val :: (if o.ctr < 64 then [o.wreg] else [])

/-- MM and MMAC: checks 1 and 2, poison, the run-time shape (R123, R243, R244). An index that the slot's tables leave
undefined, and an MMAC to a ring, are refused at load and have no effect here (R103, R146). -/
def State.matOp (s : State) (c : Nat) (f : MatF) (acc : Bool) : State :=
  let x := (s.core c).slot
  match x.tables.mats[f.adesc.val]?, x.tables.mats[f.odesc.val]?, x.ringDesc f.wring with
  | some a, some o, some _ =>
    if acc && o.ringBacked then s
    else
      s.gate c [(s.scored c (matRegs f o), 0), (decide ((s.core c).queued.length < 2), 1)] fun s =>
        s.control c (matRegs f o) fun s => s.queueMacro c f acc a o
  | _, _, _ => s

def execMm (c : LCore) (f : MatF) (s : State) : Answer :=
  if matLegal f then issue c (fun s => s.matOp c f false) s else .refused .reservedEncoding
def execMmac (c : LCore) (f : MatF) (s : State) : Answer :=
  if matLegal f then issue c (fun s => s.matOp c f true) s else .refused .reservedEncoding

/-! ### The walk (R238, R245, R247 to R249) -/

/-- Slabs of the declared and of the run-time shape. -/
def Macro.slabsMax (m : Macro) : Nat := (m.adesc.rowsMax + 127) / 128
def Macro.slabs (m : Macro) : Nat := (m.m + 127) / 128
def Macro.tkMax (m : Macro) : Nat := m.adesc.colsMax / 32
def Macro.tnMax (m : Macro) : Nat := m.odesc.colsMax / 32

/-- The next step after (s, n, k), with k innermost; none after the last (R248). -/
def Macro.next (m : Macro) (p : Nat × Nat × Nat) : Option (Nat × Nat × Nat) :=
  let (s, n, k) := p
  if k + 1 < m.tk then some (s, n, k + 1)
  else if m.f.walk.val = 0 then
    (if n + 1 < m.tn then some (s, n + 1, 0) else if s + 1 < m.slabs then some (s + 1, 0, 0) else none)
  else if s + 1 < m.slabs then some (s + 1, n, 0) else if n + 1 < m.tn then some (0, n + 1, 0) else none

/-- The number of weight tiles a macro takes from its ring (R248). -/
def Macro.tiles (m : Macro) : Nat :=
  if m.f.walk.val = 1 then m.tnMax * m.tkMax else m.slabsMax * m.tnMax * m.tkMax

/-- The number, in the order of delivery, of the tile that step (s, n, k) uses (R248, R249). -/
def Macro.tileIx (m : Macro) (p : Nat × Nat × Nat) : Nat :=
  let (s, n, k) := p
  if m.f.walk.val = 1 then n * m.tkMax + k
  else if m.f.walk.val = 0 then (s * m.tnMax + n) * m.tkMax + k
  else (n * m.slabsMax + s) * m.tkMax + k

/-- Whether tile `t` lies outside the run-time shape and is dropped (R245). -/
def Macro.dropped (m : Macro) (t : Nat) : Bool :=
  let k := t % m.tkMax
  let q := t / m.tkMax
  let (s, n) := if m.f.walk.val = 1 then (0, q)
    else if m.f.walk.val = 0 then (q / m.tnMax, q % m.tnMax) else (q % m.slabsMax, q / m.slabsMax)
  decide (m.tk ≤ k) || decide (m.tn ≤ n) || decide (m.slabs ≤ s)

/-- Whether the tile of step (s, n, k) leaves the ring once the step has passed: in WALK 1 only after the last slab
(R249). -/
def Macro.lastUse (m : Macro) (p : Nat × Nat × Nat) : Bool :=
  decide (m.f.walk.val ≠ 1) || decide (p.1 + 1 = m.slabs)

/-- Tiles of earlier macros on the same ring that still stand before this macro's. -/
def tilesBefore (ms : List Macro) (m : Macro) : Nat :=
  ((ms.filter fun e => decide (e.slot = m.slot) && decide (e.f.wring = m.f.wring)).map
    fun e => e.tiles - e.released).foldl (· + ·) 0

/-- The ring slot that holds tile `t` of macro `m`, if it is full there (R124, R249). -/
def CoreSt.tileSlot (k : CoreSt) (before : List Macro) (m : Macro) (t : Nat) : Option Nat :=
  let x := k.slots.getD m.slot slotReset
  match x.ringDesc m.f.wring with
  | none => none
  | some d =>
    let r := x.ring m.f.wring
    let at_ := tilesBefore before m + (t - m.released)
    if t < m.released ∨ r.avail ≤ at_ then none else some (d.slotGran (r.head + r.released + at_))

/-- The tile at the head of a macro's ring leaves it (R151, R245). -/
def CoreSt.releaseTile (k : CoreSt) (m : Macro) : CoreSt :=
  let x := k.slots.getD m.slot slotReset
  match x.ringDesc m.f.wring with
  | none => k
  | some d => k.setSlot m.slot (x.setRing m.f.wring ((x.ring m.f.wring).release d))

/-- Macros at the front that have left the queue and have no tile left to drop are forgotten. -/
def CoreSt.trim (k : CoreSt) : CoreSt :=
  let n := (k.ladle.takeWhile fun m => m.left && decide (m.tiles ≤ m.released)).length
  { k with ladle := k.ladle.drop n }

/-- Whether the arrays of core `c` may run: its partition holds a job, and it is neither fenced nor in a reset. -/
def State.ladleLive (s : State) (c : Nat) : Bool :=
  (match s.corePart c with
    | none => false
    | some p => (lookup s.jobs p).isSome) && !s.fenced c && !s.inReset c

/-- Whether the job of core `c`'s partition goes on. -/
def State.coreLive (s : State) (c : Nat) : Bool :=
  match s.corePart c with
  | some p => s.partLive p
  | none => false

/-- Whether the partition of core `c` is RUNNING. -/
def State.partRuns (s : State) (c : Nat) : Bool :=
  match s.corePart c with
  | some p => decide (s.get (TEN_PART_CTRL_STATE p) = psRunning)
  | none => false

/-! ### One step (R124, R143, R146, R172, R246, R252) -/

/-- The activation blocks of slab `sl` at feature tile `t`: absent where an array's 32 tokens all lie beyond M, +0
beyond M (R246). -/
def State.slabRows (s : State) (c : Nat) (m : Macro) (sl t : Nat) : List (Option Block) :=
  (List.range 128).map fun r =>
    let tok := 128 * sl + r
    if m.m ≤ tok then none else some (s.block c m.f.afmt (m.adesc.place m.f.afmt m.abase tok t))

/-- The first byte and length of every block of a slab or of an output tile group. -/
def slabBytes (d : MatDesc) (fmt : BitVec 4) (base mTok sl t : Nat) : List (Nat × Nat) :=
  (List.range 128).filterMap fun r =>
    let tok := 128 * sl + r
    if mTok ≤ tok then none else some (placeBytes fmt (d.place fmt base tok t))

/-- The output tile of a macro as it will be written: the place of its rows in the scratchpad, or the ring slot that
the `i`-th unwritten tile takes. -/
def CoreSt.outBytes (k : CoreSt) (m : Macro) (sl n i : Nat) : List (Nat × Nat) :=
  let fmt := cvtDfmt m.f.cvt
  if m.odesc.ringBacked then
    let x := k.slots.getD m.slot slotReset
    match x.ringDesc m.obase with
    | none => []
    | some d => [(64 * d.slotGran ((x.ring m.obase).tail + i), 64 * d.gran)]
  else slabBytes m.odesc fmt m.obase m.m sl n

def overlap (a b : List (Nat × Nat)) : Bool :=
  a.any fun x => b.any fun y => decide (x.1 < y.1 + y.2) && decide (y.1 < x.1 + x.2)

/-- The output tiles of macros before `m` that are not yet written (R252). -/
def CoreSt.unwritten (k : CoreSt) (m : Macro) : List (Macro × Nat × Nat) :=
  let out := (k.outs.filter fun o => decide (o.m.seq < m.seq)).map fun o => (o.m, o.s, o.n)
  let running := (k.steps.filter fun x => decide (x.macroSeq < m.seq)).filterMap fun x =>
    (k.ladle.find? fun e => decide (e.seq = x.macroSeq)).map fun e => (e, x.pos.1, x.pos.2.1)
  out ++ running.eraseDups

/-- The bytes of every tile of a list of unwritten ones, in the order they will be written. -/
def CoreSt.allOutBytes (k : CoreSt) (seen : List Nat) (es : List (Macro × Nat × Nat)) : List (Nat × Nat) :=
  match es with
  | [] => []
  | e :: rest =>
    k.outBytes e.1 e.2.1 e.2.2 (seen.filter fun q => decide (q = e.1.seq)).length
      ++ k.allOutBytes (e.1.seq :: seen) rest

/-- The hold of R252 on the step at `p` of macro `m`: an earlier macro's unwritten output overlaps its slab, or the
output an MMAC is about to read. -/
def CoreSt.hazard (k : CoreSt) (m : Macro) (p : Nat × Nat × Nat) : Bool :=
  let mine := slabBytes m.adesc m.f.afmt m.abase m.m p.1 p.2.2
    ++ (if m.acc ∧ p.2.2 = 0 then slabBytes m.odesc (cvtDfmt m.f.cvt) m.obase m.m p.1 p.2.1 else [])
  overlap mine (k.allOutBytes [] (k.unwritten m))

/-- What an injection does to the step it is made in: a mismatch that the checks find, or, where the tolerance of R161
leaves a BF16 or FP16 product unfound, an open value in one contribution. -/
structure Injected where
  mis  : Option Mismatch
  open_ : Option Nat
  deriving DecidableEq, Repr

/-- The injection register of island `i` as it stands armed for core `c`, where the target array works (R171, R172). -/
def State.armedFor (s : State) (c : Nat) (rows : List (Option Block)) (w : WTile) : Bool :=
  let i := s.phys (islOf c)
  s.flag (ISL_ARR_INJ_ARM i) && decide (s.get (ISL_ARR_INJ_CORE i) = inIsland c)
    && (rows.getD (32 * s.get (ISL_ARR_INJ_ARRAY i)) none).isSome && decide (0 < w.present)

/-- ARRAY_INJECTION: the injection is made and ARM clears (R171, R172). Whether the row compare's tolerance finds an
inverted BF16 or FP16 product is open. -/
def State.inject (s : State) (c : Nat) (f : MatF) : Injected × State :=
  let i := s.phys (islOf c)
  let a := s.get (ISL_ARR_INJ_ARRAY i)
  let kind := s.get (ISL_ARR_INJ_KIND i)
  let s1 := s.setFlag (ISL_ARR_INJ_ARM i) false
  let m : Mismatch := { row := kind = 0, col := kind = 1, dup := kind = 2, array := a }
  if kind = 0 ∧ (f.wfmt = 1 ∨ f.wfmt = 2) then
    let (b, s2) := s1.fresh 1
    if b = 1 then ({ mis := some m, open_ := none }, s2)
    else ({ mis := none, open_ := some (32 * (32 * a + s.get (ISL_ARR_INJ_ROW i))) }, s2)
  else ({ mis := some m, open_ := none }, s1)

/-- The initial values of an output tile: +0 under MM, the stored elements under MMAC (R146, R168). -/
def State.initSums (s : State) (c : Nat) (m : Macro) (p : Nat × Nat × Nat) : List Word × List Bool :=
  if m.acc then
    let fmt := cvtDfmt m.f.cvt
    let blocks := (List.range 128).map fun r =>
      let tok := 128 * p.1 + r
      if m.m ≤ tok then zeroBlock else s.block c fmt (m.odesc.place fmt m.obase tok p.2.1)
    (blocks.flatMap fun b => (List.range 32).map (initialValue m.f.wfmt fmt b), blocks.flatMap (·.pois))
  else (List.replicate 4096 0, List.replicate 4096 false)

/-- A step goes to the arrays: its operands are read, its output slot reserved, the walk moves on (R124, R143). DESIGN CHOICE, log 40. -/
def State.startStep (s : State) (c : Nat) (m : Macro) (slotGran : Nat) : State :=
  let p := m.pos
  let n := match (s.core c).slots.getD m.slot slotReset |>.ringDesc m.f.wring with
    | some d => d.gran
    | none => 0
  let w := parseTile m.f.wfmt m.f.sparse ((s.ts c).granules slotGran n)
  let rows := s.slabRows c m p.1 p.2.2
  let sums := stepSums m.f rows w
  let init := if p.2.2 = 0 then some (s.initSums c m p) else none
  let armed := s.armedFor c rows w
  let (inj, s1) := if armed then s.inject c m.f else ({ mis := none, open_ := none }, s)
  let (v, s2) := if inj.open_.isSome then s1.fresh 32 else (0, s1)
  let contrib := match inj.open_ with
    | some i => setAt sums.sums i v
    | none => sums.sums
  let x : StepRun :=
    { macroSeq := m.seq, pos := p, tile := m.tileIx p, contrib := contrib, cpois := sums.pois, init := init,
      askips := sums.askips, bskips := sums.bskips, mis := inj.mis,
      persist := armed && s.flag (ISL_ARR_INJ_PERSIST (s.phys (islOf c))), recomputed := false, rerun := false }
  let k := s2.core c
  let m2 := match m.next p with
    | some q => { m with pos := q }
    | none => { m with done := true }
  let k1 := { k with ladle := k.ladle.map (fun e => if e.seq = m.seq then m2 else e), steps := k.steps ++ [x] }
  let sl := k1.slots.getD m.slot slotReset
  let k2 := if p.2.2 = 0 ∧ m.odesc.ringBacked then
      k1.setSlot m.slot (sl.setRing m.obase { sl.ring m.obase with reserved := (sl.ring m.obase).reserved + 1 })
    else k1
  let s3 := (s2.setCore c k2).outOfRange c sums.out
  (if w.mis then s3.setFlag (s3.atCore c ISL_CORE_LADLE_HDR_MIS) true else s3).syncLadle c

/-- Whether the step of `m` at its position finds an output slot: a free one in the output ring when it begins a tile
(R124, R212). -/
def CoreSt.outSlotFree (k : CoreSt) (m : Macro) : Bool :=
  if m.pos.2.2 = 0 ∧ m.odesc.ringBacked then
    let x := k.slots.getD m.slot slotReset
    match x.ringDesc m.obase with
    | none => false
    | some d => decide (0 < (x.ring m.obase).free d)
  else true

/-- LADLE_STEP: the next step of the queue passes the pour gate, or is held one cycle on counter 4, on counter 5, or
under R252 (R124, R252). Nothing starts under a pre-emption request (R134). -/
def State.ladleStepOp (s : State) (c : Nat) : State :=
  let k := s.core c
  match k.ladle.find? fun m => !m.done with
  | none => s
  | some m =>
    match k.tileSlot (k.ladle.takeWhile fun e => decide (e.seq ≠ m.seq)) m (m.tileIx m.pos) with
    | none => s.hold c 4
    | some g =>
      let haz := k.hazard m m.pos
      let s1 := if haz then s.inc (s.atCore c ISL_CORE_LDROP_HAZ_CNT) else s
      if !k.outSlotFree m then s1.hold c 5 else if haz then s1 else s1.startStep c m g
def execLadleStep (c : LCore) (s : State) : Answer :=
  .next (if s.ladleLive c && s.coreLive c && !(s.core c).preempt then s.ladleStepOp c else s)

/-! ### The checks of a step (R151, R157 to R166, R624) -/

/-- The running sums of `m` with a step's contributions added, the first step of a tile from its initial values (R76,
R146, R169). -/
def Macro.addStep (m : Macro) (x : StepRun) : Macro :=
  let (s0, p0) := match x.init with
    | some e => e
    | none => (m.sums, m.spois)
  { m with sums := List.zipWith (addContribution m.f.wfmt) s0 x.contrib,
           spois := List.zipWith (· || ·) p0 x.cpois }

/-- The first step of core `c` commits: its weight slot is released, its sums are added, and the last step of a tile
hands the tile to the output stage; a macro whose last step this was leaves the queue (R151, R252, R264). DEDUCED, log 41. -/
def State.commitStep (s : State) (c : Nat) (x : StepRun) : State :=
  let k := s.core c
  match k.ladle.find? fun m => decide (m.seq = x.macroSeq) with
  | none => s
  | some m =>
    let k1 := if m.lastUse x.pos then k.releaseTile m else k
    let m1 := { (m.addStep x) with released := if m.lastUse x.pos then m.released + 1 else m.released }
    let pois := x.cpois.any id || match x.init with
      | some e => e.2.any id
      | none => false
    let first := pois && !m.poisSeen
    let last := decide (x.pos.2.2 + 1 = m.tk)
    let m2 := { m1 with poisSeen := m.poisSeen || pois,
                        left := m.done && k.steps.tail.all fun y => decide (y.macroSeq ≠ m.seq) }
    let outs := if last then
        k.outs ++ [{ m := { m with pos := x.pos, done := false }, s := x.pos.1, n := x.pos.2.1, sums := m1.sums,
                     pois := m1.spois, rerun := false }]
      else k.outs
    let k2 := { k1 with ladle := k1.ladle.map (fun e : Macro => if e.seq = m.seq then m2 else e),
                        steps := k.steps.tail,
                        outs := outs }
    let s1 := (s.setCore c k2.trim).inc (s.atCore c ISL_CORE_LSTEP_STEPS)
    let s2 := s1.bump (s1.atCore c ISL_CORE_SKIP_ASKIP_CNT) x.askips
    let s3 := s2.bump (s2.atCore c ISL_CORE_SKIP_BSKIP_CNT) x.bskips
    (s3.poisonIn c first).syncLadle c

/-- STEP_CHECKS_PASS: the oldest step's compares match (R151, R162); not while an injected mismatch stands. -/
def execStepChecksPass (c : LCore) (s : State) : Answer :=
  .next (match (s.core c).steps with
    | [] => s
    | x :: _ => if s.ladleLive c ∧ x.mis.isNone then s.commitStep c x else s)

/-- The mismatch registers of core `c` after a mismatch (R173). -/
def State.noteMismatch (s : State) (c : Nat) (m : Mismatch) : State :=
  let s1 := s.setFlag (s.atCore c ISL_CORE_CHK_ROW_MIS) m.row
  let s2 := s1.setFlag (s1.atCore c ISL_CORE_CHK_COL_MIS) m.col
  let s3 := s2.setFlag (s2.atCore c ISL_CORE_CHK_DUP_MIS) m.dup
  s3.put (s3.atCore c ISL_CORE_CHK_ARRAY) m.array

/-- A recompute or a rerun is counted (R163, R624). -/
def State.noteRecompute (s : State) (c : Nat) (m : Mismatch) : State :=
  let s1 := (s.noteMismatch c m).raiseEvt c ISL_CORE_EVT_CHK_RECOMP
  s1.inc (s1.atCore c ISL_CORE_CHK_RECOMP_CNT)

/-- One issued step taken back: its macro's walk returns to it, and an output slot it reserved is free again. -/
def CoreSt.takeBack (k : CoreSt) (x : StepRun) : CoreSt :=
  match k.ladle.find? fun m => decide (m.seq = x.macroSeq) with
  | none => k
  | some m =>
    let k1 := { k with ladle := k.ladle.map fun e => if e.seq = m.seq then { e with pos := x.pos, done := false } else e }
    let sl := k1.slots.getD m.slot slotReset
    if x.pos.2.2 = 0 ∧ m.odesc.ringBacked then
      k1.setSlot m.slot (sl.setRing m.obase { sl.ring m.obase with reserved := (sl.ring m.obase).reserved - 1 })
    else k1

/-- The steps behind the first `n` are abandoned: nothing of them is kept, and each is begun again later (R164). -/
def CoreSt.abandon (k : CoreSt) (n : Nat) : CoreSt :=
  let k1 := (k.steps.drop n).reverse.foldl CoreSt.takeBack k
  { k1 with steps := k.steps.take n }

/-- CHECKSUM_RECOMPUTE: the oldest step's first row or column mismatch, injected or found, makes it recompute once; the
steps behind it are abandoned (R163, R164, R166). DEDUCED, log 42. -/
def execChecksumRecompute (c : LCore) (row col : Bool) (array : Fin 4) (s : State) : Answer :=
  .next (match (s.core c).steps with
    | [] => s
    | x :: _ =>
      let m := match x.mis with
        | some m => m
        | none => { row := row, col := col, dup := false, array := array.val }
      if s.ladleLive c ∧ !x.recomputed ∧ (m.row ∨ m.col) then
        let k := (s.core c).abandon 1
        let y := { x with recomputed := true, mis := if x.persist then x.mis else none }
        ((s.setCore c { k with steps := [y] }).noteRecompute c m).syncLadle c
      else s)

/-- DUPLICATE_RERUN: a stage of the oldest step, or of the oldest output tile, is run again once on both copies; no
step is abandoned (R159, R624). DEDUCED, log 42. -/
def execDuplicateRerun (c : LCore) (conv : Bool) (array : Fin 4) (s : State) : Answer :=
  let k := s.core c
  let m (x : Option Mismatch) : Mismatch := match x with
    | some m => m
    | none => { row := false, col := false, dup := true, array := array.val }
  .next (if !s.ladleLive c then s
    else if conv then match k.outs with
      | [] => s
      | o :: rest =>
        if o.rerun then s else (s.setCore c { k with outs := { o with rerun := true } :: rest }).noteRecompute c (m none)
    else match k.steps with
      | [] => s
      | x :: rest =>
        if x.rerun ∨ (m x.mis).dup = false then s
        else
          let y := { x with rerun := true, mis := if x.persist then x.mis else none }
          (s.setCore c { k with steps := y :: rest }).noteRecompute c (m x.mis))

/-- What a fence leaves of the ladle when the oldest step fails for good: no step in flight, the walk at its start; a
scale-and-add failure comes after its weight slot was released (R165, R624). DEDUCED, log 42. -/
def CoreSt.failStep (k : CoreSt) (dup : Bool) : CoreSt :=
  match k.steps with
  | [] => k
  | x :: _ =>
    let k1 := k.abandon 0
    match dup, k1.ladle.find? (fun m => decide (m.seq = x.macroSeq)) with
    | true, some m =>
      if m.lastUse x.pos then
        let k2 := k1.releaseTile m
        { k2 with ladle := k2.ladle.map fun e => if e.seq = m.seq then { e with released := e.released + 1 } else e }
      else k1
    | _, _ => k1

/-- What a fence leaves when the oldest output tile's conversion fails for good: its last step is the next of its
macro, the sums as before it, later steps and tiles as not begun (R624). -/
def CoreSt.failTile (k : CoreSt) : CoreSt :=
  match k.outs with
  | [] => k
  | o :: rest =>
    let k1 := k.abandon 0
    let undo (k : CoreSt) (e : OutTile) : CoreSt :=
      if e.m.odesc.ringBacked ∧ e.m.seq ≠ o.m.seq then
        let sl := k.slots.getD e.m.slot slotReset
        k.setSlot e.m.slot (sl.setRing e.m.obase { sl.ring e.m.obase with reserved := (sl.ring e.m.obase).reserved - 1 })
      else k
    let k2 := rest.foldl undo k1
    let released (e : Macro) : Nat := match k1.ladle.find? fun m => decide (m.seq = e.seq) with
      | some m => m.released
      | none => e.tiles
    let first := { o.m with released := released o.m }
    let later := (k1.ladle.filter fun e => decide (o.m.seq < e.seq)).map fun e =>
      { e with pos := (0, 0, 0), done := false, left := false }
    { k2 with outs := [], ladle := first :: later }

/-! ### Output tiles (R145, R150, R169, R246, R250) -/

/-- The logical core a macro's draws name: its own, or the anchor of the output's counter (R87, R89). -/
def State.drawCore (s : State) (c : Nat) (d : MatDesc) : Nat :=
  if d.ctr < 64 then 16 * clusterOf c + s.get (s.atCluster (clusterOf c) fun i k => ISL_CTR_CFG_ANCHOR i k d.ctr) else c

/-- The rounding of element `col` of token row `r` of the slab (R86, R87, R147). -/
def State.tileRounding (s : State) (c : Nat) (o : OutTile) (r col : Nat) : Rounding :=
  if cvtStochastic o.m.f.cvt then
    let key := match s.corePart c with
      | some p => s.seedOf p
      | none => Config.pfSeed
    .stochastic (drawAt key (drawCounter (s.drawCore c o.m.odesc) (r % 32 * 32 + col)
      (tileNumber o.m.odesc o.m.wval (4 * o.s + r / 32) o.n) o.m.f.tag.toNat 0 (s.core c).epoch.toNat))
  else .nearest

/-- Token row `r` of an output tile written at its place; beyond M the scratchpad takes nothing and a ring slot takes
+0 (R246). -/
def State.writeRow (s : State) (c : Nat) (o : OutTile) (ringGran : Option Nat) (r : Nat) : State :=
  let fmt := cvtDfmt o.m.f.cvt
  let tok := 128 * o.s + r
  let vs := ((o.sums.drop (32 * r)).take 32).map (sumValue o.m.f.wfmt)
  let ps := (o.pois.drop (32 * r)).take 32
  let rm := s.tileRounding c o r
  match ringGran with
  | some g =>
    let d : MatDesc := { o.m.odesc with rowsLayout := false }
    let p := d.place fmt g r 0
    if o.m.m ≤ tok then s.putBlock c o.m.f.cvt p rm (List.replicate 32 (.fin false 0 0)) (List.replicate 32 false)
    else s.putBlock c o.m.f.cvt p rm vs ps
  | none =>
    if o.m.m ≤ tok then s else s.putBlock c o.m.f.cvt (o.m.odesc.place fmt o.m.obase tok o.n) rm vs ps

/-- An output tile is written, and its ring slot becomes full (R145, R150, R211). -/
def State.writeTile (s : State) (c : Nat) (o : OutTile) : State :=
  let x := (s.core c).slots.getD o.m.slot slotReset
  if o.m.odesc.ringBacked then
    match x.ringDesc o.m.obase with
    | none => s
    | some d =>
      let g := d.slotGran (x.ring o.m.obase).tail
      let s1 := (List.range 128).foldl (fun s r => s.writeRow c o (some g) r) s
      let k := s1.core c
      let y := k.slots.getD o.m.slot slotReset
      let r := y.ring o.m.obase
      s1.setCore c (k.setSlot o.m.slot (y.setRing o.m.obase (({ r with reserved := r.reserved - 1 }).commit d)))
  else (List.range 128).foldl (fun s r => s.writeRow c o none r) s

/-- A job that was to end once the ladle had written its last output tile ends (R243). -/
def State.endAfterLadle (s : State) (c : Nat) : State :=
  match s.corePart c with
  | none => s
  | some p =>
    match (lookup s.jobs p).bind (·.ending) with
    | some (code, core, tick) => if core = c ∧ (s.core c).ladleQuiet then s.faultEnd p code c tick else s
    | none => s

/-- OUTPUT_TILE_WRITE: the oldest completed output tile is converted and written (R150). -/
def execOutputTileWrite (c : LCore) (s : State) : Answer :=
  .next (match (s.core c).outs with
    | [] => s
    | o :: rest =>
      if s.ladleLive c then ((s.writeTile c o).setCore c { (s.writeTile c o).core c with outs := rest }).endAfterLadle c
      else s)

/-! ### Dropped tiles (R245, R252) and injections (R171, R172) -/

/-- LADLE_TILE_DROP: the head tile of the ring of the first macro with tiles left on it, outside the run-time shape and
full, is released unused (R245). A macro's later tiles may be dropped after it has left the queue. -/
def State.dropTile (s : State) (c : Nat) : State :=
  let k := s.core c
  let can (m : Macro) : Bool :=
    decide (m.released < m.tiles) && m.dropped m.released
      && (k.tileSlot (k.ladle.takeWhile fun e => decide (e.seq ≠ m.seq)) m m.released).isSome
      && decide (tilesBefore (k.ladle.takeWhile fun e => decide (e.seq ≠ m.seq)) m = 0)
  match k.ladle.find? can with
  | none => s
  | some m =>
    let k1 := k.releaseTile m
    let k2 := { k1 with ladle := k1.ladle.map fun (e : Macro) =>
      if e.seq = m.seq then { e with released := e.released + 1 } else e }
    (s.setCore c k2.trim).inc (s.atCore c ISL_CORE_LDROP_DROP_CNT)
/-- DEDUCED, log 41. -/
def execLadleTileDrop (c : LCore) (s : State) : Answer :=
  .next (if s.ladleLive c then s.dropTile c else s)

/-- INJECTION_ARM: ISL_ARR_INJ.ARM is set (R171, R172). -/
def execInjectionArm (i : Island) (s : State) : Answer :=
  .next (s.setFlag (ISL_ARR_INJ_ARM i) true)

end Sys2Proof.Machine
end

