-- ==== Sys2Proof/Machine/Rings.lean ====
section
/-! DEFINITION. Ring fills, runner forwards, slot releases and credit returns (R125, R209 to R215, R254 to R256, R266,
R332, R335, R627), and remote writes under windows and credits (R216 to R220). -/

namespace Sys2Proof.Machine

/-! ### Ring fills (R125, R211, R213, R215, R627) -/

/-- A ring of slot `i` of core `c` replaced. -/
def State.putRing (s : State) (c i r : Nat) (v : RingSt) : State :=
  let k := s.core c
  s.setCore c (k.setSlot i ((k.slots.getD i slotReset).setRing r v))

/-- A fill of the tail slot from granule `first`: dropped whole with WDROP_CNT where the slot is full or the fill goes
beyond it, else written; the slot becomes full when its last granule commits (R211, R213, R627). -/
def State.ringFill (s : State) (c i r first : Nat) (gs : List Granule) (final : Bool) : State :=
  let x := (s.core c).slots.getD i slotReset
  match x.ringDesc r with
  | none => s
  | some d =>
    let v := x.ring r
    if 3 ≤ d.producer then s
    else if v.full.getD v.tail false || decide (d.gran < first + gs.length) then
      s.inc (s.atCore c ISL_CORE_WIN_WDROP_CNT)
    else
      let s1 := s.writeGrans c (d.slotGran v.tail + first) gs
      let done := if d.producer = 2 then decide (first + gs.length = d.gran) else final
      let s2 := s1.putRing c i r (if done then v.commit d else { v with filled := first + gs.length })
      if done then s2.setCore c { s2.core c with starve := (s2.core c).starve.erase r } else s2

/-- RING_FILL_ARRIVAL: a ring fill reaches the core's port, or is absorbed by a scope in reset (R213, R468). -/
def execRingFillArrival (c : LCore) (slot : Slot) (r : Ring) (first : Fin 256) (grans : List Granule) (final : Bool)
    (s : State) : Answer :=
  .next (if s.absorbs c then s.countAbsorb c else s.ringFill c slot r first grans final)

/-! ### Runner forwards and releases (R214, R254, R255, R266) -/

/-- The delivered length of the tile in a slot, from its header (R266); the whole slot where the header names none. -/
def tileGrans (d : RingDesc) (hdr : Granule) : Nat :=
  let b2 := leNat ((hdr.data.drop 2).take 1)
  let sp := bitsOf b2 4 2
  let n := if sp = 0 ∨ sp = 1 then 16 else popCount (leNat (hdr.data.take 2))
  match blockSize (BitVec.ofNat 4 b2) sp with
  | some b => min d.gran (1 + (if sp = 1 ∨ sp = 3 then 2 else 0) + (n * b + 63) / 64)
  | none => d.gran

/-- RUNNER_FORWARD: the oldest full slot not yet forwarded goes to the next member of the runner under a slot credit
(R214, R255). -/
def State.forwardSlot (s : State) (c i r : Nat) : State :=
  let x := (s.core c).slots.getD i slotReset
  match x.ringDesc r with
  | none => s
  | some d =>
    let v := x.ring r
    match d.forward.bind fun f => x.tables.routes[f]? with
    | none => s
    | some rt =>
      if v.forwarded < v.count ∧ 0 < v.credits then
        let g := d.slotGran (v.head + v.forwarded)
        let n := tileGrans d ((s.ts c).granule g)
        let s1 := s.coreSend c (.route rt.vroute) 2 0 ((s.ts c).granules g n)
        s1.putRing c i r { v with forwarded := v.forwarded + 1, credits := v.credits - 1 }
      else s
def execRunnerForward (c : LCore) (slot : Slot) (r : Ring) (s : State) : Answer :=
  .next (if s.fenced c then s else s.forwardSlot c slot r)

/-- SLOT_RELEASE: the forward of the oldest such slot has been delivered; the slot leaves the ring once the local
consumer has released it too (R214). -/
def State.forwardDone (s : State) (c i r : Nat) : State :=
  let x := (s.core c).slots.getD i slotReset
  match x.ringDesc r with
  | none => s
  | some d =>
    let v := x.ring r
    if v.delivered < v.forwarded then s.putRing c i r (({ v with delivered := v.delivered + 1 }).settle d 8) else s
def execSlotRelease (c : LCore) (slot : Slot) (r : Ring) (s : State) : Answer :=
  .next (s.forwardDone c slot r)

/-! ### Credit returns (R212, R256, R335) -/

/-- The runner heads of a stream's pour group: the leaves of its virtual route (R256, R358). -/
def State.groupHeads (s : State) (x : PourStream) : List Nat :=
  match (lookup s.jobs x.part).bind fun j => j.image.noc.find? fun r => decide (r.number = x.desc.vroute) with
  | some r => r.leaves
  | none => []

/-- Head `c` returns one credit to a stream; the group's credit reaches the engine when every head has returned its
own (R256, R335). A stream that has run REPEAT times ends with its last credit. DEDUCED, log 47. -/
def State.streamCredit (s : State) (h key c : Nat) : State :=
  match lookup (s.harbor h).streams key with
  | none => s
  | some x =>
    let heads := s.groupHeads x
    if heads.contains c then
      let back := insert x.back c (lookupD x.back c 0 + 1)
      let y :=
        if heads.all fun k => decide (0 < lookupD back k 0) then
          let credits := min x.desc.slots (x.credits + 1)
          { x with back := heads.foldl (fun m k => insert m k (lookupD m k 0 - 1)) back, credits := credits,
                   lastAt := s.tide.now, emptyAt := if credits = x.desc.slots then some s.tide.now else x.emptyAt }
        else { x with back := back }
      let streams := (s.harbor h).streams
      s.setHarbor h { s.harbor h with
        streams := if y.stopped && decide (y.credits = x.desc.slots) then erase streams key else insert streams key y }
    else s

/-- SLOT_CREDIT_RETURN: one credit due from ring `r` of core `c` reaches its producer: a stream of a pour engine, the
member upstream in the runner, or the remote sender's route (R212, R256, R627). -/
def State.creditReturn (s : State) (c i r : Nat) (up : Option (LCore × Fin 64)) (st : Option (Fin 16 × Fin 64)) :
    State :=
  let x := (s.core c).slots.getD i slotReset
  match x.ringDesc r with
  | none => s
  | some d =>
    let v := x.ring r
    let s1 := s.putRing c i r { v with due := v.due - 1 }
    if v.due = 0 then s
    else match d.producer, up, st with
      | 0, _, some (e, n) => s1.streamCredit (e / 4) (64 * (e % 4) + n) c
      | 1, some (u, q), _ =>
        let w := ((s1.core u).slots.getD i slotReset).ring q
        s1.putRing u i q { w with credits := w.credits + 1 }
      | 2, some (u, q), _ => s1.returnSendCredit u (64 * i + q) 1
      | _, _, _ => s
def execSlotCreditReturn (c : LCore) (slot : Slot) (r : Ring) (upstream : Option (LCore × Fin 64))
    (stream : Option (Fin 16 × Fin 64)) (s : State) : Answer :=
  .next (s.creditReturn c slot r upstream stream)

/-! ### Remote writes (R216 to R220) -/

/-- Whether core `c` admits remote writes by its windows: WMODE is 1 and TEST is 0 (R216). -/
def State.windowMode (s : State) (c : Nat) : Bool :=
  s.flag (s.atCore c ISL_CORE_TS_WMODE) && !s.flag (s.atCore c ISL_CORE_TS_TEST)

/-- A window of a slot is open: the slot is not EMPTY, and ACTIVE under BIND (R217). -/
def WinDesc.isOpen (w : WinDesc) (x : SlotSt) : Bool :=
  if w.bind then decide (x.state = .active) else decide (x.state ≠ .empty)

/-- Whether a window admits granules [first, first + n) of a sender (R217, R218). DEDUCED, log 49. -/
def WinDesc.admits (w : WinDesc) (sender : BitVec 12) (foreign : Bool) (first n : Nat) : Bool :=
  decide (w.base ≤ first) && decide (first + n ≤ w.limit + 1)
    && decide ((sender ^^^ BitVec.ofNat 12 w.sndBase) &&& ~~~(BitVec.ofNat 12 w.sndMask) = 0)
    && (w.scope || !foreign)

/-- Whether some open window of core `c` admits a write (R218). -/
def State.windowAdmits (s : State) (c : Nat) (sender : BitVec 12) (foreign : Bool) (first n : Nat) : Bool :=
  (s.core c).slots.any fun x => x.tables.wins.any fun w => w.isOpen x && w.admits sender foreign first n

/-- A remote write judged in WINDOW mode: written, or dropped whole with WDROP_CNT (R218). -/
def State.windowWrite (s : State) (c : Nat) (sender : BitVec 12) (foreign : Bool) (first : Nat) (gs : List Granule) :
    State :=
  if s.windowAdmits c sender foreign first gs.length then s.writeGrans c first gs
  else s.inc (s.atCore c ISL_CORE_WIN_WDROP_CNT)

/-- REMOTE_WRITE_WINDOW (R218, R468). -/
def execRemoteWriteWindow (c : LCore) (sender : BitVec 12) (foreign : Bool) (first : BitVec 15) (grans : List Granule)
    (s : State) : Answer :=
  .next (if s.absorbs c then s.countAbsorb c
    else if s.windowMode c then s.windowWrite c sender foreign first.toNat grans else s)

/-- Whether credit entry `e` of core `c` accepts a write of `n` granules (R219). -/
def State.creditAdmits (s : State) (c e : Nat) (sender : BitVec 12) (first n : Nat) : Bool :=
  let at_ {α : Type} (f : Nat → Nat → Nat → Nat → α) : α := s.atCore c fun i k j => f i k j e
  let base := s.get (at_ ISL_CORE_WCRED_BASE)
  s.flag (at_ ISL_CORE_WCRED_VALID) && decide (s.get (at_ ISL_CORE_WKEY_SENDER) = sender.toNat)
    && decide (base ≤ first) && decide (first + n ≤ base + s.get (at_ ISL_CORE_WKEY_GRANT_LEN))
    && decide (n ≤ s.get (at_ ISL_CORE_WCRED_LEN))

/-- A remote write judged in CREDIT mode: written against the first entry that accepts it, whose remaining length
falls, or dropped whole with CDROP_CNT (R219). -/
def State.creditWrite (s : State) (c : Nat) (sender : BitVec 12) (first : Nat) (gs : List Granule) : State :=
  match (List.range 4).find? fun e => s.creditAdmits c e sender first gs.length with
  | none => s.inc (s.atCore c ISL_CORE_WIN_CDROP_CNT)
  | some e =>
    let s1 := s.writeGrans c first gs
    let f := s1.atCore c fun i k j => ISL_CORE_WCRED_LEN i k j e
    let left := s1.get f - gs.length
    let s2 := s1.put f left
    if left = 0 then s2.setFlag (s2.atCore c fun i k j => ISL_CORE_WCRED_VALID i k j e) false else s2

/-- REMOTE_WRITE_CREDIT (R219, R468). -/
def execRemoteWriteCredit (c : LCore) (sender : BitVec 12) (first : BitVec 15) (grans : List Granule) (s : State) :
    Answer :=
  .next (if s.absorbs c then s.countAbsorb c
    else if s.windowMode c then s else s.creditWrite c sender first.toNat grans)

/-- The remaining and granted length a write of LEN takes: held inside the scratchpad (R237). -/
def grantTaken (base len gmax : Nat) : Nat × Nat :=
  let b := min base (gmax - 1)
  (b, min len (gmax - b))

/-- CREDIT_GRANT_WRITE: BASE, LEN and VALID of a credit entry, clamped to the scratchpad, GRANT_LEN with LEN; locked
while WMODE = 1 (R12, R15, R219, R237). -/
def execCreditGrantWrite (c : LCore) (n : Fin 4) (base len : BitVec 15) (valid : Bool) (s : State) : Answer :=
  let r := s.atCore c fun i k j => ISL_CORE_WCRED i k j n
  let at_ {α : Type} (f : Nat → Nat → Nat → Nat → α) : α := s.atCore c fun i k j => f i k j n
  let held := decide (s.get (at_ ISL_CORE_WCRED_BASE) = base.toNat) && decide (s.get (at_ ISL_CORE_WCRED_LEN) = len.toNat)
    && decide (s.flag (at_ ISL_CORE_WCRED_VALID) = valid)
  .next (if s.flag (s.atCore c ISL_CORE_TS_WMODE) then (if held then s else s.clampCore c r)
    else
      let (b, l) := grantTaken base.toNat len.toNat (s.scratchEnd c / 64)
      let s1 := ((s.put (at_ ISL_CORE_WCRED_BASE) b).put (at_ ISL_CORE_WCRED_LEN) l).put (at_ ISL_CORE_WKEY_GRANT_LEN) l
      let s2 := s1.setFlag (at_ ISL_CORE_WCRED_VALID) valid
      if b = base.toNat ∧ l = len.toNat then s2 else s2.clampCore c r)

end Sys2Proof.Machine
end

