-- ==== Sys2Proof/Machine/Cache.lean ====
section
/-! DEFINITION. The cluster's coherent caches (R228 to R235, R237): line requests and writebacks, the directory's
decision, forwards, invalidations and fills. -/

namespace Sys2Proof.Machine

/-- Sets of core `c`'s cache (R229). -/
def State.sets (s : State) (c : Nat) : Nat :=
  512 * s.get (s.atCore c ISL_CORE_TS_CACHE_UNITS)

def CoreSt.lineReq (k : CoreSt) (handle line : Nat) : Option LineReq :=
  k.lineReqs.find? fun r => decide (r.handle = handle) && decide (r.line = line)
def CoreSt.setLineReq (k : CoreSt) (q : LineReq) : CoreSt :=
  { k with lineReqs := k.lineReqs.map fun r => if r.handle = q.handle ∧ r.line = q.line then q else r }
def CoreSt.dropLine (k : CoreSt) (handle line : Nat) : CoreSt :=
  { k with cache := k.cache.filter fun l => !(decide (l.handle = handle) && decide (l.line = line)) }
def CoreSt.dropHeld (k : CoreSt) (handle line : Nat) : CoreSt :=
  { k with wbHeld := k.wbHeld.filter fun l => !(decide (l.handle = handle) && decide (l.line = line)) }

/-! ### Requests (R229 to R232) -/

/-- A request joins the directory's queue; `same` puts it in the NCLK of the cluster's previous request, and two
requests for one line in one cycle count once (R232, R237). -/
def State.askDir (s : State) (c kind handle line : Nat) (g : Granule) (same : Bool) : State :=
  let k := clusterOf c
  let x := s.cluster k
  let at_ := if same then x.cycle else x.cycle + 1
  let here := x.dirReqs.filter fun r => decide (r.at_ = at_)
  let pair := here.any fun r => decide (r.handle = handle) && decide (r.line = line)
  let before := here.any fun r => here.any fun q =>
    decide (r.core ≠ q.core) && decide (r.handle = q.handle) && decide (r.line = q.line)
  let r : DirReq := { kind := kind, core := ixOf c, handle := handle, line := line, gran := g, at_ := at_ }
  let s1 := s.setCluster k { x with dirReqs := x.dirReqs ++ [r], cycle := at_ }
  if pair && !before then s1.inc (s1.atCluster k ISL_DIR_RACE_SAME_CYCLE_CNT) else s1

/-- A GETS or GETM: a transfer of the core wants the line, and the cache holds it in no state that serves it (R231). -/
def State.askLine (s : State) (c handle line : Nat) (write same : Bool) : State :=
  let k := s.core c
  let wanted := k.xfers.any fun x => x.wants handle line && decide (x.kind = 2) == write
  let held := match k.line handle line with
    | some l => l.modified || !write
    | none => false
  if wanted ∧ !held ∧ (k.lineReq handle line).isNone ∧ 0 < s.sets c then
    let q : LineReq := { handle := handle, line := line, write := write, supply := none, fwd := none, invs := [],
                         acks := 0 }
    let s1 := (s.inc (s.atCore c ISL_CORE_CMISS_COUNT)).setCore c { k with lineReqs := k.lineReqs ++ [q] }
    s1.askDir c (if write then 1 else 0) handle line poisonGranule same
  else s
def execGets (c : LCore) (handle : Word) (line : Nat) (same : Bool) (s : State) : Answer :=
  .next (s.askLine c handle.toNat line false same)
def execGetm (c : LCore) (handle : Word) (line : Nat) (same : Bool) (s : State) : Answer :=
  .next (s.askLine c handle.toNat line true same)

/-- Whether the line is the victim of a fill: its set is full, the tree points to it, and a request of the core waits
for a way of that set (R229). -/
def State.isVictim (s : State) (c : Nat) (l : CLine) : Bool :=
  let k := s.core c
  decide (8 ≤ (k.cache.filter fun e => decide (e.set_ = l.set_)).length)
    && decide (l.way = plruVictim (lookupD k.plru l.set_ 0))
    && k.lineReqs.any fun q => decide (q.line % s.sets c = l.set_) && (k.line q.handle q.line).isNone

/-- PUTS and PUTM: the victim leaves the cache and its report, with the data of a modified line, goes to the directory;
a writeback waits at the core while the directory's sixteen buffers are taken (R229, R230, R234). DEDUCED, log 44. -/
def State.evictLine (s : State) (c handle line : Nat) (modified same : Bool) : State :=
  let k := s.core c
  let x := s.cluster (clusterOf c)
  let used := x.wb.length + (x.dirReqs.filter fun r => decide (r.kind = 3)).length
  match k.line handle line with
  | none => s
  | some l =>
    if l.modified = modified ∧ s.isVictim c l ∧ (!modified ∨ used < 16) then
      let k1 := k.dropLine handle line
      let s1 := s.setCore c { k1 with wbHeld := if modified then k1.wbHeld ++ [l] else k1.wbHeld }
      s1.askDir c (if modified then 3 else 2) handle line l.gran same
    else s
def execPuts (c : LCore) (handle : Word) (line : Nat) (same : Bool) (s : State) : Answer :=
  .next (s.evictLine c handle.toNat line false same)
def execPutm (c : LCore) (handle : Word) (line : Nat) (same : Bool) (s : State) : Answer :=
  .next (s.evictLine c handle.toNat line true same)

/-! ### The decision (R230, R232, R234) -/

/-- The requests for a line that arrived first, together. -/
def firstArrived (rs : List DirReq) (handle line : Nat) : List DirReq :=
  let mine := rs.filter fun r => decide (r.handle = handle) && decide (r.line = line)
  match mine with
  | [] => []
  | r :: rest => let t := rest.foldl (fun m e => min m e.at_) r.at_
                 mine.filter fun e => decide (e.at_ = t)

/-- The request decided next: PUTM and PUTS before the others, those in rotating order from RR_PTR (R232). -/
def chooseReq (rs : List DirReq) (rr : Nat) : Option DirReq :=
  match rs.find? fun r => decide (2 ≤ r.kind) with
  | some r => some r
  | none => leastBy (fun r => (r.core + 16 - rr % 16) % 16) rs

/-- The oldest writebacks have left for the harbor: their data are in the object (R230, R628). -/
def State.drainWb (s : State) (k : Nat) : State :=
  let x := s.cluster k
  let s1 := x.wb.foldl (fun s r => s.writeBack
    { handle := r.handle, line := r.line, set_ := 0, way := 0, modified := true, gran := r.gran }) s
  s1.setCluster k { s1.cluster k with wb := [] }

/-- A line as the tier holds it. -/
def State.tierLine (s : State) (handle line : Nat) : Granule :=
  (s.readObj handle (64 * line) 1).headD poisonGranule

/-- The answer to a line request is recorded with its requester. -/
def State.answer (s : State) (k : Nat) (r : DirReq) (f : LineReq → LineReq) : State :=
  let c := 16 * k + r.core
  match (s.core c).lineReq r.handle r.line with
  | none => s
  | some q => s.setCore c ((s.core c).setLineReq (f q))

/-- A GETS or GETM is decided (R231, R232): the data come from the tier or the writeback buffer, from the core itself
for a sharer that asks for ownership, or from the owner by a forward. -/
def State.decideGet (s : State) (k : Nat) (r : DirReq) : State :=
  let d := (s.cluster k).dirLine r.handle r.line
  let set (s : State) (v : DirState) : State := s.setCluster k ((s.cluster k).setDir r.handle r.line (some v))
  let fwd (s : State) (o : Nat) : State :=
    (s.answer k r fun q => { q with fwd := some o }).inc (s.atCluster k ISL_DIR_RACE_FWD_CNT)
  let tier := s.tierLine r.handle r.line
  let s1 := match r.kind, d with
    | 0, none => (set s (.shared [r.core])).answer k r fun q => { q with supply := some tier }
    | 0, some (.shared cs) =>
      (set s (.shared (r.core :: cs.filter fun e => decide (e ≠ r.core)))).answer k r fun q =>
        { q with supply := some tier }
    | 0, some (.modified o) => set (fwd s o) (.shared [r.core, o])
    | _, none => (set s (.modified r.core)).answer k r fun q => { q with supply := some tier }
    | _, some (.shared cs) =>
      let own := ((s.core (16 * k + r.core)).line r.handle r.line).map fun l : CLine => l.gran
      (set s (.modified r.core)).answer k r fun q =>
        { q with supply := some (own.getD tier), invs := cs.filter fun e => decide (e ≠ r.core) }
    | _, some (.modified o) => set (fwd s o) (.modified r.core)
  s1.put (s1.atCluster k ISL_DIR_STATUS_RR_PTR) ((r.core + 1) % 16)

/-- A PUTS or PUTM is decided: a sharer or the owner gives the line up; the data of a core that is no longer the owner
are discarded (R230, R234). -/
def State.decidePut (s : State) (k : Nat) (r : DirReq) : State :=
  let c := 16 * k + r.core
  let d := (s.cluster k).dirLine r.handle r.line
  let set (s : State) (v : Option DirState) : State := s.setCluster k ((s.cluster k).setDir r.handle r.line v)
  let s1 := s.setCore c (if r.kind = 3 then (s.core c).dropHeld r.handle r.line else s.core c)
  match r.kind, d with
  | 2, some (.shared cs) =>
    let left := cs.filter fun e => decide (e ≠ r.core)
    set s1 (if left.isEmpty then none else some (.shared left))
  | 3, some (.modified o) =>
    if o = r.core then
      let s2 := set s1 none
      s2.setCluster k { s2.cluster k with wb := (s2.cluster k).wb ++ [r] }
    else s1
  | _, _ => s1

/-- DIRECTORY_DECISION: one request for the line is decided (R232). -/
def State.dirDecide (s : State) (k handle line : Nat) : State :=
  let x := s.cluster k
  match chooseReq (firstArrived x.dirReqs handle line) (s.get (s.atCluster k ISL_DIR_STATUS_RR_PTR)) with
  | none => s
  | some r =>
    let s0 := s.drainWb k
    let s1 := s0.setCluster k { s0.cluster k with dirReqs := x.dirReqs.erase r }
    let s2 := if 2 ≤ r.kind then s1.decidePut k r else s1.decideGet k r
    s2.put (s2.atCluster k ISL_DIR_STATUS_WB_USED) (s2.cluster k).wb.length
def execDirectoryDecision (k : Cluster) (handle : Word) (line : Nat) (s : State) : Answer :=
  .next (s.dirDecide k handle.toNat line)

/-! ### Messages to cores (R231, R233, R234) -/

/-- The core of `c`'s cluster with index `i`. -/
def peerOf (c i : Nat) : Nat := 16 * clusterOf c + i

/-- INV: the sharer drops the line and acknowledges to the requester (R231). -/
def State.invalidate (s : State) (c handle line req : Nat) : State :=
  let u := peerOf c req
  match (s.core u).lineReq handle line with
  | none => s
  | some q =>
    if q.invs.contains (ixOf c) then
      let s1 := s.setCore c ((s.core c).dropLine handle line)
      s1.setCore u ((s1.core u).setLineReq { q with invs := q.invs.filter (fun e => decide (e ≠ ixOf c)),
                                                    acks := q.acks + 1 })
    else s
def execInv (c : LCore) (handle : Word) (line : Nat) (requester : Fin 16) (s : State) : Answer :=
  .next (s.invalidate c handle.toNat line requester)

/-- A forward reaches the owner: it answers from its line, or from the copy it holds for a writeback; before its
ownership is complete the forward waits (R231, R233, R234). A read leaves the owner in S with its line written back. -/
def State.forward (s : State) (c handle line req : Nat) (write : Bool) : State :=
  let u := peerOf c req
  let k := s.core c
  match (s.core u).lineReq handle line with
  | none => s
  | some q =>
    if q.fwd = some (ixOf c) ∧ q.write = write then
      match (k.line handle line).or (k.wbHeld.find? fun l => decide (l.handle = handle) && decide (l.line = line)) with
      | none => s
      | some l =>
        let s1 := if write then s.setCore c (k.dropLine handle line)
          else
            let clean (e : CLine) : CLine :=
              if e.handle = handle ∧ e.line = line then { e with modified := false } else e
            (s.writeBack l).setCore c { k with cache := k.cache.map clean }
        s1.setCore u ((s1.core u).setLineReq { q with fwd := none, supply := some l.gran })
    else s
def execFwdGets (c : LCore) (handle : Word) (line : Nat) (requester : Fin 16) (s : State) : Answer :=
  .next (s.forward c handle.toNat line requester false)
def execFwdGetm (c : LCore) (handle : Word) (line : Nat) (requester : Fin 16) (s : State) : Answer :=
  .next (s.forward c handle.toNat line requester true)

/-- The lowest-numbered way of a set that holds no line (R229). -/
def CoreSt.freeWay (k : CoreSt) (set_ : Nat) : Option Nat :=
  (List.range 8).find? fun w => k.cache.all fun l => decide (l.set_ ≠ set_) || decide (l.way ≠ w)

/-- DATA, CACHE_FILL: the line arrives, all acknowledgements in; it fills the way it has or a free one, the transfers
that asked for it are served, and its ownership is complete. With no free way the fill waits (R229, R231, R233). -/
def State.fillLine (s : State) (c handle line : Nat) : State :=
  let k := s.core c
  match k.lineReq handle line with
  | none => s
  | some q =>
    match q.supply with
    | none => s
    | some g =>
      let set_ := line % s.sets c
      let way := match k.line handle line with
        | some l => some l.way
        | none => k.freeWay set_
      match way with
      | none => s
      | some w =>
        if q.invs.isEmpty ∧ q.acks = 0 then
          let l : CLine := { handle := handle, line := line, set_ := set_, way := w, modified := q.write, gran := g }
          let k1 := k.dropLine handle line
          let k2 := { k1 with
            cache := k1.cache ++ [l]
            lineReqs := k1.lineReqs.filter fun r => !(decide (r.handle = handle) && decide (r.line = line)) }
          (s.setCore c (k2.touch l)).serveLine c handle line
        else s
def execData (c : LCore) (handle : Word) (line : Nat) (s : State) : Answer :=
  .next (s.fillLine c handle.toNat line)

/-- INV_ACK: one acknowledgement reaches the requester (R231). -/
def State.ackLine (s : State) (c handle line : Nat) : State :=
  match (s.core c).lineReq handle line with
  | none => s
  | some q => s.setCore c ((s.core c).setLineReq { q with acks := q.acks - 1 })
def execInvAck (c : LCore) (handle : Word) (line : Nat) (s : State) : Answer :=
  .next (s.ackLine c handle.toNat line)

end Sys2Proof.Machine
end

