-- ==== Sys2Proof/Machine/Experts.lean ====
section
/-! DEFINITION. The cluster's counter bank (R258 to R261) and its expert router: score gathering, choice and placement
with risers, gate weights, decisions and return entries (R271 to R282, R299). -/

namespace Sys2Proof.Machine

/-! ### The counter bank (R258, R259) -/

/-- The requests one decision takes: the oldest of every core, CSET first, then CADD, then CTAKE, each in rotating
order from RR_PTR (R259). -/
def ctrBatch (rs : List CtrReq) (rr : Nat) : List CtrReq :=
  let first := (List.range 16).filterMap fun i => rs.find? fun r => decide (ixOf r.core = (rr + i) % 16)
  (first.filter fun r => decide (r.op = 1)) ++ (first.filter fun r => decide (r.op = 2))
    ++ first.filter fun r => decide (r.op = 0)

/-- One request applied to its counter; a CTAKE writes s[SD] of the slot it was issued in (R258). -/
def State.applyCtr (s : State) (k : Nat) (r : CtrReq) : State :=
  let at_ {α : Type} (f : Nat → Nat → Nat → α) : α := s.atCluster k fun i c => f i c r.ctr
  let v := s.get (at_ ISL_CTR_VAL_VALUE)
  if r.op = 1 then s.put (at_ ISL_CTR_VAL_VALUE) r.val.toNat
  else if r.op = 2 then s.put (at_ ISL_CTR_VAL_VALUE) ((v + r.val.toNat) % 2 ^ 32)
  else
    let lim := s.get (at_ ISL_CTR_LIM_LIMIT)
    let take (s : State) (w : Word) : State :=
      let x := s.core r.core
      s.setCore r.core (x.setSlot r.slot ((x.slots.getD r.slot slotReset).setS r.sd w false))
    let s1 := s.inc (at_ ISL_CTR_STAT_TAKE_CNT)
    if v < lim then take (s1.put (at_ ISL_CTR_VAL_VALUE) (min (v + r.val.toNat) lim)) (BitVec.ofNat 32 v)
    else take (s1.inc (at_ ISL_CTR_STAT_EXH_CNT)) 0xFFFFFFFF

/-- COUNTER_BANK_DECISION: every request that has reached the bank in one NCLK is applied; with two or more, RR_PTR
moves past the last core served (R259). -/
def State.ctrDecide (s : State) (k : Nat) : State :=
  let rr := s.atCluster k ISL_CTR_RR_RR_PTR
  let b := ctrBatch (s.cluster k).ctrReqs (s.get rr)
  let s1 := b.foldl (fun s r => s.applyCtr k r) s
  let x := s1.cluster k
  let s2 := s1.setCluster k { x with ctrReqs := b.foldl (fun l r => l.erase r) x.ctrReqs }
  match b.getLast? with
  | some r => if 2 ≤ b.length then s2.put rr ((ixOf r.core + 1) % 16) else s2
  | none => s2
def execCounterBankDecision (k : Cluster) (s : State) : Answer := .next (s.ctrDecide k)

/-! ### Scores (R273, R274, R276) -/

/-- Bytes of one score, and of a token's row in granules (R274). -/
def RoundDesc.size (d : RoundDesc) : Nat := if d.bf16 then 2 else 4
def RoundDesc.rowGrans (d : RoundDesc) : Nat := (d.e * d.size + 63) / 64

/-- A member's rank, and the granules it sends in a round. -/
def RoundDesc.rank (d : RoundDesc) (i : Nat) : Nat := (d.members.takeWhile fun m => decide (m ≠ i)).length
def scoreKey (rank g : Nat) : Nat := 65536 * rank + g

/-- Whether every granule of member rank `i`, or of every member, has been received (R274). -/
def RoundDesc.memberIn (d : RoundDesc) (r : ScoreRound) (i : Nat) : Bool :=
  decide ((r.grans.filter fun e => decide (e.1 / 65536 = i)).length = d.tok * d.rowGrans)
def RoundDesc.complete (d : RoundDesc) (r : ScoreRound) : Bool :=
  (List.range d.members.length).all (d.memberIn r)

def ClusterSt.router (x : ClusterSt) (slot : Nat) : RouterSlot :=
  lookupD x.routers slot { descs := [], experts := [], stations := [], rounds := [] }
def ClusterSt.setRouter (x : ClusterSt) (slot : Nat) (r : RouterSlot) : ClusterSt :=
  { x with routers := insert x.routers slot r }

/-- MEMBERS_IN: the members whose scores are complete in the undecided round (R299). -/
def State.showMembers (s : State) (k : Nat) (d : RoundDesc) (r : ScoreRound) : State :=
  let mask := (d.members.filter fun m => d.memberIn r (d.rank m)).foldl (fun n m => setBit n m true) 0
  s.put (s.atCluster k ISL_ERU_STATUS_MEMBERS_IN) mask

/-- Score granules of a member join the round being gathered, the later arrival of a granule standing; with a complete
round and a second complete one they are absorbed (R274, R276). -/
def State.scoreIn (s : State) (c slot dn first : Nat) (gs : List Granule) : State :=
  let k := clusterOf c
  let x := s.cluster k
  let rt := x.router slot
  match lookup rt.descs dn with
  | none => s
  | some d =>
    if !d.members.contains (ixOf c) then s
    else
      let rounds := lookupD rt.rounds dn []
      let put (r : ScoreRound) : ScoreRound :=
        { grans := (gs.zipIdx.foldl (fun m e =>
            if first + e.2 < d.tok * d.rowGrans then insert m (scoreKey (d.rank (ixOf c)) (first + e.2)) e.1 else m)
            r.grans) }
      let next : Option (List ScoreRound) := match rounds with
        | [] => some [put { grans := [] }]
        | a :: rest =>
          if !d.complete a then some (put a :: rest)
          else match rest with
            | [] => some [a, put { grans := [] }]
            | b :: _ => if d.complete b then none else some [a, put b]
      match next with
      | none => s.inc (s.atCluster k ISL_ERU_EVT_ABSORB_CNT)
      | some l =>
        (s.setCluster k (x.setRouter slot { rt with rounds := insert rt.rounds dn l })).showMembers k d
          (l.headD { grans := [] })

/-- SCORE_WRITE (R274, R276, R468). -/
def execScoreWrite (c : LCore) (slot : Slot) (d : Fin 8) (first : Nat) (grans : List Granule) (s : State) : Answer :=
  .next (if s.absorbs c then s.countAbsorb c else s.scoreIn c slot d first grans)

/-! ### Choice and placement (R277, R278) -/

/-- The row of token `g`: its granules, its scores as FP32, and whether a byte of it carries poison (R273, R277). -/
def RoundDesc.row (d : RoundDesc) (r : ScoreRound) (g : Nat) : List Granule :=
  (List.range d.rowGrans).map fun i =>
    lookupD r.grans (scoreKey (g / d.tok) (g % d.tok * d.rowGrans + i)) poisonGranule
def RoundDesc.scores (d : RoundDesc) (row : List Granule) : List Word :=
  let bytes := row.flatMap (·.data)
  (List.range d.e).map fun e =>
    let v := leNat ((bytes.drop (d.size * e)).take d.size)
    BitVec.ofNat 32 (if d.bf16 then v * 65536 else v)
def RoundDesc.rowPois (d : RoundDesc) (row : List Granule) : Bool :=
  ((row.flatMap (·.wpois)).take ((d.e * d.size + 3) / 4)).any id

/-- Whether key `a` ranks above key `b`: NaN below everything, zeros equal (R277). -/
def keyAbove (a b : Word) : Bool :=
  let x := ofF32 a
  let y := ofF32 b
  (!isNaN x && isNaN y) || ltV false y x

/-- A candidate placed in a list held in ranking order, behind its equals, at most `n` kept (R277). -/
def placeCand (n : Nat) (l : List (Word × Nat)) (x : Word × Nat) : List (Word × Nat) :=
  (l.takeWhile (fun y => !keyAbove x.1 y.1) ++ x :: l.dropWhile (fun y => !keyAbove x.1 y.1)).take n

/-- The keys of a row of scores. -/
def keysOf (scores : List Word) (bias : Nat → Word) : List Word :=
  scores.mapIdx fun e v => fadd v (bias e)

/-- The candidate list of a token (R277). -/
def candidates (n : Nat) (keys : List Word) : List Nat :=
  (keys.zipIdx.foldl (placeCand n) []).map (·.2)

/-- A placed slot: token, slot, expert, candidate index, place within the share, and whether the riser drain placed
it. -/
structure Placed where
  g : Nat
  r : Nat
  e : Nat
  ix : Nat
  at_ : Nat
  riser : Bool
  deriving DecidableEq, Repr

/-- The placement of a round under way. -/
structure Placing where
  used   : SMap Nat
  placed : List Placed
  risers : List (Nat × Nat × Nat)
  cur    : SMap Nat
  dropped : Nat
  full   : Nat
  deriving DecidableEq, Repr

def Placing.assign (p : Placing) (g r e ix : Nat) (riser : Bool) : Placing :=
  let u := lookupD p.used e 0
  { p with used := insert p.used e (u + 1),
           placed := p.placed ++ [{ g := g, r := r, e := e, ix := ix, at_ := u, riser := riser }] }

/-- One slot of a rank pass: placed, put on its expert's riser, or dropped with the risers full (R278). -/
def Placing.rankStep (quota : Nat → Nat) (p : Placing) (g r : Nat) (cand : List Nat) : Placing :=
  match cand[r]? with
  | none => { p with dropped := p.dropped + 1 }
  | some e =>
    if lookupD p.used e 0 < quota e then p.assign g r e r false
    else if p.risers.length < 4096 then { p with risers := p.risers ++ [(e, g, r)] }
    else { p with dropped := p.dropped + 1, full := p.full + 1 }

/-- One riser entry tries the token's next candidates from its cursor (R278). -/
def Placing.drain (quota : Nat → Nat) (p : Placing) (g r : Nat) (cand : List Nat) (fuel : Nat) : Placing :=
  match fuel with
  | 0 => { p with dropped := p.dropped + 1 }
  | fuel + 1 =>
    let i := lookupD p.cur g 0
    match cand[i]? with
    | none => { p with dropped := p.dropped + 1 }
    | some f =>
      let p1 := { p with cur := insert p.cur g (i + 1) }
      let held := p1.placed.any fun x => decide (x.g = g) && decide (x.e = f)
      if !held ∧ lookupD p1.used f 0 < quota f then p1.assign g r f i true else p1.drain quota g r cand fuel

/-- The whole placement: rank passes, then the riser drain in ascending expert order (R278). -/
def placeRound (k : Nat) (quota : Nat → Nat) (cands : List (List Nat)) : Placing :=
  let p0 : Placing :=
    { used := [], placed := [], risers := [], cur := cands.zipIdx.map (fun e => (e.2, k)), dropped := 0, full := 0 }
  let pass (p : Placing) (r : Nat) : Placing := cands.zipIdx.foldl (fun p e => p.rankStep quota e.2 r e.1) p
  let p1 := (List.range k).foldl pass p0
  let order := (List.range 4096).flatMap fun e => p1.risers.filter fun x => decide (x.1 = e)
  order.foldl (fun p x => p.drain quota x.2.1 x.2.2 (cands.getD x.2.1 []) 17) p1

/-! ### Gate weights, decisions, return entries (R279 to R282) -/

def expF (x : Word) : Word := (sfuFn 2 x).getD f32NaN
def sigmoidF (x : Word) : Word := (sfuFn 6 x).getD f32NaN
def sumF (xs : List Word) : Word := xs.foldl fadd 0
def maxF (xs : List Word) : Word :=
  match xs with
  | [] => 0
  | x :: rest => rest.foldl fmax x

/-- The weights of a token's placed slots, in ascending slot order (R279). -/
def gateWeights (d : RoundDesc) (scores : List Word) (slots : List Placed) : List Word :=
  let mine := slots.map fun p => scores.getD p.e 0
  let soft (xs among : List Word) : List Word :=
    let m := maxF among
    let z := sumF (among.map fun v => expF (fsub v m))
    xs.map fun v => fdiv (expF (fsub v m)) z
  let w := if d.gate = 0 then soft mine mine else if d.gate = 1 then soft mine scores
    else if d.gate = 2 then mine.map sigmoidF else mine
  if d.renorm then
    let z := sumF w
    if z = 0 then w.map (fun _ => 0) else w.map fun v => fdiv v z
  else w

/-- A decision entry of a placed slot, and of a dropped one (R280). -/
def decisionWord (p : Placed) (pos : Nat) (ferry : Bool) (w : Word) : List Byte :=
  leBytes 4 (p.e % 4096 + p.ix % 16 * 2 ^ 12 + pos % 4096 * 2 ^ 16 + b2n p.riser * 2 ^ 28 + b2n ferry * 2 ^ 29)
    ++ leBytes 4 w.toNat
def droppedWord (j : Nat) : List Byte :=
  leBytes 4 (j * 2 ^ 12 + 2 ^ 31) ++ leBytes 4 0

/-- The sender key of the router of cluster `k` of the package (R282). -/
def routerKey (k : Nat) : BitVec 12 := BitVec.ofNat 12 (0x0840 + 8 * (k / 8) + k % 8)

/-- A write of the fabric to core `c` within one granule, judged as every remote write is (R216 to R219). -/
def State.fabricWrite (s : State) (c : Nat) (key : BitVec 12) (a : Nat) (bs : List Byte) (p : Bool) : State :=
  let ok := if s.windowMode c then s.windowAdmits c key false (a / 64) 1 else false
  if s.absorbs c then s.countAbsorb c
  else if ok then
    let t := (s.ts c).setBytes a bs
    s.setTs c (t.setWords (a / 4) (List.replicate ((bs.length + 3) / 4) p))
  else if s.windowMode c then s.inc (s.atCore c ISL_CORE_WIN_WDROP_CNT)
  else s.inc (s.atCore c ISL_CORE_WIN_CDROP_CNT)

/-- What a router decides for one round: the tokens' scores, row poison, and the placement. -/
structure Decided where
  scores : List (List Word)
  pois   : List Bool
  keyNaN : Bool
  place  : Placing
  deriving DecidableEq, Repr

def decideRound (d : RoundDesc) (experts : SMap ExpertEntry) (r : ScoreRound) : Decided :=
  let rows := (List.range (d.members.length * d.tok)).map (d.row r)
  let scores := rows.map d.scores
  let bias (e : Nat) : Word := match lookup experts e with
    | some x => x.bias
    | none => 0
  let quota (e : Nat) : Nat := match lookup experts e with
    | some x => x.quota
    | none => 0
  let keys := scores.map fun v => keysOf v bias
  { scores := scores, pois := rows.map d.rowPois, keyNaN := keys.any fun v => v.any fun x => isNaN (ofF32 x),
    place := placeRound d.k quota (keys.map (candidates d.cand)) }

/-- The slots of token `g` in ascending slot order. -/
def Placing.slotsOf (p : Placing) (k g : Nat) : List Placed :=
  (List.range k).filterMap fun j => p.placed.find? fun x => decide (x.g = g) && decide (x.r = j)

/-- The decision granule of token `g` (R280). -/
def decisionBytes (d : RoundDesc) (rt : RouterSlot) (x : Decided) (g : Nat) : List Byte :=
  let slots := x.place.slotsOf d.k g
  let ws := gateWeights d (x.scores.getD g []) slots
  let entry (j : Nat) : List Byte := match slots.zipIdx.find? fun e => decide (e.1.r = j) with
    | none => droppedWord j
    | some (p, i) =>
      let ex := lookup rt.experts p.e
      let pos := match ex with
        | some v => v.shareBase + p.at_
        | none => p.at_
      let ferry := match ex.bind fun v => lookup rt.stations v.station with
        | some st => st.ferry
        | none => false
      decisionWord p pos ferry (ws.getD i 0)
  let bs := (List.range d.k).flatMap entry
  bs ++ List.replicate (64 - bs.length) 0

/-- The return entries of expert `e`: every position of the router's share, in every member of the station (R281). -/
def State.writeReturns (s : State) (k : Nat) (d : RoundDesc) (rt : RouterSlot) (x : Decided) (e : Nat) : State :=
  match lookup rt.experts e with
  | none => s
  | some v =>
    match lookup rt.stations v.station with
    | none => s
    | some st =>
      (List.range v.quota).foldl (fun s i =>
        let w : Nat := match x.place.placed.find? fun p => decide (p.e = e) && decide (p.at_ = i) with
          | some p => 16 * k + d.members.getD (p.g / d.tok) 0 + p.g % d.tok * 2 ^ 11 + p.r * 2 ^ 18 + 2 ^ 31
          | none => 0
        st.members.foldl (fun s m => s.fabricWrite (16 * st.cluster + m) (routerKey k)
          (64 * st.retBase + 4 * (v.shareBase + i)) (leBytes 4 w) false) s) s

/-- The ferry reports of a written round: each FERRY station the map names, with its placed experts ascending (R287). -/
def State.ferryReports (s : State) (k : Nat) (d : RoundDesc) (rt : RouterSlot) (x : Decided) : State :=
  (rt.stations.filter fun e => e.2.ferry).foldl (fun s e =>
    let mine := (List.range d.e).filter fun i => match lookup rt.experts i with
      | some v => decide (v.station = e.1)
      | none => false
    if mine.isEmpty then s
    else
      let named := mine.filter fun i => x.place.placed.any fun p => decide (p.e = i)
      s.emit (.noc (routerKey k).toNat (2 ^ 20 + 256 * e.2.harbor + e.1) 3 s.tide.now (d.model :: named))) s

/-- The counters of a written round (R299). -/
def State.countRound (s : State) (k dn : Nat) (x : Decided) (weightNaN : Bool) : State :=
  let at_ {α : Type} (f : Nat → Nat → α) : α := s.atCluster k f
  let r := (x.place.placed.filter (·.riser)).length
  let s1 := ((s.bump (at_ ISL_ERU_PLACED_PLACED) (x.place.placed.length - r)).bump (at_ ISL_ERU_RISER_RISER_PLACED) r).bump
    (at_ ISL_ERU_RISER_DROPPED) x.place.dropped
  let s2 := (s1.bump (at_ ISL_ERU_EVT_RISER_FULL_CNT) x.place.full).inc (at_ ISL_ERU_ROUNDS_ROUNDS)
  let s3 := if x.keyNaN || weightNaN then s2.setFlag (at_ ISL_ERU_EVT_NAN_SEEN) true else s2
  let s4 := if x.pois.any id then s3.setFlag (at_ ISL_ERU_EVT_POISON_SEEN) true else s3
  s4.put (at_ ISL_ERU_STATUS_ROUND) dn

/-- ROUND_DECISION: a complete round of a running partition is placed, its decisions and return entries are written,
its ferry reports sent, and the following round takes its place (R278 to R282, R287, R516). -/
def State.roundDecide (s : State) (k slot dn : Nat) : State :=
  let cl := s.cluster k
  let rt := cl.router slot
  match lookup rt.descs dn, lookupD rt.rounds dn [] with
  | some d, r :: rest =>
    if d.complete r ∧ s.partRuns (16 * k) then
      let x := decideRound d rt.experts r
      let tokens := List.range (d.members.length * d.tok)
      let bytes := tokens.map fun g => decisionBytes d rt x g
      let s0 := s.setCluster k (cl.setRouter slot { rt with rounds := insert rt.rounds dn rest })
      let s1 := tokens.foldl (fun s g =>
        let c := 16 * k + d.members.getD (g / d.tok) 0
        let a := 64 * (d.decBase + g % d.tok)
        let bs := bytes.getD g []
        let s1 := s.fabricWrite c (routerKey k) a (bs.take (8 * d.k)) (x.pois.getD g false)
        if d.k < 8 then s1.fabricWrite c (routerKey k) (a + 8 * d.k) (bs.drop (8 * d.k)) false else s1) s0
      let s2 := (List.range d.e).foldl (fun s e => s.writeReturns k d rt x e) s1
      let weightNaN := tokens.any fun g =>
        (gateWeights d (x.scores.getD g []) (x.place.slotsOf d.k g)).any fun w => isNaN (ofF32 w)
      ((s2.ferryReports k d rt x).countRound k dn x weightNaN).showMembers k d (rest.headD { grans := [] })
    else s
  | _, _ => s
def execRoundDecision (k : Cluster) (slot : Slot) (d : Fin 8) (s : State) : Answer :=
  .next (s.roundDecide k slot d)

end Sys2Proof.Machine
end

