-- ==== Sys2Proof/Machine/ServeOps.lean ====
section
/-! DEFINITION. Token rings, budgets and the end of a request (R388 to R390, R400, R401, R408, R410, R464): what an
append writes and charges, and what a request gives back when it ends. -/

namespace Sys2Proof.Machine

/-! ### Budgets (R408, R411) -/

/-- LEVEL of tenant `t`, in units of 2^-16 tokens, signed 40 bits. -/
def State.level (s : State) (t : Nat) : Int :=
  signed 40 (s.get (SRV_BUD_LEVEL_LO_V t) + s.get (SRV_BUD_LEVEL_HI_V t) % 256 * 2 ^ 32)

/-- A LEVEL held within ±2^23 tokens (R411). -/
def clampLevel (v : Int) : Int :=
  if v < -(2 ^ 39 : Nat) then -(2 ^ 39 : Nat) else if (2 ^ 39 - 1 : Nat) < v then (2 ^ 39 - 1 : Nat) else v

/-- LEVEL of tenant `t` becomes `v`; a fall to 0 or below sets BUDGET (R408, R462). -/
def State.setLevel (s : State) (t : Nat) (v : Int) : State :=
  let old := s.level t
  let new := clampLevel v
  let u := unsigned 56 new
  let s1 := (s.put (SRV_BUD_LEVEL_LO_V t) (u % 2 ^ 32)).put (SRV_BUD_LEVEL_HI_V t) (u / 2 ^ 32)
  if 0 < old ∧ new ≤ 0 then s1.raiseVF t cBudget else s1

/-- One token is charged to tenant `t`, whatever LEVEL holds (R408). -/
def State.charge (s : State) (t : Nat) : State :=
  s.setLevel t (s.level t - 65536)

/-! ### The token ring (R388, R389, R464) -/

/-- TOKEN of tenant `t`: at once for an END entry or outside the moderation, else when the moderation ends (R464). -/
def State.tokenCause (s : State) (t : Nat) (fin : Bool) : State :=
  match lookup s.tokens t with
  | none => s.raiseVF t cToken
  | some h =>
    if fin || decide (h.until_.toNat ≤ s.tide.now.toNat) then
      { s with tokens := erase s.tokens t }.raiseVF t cToken
    else { s with tokens := insert s.tokens t { h with waiting := true } }

/-- An entry as the 32 bytes of R388. -/
def TokEntry.bytes (e : TokEntry) (phase : Bool) (tick : DWord) : List Byte :=
  leBytes 8 (e.token % 2 ^ 32 + e.seq % 2 ^ 24 * 2 ^ 32 + b2n e.fin * 2 ^ 56 + b2n e.noTok * 2 ^ 57 + b2n e.ack * 2 ^ 58
      + b2n e.replay * 2 ^ 59 + b2n e.pfx * 2 ^ 60 + b2n phase * 2 ^ 63)
    ++ leBytes 8 tick.toNat ++ leBytes 8 (e.status % 256 + e.tag % 2 ^ 32 * 2 ^ 32) ++ leBytes 8 0

def ReqStream.tkSize (x : ReqStream) : Nat := 2 ^ x.tkLog
/-- Whether the token ring has a free entry. -/
def ReqStream.room (x : ReqStream) : Bool := decide (x.wpos - x.rhead < x.tkSize)

/-- An entry is written at the hub's write position; the first pass writes PHASE 1 (R388, R389). -/
def State.writeEntry (s : State) (st : Nat) (x : ReqStream) (e : TokEntry) : State :=
  let phase := decide (x.wpos / x.tkSize % 2 = 0)
  let s1 := { s with streams := insert s.streams st { x with wpos := x.wpos + 1 } }
  let s2 := s1.emit (.hostWrite (x.tenant + 1) (x.tkBase + 32 * (x.wpos % x.tkSize)) (e.bytes phase s.tide.now) false)
  s2.tokenCause x.tenant e.fin

/-- A status entry of stream `st`: written in append order, behind the entries that wait for a free place (R389). -/
def State.appendEntry (s : State) (st : Nat) (e : TokEntry) : State :=
  match lookup s.streams st with
  | none => s
  | some x =>
    if x.held.isEmpty && x.room then s.writeEntry st x e
    else { s with streams := insert s.streams st { x with held := x.held ++ [e] } }

/-- The entries that waited are written while the ring has places. -/
def State.drainHeld (s : State) (st : Nat) (es : List TokEntry) : State :=
  match es with
  | [] => s
  | e :: rest =>
    match lookup s.streams st with
    | none => s
    | some x =>
      if x.room then (s.writeEntry st { x with held := rest } e).drainHeld st rest else s

/-! ### KV blocks and the end of a request (R390, R401, R409) -/

def bindReset : BindSt :=
  { step := 0, running := false, sent := false, msgs := [], done := [], fed := [], refs := [], hist := [] }
def State.bind (s : State) (b : Nat) : BindSt := lookupD s.binds b bindReset
def State.setBind (s : State) (b : Nat) (x : BindSt) : State := { s with binds := insert s.binds b x }

/-- One reference to block `k` more, or less; a count of 0 frees the block (R401). -/
def BindSt.ref (x : BindSt) (k : Nat) : BindSt := { x with refs := store 0 x.refs k (lookupD x.refs k 0 + 1) }
def BindSt.unref (x : BindSt) (k : Nat) : BindSt := { x with refs := store 0 x.refs k (lookupD x.refs k 0 - 1) }

/-- SEQ of a NOTOKEN entry: the last token's, or all ones. -/
def ServReq.lastSeq (r : ServReq) : Nat := if r.count = 0 then 0xFFFFFF else r.count - 1

/-- The request of stream `st` is gone: its slot is free and its row's references are dropped. -/
def State.dropRequest (s : State) (st : Nat) : State :=
  match lookup s.reqs st with
  | none => s
  | some r =>
    let s1 : State := { s with reqs := erase s.reqs st,
                               streams := match lookup s.streams st with
                                 | some x => insert s.streams st { x with ended := some (r.tag, r.lastSeq) }
                                 | none => s.streams }
    match r.slot with
    | none => s1
    | some (b, _) => s1.setBind b (r.blocks.foldl BindSt.unref (s1.bind b))

/-- A status entry of request `r` (R388). -/
def ServReq.statusEntry (r : ServReq) (status : Nat) (fin ack : Bool) : TokEntry :=
  { token := 0, seq := r.lastSeq, fin := fin, noTok := true, ack := ack, replay := r.replay, pfx := false,
    status := status, tag := r.tag }

/-- The request of stream `st` ends with one entry: END, NOTOKEN and a status. -/
def State.endRequest (s : State) (st status : Nat) (ack : Bool) : State :=
  match lookup s.reqs st with
  | none => s
  | some r => (s.dropRequest st).appendEntry st (r.statusEntry status true ack)

/-- The streams whose request holds a slot of a binding of partition `p`. -/
def State.partStreams (s : State) (p : Nat) : List Nat :=
  (s.reqs.filter fun e => match e.2.slot with
    | some (b, _) => decide (s.get (SRV_BIND0_PART b) = p)
    | none => false).map (·.1)

/-- Every request in the slots of partition `p` ends with a status (R410, R524). -/
def State.endPartRequests (s : State) (p status : Nat) : State :=
  (s.partStreams p).foldl (fun s st => s.endRequest st status false) s

/-! ### Streams (R382, R385) -/

/-- The request ring head of a stream as its tenant's page reports it (R582). -/
def State.setReqHead (s : State) (st : Nat) (t head : Nat) : State :=
  s.put (if st % 2 = 0 then DB_REQHEAD_HEAD_EVEN t (st / 2) else DB_REQHEAD_HEAD_ODD t (st / 2)) head

/-- A stream is closed: its request is dropped and nothing more is written to its rings. DEDUCED, log 94. -/
def State.closeStream (s : State) (st : Nat) : State :=
  match lookup s.streams st with
  | none => s
  | some x =>
    let s1 := (s.dropRequest st).setReqHead st x.tenant 0
    { s1 with streams := erase s1.streams st }

/-! ### The prefix index (R402 to R404, R410) -/

/-- The block numbers binding `b` allocates (R401). -/
def State.bindHas (s : State) (b k : Nat) : Bool :=
  let base := s.get (SRV_BIND7_KV_BASE b)
  decide (base ≤ k) && decide (k < base + s.get (SRV_BIND8_KV_CNT b))

/-- The prefix entries of binding `b`'s blocks are invalidated (R410). -/
def State.dropPrefixes (s : State) (b : Nat) : State :=
  { s with pfx := s.pfx.filter fun e =>
      !(decide (e.2.model = s.get (SRV_BIND0_MODEL b)) && s.bindHas b e.2.block) }

/-- A partition reset of the partition of bindings: requests ended, EN cleared, blocks freed, prefixes invalidated
(R410). -/
def State.resetBindings (s : State) (p : Nat) : State :=
  ((List.range 32).filter fun b => decide (s.get (SRV_BIND0_PART b) = p) && s.flag (SRV_BIND0_EN b)).foldl
    (fun s b => ((s.dropPrefixes b).setFlag (SRV_BIND0_EN b) false).setBind b bindReset)
    (s.endPartRequests p stEjectedReset)

end Sys2Proof.Machine
end

