-- ==== Sys2Proof/Machine/Package.lean ====
section
/-! DEFINITION. What takes down more than a core: the crash log, ejection and withdrawal, rails, failed starts and
minimal mode, and what package warm and cold reset leave (chapters 14 to 17). -/

namespace Sys2Proof.Machine

/-! ### Phases of a start (R489) -/

def phOff : Nat := 0
def phExk : Nat := 1
def phHub : Nat := 2
def phFabric : Nat := 3
def phWaitCool : Nat := 4
def phHarbor : Nat := 5
def phWaves : Nat := 6
def phIslTest : Nat := 7
def phNear : Nat := 8
def phMid : Nat := 9
def phFtl : Nat := 10
def phLink : Nat := 11
def phReady : Nat := 12
def phRetry : Nat := 13
def phMinimal : Nat := 14

def State.phase (s : State) : Nat := s.get MGT_BOOT_STATUS_PHASE
def State.toPhase (s : State) (p : Nat) : State := s.put MGT_BOOT_STATUS_PHASE p
/-- Whether a start is under way. -/
def State.starting (s : State) : Bool := decide (phExk ≤ s.phase) && decide (s.phase ≤ phLink)
def State.ready (s : State) : Bool := decide (s.phase = phReady)
def State.minimal (s : State) : Bool := decide (s.phase = phMinimal)

/-! ### The crash log (R554 to R556) -/

/-- CRASH_SNAPSHOT: the first crash keeps its contents; a later one changes the count, the latest cause and tide. -/
def State.crashSnapshot (s : State) (cause : Nat) : State :=
  let c := s.exk.crash
  let n := satAdd 16 c.count 1
  let all := s.exk.farLog ++ s.exk.staged
  let c1 : CrashLog :=
    if c.valid then { c with count := n, latest := cause, latestTide := s.tide.now }
    else { valid := true, first := cause, count := n, firstTide := s.tide.now, coldStarts := s.exk.coldStarts,
           phase := s.phase, slot := s.get MGT_STATUS_SLOT, latest := cause, latestTide := s.tide.now, regs := s.regs,
           events := all.drop (all.length - 1024) }
  { s with exk := { s.exk with crash := c1 } }

/-! ### Islands, logical and physical -/

/-- The logical number of physical island `i` (R3, R24). -/
def State.logIsland (s : State) (i : Nat) : Nat :=
  ((List.range 16).find? fun l => decide (s.phys l = i)).getD i
/-- The logical cores of physical island `i`. -/
def State.islCores (s : State) (i : Nat) : List Nat :=
  (List.range 128).map fun j => 128 * s.logIsland i + j
/-- Whether partition `p` holds a cluster of physical island `i`. -/
def State.partOnIsland (s : State) (p i : Nat) : Bool :=
  (s.partClusters p).any fun k => decide (s.phys (k / 8) = i)

/-- MGT_BOOT_FAB.PRESENT and WHY of island `i` (R513). -/
def State.present (s : State) (i : Nat) : Bool := bit (s.get MGT_BOOT_FAB_PRESENT) i
def State.setPresent (s : State) (i : Nat) (on : Bool) (why : Nat) : State :=
  let s1 := s.put MGT_BOOT_FAB_PRESENT (setBit (s.get MGT_BOOT_FAB_PRESENT) i on)
  let w := MGT_BOOT_WHY (i / 8)
  s1.setReg w (fieldPut (s1.reg w) (4 * (i % 8)) 4 why)

/-- The core rail of physical island `i` is off: all state of its cores is lost (R20, R527). -/
def State.coreRailOff (s : State) (i : Nat) : State :=
  let s1 := s.setIsl i { s.isl i with railUp := false, alarms := 0, stretchRun := 0, coolFor := 0, clearFor := 0,
                                      over115 := 0, currents := [] }
  (s.islCores i).foldl (fun s c => s.wipeCore c) (s1.setFlag (ISL_GOV_STATUS_STRETCHING i) false)

/-! ### Ejection (R524, R531) -/

/-- M lines of partition `p`'s cores are written back, those of unpowered islands apart (R236). -/
def State.cleanPart (s : State) (p : Nat) : State :=
  (s.partCores p).foldl (fun s c => if (s.isl (s.phys (islOf c))).railUp then s.cleanCache c else s) s

/-- The enabled bindings with FAILOVER = 1 whose job runs on partition `p` (R531). -/
def State.failoverBinds (s : State) (p : Nat) : List Nat :=
  (List.range 32).filter fun b => s.flag (SRV_BIND0_EN b) && s.flag (SRV_BIND0_FAILOVER b)
    && decide (s.get (SRV_BIND0_PART b) = p)

/-- PACKAGE_WITHDRAW: every Ravor port is disabled (R531). DEDUCED, log 102. -/
def State.withdraw (s : State) : State :=
  let s1 := s.logEvent 0x0005 2 24 none none 0 (pay 2 (s.get RVR_EP_ID_ID))
  (List.range 16).foldl (fun s p => (s.setFlag (RVR_PORT_CTRL_EN p) false).portTo p ptDown 0) s1

/-- The recovery registers follow the recoveries running (R538). -/
def State.refreshRecov (s : State) : State :=
  s.put HUB_RCV_STATUS_ACTIVE (min 8 s.recov.length)

/-- EJECT: the job of partition `p` ends with a status, the partition is cleared and IDLE, the requests in its slots
end, a fault record and an event are written; a failover binding withdraws the package instead (R524, R531). -/
def State.eject (s : State) (p status lcore : Nat) : State :=
  if (lookup s.jobs p).isNone then s else
  let was := lookup s.recov p
  let s1 := (s.partFault p status lcore s.tide.now).cleanPart p
  let s2 := ((s1.closeJob p status psIdle).wipePart p).logEvent 0x0004 2 24 (some p) none status (pay 1 status)
  let s3 := match was with
    | none => s2
    | some r => ((((s2.put HUB_RCV_STATUS_LAST_CODE status).put HUB_RCV_STATUS_LAST_PART p).put HUB_RCV_LAST_TICKS
        (min (2 ^ 32 - 1) (s.tide.now.toNat - r.detected.toNat))).inc HUB_RCV_CNT_EJECTED).logEvent 0x000C 1 24 (some p)
        (some r.lcore) status (pay 4 (s.tide.now.toNat - r.detected.toNat) ++ pay 1 status)
  let s4 := s3.refreshRecov
  if s4.flag HUB_RCV_CTRL_WITHDRAW && !(s4.failoverBinds p).isEmpty then s4.withdraw
  else s4.endPartRequests p status

/-- Every job for which `on` holds is ejected. -/
def State.ejectWhere (s : State) (status lcore : Nat) (on : Nat → Bool) : State :=
  (List.range 128).foldl (fun s p => if on p then s.eject p status lcore else s) s

/-! ### Package reset (R16, R140, R344, R410, R449, R474, R568) -/

def allOnes : Word := 0xFFFFFFFF

/-- The bits of the register at key `a` that package warm reset keeps (R12, R53, R449, R474, R539, R568, R587). -/
def warmMask (a : Nat) : Word :=
  if a < 0x20 ∨ (0x100 ≤ a ∧ a < 0x140) then allOnes
  else if 0x100000 ≤ a ∧ a < 0x200000 then (if a = 0x100A00 ∨ a = 0x100A04 then 0 else allOnes)
  else if 0x1000000 ≤ a ∧ a < 0x2000000 then
    (if a % 0x100000 = 0x80308 then 0xFFFFF0FF
     else if 0x80300 ≤ a % 0x100000 ∧ a % 0x100000 < 0x80400 then allOnes else 0)
  else if a = 0x3000004 then 0x0002FFFF
  else if 0x4000000 ≤ a ∧ a < 0x4040000 then
    (if a % 0x40 = 4 ∨ a % 0x40 = 8 ∨ a % 0x40 = 0x10 then allOnes else keptMask a)
  else if 0x4100000 ≤ a ∧ a < 0x4102000 then
    (if a % 0x40 < 0x14 then allOnes else keptMask a)
  else keptMask a

/-- The register file after a package warm reset. -/
def warmRegs (m : SMap Word) : SMap Word :=
  m.filterMap fun e =>
    let k := warmMask e.1
    let v := (e.2 &&& k) ||| (resetAt e.1 &&& ~~~k)
    if v = resetAt e.1 then none else some (e.1, v)

/-- An object that survives a package reset: a WEIGHT object with a far home, its faster copies dropped (R344). -/
def TierObj.afterReset (o : TierObj) : TierObj :=
  { o with near := [], mid := [], stack := none, pins := [], heat := [], barred := [] }

/-- A harbor after a package reset: what the flash holds (R344). -/
def HarborSt.afterReset (x : HarborSt) : HarborSt :=
  { harborReset with
    objs := (x.objs.filter fun e => decide (e.2.cls = 0) && bit e.2.mask 2).map (fun e => (e.1, e.2.afterReset)),
    far := x.far, fpois := x.fpois, blocks := x.blocks, segs := x.segs, journal := x.journal,
    checkpointed := x.checkpointed }

/-- Everything outside the Exkalet domain and the register file as a package reset leaves it. DEDUCED, log 63. -/
def State.clearPackage (s : State) : State :=
  { s with
    cores := [], clusters := [], jobs := [], recov := [], spools := [], resets := [], tokens := [], levelLo := [],
    harbors := s.harbors.map (fun e => (e.1, e.2.afterReset)), registry := [], models := [], saved := [], saves := [],
    restores := [], loadsWaiting := [], loads := [], lastLoad := [], streams := [], reqs := [], binds := [], pfx := [],
    ravor := { s.ravor with ports := [], waiting := [], stalled := [], nextId := [], expected := [], silent := [],
                            offsets := [], committed := false, ownOff := 0, resumedAt := none, lost := [] },
    host := { s.host with boardReads := [] } }

/-- Every job, saved jobs included, and every request ends with EJECTED_RESET (R410, R466, R474). -/
def State.endAllJobs (s : State) : State :=
  let s1 := (List.range 128).foldl (fun s p => s.endJob p stEjectedReset) s
  let s2 := (s1.saved.filter (·.live)).foldl (fun s j => match j.owner with
    | none => s
    | some t => (s.acct t 3 false).inc (TEN_VF_ENDED_ENDED t)) s1
  s2.reqs.foldl (fun s e => s.endRequest e.1 stEjectedReset false) { s2 with saved := [] }

/-- A partition that is not FREE is IDLE after a package warm reset (R459, R474). -/
def State.idleParts (s : State) : State :=
  (List.range 128).foldl (fun s p =>
    if s.get (TEN_PART_CTRL_STATE p) = psFree then s else s.put (TEN_PART_CTRL_STATE p) psIdle) s

/-- The islands' own state after a package warm reset: causeway, fenced cores and calibration stay (R140, R539). DEDUCED, log 64. -/
def IslandSt.warm (x : IslandSt) : IslandSt :=
  { x with alarms := 0, stretchRun := 0, coolFor := 0, clearFor := 0, stepped := false, holdCode := 0,
           over115 := 0 }

/-- Package warm reset of everything but the start that follows it. DEDUCED, log 63. -/
def State.warmWipe (s : State) : State :=
  let s1 := s.endAllJobs.idleParts
  let s2 := { s1.clearPackage with regs := warmRegs s1.regs,
                                   islands := s1.islands.map fun (e : Nat × IslandSt) => (e.1, e.2.warm) }
  s2.refreshJobLock

/-- The registers outside the Exkalet domain at their reset values. -/
def exkRegsOnly (m : SMap Word) : SMap Word :=
  m.filter fun e => decide (0x100000 ≤ e.1) && decide (e.1 < 0x200000)

/-- Every VIN12-fed rail is removed, islands first: what stands outside the Exkalet domain is lost as package cold reset
loses it, and Exkalet runs from REFCLK (R34, R505, R507, R530, R597). -/
def State.railsOff (s : State) : State :=
  let s1 := s.clearPackage
  { s1 with
    regs := exkRegsOnly s.regs, islands := [], keys := [], msix := [],
    tide := { now := 0, running := false, loadAt := none, slewAt := none, toGo := 0 },
    ravor := { s1.ravor with active := [], shadow := [] },
    pads := { s.pads with hubRail := false, fabricRail := false, harborRail := false },
    host := { vfEnable := false, numVfs := 0, d3hot := false, held := s.host.held, boardReads := [], aer := 0 } }

/-! ### Firmware slots (R560) -/

def fwMagic : Nat := 0x544C4B58
/-- Whether a slot image is well formed, signed by the fused firmware key, and not below the rollback counter. -/
def FwSlot.secVersion (f : FwSlot) : Nat := leNat ((f.image.drop 4).take 4)
def FwSlot.bootable (f : FwSlot) (rollback : Nat) : Bool :=
  let len := leNat ((f.image.drop 8).take 4)
  let signed_ := f.image.take (64 + len)
  let t := (f.image.drop (64 + len)).take 96
  decide (leNat (f.image.take 4) = fwMagic) && decide (len ≤ 15 * 1048576 - 160) && decide (t.length = 96)
    && Config.ecdsaVerify Config.firmwareKey (Config.sha384 signed_) (BitVec.ofNat 384 (leNat (t.take 48)))
      (BitVec.ofNat 384 (leNat (t.drop 48)))
    && decide (rollback ≤ min 128 f.secVersion)

/-- The slot the boot ROM boots: the preferred one, or the other where it is not bootable (R560). -/
def State.bootSlot (s : State) : Option Nat :=
  let ok (i : Nat) : Bool := match s.exk.slots[i]? with
    | some f => f.bootable s.fuses.rollback
    | none => false
  if ok s.exk.preferred then some s.exk.preferred
  else if ok (1 - s.exk.preferred) then some (1 - s.exk.preferred) else none

/-- The registers that show the boot flash and the fuses (R513, R560, R563, R569). DESIGN CHOICE, log 91. -/
def State.exkShow (s : State) : State :=
  let slot (s : State) (i : Nat) : State := match s.exk.slots[i]? with
    | none => s
    | some f => ((((s.setFlag (MGT_FW_SLOT_VALID i) (f.bootable s.fuses.rollback)).setFlag (MGT_FW_SLOT_ACTIVE i)
        f.active).setFlag (MGT_FW_SLOT_TRIAL i) f.trial).setFlag (MGT_FW_SLOT_FAILED i) f.failed).put
        (MGT_FW_SEC_SEC_VERSION i) f.secVersion
  let s1 := (slot (slot s 0) 1).put MGT_FW_RB_COUNTER s.fuses.rollback
  let s2 := (s1.exk.keys.zipIdx).foldl (fun s e =>
    (s.put (MGT_KEY_STATE e.2) e.1.state).put (MGT_KEY_MIN_MIN_SEC_VERSION e.2) e.1.minSec) s1
  (s2.put MGT_BOOT_STATUS_ATTEMPTS s2.exk.failCount).refreshLog

/-! ### Attempts, failed starts, minimal mode (R507 to R509) -/

/-- The memory results of the start about to run: not tested, no harbor mounted (R513). -/
def State.untested (s : State) : State :=
  ((s.put MGT_BOOT_MEM_NEAR 0xFF).put MGT_BOOT_MEM_MID 0xFFFF).put MGT_BOOT_MEM_FTL 0

/-- A start attempt begins: the count is raised by one, saturating at 3 (R507). DEDUCED, log 59; DEDUCED, log 60. -/
def State.beginAttempt (s : State) (cold : Bool) : State :=
  let n := min 3 (s.exk.failCount + 1)
  let s1 := { s with exk := { s.exk with failCount := n, coldStarts := if cold then s.exk.coldStarts + 1
                                                                       else s.exk.coldStarts },
                     boot := { s.boot with wave := 0, startMs := 0 } }
  ((s1.put MGT_BOOT_STATUS_ATTEMPTS n).setFlag MGT_BOOT_STATUS_WARM (!cold)).untested

/-- The hub rail is enabled once PWR_OK is high and VIN12 within its limits, THERMTRIP_L being high (R491, R600). -/
def State.hubEnable (s : State) : State :=
  { s with pads := { s.pads with hubRail := s.pads.pwrOk && s.pads.vin12Good && s.pads.thermtripL } }

/-- The start stands at the entry to HUB with every VIN12-fed rail off, and enables the hub rail when it may. -/
def State.enterHub (s : State) : State :=
  let s1 := { s.railsOff with boot := { s.boot with warm := false, warmIslands := [], waitCool := false, waitPower := false } }
  let s2 := ((((((s1.setFlag MGT_BOOT_STATUS_MINIMAL false).setFlag MGT_BOOT_STATUS_OOB_ONLY false).put
    MGT_BOOT_STATUS_MIN_HARBOR 7).setReg MGT_BOOT_FAB 0).setReg (MGT_BOOT_WHY 0) 0).setReg (MGT_BOOT_WHY 1) 0).untested
  (s2.toPhase phHub).hubEnable

/-- The islands whose fabric domain stays up between the hub and harbor `h` (R358, R509). -/
def minimalPath (h : Nat) : List Nat :=
  if h = 0 then [4, 0] else if h = 1 then [4, 5, 6, 2] else if h = 2 then [8, 12] else if h = 3 then [8, 9, 10, 14] else []

/-- Whether both middle-tier ports of harbor `h` passed their test (R509, MGT_BOOT_MEM.MID). -/
def State.midPassed (s : State) (h : Nat) : Bool :=
  decide (bitsOf (s.get MGT_BOOT_MEM_MID) (4 * h) 4 = 0)

/-- MINIMAL_MODE_ENTRY: nothing stays up but Exkalet and, unless the cause is 0x1 or 0x5, the hub and one harbor. -/
def State.enterMinimal (s : State) (cause : Nat) : State :=
  let oob := decide (cause = 1 ∨ cause = 5)
  let keep := if oob then none else (List.range 4).find? s.midPassed
  let s1 := if oob then s.railsOff else
    let s2 := { s.clearPackage with islands := s.islands.map (fun (e : Nat × IslandSt) => (e.1, { e.2 with railUp := false })),
                                    host := { s.host with vfEnable := false, numVfs := 0 } }
    { s2 with harbors := s.harbors.map (fun (e : Nat × HarborSt) =>
                (e.1, if keep = some e.1 then { e.2.afterReset with mid := e.2.mid, mpois := e.2.mpois } else e.2.afterReset)),
              pads := { s2.pads with harborRail := keep.isSome,
                                     hubRail := s.pads.pwrOk && s.pads.vin12Good && s.pads.thermtripL } }
  (((s1.setFlag MGT_BOOT_STATUS_MINIMAL true).setFlag MGT_BOOT_STATUS_OOB_ONLY oob).put MGT_BOOT_STATUS_MIN_HARBOR
    (keep.getD 7)).toPhase phMinimal

/-- FAILED_START: the cause is recorded, FAULT_L asserted, the crash log written; below three attempts the rails are
removed and RETRY_WAIT begins, at three minimal mode is entered (R507, R554). DEDUCED, log 61. -/
def State.failStart (s : State) (cause : Nat) : State :=
  if s.starting then
    let s1 := (s.put MGT_BOOT_STATUS_CAUSE cause).logEvent 0x0012 1 25 none none 0
      (pay 1 s.phase ++ pay 1 cause ++ pay 1 (s.get MGT_BOOT_STATUS_WARM))
    let s2 : State := { s1.crashSnapshot 4 with pads := { s.pads with faultL := false } }
    if s2.exk.failCount < 3 then s2.railsOff.toPhase phRetry else s2.enterMinimal cause
  else s

/-- READY: the count is 0, FAULT_L is released, a mailbox message is posted; with every island absent the start fails
instead (R504). -/
def State.reachReady (s : State) : State :=
  if s.get MGT_BOOT_FAB_PRESENT = 0 then s.failStart 7
  else
    let s1 := { s with exk := { s.exk with failCount := 0 }, pads := { s.pads with faultL := true } }
    (((s1.put MGT_BOOT_STATUS_ATTEMPTS 0).put MGT_BOOT_MS_MS s.boot.startMs).toPhase phReady).postMessage 1

/-- A hub fault: the crash log and FAULT_L, every VIN12-fed rail removed, a start from HUB that waits for the firmware
where the pair is not running (R530, R544). -/
def State.hubFault (s : State) : State :=
  let s1 : State := { s.crashSnapshot 1 with pads := { s.pads with faultL := false } }
  let s2 := (s1.beginAttempt true).enterHub
  if s2.flag MGT_STATUS_READY then s2
  else { s2 with boot := { s2.boot with pairPending := true }, pads := { s2.pads with hubRail := false } }

/-! ### Package resets as commands (R466, R511, R512, R568) -/

/-- The first phase of a warm start: WAIT_COOL, and HARBOR at once where COOL_OK_L is low (R489, R512). -/
def State.warmReset (s : State) : State :=
  let s1 := s.warmWipe.beginAttempt false
  let again := (List.range 16).filter fun i => s.flag (ISL_FLT_STATUS_QUENCHED i)
    || (s.minimal && !(s.isl i).latched && !(s.isl i).absent && !s.fuses.fusedOff.contains i)
  let s2 : State := { s1 with boot := { s1.boot with warm := true, warmIslands := again },
                              pads := { s1.pads with harborRail := !s1.pads.coolOkL } }
  s2.toPhase (if s2.pads.coolOkL then phWaitCool else phHarbor)

/-- Package cold reset: Exkalet restarts through the boot ROM, and everything else is lost (R466, R568). -/
def State.coldReset (s : State) : State :=
  let s1 := s.railsOff
  let s2 : State := { s1 with
    regs := [],
    exk := { s1.exk with fwRunning := false, restarting := false, restarts := [], powerWarned := false, update := .idle,
                         updateBuf := [], verified := false, annealQ := [], channels := [none, none, none, none],
                         hotSeen := [], temps := [], towers := [], rails := [], trialSince := s1.exk.uptimeUs },
    pads := { s1.pads with thermtripL := true, faultL := false },
    boot := { s1.boot with warm := false, warmIslands := [], waitCool := false, waitPower := false, pairPending := false } }
  let s3 := match s2.exk.cfgRecord with
    | some w => s2.setReg MGT_BOOT_CFG w
    | none => s2
  (s3.beginAttempt true).exkShow.toPhase phExk

end Sys2Proof.Machine
end

