-- ==== Sys2Proof/Machine/Clocks.lean ====
section
/-! DEFINITION. Clocks, the governor, droop, the tide and tide fences (chapter 2, R484, R526, R534 to R536): the root
PLL and deskew, one governor evaluation of an island, tide loads and slews, the collection of a fence. -/

namespace Sys2Proof.Machine

/-! ### The root PLL and deskew (R31, R34, R35, R37, R47) -/

/-- ROOT_PLL_LOCK: with the hub rail good, PLL_LOCK reads 1 (R31). -/
def execRootPllLock (s : State) : Answer :=
  .next (if s.pads.hubRail then s.setFlag HUB_CLK_STATUS_PLL_LOCK true else s)

/-- PLL_LOCK_TIMEOUT: no lock 2 ms after the hub rail is a failed start with cause 0x5 (R31, R507). -/
def execPllLockTimeout (s : State) : Answer :=
  .next (if s.phase = phHub ∧ s.pads.hubRail = true ∧ s.flag HUB_CLK_STATUS_PLL_LOCK = false then s.failStart 5 else s)

/-- DESKEW_DONE: MCLK is selected, the domains leave reset, the tide starts at 0 (R34, R47). -/
def execDeskewDone (s : State) : Answer :=
  .next (if s.flag HUB_CLK_STATUS_PLL_LOCK && !s.flag HUB_CLK_STATUS_DESKEW_DONE then
    let s1 := (s.setFlag HUB_CLK_STATUS_DESKEW_DONE true).setFlag HUB_CLK_STATUS_MCLK_SEL true
    { s1 with tide := { s1.tide with now := 0, running := true } }
  else s)

/-- PLL_LOCK_LOSS: a hub fault; in phase HUB the start has failed to lock (R37, R491). DEDUCED, log 57. -/
def execPllLockLoss (s : State) : Answer :=
  .next (if s.flag HUB_CLK_STATUS_PLL_LOCK then
    let s1 := s.setFlag HUB_CLK_STATUS_PLL_LOCK false
    if s1.phase = phHub then s1.failStart 5 else s1.hubFault
  else s)

/-! ### The governor (R38 to R44, R46, R498) -/

/-- The hottest of a list of readings and its index, the lowest of equals. DESIGN CHOICE, log 53. -/
def hottest (ts : List (BitVec 8)) : Int × Nat :=
  ts.zipIdx.foldl (fun b e => if b.1 < e.1.toInt then (e.1.toInt, e.2) else b)
    (((ts.headD 0).toInt, 0) : Int × Nat)

/-- The slowest ceiling that the active entries impose at a reading (R39). -/
def State.ceiling (s : State) (i : Nat) (hot : Int) : Nat :=
  (List.range 8).foldl (fun m n =>
    if s.flag (ISL_GOV_STEP_EN i n) && decide ((s.get (ISL_GOV_STEP_TEMP_C i n) : Int) ≤ hot) then
      max m (s.get (ISL_GOV_STEP_CEIL i n)) else m) 0

/-- The threshold of the entry that a step faster than `code` releases: the lowest of the enabled entries with a ceiling
of `code` or slower (R39). DEDUCED, log 50. -/
def State.release (s : State) (i code : Nat) : Option Int :=
  (List.range 8).foldl (fun m n =>
    if s.flag (ISL_GOV_STEP_EN i n) && decide (code ≤ s.get (ISL_GOV_STEP_CEIL i n)) then
      match m with
      | none => some (s.get (ISL_GOV_STEP_TEMP_C i n) : Int)
      | some t => some (min t (s.get (ISL_GOV_STEP_TEMP_C i n) : Int))
    else m) none

/-- The fastest code CAP permits; until READY every island is held at code 2 or slower (R39, R498). DEDUCED, log 51. -/
def State.capCode (s : State) (i : Nat) : Nat :=
  if s.ready then s.get (ISL_GOV_CTRL_CAP i) else max 2 (s.get (ISL_GOV_CTRL_CAP i))

/-- The fastest code the droop hold permits (R43). DEDUCED, log 51. -/
def State.holdOf (s : State) (i : Nat) : Nat :=
  if s.flag (ISL_GOV_STATUS_DROOP_HOLD i) then (s.isl i).holdCode else 0

/-- VOFF of the record of a step code, in mV (R533, R539). -/
def State.recVoff (s : State) (i n : Nat) : Int := signed 8 (s.get (ISL_ANL_REC_VOFF i n))

/-- STEP_CHANGE: the divider switches to `code`, and the core rail takes that code's offset (R40, R533). -/
def State.stepTo (s : State) (i code : Nat) : State :=
  let s1 := s.put (ISL_GOV_STATUS_STEP i) code
  s1.setIsl i { s1.isl i with coolFor := 0, voff := s1.recVoff i code }

/-- The hottest reading as ISL_GOV_STATUS shows it. DESIGN CHOICE, log 53. -/
def State.showHot (s : State) (i : Nat) (hot : Int) (ix : Nat) : State :=
  (s.put (ISL_GOV_STATUS_HOT_C i) (min 127 hot.toNat)).put (ISL_GOV_STATUS_HOT_SENSOR i) ix

/-- The runs of the evaluations since: how long the hottest reading has stood below the entry to be released, how long
no droop alarm has been raised, how long the reading has been 115 °C or more (R39, R43, R526). -/
def State.runs (s : State) (i : Nat) (hot : Int) : State :=
  let x := s.isl i
  let cool := match s.release i (s.get (ISL_GOV_STATUS_STEP i)) with
    | none => true
    | some t => decide (hot + (s.get (ISL_GOV_CTRL_HYST_C i) : Int) ≤ t)
  let hold := s.get (ISL_GOV_CTRL_UP_HOLD i)
  s.setIsl i { x with coolFor := if cool then min hold (x.coolFor + 1) else 0,
                      clearFor := if x.alarms = 0 then min hold (x.clearFor + 1) else 0,
                      over115 := if 115 ≤ hot then min 4 (x.over115 + 1) else 0, stepped := false }

/-- The governor's own move: a slower step at once, a faster one after the hold, one code an evaluation; entering code 3
or 4 by a thermal entry sets THERMAL (R39, R43, R463). -/
def State.govern (s : State) (i : Nat) (hot : Int) : State :=
  let x := s.isl i
  let upHold := s.get (ISL_GOV_CTRL_UP_HOLD i)
  let cur := s.get (ISL_GOV_STATUS_STEP i)
  let ceil := s.ceiling i hot
  let free := s.flag (ISL_GOV_STATUS_DROOP_HOLD i) && decide (upHold ≤ x.clearFor)
  let s0 := if free then s.setFlag (ISL_GOV_STATUS_DROOP_HOLD i) false else s
  let target := max (max ceil (s0.capCode i)) (s0.holdOf i)
  if cur < target then
    let new := cur + 1
    let s1 := s0.stepTo i new
    let s2 := s1.setIsl i { s1.isl i with stepped := true }
    if cur < ceil then
      let s3 := s2.inc (ISL_GOV_DOWN_THERM_DOWN_CNT i)
      if 3 ≤ new then
        (s3.raisePF cThermal).logEvent 0x000F 1 i none none 0 (pay 1 new ++ pay 1 (min 127 hot.toNat))
      else s3
    else s2
  else if target < cur ∧ (free = true ∨ upHold ≤ x.coolFor) then s0.stepTo i (cur - 1)
  else s0

/-- CCLK cycles lost in a microsecond at a step code (R484). DEDUCED, log 54. -/
def lostCycles (code : Nat) : Nat :=
  if code = 1 then 228 else if code = 2 then 400 else if code = 3 then 640 else if code = 4 then 800 else 0

/-- THERMAL_SLOWDOWN_COUNT: where a thermal entry alone limits the step, every partition with a running job and a cluster
on the island counts it (R484). DEDUCED, log 54. -/
def State.slowdown (s : State) (i : Nat) (hot : Int) : State :=
  let code := s.get (ISL_GOV_STATUS_STEP i)
  if code ≠ 0 ∧ code ≤ s.ceiling i hot ∧ s.capCode i < code ∧ s.holdOf i < code then
    (List.range 128).foldl (fun s p =>
      if s.get (TEN_PART_CTRL_STATE p) = psRunning ∧ s.partOnIsland p i = true then
        (s.inc (TEN_PART_SLOW_SLOW_US p)).bump (TEN_PART_LOSS_LOSS_CYC p) (lostCycles code)
      else s) s
  else s

/-! ### Load class and the re-anneal trigger (R534 to R536, R552) -/

/-- The load class of a mean of `n` currents in 0.1 A that sum to `sum` (R534). -/
def loadClass (sum n : Nat) : Nat :=
  if sum < 250 * n then 0 else if sum < 750 * n then 1 else if sum < 1250 * n then 2 else 3

/-- The current of this evaluation joins the last 1,024, and LOAD_CLASS follows. -/
def State.load (s : State) (i amps : Nat) : State :=
  let cs := (amps :: (s.isl i).currents).take 1024
  (s.setIsl i { s.isl i with currents := cs }).put (ISL_ANL_STATUS_LOAD_CLASS i) (loadClass (cs.foldl (· + ·) 0) cs.length)

/-- MGT_ANL_CFG follows the anneal queue and the channels (R569). DEDUCED, log 128. -/
def State.refreshAnneal (s : State) : State :=
  let busy := (s.exk.channels.zipIdx.map fun e => b2n e.1.isSome <<< e.2).foldl (· + ·) 0
  (s.put MGT_ANL_CFG_BUSY_CH busy).put MGT_ANL_CFG_PENDING (min 16 s.exk.annealQ.length)

/-- The re-anneal of an island that is queued or running. -/
def State.annealOf (s : State) (i : Nat) : Option Anneal :=
  (s.exk.annealQ ++ s.exk.channels.filterMap id).find? fun a => decide (a.island = i)

/-- The guard of step code `code`: VOFF is raised by GUARD_MV, and GUARD sets (R535). -/
def State.guard (s : State) (i code : Nat) : State :=
  (s.setIsl i { s.isl i with voff := s.recVoff i code + (s.get (ISL_ANL_CTRL_GUARD_MV i) : Int) }).setFlag
    (ISL_ANL_STATUS_GUARD i) true

/-- A re-anneal waiting for a channel. -/
def newAnneal (i code cls : Nat) (v old : Int) : Anneal :=
  { island := i, code := code, cls := cls, v := v, upward := none, final := none, oldVoff := old }

/-- REANNEAL_TRIGGER: the load class is above the record's, or the temperature outside the band (R535, R536). DEDUCED, log 128. -/
def State.annealTrigger (s : State) (i : Nat) (hot : Int) : State :=
  let code := s.get (ISL_GOV_STATUS_STEP i)
  let cls := s.get (ISL_ANL_STATUS_LOAD_CLASS i)
  let far := (hot - (s.get (ISL_ANL_REC_TEMP_C i code) : Int)).natAbs
  if s.flag (ISL_ANL_CTRL_EN i) && s.flag (ISL_ANL_REC_VALID i code)
      && (decide (s.get (ISL_ANL_REC_CLASS i code) < cls) || decide (s.get (ISL_ANL_CTRL_TEMP_BAND i) < far)) then
    let s1 := s.guard i code
    match s1.annealOf i with
    | none =>
      let a := newAnneal i code cls (s1.isl i).voff (s1.recVoff i code)
      { s1 with exk := { s1.exk with annealQ := s1.exk.annealQ ++ [a] } }.refreshAnneal
    | some a =>
      if a.cls < cls then
        if s1.flag (ISL_ANL_STATUS_RUNNING i) then s1.setIsl i { s1.isl i with restartCls := some cls }
        else { s1 with exk := { s1.exk with annealQ := s1.exk.annealQ.map fun b =>
          if b.island = i then { b with cls := cls } else b } }
      else s1
  else s

/-- GOVERNOR_EVALUATION: island `i` reads its 16 thermal sensors and its core-rail current (R39, R484, R534, R535). -/
def State.evaluate (s : State) (i : Nat) (temps : List (BitVec 8)) (amps : Nat) : State :=
  let (hot, ix) := hottest temps
  let s1 := ((s.showHot i hot ix).runs i hot).govern i hot
  ((s1.slowdown i hot).load i amps).annealTrigger i hot
/-- DESIGN CHOICE, log 4. -/
def execGovernorEvaluation (i : Island) (temps : List (BitVec 8)) (amps : Nat) (s : State) : Answer :=
  .next (if s.tide.running && (s.isl i).railUp then s.evaluate i temps amps else s)

/-! ### Droop (R42 to R44) -/

/-- DROOP_ALARM: a monitor raises its alarm, and the island stretches while STRETCH_EN is 1 (R42). DEDUCED, log 52. -/
def execDroopAlarm (i : Island) (monitor : Fin 8) (s : State) : Answer :=
  .next (if (s.isl i).railUp then
    let x := s.isl i
    let s1 := s.setIsl i { x with alarms := setBit x.alarms monitor true, clearFor := 0 }
    if s1.flag (ISL_GOV_CTRL_STRETCH_EN i) then s1.setFlag (ISL_GOV_STATUS_STRETCHING i) true else s1
  else s)

/-- DROOP_STEP_DOWN: STRETCH_LIMIT + 1 cycles in a row have been stretched. One code slower, never slower than 2, and the
hold; where a thermal step-down fell due at the same evaluation it alone is applied (R43, R44). DEDUCED, log 52. -/
def execDroopStepDown (i : Island) (same : Bool) (s : State) : Answer :=
  .next (if s.flag (ISL_GOV_STATUS_STRETCHING i) then
    let cur := s.get (ISL_GOV_STATUS_STEP i)
    let s1 := (s.bump (ISL_GOV_STRETCH_STRETCH_CNT i) (s.get (ISL_GOV_CTRL_STRETCH_LIMIT i) + 1)).setFlag
      (ISL_GOV_STATUS_DROOP_HOLD i) true
    if same && (s.isl i).stepped then s1.setIsl i { s1.isl i with holdCode := min 2 cur }
    else if cur < 2 then
      let s2 := (s1.stepTo i (cur + 1)).inc (ISL_GOV_DOWN_DROOP_DOWN_CNT i)
      s2.setIsl i { s2.isl i with holdCode := cur + 1 }
    else s1.setIsl i { s1.isl i with holdCode := 2 }
  else s)

/-- DROOP_ALARM_CLEAR: the last alarm clears and stretching stops; `cycles` more cycles have been stretched (R42). -/
def execDroopAlarmClear (i : Island) (cycles : Nat) (s : State) : Answer :=
  let x := s.isl i
  let s1 := if s.flag (ISL_GOV_STATUS_STRETCHING i) then s.bump (ISL_GOV_STRETCH_STRETCH_CNT i) cycles else s
  .next ((s1.setIsl i { x with alarms := 0 }).setFlag (ISL_GOV_STATUS_STRETCHING i) false)

/-! ### The tide (R47 to R53) -/

/-- HUB_TIDE_LO_READ: tide [31:0] is returned, and tide [63:32] latched into HUB_TIDE_HI (R49). -/
def execHubTideLoRead (s : State) : Answer :=
  .next ((s.put HUB_TIDE_HI_TIDE (s.tide.now.toNat / 2 ^ 32)).emit (.readData (leBytes 4 s.tide.now.toNat) false))

/-- TIDE_SYNC_EDGE: an armed edge schedules the load for the third tick after; with a job held it is missed (R51). DEDUCED, log 56. -/
def execTideSyncEdge (s : State) : Answer :=
  .next (if s.tide.running && s.flag HUB_TIDE_CTRL_LOAD_ARM then
    if s.anyJob then (s.setFlag HUB_TIDE_CTRL_LOAD_ARM false).setFlag HUB_TIDE_STATUS_LOAD_MISSED true
    else { s with tide := { s.tide with loadAt := some (s.tide.now + 3) } }
  else s)

/-- TIDE_LOAD: every tide takes the load value (R51); a job that has begun since makes the load a missed one (R47). DESIGN CHOICE, log 3; DEDUCED, log 56. -/
def execTideLoad (s : State) : Answer :=
  .next (match s.tide.loadAt with
  | none => s
  | some _ =>
    let s1 := s.setFlag HUB_TIDE_CTRL_LOAD_ARM false
    if s.anyJob then { s1 with tide := { s1.tide with loadAt := none } }.setFlag HUB_TIDE_STATUS_LOAD_MISSED true
    else
      let v := BitVec.ofNat 64 (s.get HUB_TIDE_LOAD_LO_LOAD + s.get HUB_TIDE_LOAD_HI_LOAD * 2 ^ 32)
      { s1 with tide := { s1.tide with now := v, loadAt := none } }.setFlag HUB_TIDE_STATUS_LOAD_DONE true)

/-- TIDE_SLEW: one tick of correction toward the reference, at most once in 1,024 ticks (R52). DEDUCED, log 55. -/
def execTideSlew (s : State) : Answer :=
  let due := match s.tide.slewAt with
    | none => true
    | some t => decide (t.toNat + 1024 ≤ s.tide.now.toNat)
  .next (if s.tide.running && s.flag HUB_TIDE_CTRL_SLEW_EN && due && decide (s.tide.toGo ≠ 0) then
    let up := decide (0 < s.tide.toGo)
    let t := { s.tide with now := if up then s.tide.now + 2 else s.tide.now, slewAt := some s.tide.now,
                           toGo := if up then s.tide.toGo - 1 else s.tide.toGo + 1 }
    { s with tide := t }.inc HUB_TIDE_STATUS_SLEW_CNT
  else s)

/-- One tick with nothing commanded: the tide counts (R47). DESIGN CHOICE, log 2; DEDUCED, log 55. -/
def State.tick (s : State) : State :=
  if s.tide.running then { s with tide := { s.tide with now := s.tide.now + 1 } } else s

/-- The tide at tick `t` or later: what the spec ties to a tick happens no earlier than it. DESIGN CHOICE, log 3. -/
def State.atTick (s : State) (t : DWord) : State :=
  if s.tide.now.toNat < t.toNat then { s with tide := { s.tide with now := t } } else s

/-! ### Tide fences (R61 to R65) -/

/-- The participants of a fence of core `c`'s job: cluster, island, partition or package scope (R61). -/
def State.fenceParts (s : State) (c scope : Nat) : List Nat :=
  match s.corePart c with
  | none => []
  | some p => (s.partCores p).filter fun d =>
    if scope = 0 then decide (clusterOf d = clusterOf c) else if scope = 1 then decide (islOf d = islOf c) else true

/-- Whether a participant has issued its fence and all it sent before has been delivered (R62). -/
def CoreSt.gathered (k : CoreSt) (scope : Nat) : Bool :=
  decide (k.fence = some scope) && k.fenceTick.isNone && k.xfers.isEmpty && decide (k.sends = 0)

/-- FENCE_COMPLETION: the fence that core `c` waits at completes, and the collector stamps the tick (R62, R63). DESIGN CHOICE, log 3. -/
def execFenceCompletion (c : LCore) (s : State) : Answer :=
  .next (match (s.core c).fence with
  | none => s
  | some scope =>
    let ps := s.fenceParts c scope
    if !ps.isEmpty && ps.all fun d => (s.core d).gathered scope then
      ps.foldl (fun s d => s.setCore d { s.core d with fenceTick := some s.tide.now }) s
    else s)

/-- FENCE_NOTICE_ARRIVAL: core `c` resumes, with FTICK the completion tick (R63). -/
def execFenceNoticeArrival (c : LCore) (s : State) : Answer :=
  let k := s.core c
  .next (match k.fenceTick with
  | none => s
  | some t => s.setCore c { k with ftick := t, fence := none, fenceTick := none })

end Sys2Proof.Machine
end

