-- ==== Sys2Proof/Machine/Ports.lean ====
section
/-! DEFINITION. The link layer of the Ravor ports (R412 to R428, R446, R447): training, flits, acknowledgement and
replay, credits, time transfer. -/

namespace Sys2Proof.Machine

/-! ### Flits on the wire (R416, R417) -/

/-- One bit of the CRC-32 with the polynomial 0x04C1_1DB7, most significant bit first, as IEEE 802.3 reflects it. -/
def crc802Bit (c : Word) : Word :=
  if c.getLsbD 0 then (c >>> 1) ^^^ 0xEDB88320 else c >>> 1
def crc802Byte (c : Word) (b : Byte) : Word :=
  let x := c ^^^ b.setWidth 32
  crc802Bit (crc802Bit (crc802Bit (crc802Bit (crc802Bit (crc802Bit (crc802Bit (crc802Bit x)))))))
/-- The CRC of a flit's bytes [251:0] (R416). -/
def crc802 (bs : List Byte) : Word :=
  (bs.foldl crc802Byte 0xFFFFFFFF) ^^^ 0xFFFFFFFF

/-- TYPE codes of R416. -/
def flIdle : Nat := 0
def flData : Nat := 1
def flCtrl : Nat := 2

/-- The four bytes of a link header (R416). -/
def linkHeader (seq ack type vc : Nat) (dl som eom : Bool) : List Byte :=
  leBytes 4 (seq % 4096 + ack % 4096 * 2 ^ 12 + type * 2 ^ 24 + vc * 2 ^ 26 + b2n dl * 2 ^ 28 + b2n som * 2 ^ 29
    + b2n eom * 2 ^ 30)

/-- The ACK a port sends: the SEQ of the last flit accepted in order, 4,095 after training (R423). -/
def PortSt.ack (x : PortSt) : Nat := (x.exp + 4095) % 4096

/-- A flit on the wires of port `p`, with its CRC. -/
def State.wire (s : State) (p type seq : Nat) (hdr body : List Byte) : State :=
  let bs := hdr ++ body.take 248 ++ List.replicate (248 - body.length) 0
  s.emit (.flit p type seq ((bs ++ leBytes 4 (crc802 bs).toNat).map (·.toNat)))

def State.wireData (s : State) (p : Nat) (x : PortSt) (f : Flit) : State :=
  s.wire p flData f.seq (linkHeader f.seq x.ack flData f.vc f.dl f.som f.eom) f.body

/-- The records of R417, 16 bytes each. -/
def record (bs : List Byte) : List Byte := bs.take 16 ++ List.replicate (16 - bs.length) 0
def nakRecord (seq : Nat) : List Byte := record (leBytes 2 1 ++ leBytes 2 (seq % 4096))
def creditRecord (key n : Nat) : List Byte := record (leBytes 1 2 ++ leBytes 1 (key / 2 + 4 * (key % 2)) ++ [0, 0] ++ leBytes 2 n)
def timeReqRecord (t1 : Word) : List Byte := record ([3, 0] ++ leBytes 4 t1.toNat)
def timeRspRecord (depth : Nat) (t1 t2 t3 : Word) (off : Nat) : List Byte :=
  record ([4] ++ leBytes 1 depth ++ leBytes 4 t1.toNat ++ leBytes 4 t2.toNat ++ leBytes 4 t3.toNat ++ leBytes 2 off)
def trainRecord (ep port width epoch al : Nat) (alValid refusal : Bool) (reason : Nat) : List Byte :=
  record ([5, 0] ++ leBytes 2 ep ++ leBytes 1 (port + 16 * width) ++ leBytes 2 epoch ++ leBytes 2 al
    ++ leBytes 1 (b2n alValid + 2 * b2n refusal + 4 * reason))

/-- A record waits for the next CTRL flit of a port. -/
def PortSt.tell (x : PortSt) (r : List Byte) : PortSt := { x with records := x.records ++ [r] }

/-! ### Training (R413 to R415, R437, R440, R441) -/

/-- The epoch a training proposes: the next one while an epoch change is RETRAINING (R442). -/
def State.proposed (s : State) : Nat :=
  let e := s.get RVR_EPOCH_STATUS_EPOCH
  if s.get RVR_EPOCH_STATUS_PHASE = 3 then (e + 1) % 65536 else e

/-- This package's TRAIN record, with the refusal of a neighbour whose endpoint ID is redirected (R415, R417). -/
def State.ownTrain (s : State) (p width : Nat) (refuse : Bool) : List Byte :=
  trainRecord (s.get RVR_EP_ID_ID) p width s.proposed (s.get RVR_EP_ALIAS_ALIAS) (s.flag RVR_EP_ALIAS_VALID) refuse
    (if refuse then 4 else 0)

/-- Port `p` goes to TRAIN: its link layer is as after training and its TRAIN record waits to be sent (R414). -/
def State.toTrain (s : State) (p : Nat) : State :=
  let s1 := s.portTo p ptTrain 0
  let x := s1.port p
  s1.setPort p { portReset with fails := x.fails, records := [s1.ownTrain p 3 false] }

/-- Whether a port may train: enabled, its OE die powered, the start at LINK_TRAIN or past it, and the package not
superseded (R414, R441, R503). -/
def State.mayTrain (s : State) (p : Nat) : Bool :=
  s.flag (RVR_PORT_CTRL_EN p) && s.pads.harborRail && (decide (s.phase = phLink) || s.ready)
    && !s.flag RVR_EP_ID_SUPERSEDED

/-- TRAIN: the neighbour's record is taken, and answered with a refusal where this package redirects its ID (R415,
R417). -/
def execTrain (p : Port) (ep : Endpoint) (nport : Port) (width : Fin 4) (epoch : BitVec 16) (alias_ : Option Endpoint)
    (refusal : Bool) (reason : Fin 64) (s : State) : Answer :=
  .next (if s.get (RVR_PORT_STATUS_STATE p) = ptTrain then
    let r : TrainRec := { ep := ep, port := nport, width := width, epoch := epoch.toNat,
                          alias_ := alias_.map (fun (e : Endpoint) => e.val), refusal := refusal, reason := reason }
    let x := s.port p
    let refuse := (s.topo ep.val).redir
    s.setPort p { (if refuse then x.tell (s.ownTrain p 3 true) else x) with nbr := some r }
  else s)

/-- The REASON with which a training ends, 0 for success (R413, R415). DEDUCED, log 117. -/
def State.trainReason (s : State) (p : Nat) (signal : Bool) (width rtt : Nat) : Nat :=
  if !signal then 1
  else if width = 0 ∨ width < s.get (RVR_PORT_CTRL_MIN_WIDTH p) + 1 then 2
  else match (s.port p).nbr with
    | none => 1
    | some r =>
      if r.epoch ≠ s.proposed then 3
      else if r.refusal ∨ (s.topo r.ep).redir then 4
      else if s.get (RVR_PORT_CTRL_RTIMER_US p) * 1200 - 480 < rtt then 5
      else if r.ep = s.get RVR_EP_ID_ID then 6 else 0

/-- The route in use to the destinations that entry `v` serves returns to its lowest usable route once none of them has
a message awaiting EACK (R437). -/
def State.relax (s : State) (v : Nat) : State :=
  if (s.ravor.waiting.any fun w => decide (s.via w.2.dest = v)) then s
  else match s.bestRoute (s.topo v) with
    | some n => if (s.topo v).inUse = n then s else s.setTopo v { s.topo v with inUse := n }
    | none => s

/-- The marks that port `p`'s leaving UP made are cleared (R437). -/
def State.portBack (s : State) (p : Nat) : State :=
  s.ravor.active.foldl (fun s e =>
    let t := s.topo e.1
    let m := (List.range 4).foldl (fun m n => if hopPort (t.routes.getD n 0) 0 = p then setBit m n false else m) t.portFailed
    if m = t.portFailed then s else (s.setTopo e.1 { t with portFailed := m }).relax e.1) s

/-- A training succeeds: the link layer starts afresh with the credits of R428. -/
def State.trained (s : State) (p width rtt : Nat) (r : TrainRec) : State :=
  let s1 := s.portTo p ptUp 0
  let s2 := ((s1.put (RVR_PORT_STATUS_WIDTH p) width).put (RVR_PORT_STATUS_NBR_EP p) r.ep).put (RVR_PORT_STATUS_NBR_PORT p) r.port
  let s3 := (s2.put (RVR_PORT_RTT_RTT p) (min 65535 rtt)).setFlag (RVR_PORT_CTRL_FULL_TRAIN p) false
  (s3.setPort p { portReset with credits := initialCredits }).portBack p

/-- A training fails: DOWN with its REASON, FENCED at the third failure in one epoch; SUPERSEDED is noted (R414, R415,
R441). DEDUCED, log 117. -/
def State.trainFailed (s : State) (p reason : Nat) : State :=
  let x := s.port p
  let n := x.fails + 1
  let s1 := (s.setPort p { portReset with fails := n }).portTo p (if 3 ≤ n then ptFenced else ptDown) reason
  let refused := match x.nbr with
    | some r => r.refusal
    | none => false
  if decide (reason = 4) && refused then s1.setFlag RVR_EP_ID_SUPERSEDED true else s1

/-- PORT_TRAINING_COMPLETE (R413 to R415). -/
def execPortTrainingComplete (p : Port) (signal : Bool) (width : Fin 4) (rtt ms : Nat) (s : State) : Answer :=
  .next (if s.get (RVR_PORT_STATUS_STATE p) = ptTrain then
    let s1 := s.put (RVR_PORT_RTT_TRAIN_MS p) (min 65535 ms)
    match s1.trainReason p signal width rtt, (s1.port p).nbr with
    | 0, some r => s1.trained p width rtt r
    | n, _ => s1.trainFailed p n
  else s)

/-- TRAIN_RETRY: 10 ms after a failure the port trains again (R414). -/
def execTrainRetry (p : Port) (s : State) : Answer :=
  .next (if s.get (RVR_PORT_STATUS_STATE p) = ptDown ∧ 0 < (s.port p).fails ∧ s.mayTrain p then s.toTrain p else s)

/-- A port leaves UP for RETRAIN and trains at once (R414, R427). -/
def State.retrain (s : State) (p : Nat) : State :=
  ((s.portTo p ptRetrain 0).inc (RVR_PORT_GAP_RETRAIN_CNT p)).toTrain p

/-- PORT_RETRAIN: a trigger of R427; eight expiries in a row are the model's own count. -/
def execPortRetrain (p : Port) (cause : Fin 3) (s : State) : Answer :=
  .next (if s.portUp p && (decide (cause.val ≠ 1) || decide (8 ≤ (s.port p).expiries)) then s.retrain p else s)

/-- FULL_TRAIN: the next training is full (R450). -/
def execFullTrain (p : Port) (s : State) : Answer :=
  .next (s.setFlag (RVR_PORT_CTRL_FULL_TRAIN p) true)

/-- CLR_FENCE: from FENCED to DOWN, and to TRAIN while EN is 1 (R414, R450). -/
def State.unfence (s : State) (p : Nat) : State :=
  if s.get (RVR_PORT_STATUS_STATE p) = ptFenced then
    let s1 := (s.portTo p ptDown 0).setPort p portReset
    if s1.mayTrain p then s1.toTrain p else s1
  else s
/-- DEDUCED, log 117. -/
def execClrFence (p : Port) (s : State) : Answer := .next (s.unfence p)

/-- PORT_ENABLE: EN = 1 takes a port from DOWN to TRAIN, EN = 0 to DOWN (R414, R450). -/
def State.enablePort (s : State) (p : Nat) (on : Bool) : State :=
  let s1 := s.setFlag (RVR_PORT_CTRL_EN p) on
  if on then
    if s1.get (RVR_PORT_STATUS_STATE p) = ptDown ∧ s1.mayTrain p then s1.toTrain p else s1
  else (s1.portTo p ptDown 0).setPort p portReset
def execPortEnable (p : Port) (on : Bool) (s : State) : Answer := .next (s.enablePort p on)

/-! ### Acknowledgement and replay (R421 to R426) -/

/-- The unacknowledged flits that ACK = `a` frees: all up to and including SEQ `a`; none where `a` is outside (R423). -/
def PortSt.acked (x : PortSt) (a : Nat) : PortSt :=
  if x.unacked.any fun f => decide (f.seq = a) then
    let rest := (x.unacked.dropWhile fun f => decide (f.seq ≠ a)).drop 1
    let keep (f : Flit) : Bool := rest.any fun g => decide (g.seq = f.seq)
    let rp := x.replay.filter keep
    { x with unacked := rest, replay := rp, replayFrom := if rp.isEmpty then none else x.replayFrom, expiries := 0 }
  else x

/-- Whether a replay that began at `b` or earlier than `a` is running (R424). -/
def PortSt.replaying (x : PortSt) (a : Nat) : Bool :=
  match x.replayFrom with
  | none => false
  | some b => !x.replay.isEmpty && decide ((a + 4096 - b) % 4096 < 2048)

/-- A replay of every unacknowledged flit from SEQ `a` on, as go-back-N (R424, R425). -/
def PortSt.startReplay (x : PortSt) (a : Nat) : PortSt :=
  let rp := x.unacked.dropWhile fun f => decide (f.seq ≠ a)
  { x with replay := rp, replayFrom := if rp.isEmpty then none else some a }

/-- IDLE_FLIT: a good IDLE flit carries an acknowledgement (R423). -/
def execIdleFlit (p : Port) (ack : BitVec 12) (s : State) : Answer :=
  .next (if s.portUp p then s.setPort p ((s.port p).acked ack.toNat) else s)

/-- NAK: it acknowledges every flit before EXP and starts a replay there, unless one from there or earlier is running
(R423, R424, R426). -/
def execNak (p : Port) (seq ack : BitVec 12) (s : State) : Answer :=
  .next (if s.portUp p then
    let x := ((s.port p).acked ack.toNat).acked ((seq.toNat + 4095) % 4096)
    (s.setPort p (if x.replaying seq.toNat then x else x.startReplay seq.toNat)).inc (RVR_PORT_ERR_NAK_CNT p)
  else s)

/-- REPLAY_TIMEOUT: every unacknowledged flit is replayed from the oldest; a NAK in the same slot wins (R425, R426). -/
def execReplayTimeout (p : Port) (same : Bool) (s : State) : Answer :=
  let x := s.port p
  .next (if s.portUp p && !same then
    match x.unacked with
    | [] => s
    | f :: _ => (s.setPort p { x.startReplay f.seq with expiries := x.expiries + 1 }).inc (RVR_PORT_REPLAY_TMO_CNT p)
  else s)

/-- CREDIT: flit credits of a VC and class come back (R428); the CTRL flit carries an acknowledgement (R423). -/
def execCredit (p : Port) (vc : Fin 3) (cls : Bool) (n : BitVec 16) (ack : BitVec 12) (s : State) : Answer :=
  .next (if s.portUp p then
    let x := (s.port p).acked ack.toNat
    let k := 2 * vc.val + b2n cls
    s.setPort p { x with credits := insert x.credits k (lookupD x.credits k 0 + n.toNat) }
  else s)

/-- A NAK record for EXP waits for the next CTRL flit, unless one is outstanding for this EXP (R422, R424). -/
def PortSt.askAgain (x : PortSt) : PortSt :=
  if x.nakFor = some x.exp then x else { x.tell (nakRecord x.exp) with nakFor := some x.exp }

/-- A flit buffer of the receiver is free again: its credit is owed, and returned in a CREDIT record at 64 (R428). -/
def PortSt.freed (x : PortSt) (k : Nat) : PortSt :=
  let n := lookupD x.owed k 0 + 1
  if 64 ≤ n then { x.tell (creditRecord k n) with owed := erase x.owed k } else { x with owed := insert x.owed k n }

/-- DATA_FLIT_RECEIVE: in order, a gap or a duplicate (R422, R423). DESIGN CHOICE, log 119. -/
def execDataFlitReceive (p : Port) (seq ack : BitVec 12) (vc : Fin 3) (dl : Bool) (s : State) : Answer :=
  .next (if s.portUp p then
    let x := (s.port p).acked ack.toNat
    let d := (seq.toNat + 4096 - x.exp) % 4096
    if d = 0 then s.setPort p ({ x with exp := (x.exp + 1) % 4096, nakFor := none }.freed (2 * vc.val + b2n dl))
    else if d < 2048 then (s.setPort p x.askAgain).inc (RVR_PORT_GAP_GAP_CNT p)
    else (s.setPort p x).inc (RVR_PORT_REPLAY_DUP_CNT p)
  else s)

/-- BAD_FLIT: every field is discarded, EXP stays and a NAK is queued (R416, R424). -/
def execBadFlit (p : Port) (s : State) : Answer :=
  .next (if s.portUp p then (s.setPort p (s.port p).askAgain).inc (RVR_PORT_ERR_CRC_CNT p) else s)

/-- NAK_REPEAT: 600 ticks after a NAK without an in-order flit the NAK is sent once more (R424). -/
def execNakRepeat (p : Port) (s : State) : Answer :=
  let x := s.port p
  .next (if s.portUp p && decide (x.nakFor = some x.exp) then s.setPort p (x.tell (nakRecord x.exp)) else s)

/-! ### The flit slot (R416, R417, R421, R426, R428) -/

/-- Whether a flit of the queue may be sent first: no earlier flit of its VC and class waits, no other class of its VC
is in the middle of a message, and its credit is held (R418, R428). -/
def PortSt.sendable (x : PortSt) (i : Nat) (f : Flit) : Bool :=
  let before := x.queue.take i
  let mid := match x.queue.find? fun g => decide (g.vc = f.vc) && decide (g.dl ≠ f.dl) with
    | some g => !g.som
    | none => false
  !(before.any fun g => decide (g.vc = f.vc) && decide (g.dl = f.dl)) && !mid
    && decide (0 < lookupD x.credits (2 * f.vc + b2n f.dl) 0)

/-- The index of the flit that goes next: MGT before RSP before REQ (R428). DEDUCED, log 116. -/
def PortSt.pick (x : PortSt) : Option Nat :=
  let ixs := (x.queue.zipIdx.filter fun e => x.sendable e.2 e.1)
  (leastBy (fun (e : Flit × Nat) => (2 - e.1.vc) * x.queue.length + e.2) ixs).map (·.2)

/-- A new DATA flit leaves: it takes its SEQ and a credit and stays in the replay buffer (R421, R428). DEDUCED, log 116. -/
def State.sendNew (s : State) (p : Nat) (x : PortSt) (i : Nat) : State :=
  match x.queue[i]? with
  | none => s
  | some f =>
    let g := { f with seq := x.nextSeq }
    let k := 2 * f.vc + b2n f.dl
    let y := { x with queue := x.queue.eraseIdx i, unacked := x.unacked ++ [g], nextSeq := (x.nextSeq + 1) % 4096,
                      credits := insert x.credits k (lookupD x.credits k 0 - 1) }
    (s.setPort p y).wireData p x g

/-- FLIT_SEND: a CTRL flit where records wait, else the replay, else a new DATA flit, else the credits owed or IDLE. A
port in TRAIN sends its records only (R414). DEDUCED, log 116. -/
def State.flitSlot (s : State) (p : Nat) : State :=
  let x := s.port p
  let ctrl (s : State) (x : PortSt) : State :=
    (s.setPort p { x with records := x.records.drop 15 }).wire p flCtrl 0
      (linkHeader 0 x.ack flCtrl 0 false false false) (x.records.take 15).flatten
  if s.portUp p ∨ s.get (RVR_PORT_STATUS_STATE p) = ptTrain then
    if !x.records.isEmpty then ctrl s x
    else if !s.portUp p then s
    else match x.replay with
      | f :: rest =>
        (s.setPort p { x with replay := rest, replayFrom := if rest.isEmpty then none else x.replayFrom }).wireData p x f
      | [] =>
        match (if x.unacked.length < 2048 then x.pick else none) with
        | some i => s.sendNew p x i
        | none =>
          if !x.owed.isEmpty then
            ctrl s { x with owed := [], records := x.owed.map fun (e : Nat × Nat) => creditRecord e.1 e.2 }
          else s.wire p flIdle 0 (linkHeader 0 x.ack flIdle 0 false false false) []
  else s
def execFlitSend (p : Port) (s : State) : Answer := .next (s.flitSlot p)

/-! ### Time transfer (R446, R447) -/

/-- TIME_EXCHANGE: a child sends a request to its parent (R446). DESIGN CHOICE, log 118. -/
def execTimeExchange (t1 : Word) (s : State) : Answer :=
  let p := s.get RVR_TIME_CTRL_PARENT
  .next (if s.get RVR_TIME_CTRL_ROLE = 1 ∧ s.portUp p then s.setPort p ((s.port p).tell (timeReqRecord t1)) else s)

/-- TIME_REQ: the parent answers with its depth, the four stamps and its own offset from the reference (R417, R446). -/
def execTimeReq (p : Port) (t1 t2 t3 : Word) (s : State) : Answer :=
  .next (if s.portUp p ∧ s.get RVR_TIME_CTRL_ROLE ≠ 0 then
    let own := if s.get RVR_TIME_CTRL_ROLE = 2 then 0 else unsigned 16 s.ravor.ownOff
    s.setPort p ((s.port p).tell (timeRspRecord (s.get RVR_TIME_STATUS_DEPTH) t1 t2 t3 own))
  else s)

/-- The difference of two stamps, signed, in 1/16 tick. -/
def stampDiff (a b : Word) : Int := (a - b).toInt

/-- Sixteen exchanges averaged with the parent's offset added, to whole ticks (R446): `sum` is twice the sum of the
offsets in 1/16 tick. DESIGN CHOICE, log 118. -/
def meanOffset (sum parent : Int) : Int := (sum + 32 * parent + 256) / 512

/-- The offset from the reference is `v` ticks at depth `d` (R52, R446, R447). -/
def State.offsetTo (s : State) (v : Int) (d : Nat) : State :=
  let sat : Int := if v < -127 then -127 else if 127 < v then 127 else v
  let s1 := (s.put HUB_TIDE_STATUS_OFFSET (unsigned 8 sat)).setFlag HUB_TIDE_STATUS_ALIGNED (decide (v.natAbs ≤ 3) && decide (d ≤ 4))
  let s2 := ((s1.setFlag RVR_TIME_STATUS_LOCKED true).setFlag RVR_TIME_STATUS_FAR (decide (1024 < v.natAbs))).setFlag
    RVR_TIME_STATUS_DEEP (decide (4 < d))
  { s2.put RVR_TIME_STATUS_DEPTH (min 15 d) with tide := { s2.tide with toGo := v } }

/-- TIME_RSP: a response to a child on its parent port (R446). DESIGN CHOICE, log 118. -/
def execTimeRsp (p : Port) (depth : BitVec 8) (t1 t2 t3 t4 : Word) (offset : BitVec 16) (s : State) : Answer :=
  .next (if s.portUp p ∧ s.get RVR_TIME_CTRL_ROLE = 1 ∧ s.get RVR_TIME_CTRL_PARENT = p.val then
    let ds := s.ravor.offsets ++ [stampDiff t2 t1 - stampDiff t4 t3]
    if ds.length < 16 then { s with ravor := { s.ravor with offsets := ds } }
    else
      let sum := ds.foldl (· + ·) 0
      let s1 := { s with ravor := { s.ravor with offsets := [], ownOff := (sum + 16) / 32 + offset.toInt } }
      s1.offsetTo (meanOffset sum offset.toInt) (depth.toNat + 1)
  else s)

end Sys2Proof.Machine
end

