-- ==== Sys2Proof/Machine/Fabric.lean ====
section
/-! DEFINITION. Messages of the fabric (R418 to R420, R429 to R445, R448, R518): admission, the end-to-end sequence,
transit, failure and reroute, heartbeats and takeover, topology epochs, the board window, the reflectometer. -/

namespace Sys2Proof.Machine

/-! ### Arrival (R429 to R431, R516) -/

/-- Whether messages can arrive at all: some port is UP. -/
def State.linked (s : State) : Bool := (List.range 16).any s.portUp

/-- A message absorbed under R429 or R431. -/
def State.absorbed (s : State) : State := s.inc RVR_ROUTE_SW_ABSORB_CNT

/-- A message of source `src` in its sequence (R430, R431): a duplicate is acknowledged again; a source beyond the
4,096th is absorbed; else `run` decides it, and answers a status, or none where it waits at the ingress. -/
def State.arrive (s : State) (src vc id : Nat) (run : State → State × Option Nat) : State :=
  let key := 4 * src + vc
  let go : State := match run s with
    | (s1, none) => s1
    | (s1, some st) =>
      { s1 with ravor := { s1.ravor with expected := insert s1.ravor.expected key ((id + 1) % 65536) } }.sendEack src id st
  if !s.linked then s
  else match lookup s.ravor.expected key with
    | some e =>
      let d := (e + 65536 - id) % 65536
      if 1 ≤ d ∧ d ≤ 32768 then (s.inc RVR_E2E_CNT_DUP_CNT).sendEack src id stDone else go
    | none =>
      let known := (s.ravor.expected.map fun (x : Nat × Nat) => x.1 / 4).eraseDups
      if known.contains src ∨ known.length < 4096 then go else s.absorbed.sendEack src id stWindowClosed

/-- The partition, lowest first, whose running job defines virtual route `v` and has `src` among its peers, with the
leaves of the route (R429). DESIGN CHOICE, log 119. -/
def State.jobFor (s : State) (src v : Nat) : Option (Nat × List Nat) :=
  (List.range 128).findSome? fun p =>
    match lookup s.jobs p with
    | none => none
    | some j =>
      match j.image.noc.find? fun r => decide (r.number = v) with
      | some r => if s.partLive p && j.peers.contains src then some (p, r.leaves) else none
      | none => none

/-- A remote write of another package reaches one leaf: whether it was admitted (R213, R218, R219). -/
def State.landLeaf (s : State) (leaf : Nat) (key : BitVec 12) (off : Nat) (sink : Option (Nat × Nat))
    (gs : List Granule) : State × Bool :=
  if 2048 ≤ leaf then (s, false)
  else if s.absorbs leaf then (s.countAbsorb leaf, false)
  else match sink with
    | some (i, r) =>
      let x := (s.core leaf).slots.getD i slotReset
      match x.ringDesc r with
      | none => (s, false)
      | some d =>
        let v := x.ring r
        let ok := decide (d.producer = 2) && !v.full.getD v.tail false && decide (off / 64 + gs.length ≤ d.gran)
        if d.producer = 2 then (s.ringFill leaf i r (off / 64) gs false, ok) else (s, false)
    | none =>
      if s.windowMode leaf then
        (s.windowWrite leaf key true (off / 64) gs, s.windowAdmits leaf key true (off / 64) gs.length)
      else
        let ok := (List.range 4).any fun e => s.creditAdmits leaf e key (off / 64) gs.length
        (s.creditWrite leaf key (off / 64) gs, ok)

/-- A write lands at every leaf; its status is WINDOW_CLOSED when a leaf drops it. DEDUCED, log 114. -/
def State.landWrite (s : State) (leaves : List Nat) (key : BitVec 12) (off : Nat) (sink : Option (Nat × Nat))
    (gs : List Granule) : State × Bool :=
  leaves.foldl (fun a l =>
    let (s1, ok) := a.1.landLeaf l key off sink gs
    (s1, a.2 && ok)) (s, true)

/-- The FIFO `x` with a packet of the fabric reserved: its own reservation stands from an earlier attempt, or it is made
now, or the packet is held and FULL is raised (R222, R225). DEDUCED, log 46. -/
def Fifo.claim (x : Fifo) (route src n : Nat) : Fifo :=
  if x.inProg = some (route, src, n) then x else x.begin route src n
def Fifo.claimed (x : Fifo) (route src n : Nat) : Bool :=
  decide ((x.claim route src n).inProg = some (route, src, n))

/-- A packet of the fabric reaches the FIFOs of port 0 of its leaves (R626): none while a FIFO has no room (R225,
R420). -/
def State.landPacket (s : State) (leaves : List Nat) (src v : Nat) (gs : List Granule) : Option (State × Bool) :=
  let key := 65536 + src
  let there := leaves.filter fun l => decide (l < 2048) && !s.absorbs l
  if there.all fun l => (s.fifo l 0).claimed v key gs.length then
    let s1 := there.foldl (fun s l =>
      let x := (s.fifo l 0).claim v key gs.length
      let pk : Packet := { route := v, source := key, grans := gs, badWords := [] }
      s.fifoDone l 0 (({ x with inProg := none }).setFilling (x.filling ++ [pk])).settle) s
    let gone := leaves.filter fun l => decide (l < 2048) && s.absorbs l
    some (gone.foldl (fun s l => s.countAbsorb l) s1, decide (there = leaves))
  else none

/-- FULL is raised at the FIFOs that make a packet wait at the ingress (R222, R225). -/
def State.holdPacket (s : State) (leaves : List Nat) (src v n : Nat) : State :=
  (leaves.filter fun l => decide (l < 2048) && !s.absorbs l).foldl (fun s l =>
    if (s.fifo l 0).claimed v (65536 + src) n then s
    else s.setFifo l 0 ((s.fifo l 0).claim v (65536 + src) n)) s

/-- DEDUCED, log 114. -/
def closedOr (ok : Bool) : Nat := if ok then stDone else stWindowClosed

/-! ### The spool (R518) -/

/-- Bytes of the spool of partition `p`: the pages of its object. -/
def State.spoolSize (s : State) (p : Nat) : Nat :=
  match s.obj (s.get (HUB_RCV_SPOOL_HANDLE p)) with
  | some o => 65536 * o.pages
  | none => 0

/-- SPOOL_APPEND: an admitted message is held and answered DONE, or absorbed where the spool is full (R518). DEDUCED, log 120. -/
def State.spool (s : State) (p : Nat) (m : Spooled) : State × Nat :=
  let held := lookupD s.spools p []
  let used := (held.map fun x => x.msg.bytes.length).foldl (· + ·) 0
  if used + m.msg.bytes.length ≤ s.spoolSize p then ({ s with spools := insert s.spools p (held ++ [m]) }, stDone)
  else
    let s1 := (s.inc (HUB_RCV_PART_SPOOL_FULL p)).absorbed
    match lookup s1.recov p with
    | some r => ({ s1 with recov := insert s1.recov p { r with overflow := true } }, stWindowClosed)
    | none => (s1, stWindowClosed)

/-- Whether partition `p` spools its messages: from phase 4 of a recovery to T (R518). -/
def State.spools? (s : State) (p : Nat) : Bool := (lookup s.spools p).isSome

/-! ### WRITE and PACKET (R420, R429) -/

def State.inMsg (s : State) (src : Nat) (key vroute id : Nat) (kind offset : Nat) (gs : List Granule) : RMsg :=
  { s.newMsg 0 kind with src := src, key := key, vroute := vroute, id := id, offset := offset, grans := gs }

/-- The standby binding whose KV object takes a mirrored block: it names the route, and the sender is a serving engine
(R405). DESIGN CHOICE, log 98. -/
def State.mirrorBind (s : State) (key : BitVec 12) (v : Nat) : Option Nat :=
  if key = 0x828 then
    (List.range 32).find? fun b => s.flag (SRV_BIND0_STANDBY b) && !s.flag (SRV_BIND0_EN b)
      && decide (s.get (SRV_BIND3_FEED_ROUTE b) = v)
  else none

/-- A WRITE judged at its destination. -/
def State.writeIn (s : State) (src : Nat) (key : BitVec 12) (v id off : Nat) (sink : Option (Nat × Nat))
    (gs : List Granule) : State × Nat :=
  match s.mirrorBind key v, s.jobFor src v with
  | some b, _ => (s.writeObj (s.get (SRV_BIND6_KV_OBJ b)) off gs, stDone)
  | none, none => (s.absorbed, stWindowClosed)
  | none, some (p, leaves) =>
    if s.spools? p then
      let m : Spooled := { msg := s.inMsg src key.toNat v id 1 off gs, sink := sink, at_ := s.tide.now }
      let ok := sink.isSome || leaves.all fun l => s.windowAdmits l key true (off / 64) gs.length
      if ok then s.spool p m else (s, stWindowClosed)
    else
      let (s1, ok) := s.landWrite leaves key off sink gs
      (s1, closedOr ok)
/-- DESIGN CHOICE, log 119. -/
def execWrite (src : Endpoint) (key vroute : BitVec 12) (id : BitVec 16) (offset : Word) (sink : Option (Slot × Ring))
    (grans : List Granule) (s : State) : Answer :=
  let sk := sink.map fun (x : Slot × Ring) => (x.1.val, x.2.val)
  .next (s.arrive src 0 id.toNat fun s =>
    let (s1, st) := s.writeIn src key vroute.toNat id.toNat (alignDown offset.toNat 64) sk (grans.take 256)
    (s1, some st))

/-- A PACKET judged at its destination: it waits at the ingress while a FIFO has no room for it, which FULL shows
(R225, R420). -/
def State.packetIn (s : State) (src : Nat) (key : BitVec 12) (v id : Nat) (gs : List Granule) :
    State × Option Nat :=
  if 64 < gs.length then (s.absorbed, some stWindowClosed)
  else match s.jobFor src v with
    | none => (s.absorbed, some stWindowClosed)
    | some (p, leaves) =>
      if s.spools? p then
        let (s1, st) := s.spool p { msg := s.inMsg src key.toNat v id 0 0 gs, sink := none, at_ := s.tide.now }
        (s1, some st)
      else match s.landPacket leaves src v gs with
        | some (s1, ok) => (s1, some (closedOr ok))
        | none => (s.holdPacket leaves src v gs.length, none)
/-- DESIGN CHOICE, log 119. -/
def execPacket (src : Endpoint) (key vroute : BitVec 12) (id : BitVec 16) (grans : List Granule)
    (s : State) : Answer :=
  .next (s.arrive src 0 id.toNat fun s => s.packetIn src key vroute.toNat id.toNat grans)

/-! ### EACK and the failure of a route (R430, R432, R435 to R438) -/

/-- DRAINING ends once no message awaits its EACK (R442). -/
def State.drained (s : State) : State :=
  if s.get RVR_EPOCH_STATUS_PHASE = 1 ∧ s.ravor.waiting = [] then s.put RVR_EPOCH_STATUS_PHASE 2 else s

/-- A message's sender sees its EACK (R62, R115, R429). DESIGN CHOICE, log 107. -/
def State.settleSent (s : State) (who : RSender) (m : RMsg) (done : Bool) : State :=
  match who with
  | .packet c r => s.packetDone c r m.grans.length
  | .core c id => if (s.core c).xfers.any fun x => decide (x.id = id) then s.endXfer c id (!done) else s
  | .ferry h n x => if done then s else s.fetchLost h n x
  | .board => if done then s else s.undelivered .board m
  | .engine _ => s

/-- EACK (R429, R430, R437). -/
def execEack (src : Endpoint) (vc : Fin 3) (id : BitVec 16) (done : Bool) (s : State) : Answer :=
  let hit := s.ravor.waiting.find? fun w =>
    decide (w.2.dest = src.val) && decide (vcOf w.2.kind = vc.val) && decide (w.2.id = id.toNat)
  .next (match s.linked, hit with
    | true, some w =>
      let s1 := { s with ravor := { s.ravor with waiting := s.ravor.waiting.erase w } }
      (((s1.settleSent w.1 w.2 done)).relax (s1.via src)).drained
    | _, _ => s)

/-- EACK_TIMEOUT: the route in use to the destination is marked failed (R432, R436). -/
def execEackTimeout (dest : Endpoint) (vc : Fin 3) (id : BitVec 16) (s : State) : Answer :=
  let hit := s.ravor.waiting.any fun w =>
    decide (w.2.dest = dest.val) && decide (vcOf w.2.kind = vc.val) && decide (w.2.id = id.toNat)
  let v := s.via dest
  .next (if hit then s.markFailed v (s.topo v).inUse false else s)

/-- ROUTE_FAIL: every entry's route equal to the one it names is marked failed (R436). -/
def execRouteFail (route : DWord) (_hop : Fin 16) (s : State) : Answer :=
  .next (if s.linked then
    s.ravor.active.foldl (fun s e => (List.range 4).foldl (fun s n =>
      if bit e.2.valid n ∧ e.2.routes.getD n 0 = route then s.markFailed e.1 n false else s) s) s
  else s)

/-- An MGT message: its subtype in OFFSET, what it names in one granule (R418). DESIGN CHOICE, log 108. -/
def State.sendMgt (s : State) (dest subtype : Nat) (bytes : List Byte) : State :=
  s.ravorSend .board { s.newMsg dest 8 with offset := subtype, grans := if bytes = [] then [] else [plainGranule bytes] }

/-- TRANSIT_FORWARD: the message crosses to the egress port of its hop, or is discarded with a ROUTE_FAIL to its source
(R435). DESIGN CHOICE, log 109. -/
def execTransitForward (dest src : Endpoint) (key : BitVec 12) (kind : Fin 9) (vroute : BitVec 12) (tick : DWord)
    (offset : Word) (resend : Bool) (id : BitVec 16) (route : DWord) (hop : Fin 16) (dl : Bool) (grans : List Granule)
    (s : State) : Answer :=
  let p := hopPort route hop
  let m : RMsg := { dest := dest, src := src, key := key.toNat, kind := kind, vroute := vroute.toNat, tick := tick,
                    offset := offset.toNat, resend := resend, id := id.toNat, route := route, hop := hop + 1,
                    tenant := 0, baddr := 0, grans := grans }
  .next (if !s.linked then s
    else if hop.val < hopCount route ∧ s.portUp p then
      s.setPort p { s.port p with queue := (s.port p).queue ++ m.flits (dl || hopDate route hop) }
    else s.sendMgt src 4 (leBytes 8 route.toNat ++ leBytes 1 hop.val))

/-! ### Heartbeats and takeover (R439 to R441) -/

/-- HEARTBEAT_SEND. DESIGN CHOICE, log 4. -/
def execHeartbeatSend (s : State) : Answer :=
  .next ((List.range 4).foldl (fun s n =>
    if s.flag (RVR_HB_TGT_V n) then s.sendMgt (s.get (RVR_HB_TGT_EP n)) 1 [] else s) s)

/-- HEARTBEAT: the silence of the watches of its source ends. -/
def execHeartbeat (src : Endpoint) (s : State) : Answer :=
  .next (if s.linked then
    (List.range 4).foldl (fun (s : State) n =>
      if s.get (RVR_WATCH_EP n) = src.val then
        { s with ravor := { s.ravor with silent := erase s.ravor.silent n } }
      else s) s
  else s)

/-- The endpoints to which takeovers are announced: at most 4,096 entries with ANN of the ACTIVE bank (R440). -/
def State.annTargets (s : State) : List Nat :=
  ((s.ravor.active.filter fun e => e.2.ann).map (·.1)).take 4096

/-- A takeover: this package answers to `e`, and says so three times (R440). DESIGN CHOICE, log 110. -/
def State.takeOver (s : State) (e : Nat) : State :=
  let s1 := (s.put RVR_EP_ALIAS_ALIAS e).setFlag RVR_EP_ALIAS_VALID true
  let s2 := (List.range 4).foldl (fun s n =>
    if s.get (RVR_WATCH_EP n) = e ∧ s.flag (RVR_WATCH_ARM n) then s.setFlag (RVR_WATCH_TAKEN n) true else s) s1
  let say (s : State) : State := s.annTargets.foldl (fun s t => s.sendMgt t 2 (leBytes 2 e)) s
  (say (say (say s2))).epEvent e 2

/-- Whether detection is suspended: the epoch phase is not RUN, or RESUME was less than 10 ms ago (R439). -/
def State.watchSuspended (s : State) : Bool :=
  decide (s.get RVR_EPOCH_STATUS_PHASE ≠ 0) || (match s.ravor.resumedAt with
    | some t => decide ((s.tide.now - t).toNat < 12000000)
    | none => false)

/-- HEARTBEAT_MISS: one more period without the watched endpoint's heartbeat; at MISS, with no usable route, it is lost
(R439, R440). -/
def execHeartbeatMiss (n : Fin 4) (s : State) : Answer :=
  let e := s.get (RVR_WATCH_EP n)
  .next (if s.flag (RVR_WATCH_ARM n) && !s.watchSuspended then
    let k := lookupD s.ravor.silent n 0 + 1
    let s1 := { s with ravor := { s.ravor with silent := insert s.ravor.silent n k } }
    if s.get RVR_HB_CTRL_MISS ≤ k ∧ (s.bestRoute (s.topo (s.via e))).isNone ∧ s.flag (RVR_WATCH_LOST n) = false then
      let s2 := (s1.setFlag (RVR_WATCH_LOST n) true)
      if s2.flag RVR_EP_ALIAS_VALID then s2.epEvent e 1 else s2.takeOver e
    else s1
  else s)

/-- ALIAS_TAKE: RVR_EP_ALIAS.TAKE forces the takeover of ALIAS (R440). -/
def execAliasTake (s : State) : Answer :=
  .next (if s.flag RVR_EP_ALIAS_VALID then s else s.takeOver (s.get RVR_EP_ALIAS_ALIAS))

/-- Every message to `e` not yet acknowledged is resent over the route that its entry leads to now (R436). -/
def State.reroute (s : State) (e : Nat) : State :=
  let again := s.ravor.waiting.filter fun w => decide (w.2.dest = e)
  match s.bestRoute (s.topo (s.via e)) with
  | none => s
  | some n =>
    let t := s.topo (s.via e)
    let m := if s.usable t t.inUse then t.inUse else n
    let s1 := (s.setTopo (s.via e) { t with inUse := m }).inc RVR_ROUTE_SW_FAIL_SW_CNT
    again.foldl (fun s w => (s.enqueue { w.2 with resend := true } (t.routes.getD m 0)).inc RVR_E2E_CNT_RESEND_CNT) s1

/-- An entry of both banks changed. -/
def State.bothBanks (s : State) (e : Nat) (f : TopoEntry → TopoEntry) : State :=
  { s with ravor := { s.ravor with
      active := insert s.ravor.active e (f (lookupD s.ravor.active e topoReset)),
      shadow := insert s.ravor.shadow e (f (lookupD s.ravor.shadow e topoReset)) } }

/-- This package gives up its alias `e` to a watcher with a lower endpoint ID (R441). -/
def State.giveUp (s : State) (e : Nat) : State :=
  let s1 := s.annTargets.foldl (fun s t => s.sendMgt t 3 (leBytes 2 e)) s
  let s2 := s1.setFlag RVR_EP_ALIAS_VALID false
  (List.range 4).foldl (fun s n =>
    if s.get (RVR_WATCH_EP n) = e then s.setFlag (RVR_WATCH_TAKEN n) false else s) s2

/-- TAKEOVER: the lost endpoint's entry is redirected to the watcher, the lower of two watchers standing (R440, R441,
R443). -/
def execTakeover (src ep : Endpoint) (s : State) : Answer :=
  let mine := s.flag RVR_EP_ALIAS_VALID && decide (s.get RVR_EP_ALIAS_ALIAS = ep.val)
  let own := s.get RVR_EP_ID_ID
  let t := s.topo ep
  .next (if !s.linked || (mine && decide (own < src.val)) then s
    else
      let s1 := if mine then s.giveUp ep else s
      if t.redir && decide (t.redirect ≤ src.val) then s1
      else
        let s2 := s1.bothBanks ep fun t => { t with redir := true, redirect := src }
        (s2.reroute ep).epEvent ep 3)

/-- WITHDRAW: the redirect to its sender ends (R441). DESIGN CHOICE, log 110. -/
def execWithdraw (src ep : Endpoint) (s : State) : Answer :=
  let off (t : TopoEntry) : TopoEntry := if t.redir ∧ t.redirect = src.val then { t with redir := false } else t
  .next (if s.linked && (s.topo ep).redir && decide ((s.topo ep).redirect = src.val) then
    (s.bothBanks ep off).reroute ep
  else s)

/-! ### Topology epochs (R442, R443) -/

def State.clampRvr (s : State) (r : Reg) : State :=
  s.clampAt RVR_CLAMP_COUNT RVR_CLAMP_LAST_ADDR RVR_CLAMP_LAST_BAR2 r.addr false

/-- A step of the epoch change in its order, or a clamp (R443). -/
def State.epochStep (s : State) (inOrder : Bool) (run : State → State) : Answer :=
  .next (if inOrder then run s else s.clampRvr RVR_EPOCH_CMD)

def execEpochDrain (s : State) : Answer :=
  s.epochStep (decide (s.get RVR_EPOCH_STATUS_PHASE = 0)) fun s => (s.put RVR_EPOCH_STATUS_PHASE 1).drained

/-- EPOCH_DRAIN_TIMEOUT: 2 ms after DRAIN with messages still unacknowledged. -/
def execEpochDrainTimeout (s : State) : Answer :=
  .next (if s.get RVR_EPOCH_STATUS_PHASE = 1 then
    (s.put RVR_EPOCH_STATUS_PHASE 2).setFlag RVR_EPOCH_STATUS_DRAIN_TMO true else s)

/-- EPOCH_RETRAIN: every enabled port trains for the next epoch (R414, R442). -/
def execEpochRetrain (s : State) : Answer :=
  s.epochStep (decide (s.get RVR_EPOCH_STATUS_PHASE = 2)) fun s =>
    (List.range 16).foldl (fun s p =>
      if s.mayTrain p && decide (s.get (RVR_PORT_STATUS_STATE p) ≠ ptFenced) then s.toTrain p else s)
      (s.put RVR_EPOCH_STATUS_PHASE 3)

/-- An entry as COMMIT leaves it: its marks are clear and its lowest usable route is in use. -/
def State.freshEntry (s : State) (t : TopoEntry) : TopoEntry :=
  let u := { t with failed := 0, portFailed := 0 }
  { u with inUse := (s.bestRoute u).getD 0 }

/-- The destinations this package has messages for, or a job's peer table names. -/
def State.destinations (s : State) : List Nat :=
  ((s.ravor.waiting ++ s.ravor.stalled).map (fun w => w.2.dest)
    ++ s.jobs.flatMap fun j => if 0 < j.2.image.peers then j.2.peers else []).eraseDups

/-- EPOCH_COMMIT (R414, R437, R442). DEDUCED, log 111. -/
def execEpochCommit (s : State) : Answer :=
  s.epochStep (decide (s.get RVR_EPOCH_STATUS_PHASE = 3) && !s.ravor.committed) fun s =>
    let s1 := s.put RVR_EPOCH_STATUS_EPOCH (s.get RVR_EPOCH_STATUS_EPOCH + 1)
    let s2 := { s1 with ravor := { s1.ravor with
      active := s1.ravor.shadow.map (fun (e : Nat × TopoEntry) => (e.1, s1.freshEntry e.2)), shadow := s1.ravor.active,
      expected := [], committed := true } }
    let s3 := (List.range 16).foldl (fun s p =>
      (if s.get (RVR_PORT_STATUS_STATE p) = ptFenced then s.unfence p
       else s.setPort p { s.port p with fails := 0 })) s2
    (s3.destinations.filter fun e => decide (e ≠ s3.get RVR_EP_ID_ID)).foldl (fun s e =>
      if (s.bestRoute (s.topo (s.via e))).isNone then s.destinationLost e else s) s3

/-- EPOCH_RESUME: messages not yet acknowledged are resent, then the stalled senders proceed (R442). -/
def execEpochResume (s : State) : Answer :=
  s.epochStep (decide (s.get RVR_EPOCH_STATUS_PHASE = 3) && s.ravor.committed) fun s =>
    let again := s.ravor.waiting
    let held := s.ravor.stalled
    let s1 := { s with ravor := { s.ravor with stalled := [], committed := false, resumedAt := some s.tide.now } }
    let s2 := s1.put RVR_EPOCH_STATUS_PHASE 0
    let s3 := again.foldl (fun s w =>
      if s.ravor.waiting.contains w then (s.sendOn w.1 { w.2 with resend := true }).inc RVR_E2E_CNT_RESEND_CNT else s) s2
    held.foldl (fun s w => s.sendOn w.1 w.2) s3

/-! ### The topology table's window (R434, R450) -/

def State.bankEntry (s : State) : TopoEntry :=
  let e := s.get RVR_TOPO_IDX_EP
  if s.flag RVR_TOPO_IDX_BANK then lookupD s.ravor.shadow e topoReset else s.topo e

/-- TOPO_READ. -/
def execTopoRead (s : State) : Answer :=
  let t := s.bankEntry
  let s1 := ((s.put RVR_TOPO_CTL_REDIRECT t.redirect).setFlag RVR_TOPO_CTL_REDIR t.redir).put RVR_TOPO_CTL_RVALID t.valid
  let s2 := ((s1.put RVR_TOPO_CTL_FAILED (t.failed ||| t.portFailed)).put RVR_TOPO_CTL_IN_USE t.inUse).setFlag
    RVR_TOPO_CTL_ANN t.ann
  .next ((List.range 8).foldl (fun s n =>
    s.put (RVR_TOPO_ROUTE_ROUTE n) ((t.routes.getD (n / 2) 0).toNat / 2 ^ (32 * (n % 2)) % 2 ^ 32)) s2)

/-- TOPO_WRITE: the SHADOW bank only. -/
def execTopoWrite (s : State) : Answer :=
  .next (if s.flag RVR_TOPO_IDX_BANK then
    let e := s.get RVR_TOPO_IDX_EP
    let r (n : Nat) : DWord :=
      BitVec.ofNat 64 (s.get (RVR_TOPO_ROUTE_ROUTE (2 * n)) + s.get (RVR_TOPO_ROUTE_ROUTE (2 * n + 1)) * 2 ^ 32)
    let t : TopoEntry := { s.bankEntry with
      redirect := s.get RVR_TOPO_CTL_REDIRECT, redir := s.flag RVR_TOPO_CTL_REDIR, valid := s.get RVR_TOPO_CTL_RVALID,
      ann := s.flag RVR_TOPO_CTL_ANN, routes := [r 0, r 1, r 2, r 3] }
    { s with ravor := { s.ravor with shadow := insert s.ravor.shadow e t } }
  else s.clampRvr RVR_TOPO_CMD)

/-! ### The board window (R420, R445) -/

/-- Whether an endpoint is a board peer. -/
def State.boardPeer (s : State) (e : Nat) : Bool :=
  s.flag RVR_MODE_BW && (List.range 4).any fun n => s.flag (RVR_BOARD_EP_V n) && decide (s.get (RVR_BOARD_EP_EP n) = e)

/-- The object and page of a tenant that a near frame of a harbor holds. -/
def State.frameOwner (s : State) (h frame tenant : Nat) : Option (Nat × Nat × TierObj) :=
  let x := s.harbor h
  if x.fenced then none
  else x.objs.findSome? fun e =>
    if e.2.owner = some tenant then
      (e.2.near.find? fun p => decide (p.2 = frame)).map fun p => (e.1, p.1, e.2)
    else none

/-- The near granules of a board address, each with its owner's object and page; none where one is not admitted. -/
def State.boardGrans (s : State) (src tenant : Nat) (baddr : DWord) (n : Nat) (write : Bool) :
    Option (List (Nat × Nat × Nat)) :=
  let a := baddr.toNat
  let h := bitsOf a 46 2
  let off := a % 2 ^ 38
  if !s.boardPeer src || decide (bitsOf a 38 8 ≠ 0) then none
  else (List.range n).mapM fun i =>
    let g := off / 64 + i
    match s.frameOwner h (g / 1024) tenant with
    | some (ix, pg, o) => if write && o.sealed then none else some (ix, pg, g % 1024)
    | none => none

/-- BOARD_WR. -/
def execBoardWr (src : Endpoint) (id : BitVec 16) (tenant : Tenant) (baddr : DWord) (grans : List Granule)
    (s : State) : Answer :=
  .next (s.arrive src 0 id.toNat fun s =>
    match s.boardGrans src tenant baddr grans.length true with
    | none => (s, some stWindowClosed)
    | some ps =>
      let h := bitsOf baddr.toNat 46 2
      ((ps.zip grans).foldl (fun s e => s.writePage h e.1.1 e.1.2.1 e.1.2.2 [e.2]) s, some stDone))

/-- BOARD_RD: the granules go back in a BOARD_DATA. -/
def execBoardRd (src : Endpoint) (id : BitVec 16) (tenant : Tenant) (baddr : DWord) (grans : Nat) (s : State) : Answer :=
  .next (s.arrive src 0 id.toNat fun s =>
    match s.boardGrans src tenant baddr (min grans 256) false with
    | none => (s, some stWindowClosed)
    | some _ =>
      let h := bitsOf baddr.toNat 46 2
      let off := baddr.toNat % 2 ^ 38
      let gs := (List.range (min grans 256)).map fun i =>
        let g := off / 64 + i
        asGranule ((s.harbor h).nearBytes (g / 1024) (g % 1024 * 64) 64)
      let m := { s.newMsg src 7 with tenant := tenant.val, baddr := baddr.toNat, grans := gs }
      (s.ravorSend (.engine 128) m, some stDone))

/-- BOARD_DATA: the data of the oldest read of that endpoint reach the aperture. DESIGN CHOICE, log 113. -/
def execBoardData (src : Endpoint) (id : BitVec 16) (grans : List Granule) (s : State) : Answer :=
  .next (s.arrive src 1 id.toNat fun s =>
    match s.host.boardReads.find? fun r => decide (r.1 = src.val) with
    | none => (s.absorbed, some stWindowClosed)
    | some r =>
      let bytes := ((grans.flatMap fun (g : Granule) => g.data).drop r.2.1).take r.2.2
      let s1 := { s with host := { s.host with boardReads := s.host.boardReads.erase r } }
      (s1.emit (.readData bytes (grans.any granPoisoned)), some stDone))

/-! ### The reflectometer (R448, R451) -/

/-- REFL_START: a lane whose port is DOWN or FENCED is measured; FORCE takes the port to DOWN first. DEDUCED, log 112. -/
def execReflStart (n : OE) (s : State) : Answer :=
  let p := 4 * n.val + s.get (OPT_REFL_CMD_LANE n) / 4
  let still (s : State) : Bool :=
    let st := s.get (RVR_PORT_STATUS_STATE p)
    decide (st = ptDown) || decide (st = ptFenced)
  .next (if s.flag (OPT_REFL_STATUS_BUSY n) then s.setFlag (OPT_REFL_STATUS_REFUSED n) true
    else
      let s1 := if s.flag (OPT_REFL_CMD_FORCE n) && !still s then s.portTo p ptDown 0 else s
      if still s1 then s1.setFlag (OPT_REFL_STATUS_BUSY n) true else s1.setFlag (OPT_REFL_STATUS_REFUSED n) true)

/-- Whether an event needs cleaning: a reflectance above −CLEAN_REFL/2 dB, or a loss above CLEAN_LOSS (R448). -/
def State.dirtyEvent (s : State) (n refl loss : Nat) : Bool :=
  (decide (refl ≠ 0) && decide (refl < s.get (OPT_REFL_CTRL_CLEAN_REFL n)))
    || decide (s.get (OPT_REFL_CTRL_CLEAN_LOSS n) < loss)

/-- REFL_COMPLETE. DEDUCED, log 112. -/
def execReflComplete (n : OE) (events : List (BitVec 15 × BitVec 8 × BitVec 8)) (s : State) : Answer :=
  .next (if s.flag (OPT_REFL_STATUS_BUSY n) then
    let es := events.take 8
    let s1 := ((s.setFlag (OPT_REFL_STATUS_BUSY n) false).put (OPT_REFL_STATUS_EVENTS n) es.length).setFlag
      (OPT_REFL_STATUS_DIRTY n) (es.any fun e => s.dirtyEvent n e.2.1.toNat e.2.2.toNat)
    (List.range 8).foldl (fun s i =>
      match es[i]? with
      | none => s.setReg (OPT_REFL_EVT n i) 0
      | some (d, r, l) =>
        (((s.put (OPT_REFL_EVT_DIST_CM n i) d.toNat).put (OPT_REFL_EVT_REFL n i) r.toNat).put (OPT_REFL_EVT_LOSS n i)
          l.toNat).setFlag (OPT_REFL_EVT_CLEAN n i) (s.dirtyEvent n r.toNat l.toNat)) s1
  else s)

end Sys2Proof.Machine
end

