-- ==== Sys2Proof/Machine/Image.lean ====
section
/-! DEFINITION. Reading a Dorfort image out of its bytes (R350 to R363): container, section table, records, and the checks
0x01 to 0x04 of R364. Record lists keep the order of the image. -/

namespace Sys2Proof.Machine

/-! ### Faults and readers -/

/-- A check of R364 that fails: check, status, section index (0x3FF: header, table or trailer), record. -/
structure LoadFault where
  check   : Nat
  status  : Nat
  section_ : Nat
  record_ : Nat
  deriving DecidableEq, Repr

/-- The number whose big-endian bytes are `bs`. -/
def beNat (bs : List Byte) : Nat := leNat bs.reverse

/-- A number of `n` little-endian bytes and what follows it. -/
def takeNat (n : Nat) (bs : List Byte) : Option (Nat × List Byte) :=
  if bs.length < n then none else some (leNat (bs.take n), bs.drop n)

/-- `k` numbers of `n` bytes each. -/
def takeNats (n k : Nat) (bs : List Byte) : Option (List Nat × List Byte) :=
  match k with
  | 0 => some ([], bs)
  | k + 1 =>
    match takeNat n bs with
    | none => none
    | some (v, rest) =>
      match takeNats n k rest with
      | none => none
      | some (vs, more) => some (v :: vs, more)

/-- `n` records read one after the other; the index of the first that does not fit or has a reserved bit set. -/
def takeRecords {α : Type} (f : List Byte → Option (α × List Byte)) (n i : Nat) (bs : List Byte) :
    Except Nat (List α) :=
  match n with
  | 0 => .ok []
  | n + 1 =>
    match f bs with
    | none => .error i
    | some (v, rest) =>
      match takeRecords f n (i + 1) rest with
      | .error e => .error e
      | .ok vs => .ok (v :: vs)

/-- A fixed-size record read from its number, where its reserved bits `zero` (first bit, width) are 0. -/
def fixedRec {α : Type} (size : Nat) (zero : List (Nat × Nat)) (f : Nat → α) (bs : List Byte) :
    Option (α × List Byte) :=
  match takeNat size bs with
  | none => none
  | some (v, rest) => if zero.all fun z => decide (bitsOf v z.1 z.2 = 0) then some (f v, rest) else none

/-! ### Records (R354 to R363) -/

/-- SLOTPROG (R354). -/
def recProg (bs : List Byte) : Option ((Nat × List DWord) × List Byte) :=
  match takeNat 8 bs with
  | none => none
  | some (h, rest) =>
    if bitsOf h 11 5 ≠ 0 ∨ bitsOf h 26 38 ≠ 0 then none
    else match takeNats 8 (bitsOf h 16 10 + 1) rest with
      | none => none
      | some (ws, more) => some ((bitsOf h 0 11, ws.map fun w => BitVec.ofNat 64 w), more)

/-- SPLIT: core and C (R354). -/
def recSplit : List Byte → Option ((Nat × Nat) × List Byte) :=
  fixedRec 2 [(14, 2)] fun v => (bitsOf v 0 11, bitsOf v 11 3)

/-- TILESTORE (R354). -/
def recInit (bs : List Byte) : Option (TsInit × List Byte) :=
  match takeNat 8 bs with
  | none => none
  | some (h, rest) =>
    let n := bitsOf h 26 14 + 1
    if bitsOf h 40 24 ≠ 0 ∨ rest.length < 68 * n then none
    else some ({ core := bitsOf h 0 11, first := bitsOf h 11 15, data := rest.take (64 * n),
                 scales := (rest.drop (64 * n)).take (4 * n) }, rest.drop (68 * n))

/-- Descriptors (R356, R357): none where a reserved bit is set. -/
def readMat (v : Nat) : Option MatDesc :=
  if bitsOf v 76 52 ≠ 0 ∨ bitsOf v 62 2 ≠ 0 then none
  else some { ringBacked := bit v 0, rowsLayout := bit v 1, base := bitsOf v 2 15, breg := bitsOf v 17 4,
              fmt := BitVec.ofNat 4 (bitsOf v 21 4), rowsMax := bitsOf v 25 14 + 1, colsMax := 32 * (bitsOf v 39 9 + 1),
              rstride := bitsOf v 48 14 + 1, ctr := bitsOf v 64 7, wreg := bitsOf v 71 5 }
def readRing (v : Nat) : Option RingDesc :=
  if bitsOf v 38 26 ≠ 0 then none
  else some { base := bitsOf v 0 15, gran := bitsOf v 15 8 + 1, slots := bitsOf v 23 4, producer := bitsOf v 27 3,
              consumer := bitsOf v 30 1, forward := if bit v 37 then some (bitsOf v 31 6) else none }
def readRoute (v : Nat) : Option RouteDesc :=
  if bitsOf v 54 10 ≠ 0 then none
  else some { kind := bitsOf v 0 2, vroute := bitsOf v 2 12, listLen := bitsOf v 14 3 + 1, dkind := bitsOf v 17 2,
              dsel := bitsOf v 19 4, remote := bit v 23, rank := bitsOf v 24 16, peerRoute := bitsOf v 40 12,
              port := bitsOf v 52 2 }
def readObj (v : Nat) : Option ObjDesc :=
  if bitsOf v 59 5 ≠ 0 then none
  else some { slot := bitsOf v 0 8, handle := 0, cache := bitsOf v 8 2, write := bit v 10, first := bitsOf v 11 24,
              pages := bitsOf v 35 24 }
def readWin (v : Nat) : Option WinDesc :=
  if bitsOf v 56 8 ≠ 0 then none
  else some { base := bitsOf v 0 15, limit := bitsOf v 15 15, sndBase := bitsOf v 30 12, sndMask := bitsOf v 42 12,
              scope := bit v 54, bind := bit v 55 }

/-- `n` descriptors of `size` bytes. -/
def takeDescs {α : Type} (size : Nat) (f : Nat → Option α) (n : Nat) (bs : List Byte) : Option (List α × List Byte) :=
  match takeNats size n bs with
  | none => none
  | some (vs, rest) => (vs.mapM f).map fun xs => (xs, rest)

/-- DESC (R355): head, then matrix, ring, route, tier-object and window entries. -/
def recDesc (bs : List Byte) : Option ((Nat × Tables) × List Byte) := do
  let (h, r0) ← takeNat 8 bs
  if bitsOf h 11 5 ≠ 0 ∨ bitsOf h 42 22 ≠ 0 then none else
  let (ms, r1) ← takeDescs 16 readMat (bitsOf h 16 5) r0
  let (rs, r2) ← takeDescs 8 readRing (bitsOf h 21 5) r1
  let (ts, r3) ← takeDescs 8 readRoute (bitsOf h 26 7) r2
  let (os, r4) ← takeDescs 8 readObj (bitsOf h 33 5) r3
  let (ws, r5) ← takeDescs 8 readWin (bitsOf h 38 4) r4
  some ((bitsOf h 0 11, { mats := ms, rings := rs, routes := ts, objs := os, wins := ws }), r5)

/-- NOCROUTE and RAVROUTE (R358). -/
def recNoc (bs : List Byte) : Option (NocRoute × List Byte) :=
  match takeNat 16 bs with
  | none => none
  | some (h, rest) =>
    if bitsOf h 12 4 ≠ 0 ∨ bitsOf h 40 88 ≠ 0 then none
    else match takeNats 2 (bitsOf h 28 12 + 1) rest with
      | none => none
      | some (ls, more) => some ({ number := bitsOf h 0 12, source := bitsOf h 16 12, leaves := ls }, more)
def recRav (bs : List Byte) : Option (RavRoute × List Byte) :=
  match takeNat 4 bs with
  | none => none
  | some (h, rest) =>
    let n := bitsOf h 16 8
    if bitsOf h 24 8 ≠ 0 ∨ rest.length < n then none
    else some ({ rank := bitsOf h 0 16, bytes := rest.take n }, rest.drop n)

/-- POUR (R359). -/
def recPour : List Byte → Option (PourRec × List Byte) :=
  fixedRec 16 [(116, 12)] fun v =>
    { slot := bitsOf v 0 8, first := bitsOf v 8 24, tiles := bitsOf v 32 24 + 1, repeats := bitsOf v 56 16,
      vroute := bitsOf v 72 12, slots := bitsOf v 84 4, gran := bitsOf v 88 8 + 1, rate := bitsOf v 96 16,
      harbor := bitsOf v 112 2, engine := bitsOf v 114 2 }

/-- TREE (R360). -/
def recTree (bs : List Byte) : Option (TreeRec × List Byte) :=
  match takeNat 16 bs with
  | none => none
  | some (h, r0) =>
    let n := bitsOf h 16 12 + 1
    if bitsOf h 29 99 ≠ 0 then none
    else match takeNats 4 n r0 with
      | none => none
      | some (ls, r1) =>
        match takeNats 8 (n - 1) r1 with
        | none => none
        | some (ns, r2) =>
          if ns.any fun v => decide (bitsOf v 54 10 ≠ 0) then none
          else some ({ number := bitsOf h 0 16, int32 := bit h 28, leaves := ls, nodes := ns }, r2)

/-- COUNTER, STATION, EXPMAP, ROUND (R361). -/
def recCounter : List Byte → Option (CounterRec × List Byte) :=
  fixedRec 16 [(93, 35)] fun v =>
    { value := BitVec.ofNat 32 v, limit := BitVec.ofNat 32 (bitsOf v 32 32), members := bitsOf v 64 16, ctr := bitsOf v 80 6,
      cluster := bitsOf v 86 7 }
/-- The set bits of a mask of `w` bits, ascending. -/
def maskList (w v : Nat) : List Nat := (List.range w).filter fun i => bit v i
def recStation : List Byte → Option (Station × List Byte) :=
  fixedRec 32 [(97, 31)] fun v =>
    { sid := bitsOf v 0 8, ferry := bit v 8, cluster := bitsOf v 9 7, members := maskList 16 (bitsOf v 16 16),
      arrBase := bitsOf v 32 15, rowGran := bitsOf v 47 6 + 1, capacity := bitsOf v 53 12 + 1, retBase := bitsOf v 65 15,
      harbor := bitsOf v 80 2, manBase := bitsOf v 82 15, feeders := maskList 128 (bitsOf v 128 128) }
def recExpMap (e : Nat) (bs : List Byte) : Option ((Nat × List ExpertEntry) × List Byte) :=
  match takeNat 8 bs with
  | none => none
  | some (h, rest) =>
    if bitsOf h 7 57 ≠ 0 then none
    else match takeNats 8 e rest with
      | none => none
      | some (vs, more) =>
        some ((h, vs.map fun v => { station := bitsOf v 0 8, shareBase := bitsOf v 8 12, quota := bitsOf v 20 12,
                                    bias := BitVec.ofNat 32 (bitsOf v 32 32) }), more)
def recRound : List Byte → Option ((Nat × Nat × RoundDesc) × List Byte) :=
  fixedRec 16 [(71, 57)] fun v =>
    (bitsOf v 3 7, bitsOf v 0 3,
      { model := 0, e := bitsOf v 10 12 + 1, k := bitsOf v 22 3 + 1, cand := bitsOf v 25 4 + 1, bf16 := bit v 29,
        gate := bitsOf v 30 2, renorm := bit v 32, members := maskList 16 (bitsOf v 33 16), tok := bitsOf v 49 7 + 1,
        decBase := bitsOf v 56 15 })

/-- FLASKSEQ, OBJECTS, EXPERTS (R362, R363). -/
def recSeq : List Byte → Option (SeqEntry × List Byte) :=
  fixedRec 8 [(18, 14), (48, 16)] fun v =>
    { flask := bitsOf v 0 6, slot := bitsOf v 6 2, next := bitsOf v 8 8, go := bit v 16, last := bit v 17,
      count := bitsOf v 32 16 }
/-- DEDUCED, log 92. -/
def recObj : List Byte → Option (ObjRec × List Byte) :=
  fixedRec 8 [(15, 1), (42, 22)] fun v =>
    { slot := bitsOf v 0 8, cls := bitsOf v 8 3, tiers := bitsOf v 11 3, writable := bit v 14, pages := bitsOf v 16 24,
      harbor := bitsOf v 40 2 }
def recExpert : List Byte → Option ((Nat × Nat) × List Byte) :=
  fixedRec 8 [(20, 44)] fun v => (bitsOf v 0 12, bitsOf v 12 8)

/-! ### The container (R350 to R353) -/

/-- An entry of the section table. -/
structure Sect where
  typ    : Nat
  flask  : Nat
  off    : Nat
  len    : Nat
  recs   : Nat
  digest : BitVec 384
  deriving DecidableEq, Repr

def readSect (bs : List Byte) : Sect :=
  { typ := leNat (bs.take 2), flask := leNat ((bs.drop 2).take 2), off := leNat ((bs.drop 4).take 4),
    len := leNat ((bs.drop 8).take 4), recs := leNat ((bs.drop 12).take 4),
    digest := BitVec.ofNat 384 (beNat ((bs.drop 16).take 48)) }

/-- Whether a section type belongs to a flask (R352). -/
def perFlask (t : Nat) : Bool := [1, 2, 7, 10, 11, 12].contains t

/-- A header field: `n` bytes at `at_`. -/
def hdr (bs : List Byte) (at_ n : Nat) : Nat := leNat ((bs.drop at_).take n)

/-- The header's own rules (R350, R353), `avail` being the bytes of the object. -/
def headerOk (bs : List Byte) (avail : Nat) : Bool :=
  let len := hdr bs 8 4
  let n := hdr bs 12 2
  let fl := hdr bs 14 2
  let e := hdr bs 40 2
  let pe := hdr bs 44 2
  let tr := (bs.drop (len - 128)).take 128
  decide (256 ≤ avail) && decide (hdr bs 0 4 = 0x54465244) && decide (hdr bs 4 2 = 1) && decide (hdr bs 6 2 = 256)
    && decide (len % 64 = 0) && decide (len ≤ 2 ^ 30) && decide (len ≤ avail) && decide (256 + 64 * n + 128 ≤ len)
    && decide (1 ≤ n) && decide (n ≤ 1024) && decide (1 ≤ fl) && decide (fl ≤ 64) && decide (hdr bs 20 1 ≤ 7)
    && decide (hdr bs 21 1 < 4) && decide (hdr bs 23 1 = 0) && decide (e ≤ 4096) && decide (hdr bs 42 2 ≤ 256)
    && (decide (pe = 0) || (decide (2 ≤ pe) && decide (pe ≤ 65535))) && decide (hdr bs 46 2 = 0)
    && decide (hdr bs 56 200 = 0) && decide (leNat ((tr.drop 96).take 1) = hdr bs 20 1) && decide (leNat (tr.drop 97) = 0)

/-- The sections' own rules and their order (R351, R352). -/
def sectOk (flasks len : Nat) (x : Sect) : Bool :=
  decide (1 ≤ x.typ) && decide (x.typ ≤ 15) && (if perFlask x.typ then decide (x.flask < flasks) else decide (x.flask = 0xFFFF))
    && decide (x.off % 64 = 0) && decide (64 ≤ x.len) && decide (x.len ≤ 2 ^ 24) && decide (x.off + x.len ≤ len - 128)
def sectOrder (at_ : Nat) (xs : List Sect) : Bool :=
  match xs with
  | [] => true
  | x :: rest => decide (at_ ≤ x.off) && sectOrder (x.off + x.len) rest

/-- How often each type stands (R352), and the header's E and PEERS against it (R350). -/
def sectCounts (flasks e peers : Nat) (xs : List Sect) : Bool :=
  let n (t : Nat) : Nat := (xs.filter fun x => decide (x.typ = t)).length
  let per (t : Nat) : Bool := (List.range flasks).all fun f =>
    decide ((xs.filter fun x => decide (x.typ = t) && decide (x.flask = f)).length ≤ 1)
  [1, 2].all (fun t => per t && decide (n t = flasks)) && [7, 10, 11, 12].all per
    && [3, 5, 13, 14].all (fun t => decide (n t = 1)) && [4, 6, 8, 9, 15].all (fun t => decide (n t ≤ 1))
    && (decide (peers = 0) || decide (n 6 = 1)) && (decide (e = 0) || decide (n 15 = 1))
    && (decide (e ≠ 0) || decide (n 10 + n 11 + n 12 + n 15 = 0))

/-- An image with nothing in it. -/
def emptyFlask : ImgFlask := { progs := [], tables := [], pours := [], stations := [], expmaps := [], rounds := [] }
def emptyImage : Image :=
  { secVersion := 0, key := 0, grades := 0, stepping := 0, clusters := 0, experts := 0, objSlots := 0, peers := 0,
    flasks := [], split := [], init := [], noc := [], rav := [], trees := [], counters := [], seq := [], objects := [],
    expertObjs := [], sects := [] }

/-- A flask of an image replaced. -/
def Image.onFlask (g : Image) (f : Nat) (u : ImgFlask → ImgFlask) : Image :=
  { g with flasks := g.flasks.mapIdx fun i x => if i = f then u x else x }

/-- The records of one section taken into the image; the index of a bad record (R364, check 0x01). -/
def Image.take (g : Image) (x : Sect) (bs : List Byte) : Except Nat Image :=
  let b := (bs.drop x.off).take x.len
  let on {α : Type} (f : List Byte → Option (α × List Byte)) (k : List α → Image) : Except Nat Image :=
    match takeRecords f x.recs 0 b with
    | .error i => .error i
    | .ok vs => .ok (k vs)
  match x.typ with
  | 1 => on recProg fun v => g.onFlask x.flask fun f => { f with progs := v }
  | 2 => on recDesc fun v => g.onFlask x.flask fun f => { f with tables := v }
  | 3 => on recSplit fun v => { g with split := v }
  | 4 => on recInit fun v => { g with init := v }
  | 5 => on recNoc fun v => { g with noc := v }
  | 6 => on recRav fun v => { g with rav := v }
  | 7 => on recPour fun v => g.onFlask x.flask fun f => { f with pours := v }
  | 8 => on recTree fun v => { g with trees := v }
  | 9 => on recCounter fun v => { g with counters := v }
  | 10 => on recStation fun v => g.onFlask x.flask fun f => { f with stations := v }
  | 11 => on (recExpMap g.experts) fun v => g.onFlask x.flask fun f => { f with expmaps := v }
  | 12 => on recRound fun v => g.onFlask x.flask fun f => { f with rounds := v }
  | 13 => on recSeq fun v => { g with seq := v }
  | 14 => on recObj fun v => { g with objects := v }
  | _ => on recExpert fun v => { g with expertObjs := v }

/-- The sections taken one after the other. -/
def Image.takeAll (g : Image) (xs : List Sect) (i : Nat) (bs : List Byte) : Except LoadFault Image :=
  match xs with
  | [] => .ok g
  | x :: rest =>
    match g.take x bs with
    | .error r => .error { check := 1, status := 0x11, section_ := i, record_ := r }
    | .ok h => h.takeAll rest (i + 1) bs

/-- A fault of the header, the table or the trailer. -/
def topFault (check : Nat) : LoadFault := { check := check, status := 0x11, section_ := 0x3FF, record_ := 0 }

/-- Check 0x01: the image read out of its container. -/
def readImage (bs : List Byte) : Except LoadFault (Image × List Sect) :=
  if !headerOk bs bs.length then .error (topFault 1)
  else
    let n := hdr bs 12 2
    let xs := (List.range n).map fun i => readSect ((bs.drop (256 + 64 * i)).take 64)
    let fl := hdr bs 14 2
    if !(xs.all (sectOk fl (hdr bs 8 4)) && sectOrder (256 + 64 * n) xs
        && sectCounts fl (hdr bs 40 2) (hdr bs 44 2) xs) then .error (topFault 1)
    else
      let g : Image := { emptyImage with
        secVersion := hdr bs 16 4, key := hdr bs 20 1, grades := hdr bs 21 1, stepping := hdr bs 22 1,
        clusters := hdr bs 24 16, experts := hdr bs 40 2, objSlots := hdr bs 42 2, peers := hdr bs 44 2,
        flasks := List.replicate fl emptyFlask, sects := xs.map fun x => (x.typ, x.flask) }
      match g.takeAll xs 0 bs with
      | .error e => .error e
      | .ok h => .ok (h, xs)

/-- Check 0x02: the first section whose digest does not match. -/
def digestFault (xs : List Sect) (bs : List Byte) : Option LoadFault :=
  (xs.zipIdx.find? fun e => decide (Config.sha384 ((bs.drop e.1.off).take e.1.len) ≠ e.1.digest)).map fun e =>
    { check := 2, status := 0x11, section_ := e.2, record_ := 0 }

/-- Checks 0x03 and 0x04: the signature under an installed key, and the key's minimum security version (R353, R563). DESIGN CHOICE, log 91. -/
def State.signFault (s : State) (g : Image) (bs : List Byte) : Option LoadFault :=
  let len := hdr bs 8 4
  let tr := (bs.drop (len - 128)).take 128
  let d := Config.sha384 (bs.take (256 + 64 * hdr bs 12 2))
  match s.exk.keys[g.key]? with
  | none => some (topFault 3)
  | some k =>
    if k.state ≠ 1 || !Config.ecdsaVerify k.key d (BitVec.ofNat 384 (beNat (tr.take 48)))
        (BitVec.ofNat 384 (beNat ((tr.drop 48).take 48))) then some (topFault 3)
    else if g.secVersion < k.minSec then some (topFault 4) else none

/-- The bytes of the image object. DEDUCED, log 93. -/
def State.imageBytes (s : State) (handle : Nat) : List Byte :=
  match s.obj handle with
  | none => []
  | some o => (s.objBytes handle 0 (65536 * o.pages)).map (·.1)

/-- An image read, and its digests and signature checked where they have not been yet. -/
def State.checkImage (s : State) (verified : Bool) (bs : List Byte) (r : Except LoadFault (Image × List Sect)) :
    Except LoadFault Image :=
  match r with
  | .error e => .error e
  | .ok (g, xs) =>
    if verified then .ok g
    else match (digestFault xs bs).or (s.signFault g bs) with
      | some e => .error e
      | none => .ok g

/-- An image read from its object with checks 0x01 to 0x04, or 0x01 alone where a registration made them (R348). -/
def State.openImage (s : State) (handle : Nat) (verified : Bool) : Except LoadFault Image :=
  s.checkImage verified (s.imageBytes handle) (readImage (s.imageBytes handle))

end Sys2Proof.Machine
end

