-- ==== Sys2Proof/Machine/ImageWords.lean ====
section
/-! DEFINITION. The loader's checks of instruction words and descriptors (R364, checks 0x11 to 0x13): R81, R97, R101 to
R122, R146, R189, R206, R209, R210, R217, R239, R262, R283, R626, R631, R632. -/

namespace Sys2Proof.Machine

/-- The index of the first element that fails a test. -/
def firstBad {α : Type} (xs : List α) (ok : Nat → α → Bool) : Option Nat :=
  (xs.zipIdx.find? fun e => !ok e.2 e.1).map (·.2)

/-- No two elements are equal under a key. -/
def distinctBy {α : Type} (key : α → Nat) (xs : List α) : Bool :=
  match xs with
  | [] => true
  | x :: rest => rest.all (fun y => decide (key y ≠ key x)) && distinctBy key rest

/-! ### Instruction words (R101 to R122) -/

def wClass (w : Nat) : Nat := bitsOf w 60 4
def wOp (w : Nat) : Nat := bitsOf w 56 4
/-- Whether every field named (first bit, width) is 0. -/
def zeros (w : Nat) (fs : List (Nat × Nat)) : Bool := fs.all fun f => decide (bitsOf w f.1 f.2 = 0)
/-- A format code that names a format (R72), and a conversion control byte that R81 accepts. -/
def fmtCode (c : Nat) : Bool := decide (c ≤ 0xA)
def cvtByte (c : Nat) : Bool := fmtCode (c % 16) && decide (c < 128)

/-- The MAT word as the fields of R104. -/
def matAfmt (w : Nat) : BitVec 4 := BitVec.ofNat 4 (bitsOf w 40 4)
def matWfmt (w : Nat) : BitVec 4 := BitVec.ofNat 4 (bitsOf w 36 4)
def matCvt (w : Nat) : Nat := bitsOf w 28 8
def matSparse (w : Nat) : Nat := bitsOf w 18 2
def matOk (t : Tables) (w : Nat) : Bool :=
  let wf := bitsOf w 36 4
  let d := matCvt w % 16
  match t.mats[bitsOf w 52 4]?, t.rings[bitsOf w 48 4]?, t.mats[bitsOf w 44 4]? with
  | some _, some _, some o =>
    decide (wOp w ≤ 1) && pairAllowed (matAfmt w) (matWfmt w) && cvtByte (matCvt w)
      && (matSparse w % 2 == 0 || [4, 5, 3, 9].contains wf) && decide (bitsOf w 15 2 ≠ 3) && zeros w [(0, 10)]
      && !(decide (wOp w = 1) && o.ringBacked) && (decide (wf ≠ 3) || decide (d = 0xA) || decide (d = 3))
  | _, _, _ => false

/-- VEC: the fields an operation does not use are 0 (R106, R107). -/
def vecOk (t : Tables) (w : Nat) : Bool :=
  let vb := (44, 4)
  let fn := (40, 4)
  let mem := [(29, 3), (28, 1), (24, 4), (0, 19)]
  let place := if bit w 28 then (t.rings[bitsOf w 24 4]?).isSome && zeros w [(29, 3)] else zeros w [(24, 4)]
  match wOp w with
  | 6 => decide (bitsOf w 40 4 ≤ 9) && zeros w ([vb, (32, 8), (19, 5)] ++ mem)
  | 8 => decide (bitsOf w 40 4 ≤ 2) && zeros w ([vb, (32, 8), (19, 5)] ++ mem)
  | 9 => fmtCode (bitsOf w 40 4) && place && zeros w [(48, 4), vb, (32, 8), (19, 5)]
  | 10 => cvtByte (bitsOf w 32 8) && place && zeros w [(52, 4), vb, fn, (19, 5)]
  | 11 => zeros w ([(48, 4), vb, fn, (32, 8)] ++ mem)
  | 12 => zeros w ([vb, fn, (32, 8)] ++ mem)
  | 13 | 14 | 15 => false
  | _ => zeros w ([fn, (32, 8), (19, 5)] ++ mem)

/-- STAT (R109, R189). -/
def statOk (t : Tables) (w : Nat) : Bool :=
  let f := bitsOf w 41 4
  let fmt := BitVec.ofNat 4 f
  let len := bitsOf w 20 13 + 1
  let rows := bitsOf w 33 8 + 1
  let place := if bit w 51 then
      match t.rings[bitsOf w 52 4]? with
      | some d => decide (rows * rowBytes fmt len ≤ 64 * d.gran) && zeros w [(48, 3)]
      | none => false
    else zeros w [(52, 4)]
  decide (wOp w ≤ 4) && fmtCode f && zeros w [(0, 20)] && place
    && (if isMX fmt then decide (len % 32 = 0) else true)
    && (if f ≤ 3 ∨ f = 9 then decide (len * (if f = 9 then 8 else elemBits fmt) / 8 % 64 = 0) else true)

/-- MOVE: register kinds and unused fields (R110, R112, R632). -/
def moveOk (w : Nat) : Bool :=
  let sd := (51, 5)
  let sa := (46, 5)
  let sb := (41, 5)
  let fn := (37, 4)
  let imm := (0, 32)
  let aD := decide (bitsOf w 51 5 ≤ 7)
  let aA := decide (bitsOf w 46 5 ≤ 7)
  let f := bitsOf w 37 4
  zeros w [(32, 5)] && match wOp w with
  | 0 => zeros w [sa, sb, fn]
  | 1 => decide (f ≤ 12) && zeros w [imm]
  | 2 => decide (f ≤ 12) && zeros w [sb]
  | 3 => aA && zeros w [sb, fn]
  | 4 => aA && zeros w [sd, fn]
  | 5 => zeros w [sb] && (if f = 0 then aD else if f = 1 then aD && aA else decide (f = 2) && aA && zeros w [imm])
  | 6 => decide (bitsOf w 0 8 ≤ 9) && zeros w [sa, sb, fn, (8, 24)]
  | 7 => decide (bitsOf w 0 8 = 6) && zeros w [sd, sb, fn, (8, 24)]
  | 8 => aD && zeros w [fn, imm]
  | 9 => aD && aA && zeros w [fn, imm]
  | _ => false

/-- XFER (R113, R114, R115, R631). -/
def xferOk (t : Tables) (w : Nat) : Bool :=
  let route := (50, 6)
  let port := (48, 2)
  let areg := (45, 3)
  let len := (37, 8)
  let se := (35, 2)
  let tag := (31, 4)
  let sb := (26, 5)
  let desc := (22, 4)
  let imm := (0, 22)
  let hasRoute := (t.routes[bitsOf w 50 6]?).isSome
  let aligned := decide (bitsOf w 0 6 = 0)
  let tier (put : Bool) : Bool := match t.objs[bitsOf w 22 4]? with
    | some d => decide (bitsOf w 0 22 + 64 * (bitsOf w 37 8 + 1) ≤ 65536 * d.pages) && (!put || d.write)
    | none => false
  match wOp w with
  | 0 => hasRoute && decide (bitsOf w 37 8 ≤ 63) && zeros w [port, se, tag, sb, desc, imm]
  | 1 => zeros w [route, se, tag, sb, desc, imm]
  | 2 => hasRoute && aligned && zeros w [port, desc]
  | 3 => tier false && aligned && zeros w [route, port]
  | 4 => tier true && aligned && zeros w [route, port]
  | 5 => hasRoute && zeros w [port, areg, len, se, tag, desc, imm]
  | _ => false

/-- One instruction word against the slot's tables (R102, R103, R116, R118 to R120, R122). -/
def wordOk (t : Tables) (w : Nat) : Bool :=
  match wClass w with
  | 1 => matOk t w
  | 2 => vecOk t w
  | 3 => statOk t w
  | 4 => moveOk w
  | 5 => xferOk t w
  | 6 => zeros w [(0, 38)] && (if wOp w ≤ 2 then (t.rings[bitsOf w 52 4]?).isSome
      else decide (wOp w = 3) && (t.routes[bitsOf w 43 6]?).isSome)
  | 7 => decide (wOp w ≤ 2) && zeros w [(0, 24)]
  | 8 => decide (wOp w ≤ 3) && zeros w [(0, 28)]
  | 9 => decide (wOp w ≤ 5) && zeros w [(0, 20)]
  | 10 => decide (wOp w ≤ 4) && zeros w [(0, 54)]
  | _ => false

/-- The loops of a program, as the first and last instruction of each body (R121). -/
def loopsOf (ws : List Nat) : List (Nat × Nat) :=
  ws.zipIdx.filterMap fun e =>
    if wClass e.1 = 9 ∧ wOp e.1 = 0 then some (e.2 + 1, bitsOf e.1 36 10) else none
def inBody (l : Nat × Nat) (i : Nat) : Bool := decide (l.1 ≤ i) && decide (i ≤ l.2)
/-- The loop rules of R121. -/
def loopsOk (ws : List Nat) : Bool :=
  let ls := loopsOf ws
  ls.all (fun l => decide (l.1 ≤ l.2)
      && decide ((ls.filter fun m => decide (m.1 ≤ l.1) && decide (l.2 ≤ m.2)).length ≤ 4)
      && ls.all fun m => !(inBody l (m.1 - 1)) || decide (m.2 ≤ l.2))
    && ws.zipIdx.all fun e => !(decide (wClass e.1 = 9) && decide (1 ≤ wOp e.1))
      || ls.all fun l => inBody l e.2 == inBody l (bitsOf e.1 36 10)

/-- The rings a program's ladle consumes, and those its sequencer consumes (R117). -/
def ladleRings (ws : List Nat) : List Nat :=
  (ws.filter fun w => decide (wClass w = 1)).map fun w => bitsOf w 48 4
def seqRings (ws : List Nat) : List Nat :=
  ws.filterMap fun w =>
    if wClass w = 6 ∧ wOp w = 0 then some (bitsOf w 52 4)
    else if wClass w = 2 ∧ wOp w = 9 ∧ bit w 28 = true then some (bitsOf w 24 4)
    else if wClass w = 3 ∧ bit w 51 = true then some (bitsOf w 52 4) else none
def progOk (t : Tables) (ws : List Nat) : Bool :=
  ws.all (wordOk t) && loopsOk ws && (ladleRings ws).all fun r => !(seqRings ws).contains r

/-- The tables of a core in a flask. -/
def ImgFlask.tablesOf (f : ImgFlask) (c : Nat) : Tables := lookupD f.tables c emptyTables
def nats (ws : List DWord) : List Nat := ws.map fun w => w.toNat

/-- Where a check failed: section type (0 the header), flask, record. -/
abbrev Place := Nat × Nat × Nat

/-- The first failure of a per-flask test. -/
def Image.inFlasks (g : Image) (typ : Nat) (f : Nat → ImgFlask → Option Nat) : Option Place :=
  g.flasks.zipIdx.findSome? fun e => (f e.2 e.1).map fun r => (typ, e.2, r)

/-- Check 0x11. -/
def Image.wordsBad (g : Image) : Option Place :=
  g.inFlasks 1 fun _ f => firstBad f.progs fun i e =>
    !((f.progs.take i).any fun x => decide (x.1 = e.1)) && progOk (f.tablesOf e.1) (nats e.2)

/-! ### Descriptors (R210, R217, R239, R262, R283, R626) -/

/-- A matrix descriptor within R239; LAYOUT 1 strides at least a row (R262). -/
def matDescOk (t : Tables) (d : MatDesc) : Bool :=
  decide (d.breg ≤ 8) && fmtCode d.fmt.toNat && decide (d.ctr ≤ 64) && (decide (d.ctr = 64) || decide (1 ≤ d.wreg))
    && (if d.ringBacked then !d.rowsLayout && decide (d.base < t.rings.length) else true)
    && (if d.rowsLayout then decide (rowBytes d.fmt d.colsMax / 64 ≤ d.rstride) else true)
/-- A ring descriptor within R210. -/
def ringDescOk (t : Tables) (d : RingDesc) : Bool :=
  decide (3 ≤ d.slots) && decide (d.slots ≤ 8) && decide (d.producer ≤ 4) && !(decide (d.producer = 4) && decide (d.consumer = 0))
    && (match d.forward with
      | some r => decide (r < t.routes.length)
      | none => true)
/-- A route descriptor: an EXPERT or CORE route carries virtual route 0 (R357); a FIFO's port is the route's (R626). -/
def routeDescOk (d : RouteDesc) : Bool :=
  (decide (d.kind ≤ 1) || decide (d.vroute = 0)) && (decide (d.dkind ≠ 0) || decide (d.dsel = d.port))
/-- Two windows of one slot overlap (R217). DEDUCED, log 49. -/
def winsApart (ws : List WinDesc) : Bool :=
  match ws with
  | [] => true
  | w :: rest => rest.all (fun v => decide (w.limit < v.base) || decide (v.limit < w.base)) && winsApart rest

/-- Granules of the dense tile of R209. -/
def denseTile (w : BitVec 4) (sparse : Nat) : Nat :=
  match blockSize w sparse with
  | some b => 1 + metaBytes sparse / 64 + (16 * b + 63) / 64
  | none => 257

/-- A MAT word's descriptors agree (R146, R239, R262). -/
def matAgrees (t : Tables) (w : Nat) : Bool :=
  match t.mats[bitsOf w 52 4]?, t.rings[bitsOf w 48 4]?, t.mats[bitsOf w 44 4]? with
  | some a, some r, some o =>
    !a.ringBacked && decide (a.fmt = matAfmt w) && decide (a.rowsMax = o.rowsMax) && decide (o.fmt.toNat = matCvt w % 16)
      && (if o.ringBacked then match t.rings[o.base]? with
          | some q => decide (q.producer = 4) && decide (q.consumer = 1) && decide (regionGrans o.fmt ≤ q.gran)
          | none => false
        else true)
      && decide (r.consumer = 0) && decide (r.producer ≤ 1) && decide (denseTile (matWfmt w) (matSparse w) ≤ r.gran)
      && (decide (bitsOf w 15 2 ≠ 1) || decide (a.colsMax / 32 + 1 ≤ r.slots))
  | _, _, _ => false

/-- An RSEL names a conditional route (R283). -/
def rselOk (t : Tables) (w : Nat) : Bool :=
  match t.routes[bitsOf w 43 6]? with
  | some d => decide (d.kind ≠ 0)
  | none => false

/-- Weight tiles a MAT word's pour delivers per execution, at the bound shape (R248). -/
def matTiles (t : Tables) (w : Nat) : Nat :=
  match t.mats[bitsOf w 52 4]?, t.mats[bitsOf w 44 4]? with
  | some a, some o =>
    let n := o.colsMax / 32 * (a.colsMax / 32)
    if bitsOf w 15 2 = 1 then n else (a.rowsMax + 127) / 128 * n
  | _, _ => 0

/-- The ring a MAT word's output goes to. -/
def outRing (t : Tables) (w : Nat) : Option Nat :=
  match t.mats[bitsOf w 44 4]? with
  | some o => if o.ringBacked then some o.base else none
  | none => none

/-- The instructions that may issue after instruction `i` without the ladle having gone quiet in between: none after the
last, a HALT, a SWITCH or a WAITM (R99, R101, R119 to R122). -/
def follows (ws : List Nat) (i : Nat) : List Nat :=
  match ws[i]? with
  | none => []
  | some w =>
    let target := bitsOf w 36 10
    let on := if wClass w = 9 then
        (if wOp w = 1 then [target] else if wOp w = 0 then [i + 1, target + 1] else [i + 1, target])
      else [i + 1]
    if (wClass w = 8 ∧ wOp w = 3) ∨ (wClass w = 10 ∧ (wOp w = 1 ∨ wOp w = 2)) then []
    else on ++ (loopsOf ws).filterMap fun l => if l.2 = i then some l.1 else none
/-- The MAT instructions that may be the next to issue, from the instructions `todo` on. -/
def nextMats (ws : List Nat) (todo seen : List Nat) (fuel : Nat) : List Nat :=
  match fuel with
  | 0 => []
  | fuel + 1 =>
    match todo with
    | [] => []
    | i :: rest =>
      if seen.contains i then nextMats ws rest seen fuel
      else if ((ws[i]?).map wClass) = some 1 then i :: nextMats ws rest (i :: seen) fuel
      else nextMats ws (follows ws i ++ rest) (i :: seen) fuel
/-- Two MAT instructions that may share the queue name no output ring in common (R252, R262). -/
def matsApart (t : Tables) (ws : List Nat) : Bool :=
  ws.zipIdx.all fun e => decide (wClass e.1 ≠ 1) || (match outRing t e.1 with
    | none => true
    | some r => (nextMats ws (follows ws e.2) [] 8192).all fun j =>
        decide (j = e.2) || decide (outRing t (ws.getD j 0) ≠ some r))

/-- Check 0x12. DEDUCED, log 49. -/
def Image.descsBad (g : Image) : Option Place :=
  (g.inFlasks 2 fun _ f => firstBad f.tables fun i e =>
    let t := e.2
    !((f.tables.take i).any fun x => decide (x.1 = e.1)) && decide (t.mats.length ≤ 16) && decide (t.rings.length ≤ 16)
      && decide (t.routes.length ≤ 64) && decide (t.objs.length ≤ 16) && decide (t.wins.length ≤ 8)
      && t.mats.all (matDescOk t) && t.rings.all (ringDescOk t) && t.routes.all routeDescOk && winsApart t.wins
      && t.objs.all fun d => decide (d.cache ≤ 2) && decide (d.slot < g.objSlots)).or
  (g.inFlasks 1 fun _ f => firstBad f.progs fun _ e =>
    let t := f.tablesOf e.1
    (nats e.2).all (fun w => (decide (wClass w ≠ 1) || matAgrees t w)
      && (!(decide (wClass w = 6) && decide (wOp w = 3)) || rselOk t w)) && matsApart t (nats e.2))

/-! ### Tile store fit (R206, R209, R210, R217, R239) -/

/-- The first granule beyond the scratchpad of a core. -/
def Image.gmax (g : Image) (c : Nat) : Nat := (8 - lookupD g.split c 0) * 4096

/-- Granules a matrix covers at its bound shape, from its BASE (R240, R241). -/
def matGrans (d : MatDesc) : Nat :=
  if d.rowsLayout then (d.rowsMax - 1) * d.rstride + rowBytes d.fmt d.colsMax / 64
  else (d.rowsMax + 127) / 128 * (d.colsMax / 32) * regionGrans d.fmt

def ringEnd (d : RingDesc) : Nat := d.base + d.gran * d.slots
def ringsApart (rs : List RingDesc) : Bool :=
  match rs with
  | [] => true
  | r :: rest => rest.all (fun q => decide (ringEnd r ≤ q.base) || decide (ringEnd q ≤ r.base)) && ringsApart rest

/-- A core's tables within its scratchpad, rings apart from each other and from windows (R210). -/
def tablesFit (gmax : Nat) (t : Tables) : Bool :=
  t.rings.all (fun r => decide (ringEnd r ≤ gmax)) && ringsApart t.rings
    && t.rings.all (fun r => t.wins.all fun w => decide (ringEnd r ≤ w.base) || decide (w.limit < r.base))
    && t.wins.all (fun w => decide (w.limit < gmax))
    && t.mats.all fun d => d.ringBacked || (if d.breg = 8 then decide (d.base + matGrans d ≤ gmax) else decide (d.base < gmax))

/-- Check 0x13. -/
def Image.fitBad (g : Image) : Option Place :=
  ((firstBad g.split fun i e => [0, 1, 2, 4].contains e.2 && !((g.split.take i).any fun x => decide (x.1 = e.1))).map
      fun r => ((3, 0xFFFF, r) : Place)).or
    (((firstBad g.init fun i e => decide (e.first + e.data.length / 64 ≤ g.gmax e.core)
        && !((g.init.take i).any fun x => decide (x.core = e.core))).map fun r => ((4, 0xFFFF, r) : Place)).or
      (g.inFlasks 2 fun _ f => firstBad f.tables fun _ e => tablesFit (g.gmax e.1) e.2))

end Sys2Proof.Machine
end

