-- ==== Sys2Proof/Machine/ImageFit.lean ====
section
/-! DEFINITION. The loader's checks of an image against the part and the partition (R364, checks 0x10 and 0x14 to 0x1B):
routes, pours, trees, counters, stations, the flask sequence, bindings and shared resources. -/

namespace Sys2Proof.Machine

/-! ### Bind objects (R349) -/

/-- What a bind object supplies. -/
structure BindInfo where
  objs  : List Nat
  peers : List Nat
  self  : Nat
  deriving DecidableEq, Repr

/-- A bind object read out of its tier object; none where its layout or its counts are not the image's. -/
def State.readBind (s : State) (handle : Nat) (g : Image) (needObjs : Bool) : Option BindInfo :=
  match s.obj handle with
  | none => none
  | some o =>
    let n (at_ k : Nat) : Nat := leNat ((s.objBytes handle at_ k).map (·.1))
    let nobj := n 4 2
    let np := n 6 2
    let self := n 8 2
    if n 0 4 = 0x444E4942 ∧ n 10 6 = 0 ∧ (needObjs = false ∨ nobj = g.objSlots) ∧ np = g.peers
        ∧ (if np = 0 then self = 0 else self < np) ∧ 16 + 4 * nobj + 2 * np ≤ 65536 * o.pages then
      some { objs := (List.range nobj).map fun i => n (16 + 4 * i) 4,
             peers := (List.range np).map fun r => n (16 + 4 * nobj + 2 * r) 2, self := self }
    else none

/-- What a check sees of the load: the partition, its owner, the model of a registered load, the bindings. -/
structure FitCtx where
  part  : Nat
  owner : Option Nat
  model : Option Nat
  bind  : BindInfo
  deriving DecidableEq, Repr

/-! ### 0x10: the part (R3, R350) -/

/-- Whether a cluster lies on a logical island that exists (R3). -/
def State.clusterExists (s : State) (k : Nat) : Bool := decide (k / 8 < s.fuses.islmap.length)

def State.partBad (s : State) (g : Image) (x : FitCtx) : Option Place :=
  let b := if s.fuses.grade = 0x10 then 0 else 1
  if bit g.grades b && decide (g.stepping ≤ 0xB1) && decide (g.clusters = s.partMask x.part)
      && (maskList 128 g.clusters).all s.clusterExists then none
  else some (0, 0, 0)

/-! ### 0x14: routes (R27, R57, R284, R358, R434) -/

/-- The clusters of an image, as a test. -/
def Image.uses (g : Image) (k : Nat) : Bool := bit g.clusters k

/-- The cluster a leaf key names: of a core, or of a router (R358). -/
def leafCluster (l : Nat) : Option Nat :=
  if l < 2048 then some (l / 16) else if 0x840 ≤ l ∧ l < 0x8C0 then some (l - 0x840) else none

/-- Islands from `a` to `b`, both included, along the row first or along the column first (R358). -/
def steps (a b : Nat) : List Nat := (List.range 4).filter fun x => decide (min a b ≤ x) && decide (x ≤ max a b)
def pathIslands (rowFirst : Bool) (a b : Nat) : List Nat :=
  if rowFirst then (steps (a % 4) (b % 4)).map (fun c => 4 * (a / 4) + c) ++ (steps (a / 4) (b / 4)).map fun r => 4 * r + b % 4
  else (steps (a / 4) (b / 4)).map (fun r => 4 * r + a % 4) ++ (steps (a % 4) (b % 4)).map fun c => 4 * (b / 4) + c
def islandHops (a b : Nat) : Nat := (max (a / 4) (b / 4) - min (a / 4) (b / 4)) + (max (a % 4) (b % 4) - min (a % 4) (b % 4))

/-- The physical island at which messages of a sender key start, the first leaf's island being `l` (R358). -/
def State.entryIsland (s : State) (key l : Nat) : Nat :=
  let near (a b : Nat) : Nat := if islandHops b l < islandHops a l then b else a
  let har (h : Nat) : Nat := near (if h < 2 then 2 * h else 8 + 2 * h) (if h < 2 then 2 * h + 1 else 9 + 2 * h)
  if key < 2048 then s.phys (key / 128)
  else if key < 0x810 then har ((key - 0x800) / 4)
  else if key < 0x820 then har (key - 0x810)
  else if key < 0x840 then near 4 8
  else s.phys ((key - 0x840) / 8)

/-- A leaf can be reached round the islands whose fabric test failed (R27, R358). -/
def State.reachable (s : State) (a b : Nat) : Bool :=
  let ok (rf : Bool) : Bool := (pathIslands rf a b).all fun i => bit (s.get MGT_BOOT_FAB_FAB_OK) i
  ok true || ok false

/-- A virtual route: leaves inside the partition, reachable, within 188 NCLK (R57, R139, R358). DESIGN CHOICE, log 22. -/
def State.nocOk (s : State) (g : Image) (r : NocRoute) : Bool :=
  let isl (l : Nat) : Nat := s.phys ((leafCluster l).getD 0 / 8)
  let a := s.entryIsland r.source (isl (r.leaves.headD 0))
  decide (r.leaves.length ≤ 256) && r.leaves.all fun l => match leafCluster l with
    | none => false
    | some k => g.uses k && s.reachable a (isl l) && decide (Config.routeLatency r.source l ≤ 188)

/-- A Ravor route equals route 0 of its peer's entry in the ACTIVE bank (R434). -/
def State.ravOk (s : State) (g : Image) (x : FitCtx) (r : RavRoute) : Bool :=
  decide (r.rank < g.peers) && decide (r.bytes.length = 8) && match x.bind.peers[r.rank]? with
    | none => false
    | some e => decide ((s.topo e).routes.getD 0 0 = BitVec.ofNat 64 (leNat r.bytes))

/-- The cores of the partition's clusters. -/
def Image.cores (g : Image) : List Nat :=
  (maskList 128 g.clusters).flatMap fun k => (List.range 16).map fun j => 16 * k + j

/-- An EXPERT or CORE route is within R57 for every alternative; a REMOTE one names a peer (R284, R295). -/
def Image.condOk (g : Image) (f : ImgFlask) (c : Nat) (d : RouteDesc) : Bool :=
  let near (l : Nat) : Bool := decide (Config.routeLatency c l ≤ 188)
  if d.kind = 2 then
    match f.expmaps.find? fun e => decide (e.1 = c / 16) with
    | none => true
    | some m => m.2.all fun e => match f.stations.find? fun st => decide (st.sid = e.station) with
      | none => true
      | some st => st.members.all fun j => near (16 * st.cluster + j)
  else if d.kind = 3 then g.cores.all near
  else !d.remote || decide (d.rank < g.peers)

def State.routesBad (s : State) (g : Image) (x : FitCtx) : Option Place :=
  ((firstBad g.noc fun _ r => s.nocOk g r).map fun r => ((5, 0xFFFF, r) : Place)).or
    (((firstBad g.rav fun _ r => s.ravOk g x r).map fun r => ((6, 0xFFFF, r) : Place)).or
      (g.inFlasks 2 fun _ f => firstBad f.tables fun _ e => e.2.routes.all (g.condOk f e.1)))

/-! ### 0x15: pours and runners (R254, R256, R262, R359) -/

/-- The route of the image with a number. -/
def Image.route (g : Image) (n : Nat) : Option NocRoute := g.noc.find? fun r => decide (r.number = n)

/-- A stream: its fields, its source, its object's harbor, and the rings of its heads (R256, R330, R359). -/
def Image.pourOk (g : Image) (x : FitCtx) (f : ImgFlask) (p : PourRec) : Bool :=
  decide (p.slot < g.objSlots) && decide (1 ≤ p.first) && decide (3 ≤ p.slots) && decide (p.slots ≤ 8) && decide (1 ≤ p.rate)
    && (match x.bind.objs[p.slot]? with
      | some h => decide (harborOf h = p.harbor)
      | none => false)
    && match g.route p.vroute with
      | none => false
      | some r => decide (r.source = 0x800 + 4 * p.harbor + p.engine) && r.leaves.all fun l =>
          (f.tablesOf l).rings.any fun d => decide (d.producer = 0) && decide (d.slots = p.slots) && decide (d.gran = p.gran)

/-- Mesh neighbours of a cluster's 4 × 4 arrangement (R254). -/
def neighbours (a b : Nat) : Bool :=
  let d (x y : Nat) : Nat := max x y - min x y
  decide (d (a / 4) (b / 4) + d (a % 4) (b % 4) = 1)

/-- The next member of a runner: the core and ring that a ring's FORWARD names (R254). -/
def Image.forwardTo (g : Image) (t : Tables) (d : RingDesc) : Option (Nat × Nat) :=
  match d.forward.bind fun r => t.routes[r]? with
  | none => none
  | some rt =>
    match g.route rt.vroute with
    | some r => if rt.kind = 0 && !rt.remote && decide (rt.dkind = 2) && decide (r.leaves.length = 1)
        then some (r.leaves.headD 0, rt.dsel) else none
    | none => none

/-- The members of the runner from a core's ring on; `fuel` bounds the chain. -/
def Image.runnerFrom (g : Image) (f : ImgFlask) (c r fuel : Nat) : List Nat :=
  match fuel with
  | 0 => [c]
  | fuel + 1 =>
    let t := f.tablesOf c
    match (t.rings[r]?).bind fun d => g.forwardTo t d with
    | some (n, q) => c :: g.runnerFrom f n q fuel
    | none => [c]

/-- Every FORWARD of a core reaches a neighbour's PRODUCER 1 ring of the same shape, no other core's FORWARD does, and no
runner passes a core twice (R254, R256). -/
def Image.chainOk (g : Image) (f : ImgFlask) (c : Nat) (t : Tables) : Bool :=
  t.rings.zipIdx.all fun e => e.1.forward.isNone || (match g.forwardTo t e.1 with
    | none => false
    | some (n, r) =>
      decide (n / 16 = c / 16) && neighbours (c % 16) (n % 16)
        && (match (f.tablesOf n).rings[r]? with
          | some q => decide (q.producer = 1) && decide (q.slots = e.1.slots) && decide (q.gran = e.1.gran)
          | none => false)
        && (f.tables.all fun x => decide (x.1 = c) || x.2.rings.all fun q => decide (g.forwardTo x.2 q ≠ some (n, r)))
        && decide ((g.runnerFrom f c e.2 16).eraseDups.length = (g.runnerFrom f c e.2 16).length))

/-- The head of the runner that a core's ring belongs to: the core and ring a pour fills. -/
def Image.headOf (g : Image) (f : ImgFlask) (c r fuel : Nat) : Option (Nat × Nat) :=
  match fuel with
  | 0 => none
  | fuel + 1 =>
    match (f.tablesOf c).rings[r]? with
    | none => none
    | some d =>
      if d.producer = 0 then some (c, r)
      else (f.tables.findSome? fun x => x.2.rings.zipIdx.findSome? fun q =>
          if g.forwardTo x.2 q.1 = some (c, r) then some (x.1, q.2) else none).bind fun h => g.headOf f h.1 h.2 fuel

/-- WFMT and SPARSE of the first `n` tiles of the pages from `page` on (R317, R318); `fuel` pages are left. -/
def tileForms (pageOf : Nat → List PByte) (page n fuel : Nat) : List (Option (Nat × Nat)) :=
  match fuel with
  | 0 => []
  | fuel + 1 =>
    let ts := (pageTiles (pageOf page)).map fun t => t.map fun x => (x.wfmt.toNat, x.sparse)
    if n ≤ ts.length then ts.take n else ts ++ tileForms pageOf (page + 1) (n - ts.length) fuel

/-- Whether a stream delivers what the MAT words of a ring take: the tiles of all of them in program order, or of each of
them alike, with their WFMT and SPARSE; an object that is not there is left to check 0x1A (R248, R262). -/
def State.agrees (s : State) (x : FitCtx) (t : Tables) (macs : List Nat) (p : PourRec) : Bool :=
  let form (w : Nat) : List (Option (Nat × Nat)) :=
    List.replicate (matTiles t w) (some ((matWfmt w).toNat, matSparse w))
  let counts (want : List (Option (Nat × Nat))) : Bool :=
    decide (want.length = p.tiles) && (match (x.bind.objs[p.slot]?).bind fun h => (s.obj h).map fun o => (h, o) with
      | none => true
      | some (h, o) => decide (tileForms (fun q => s.objBytes h (65536 * q) 65536) p.first p.tiles (o.pages - p.first) = want))
  counts (macs.flatMap form) || (match macs with
    | [] => true
    | w :: rest => rest.all (fun v => decide (form v = form w)) && counts (form w))

/-- Every weight ring a core's program uses is filled as its macros take it, but for a ring that a FERRY station's experts
fill (R245, R262, R270). -/
def State.pourAgrees (s : State) (g : Image) (x : FitCtx) (f : ImgFlask) (c : Nat) (ws : List Nat) : Bool :=
  let t := f.tablesOf c
  (ladleRings ws).eraseDups.all fun r =>
    let macs := ws.filter fun w => decide (wClass w = 1) && decide (bitsOf w 48 4 = r)
    match g.headOf f c r 17 with
    | none => false
    | some (h, q) =>
      let feeds := f.pours.filter fun p => match g.route p.vroute, (f.tablesOf h).rings[q]? with
        | some v, some d => v.leaves.contains h && decide (d.slots = p.slots) && decide (d.gran = p.gran)
        | _, _ => false
      feeds.any (s.agrees x t macs)
        || f.stations.any fun st => st.ferry && decide (st.cluster = h / 16) && st.members.contains (h % 16)

/-- Check 0x15. DEDUCED, log 89. -/
def State.poursBad (s : State) (g : Image) (x : FitCtx) : Option Place :=
  (g.inFlasks 7 fun _ f => firstBad f.pours fun _ p => g.pourOk x f p).or
    ((g.inFlasks 2 fun _ f => firstBad f.tables fun _ e => g.chainOk f e.1 e.2).or
      (g.inFlasks 1 fun _ f => firstBad f.progs fun _ e => s.pourAgrees g x f e.1 (nats e.2)))

/-! ### 0x16: trees (R93, R360) -/

/-- The lowest leaf position under a child reference; `fuel` bounds the depth. -/
def lowestLeaf (nodes : List Nat) (ref fuel : Nat) : Nat :=
  match fuel with
  | 0 => 4096
  | fuel + 1 =>
    if bit ref 12 then match nodes[ref % 4096]? with
      | some v => min (lowestLeaf nodes (bitsOf v 0 13) fuel) (lowestLeaf nodes (bitsOf v 13 13) fuel)
      | none => 4096
    else ref % 4096

def treeRefs (t : TreeRec) : List Nat := t.nodes.flatMap fun v => [bitsOf v 0 13, bitsOf v 13 13]

/-- Every leaf and every node but the root is used once; LEFT comes first; the leaves of this package lie in the
partition. -/
def Image.treeOk (g : Image) (t : TreeRec) : Bool :=
  let n := t.leaves.length
  let refs := treeRefs t
  let once (r : Nat) : Bool := decide ((refs.filter fun q => decide (q = r)).length = 1)
  (List.range n).all once && (List.range (n - 2)).all (fun i => once (4096 + i)) && decide (refs.length = 2 * (n - 1))
    && refs.all (fun r => if bit r 12 then decide (r % 4096 < n - 2) else decide (r < n))
    && t.nodes.all (fun v => decide (lowestLeaf t.nodes (bitsOf v 0 13) n < lowestLeaf t.nodes (bitsOf v 13 13) n))
    && t.leaves.all (fun v => bit v 27 || g.uses (bitsOf v 0 11 / 16))
    && t.nodes.all fun v => bit v 53 || g.uses (bitsOf v 26 11 / 16)

def Image.treesBad (g : Image) : Option Place :=
  (firstBad g.trees fun _ t => g.treeOk t).map fun r => (8, 0xFFFF, r)

/-! ### 0x17: counters (R262) -/

/-- The counters a core's program and descriptors name. -/
def countersNamed (t : Tables) (ws : List Nat) : List Nat :=
  (ws.filter fun w => decide (wClass w = 7)).map (fun w => bitsOf w 40 6)
    ++ (t.mats.filter fun d => decide (d.ctr < 64)).map (·.ctr)

def Image.countersBad (g : Image) : Option Place :=
  ((firstBad g.counters fun _ r => g.uses r.cluster).map fun r => ((9, 0xFFFF, r) : Place)).or
    (g.inFlasks 1 fun _ f => firstBad f.progs fun _ e =>
      (countersNamed (f.tablesOf e.1) (nats e.2)).all fun n =>
        g.counters.any fun r => decide (r.ctr = n) && decide (r.cluster = e.1 / 16))

/-! ### 0x18: caches, stations, maps, rounds (R228, R295) -/

/-- The tier objects an image's cores reach, with the core's cluster, the cache attribute and C. -/
def Image.objUses (g : Image) : List (Nat × Nat × Nat) :=
  g.flasks.flatMap fun f => f.tables.flatMap fun e => e.2.objs.map fun d => (d.slot, e.1 / 16, d.cache)

/-- R228 of one core's descriptors. -/
def Image.cacheOk (g : Image) (c : Nat) (t : Tables) : Bool :=
  t.objs.all fun d => (decide (d.cache = 0) || decide (lookupD g.split c 0 ≠ 0))
    && g.objUses.all fun u => decide (u.1 ≠ d.slot)
      || (decide ((u.2.2 = 0) = (d.cache = 0)) && (decide (d.cache ≠ 2) || decide (u.2.1 = c / 16)))
/-- A TPUT does not go through a read-only cached descriptor (R228). -/
def tputOk (t : Tables) (ws : List Nat) : Bool :=
  ws.all fun w => !(decide (wClass w = 5) && decide (wOp w = 4)) || (match t.objs[bitsOf w 22 4]? with
    | some d => decide (d.cache ≠ 1)
    | none => false)

/-- A registry entry's fields (R293). -/
def exrHome (e : BitVec 128) : Nat := bitsOf e.toNat 0 16
def exrHarbor (e : BitVec 128) : Nat := bitsOf e.toNat 16 2
def exrTier (e : BitVec 128) : Nat := bitsOf e.toNat 18 2
def exrValid (e : BitVec 128) : Bool := bit e.toNat 20
def exrObject (e : BitVec 128) : Nat := bitsOf e.toNat 32 32
def exrPages (e : BitVec 128) : Nat := bitsOf e.toNat 64 32
def exrVersion (e : BitVec 128) : Nat := bitsOf e.toNat 96 16
/-- The registry's key of an expert. -/
def exrKey (model expert : Nat) : Nat := 4096 * model + expert

/-- Whether an expert is at home in this package (R272). -/
def State.localExpert (s : State) (model e : Nat) : Bool :=
  match lookup s.registry (exrKey model e) with
  | some v => exrValid v && decide (exrHome v = s.get RVR_EP_ID_ID)
  | none => false

/-- The clusters whose maps name a station (R295). -/
def ImgFlask.feeders (f : ImgFlask) (sid : Nat) : List Nat :=
  (f.expmaps.filter fun m => m.2.any fun e => decide (e.station = sid)).map (·.1)

/-- A region of a core lies in one window that admits a key (R295). -/
def windowed (t : Tables) (first n key : Nat) : Bool :=
  t.wins.any fun w => decide (w.base ≤ first) && decide (first + n ≤ w.limit + 1)
    && decide ((BitVec.ofNat 12 key ^^^ BitVec.ofNat 12 w.sndBase) &&& ~~~(BitVec.ofNat 12 w.sndMask) = 0)

/-- A station (R270, R295): its regions in every member, its windows, its feeders and its weight ring. -/
def Image.stationOk (g : Image) (f : ImgFlask) (st : Station) : Bool :=
  let retGrans := (st.capacity + 15) / 16
  let arrGrans := st.capacity * st.rowGran
  let feed := f.feeders st.sid
  let senders := feed.flatMap fun k => (f.tables.filter fun e => decide (e.1 / 16 = k)
    && e.2.routes.any fun d => decide (d.kind = 2)).map (·.1)
  g.uses st.cluster && decide (1 ≤ st.members.length) && decide (st.capacity ≤ 4096)
    && (!st.ferry || (feed.all (fun k => st.feeders.contains k) && st.feeders.all fun k => feed.contains k))
    && st.members.all fun j =>
      let c := 16 * st.cluster + j
      let t := f.tablesOf c
      let clear (b n : Nat) : Bool := decide (b + n ≤ g.gmax c)
        && t.rings.all fun r => decide (ringEnd r ≤ b) || decide (b + n ≤ r.base)
      clear st.arrBase arrGrans && clear st.retBase retGrans && (!st.ferry || clear st.manBase 16)
        && feed.all (fun k => windowed t st.retBase retGrans (0x840 + k))
        && senders.all (fun d => windowed t st.arrBase arrGrans d)
        && (!st.ferry || t.rings.any fun r => decide (r.producer = 0))

/-- An expert map: its entries bound by R272, every share inside its station and apart from every other (R295). -/
def State.mapOk (s : State) (g : Image) (x : FitCtx) (f : ImgFlask) (m : Nat × List ExpertEntry) : Bool :=
  let shares := f.expmaps.flatMap fun q => q.2.zipIdx.map fun e => (q.1, e.2, e.1)
  g.uses m.1 && m.2.zipIdx.all fun e =>
    match f.stations.find? fun st => decide (st.sid = e.1.station) with
    | none => decide (e.1.quota = 0)
    | some st =>
      decide (st.ferry ≠ s.localExpert (x.model.getD 0) e.2) && decide (e.1.shareBase + e.1.quota ≤ st.capacity)
        && shares.all fun q => (decide (q.1 = m.1) && decide (q.2.1 = e.2)) || decide (q.2.2.station ≠ e.1.station)
          || decide (q.2.2.shareBase + q.2.2.quota ≤ e.1.shareBase) || decide (e.1.shareBase + e.1.quota ≤ q.2.2.shareBase)

/-- A round descriptor (R273, R295). -/
def Image.roundOk (g : Image) (f : ImgFlask) (r : Nat × Nat × RoundDesc) : Bool :=
  let d := r.2.2
  g.uses r.1 && decide (d.e = g.experts) && decide (d.k ≤ d.cand) && d.members.all fun j =>
    let c := 16 * r.1 + j
    decide (d.decBase + d.tok ≤ g.gmax c) && windowed (f.tablesOf c) d.decBase d.tok (0x840 + r.1)

/-- A score route ends at the router of its own cluster (R295). -/
def Image.scoreRoutesOk (g : Image) (f : ImgFlask) (c : Nat) (t : Tables) : Bool :=
  t.routes.all fun d => decide (d.dkind ≠ 3) || decide (d.kind ≠ 0) || d.remote || (match g.route d.vroute with
    | some r => decide (r.leaves = [0x840 + c / 16])
        && f.rounds.any fun q => decide (q.1 = c / 16) && decide (q.2.1 = d.dsel)
    | none => false)

def State.expertsBad (s : State) (g : Image) (x : FitCtx) : Option Place :=
  (g.inFlasks 2 fun _ f => firstBad f.tables fun _ e => g.cacheOk e.1 e.2 && g.scoreRoutesOk f e.1 e.2).or
    ((g.inFlasks 1 fun _ f => firstBad f.progs fun _ e => tputOk (f.tablesOf e.1) (nats e.2)).or
      ((g.inFlasks 10 fun _ f => firstBad f.stations fun i st =>
          g.stationOk f st && !((f.stations.take i).any fun q => decide (q.sid = st.sid))).or
        ((g.inFlasks 11 fun _ f => firstBad f.expmaps fun _ m => s.mapOk g x f m).or
          (g.inFlasks 12 fun _ f => firstBad f.rounds fun _ r => g.roundOk f r))))

/-! ### 0x19: the flask sequence (R365) -/

/-- The entries reached from entry 0. DEDUCED, log 89. -/
def seqReached (es : List SeqEntry) (i fuel : Nat) (seen : List Nat) : List Nat :=
  match fuel with
  | 0 => seen
  | fuel + 1 =>
    if seen.contains i then seen
    else match es[i]? with
      | none => seen
      | some e => if e.last || decide (e.count = 0) then i :: seen else seqReached es e.next fuel (i :: seen)

/-- The entries in the order they run from entry `i` on: an entry that ends the job or runs without limit is the last
(R372). -/
def seqOrder (es : List SeqEntry) (i fuel : Nat) : List Nat :=
  match fuel with
  | 0 => []
  | fuel + 1 => match es[i]? with
    | none => []
    | some e => i :: (if e.last || decide (e.count = 0) then [] else seqOrder es e.next fuel)

/-- The first four distinct flasks in the walk from entry 0, with their slots (R368). -/
def Image.residents (g : Image) : List (Nat × Nat) :=
  (((seqReached g.seq 0 256 []).reverse.filterMap fun i => g.seq[i]?).map fun e => (e.flask, e.slot)).eraseDups.take 4

/-- Two flasks in different slots of one core whose rings overlap (R97, R365). -/
def Image.ringsClash (g : Image) (a b : Nat) : Bool :=
  match g.flasks[a]?, g.flasks[b]? with
  | some fa, some fb => fa.tables.any fun e => e.2.rings.any fun r => (fb.tablesOf e.1).rings.any fun q =>
      decide (q.base < ringEnd r) && decide (r.base < ringEnd q)
  | _, _ => false

/-- The flasks that may stand in slot `x` while entry `t` of the order runs: the entry's own, or the one that last ran there
and the one that runs there next (R375). -/
def Image.standing (g : Image) (order : List Nat) (t x : Nat) : List Nat :=
  let inSlot (i : Nat) : Option Nat := (g.seq[i]?).bind fun e => if e.slot = x then some e.flask else none
  match (order[t]?).bind inSlot with
  | some f => [f]
  | none => ((order.take t).reverse.findSome? inSlot).toList ++ ((order.drop t).findSome? inSlot).toList
/-- No two flasks that can be resident in two slots at once have rings that overlap (R97, R365). -/
def Image.standApart (g : Image) (order : List Nat) (t : Nat) : Bool :=
  (List.range 4).all fun x => (List.range x).all fun y =>
    (g.standing order t x).all fun a => (g.standing order t y).all fun b => decide (a = b) || !g.ringsClash a b

def Image.seqBad (g : Image) : Option Place :=
  let order := seqOrder g.seq 0 768
  let seen := seqReached g.seq 0 256 []
  let ok (i : Nat) (e : SeqEntry) : Bool :=
    decide (e.flask < g.flasks.length) && (match g.seq[e.next]? with
      | none => false
      | some n => decide (n.slot ≠ e.slot) || decide (n.flask = e.flask)) && seen.contains i
      && (List.range 512).all fun t => decide (order[t]? ≠ some i) || g.standApart order t
  match firstBad g.seq ok with
  | some r => some (13, 0xFFFF, r)
  | none => if g.seq.isEmpty || decide (256 < g.seq.length) then some (13, 0xFFFF, 0) else none

/-! ### 0x1A: bindings (R349, R363) -/

/-- Whether an object may be bound for a partition's owner: it is the owner's, or the physical function's. -/
def boundOwner (o : TierObj) (owner : Option Nat) : Bool := o.owner.isNone || decide (o.owner = owner)

def State.objOk (s : State) (owner : Option Nat) (objs : List Nat) (r : ObjRec) : Bool :=
  match (objs[r.slot]?).bind fun h => (s.obj h).map fun o => (h, o) with
  | none => false
  | some (h, o) => boundOwner o owner && decide (o.cls = r.cls) && decide (harborOf h = r.harbor) && decide (r.pages ≤ o.pages)
      && decide (o.mask ||| r.tiers = r.tiers) && (!r.writable || decide (o.cls ≠ 0))

/-- The records of OBJECTS and EXPERTS against the bindings. -/
def State.bindBad (s : State) (g : Image) (owner : Option Nat) (objs : List Nat) : Option Place :=
  (if objs.all fun h => (s.obj h).isSome then none else some (0, 0, 0)).or <|
  ((firstBad g.objects fun _ r => decide (r.slot < g.objSlots) && s.objOk owner objs r).map
      fun r => ((14, 0xFFFF, r) : Place)).or
    ((firstBad g.expertObjs fun _ e => decide (e.1 < g.experts) && (decide (e.2 = 0xFF) || decide (e.2 < g.objSlots))).map
      fun r => ((15, 0xFFFF, r) : Place))

/-! ### 0x1B: shared resources (R366) -/

/-- The streams two consecutive entries use together on an engine of a harbor: the largest number. -/
def Image.engineNeed (g : Image) (h e : Nat) : Nat :=
  let streams (f : Nat) : Nat := match g.flasks[f]? with
    | some x => (x.pours.filter fun p => decide (p.harbor = h) && decide (p.engine = e)).length
    | none => 0
  (g.seq.map fun q =>
    let n := match g.seq[q.next]? with
      | some m => if m.flask = q.flask then 0 else streams m.flask
      | none => 0
    streams q.flask + n).foldl max 0

/-- The ferry cache pages of an image's FERRY experts served by harbor `h` (R295). -/
def State.ferryNeed (s : State) (g : Image) (model h : Nat) : Nat :=
  let es := g.flasks.flatMap fun f => (f.stations.filter fun st => st.ferry && decide (st.harbor = h)).flatMap fun st =>
    f.expmaps.flatMap fun m => m.2.zipIdx.filterMap fun e => if e.1.station = st.sid then some e.2 else none
  (es.eraseDups.map fun e => match lookup s.registry (exrKey model e) with
    | some v => exrPages v
    | none => 0).foldl (· + ·) 0

/-- What the jobs already there and this image reserve fits (R366). -/
def State.sharedBad (s : State) (g : Image) (x : FitCtx) : Option Place :=
  let others := s.jobs.filter fun j => decide (j.1 ≠ x.part)
  let sum (f : Image → Option Nat → Nat) : Nat := f g x.model + (others.map fun j => f j.2.image j.2.model).foldl (· + ·) 0
  let engines := (List.range 4).all fun h => (List.range 4).all fun e =>
    decide (sum (fun g _ => g.engineNeed h e) ≤ 64)
  let ferry := (List.range 4).all fun h =>
    decide (s.ferryNeed g (x.model.getD 0) h = 0) || decide (sum (fun g m => s.ferryNeed g (m.getD 0) h)
      ≤ s.get (HBR_FERRY_CACHE_PAGES_PAGES h))
  if engines && ferry then none else some (0, 0, 0)

/-! ### All of them in order (R364) -/

/-- A failed fit check as HUB_LDR_FAULT reports it. -/
def Image.fault (g : Image) (check : Nat) (p : Place) : LoadFault :=
  let ix := (g.sects.takeWhile fun e => decide (e ≠ (p.1, p.2.1))).length
  { check := check, status := stRefusedFit, section_ := if p.1 = 0 ∨ g.sects.length ≤ ix then 0x3FF else ix, record_ := p.2.2 }

/-- A direct image holds no expert section (R348). -/
def Image.directBad (g : Image) (x : FitCtx) : Option Place :=
  if x.model.isNone && g.sects.any fun e => decide (e.1 = 10) || decide (e.1 = 11) || decide (e.1 = 12) || decide (e.1 = 15)
  then some (0, 0, 0) else none

/-- The first of the fit checks that fails: 0x10 to 0x1B (R364). -/
def State.fitFault (s : State) (g : Image) (x : FitCtx) : Option LoadFault :=
  let at_ (n : Nat) (p : Option Place) : Option LoadFault := p.map (g.fault n)
  (at_ 0x10 (s.partBad g x)).or ((at_ 0x11 g.wordsBad).or ((at_ 0x12 g.descsBad).or ((at_ 0x13 g.fitBad).or
    ((at_ 0x14 (s.routesBad g x)).or ((at_ 0x15 (s.poursBad g x)).or ((at_ 0x16 g.treesBad).or ((at_ 0x17 g.countersBad).or
      ((at_ 0x18 ((g.directBad x).or (s.expertsBad g x))).or ((at_ 0x19 g.seqBad).or
        ((at_ 0x1A (s.bindBad g x.owner x.bind.objs)).or (at_ 0x1B (s.sharedBad g x))))))))))))

end Sys2Proof.Machine
end

