-- ==== Sys2Proof/Machine/Loader.lean ====
section
/-! DEFINITION. Loading, the flask sequencer, registered models (R347, R348, R362, R365 to R381, R522), and PREEMPT held
until a load or a recovery ends (R371, R481). -/

namespace Sys2Proof.Machine

/-! ### LOAD (R367, R504, R522) -/

/-- Whether a handle names a committed WEIGHT object (R347). DEDUCED, log 93. -/
def State.imageObj (s : State) (handle : Nat) : Option TierObj :=
  (s.obj handle).bind fun o => if o.cls = 0 ∧ o.committed = true then some o else none

/-- Whether partition `p` holds a core that is served by no core (R139, R522). -/
def State.unserved (s : State) (p : Nat) : Bool :=
  s.flag (HUB_RCV_PART_FENCED p) || (s.partCores p).any s.fenced

/-- Whether the issuer may use what the LOAD names (R367, R378). DEDUCED, log 93. -/
def State.mayLoad (s : State) (r : LoadReq) : Bool :=
  (r.issuer.isNone || decide (s.ownerOf r.part = r.issuer)) &&
  match r.model with
  | some m => match lookup s.models m with
    | none => false
    | some x => r.issuer.isNone || x.tenant.isNone || decide (x.tenant = r.issuer)
  | none => match s.imageObj r.handle with
    | none => false
    | some o => r.issuer.isNone || decide (o.owner = r.issuer)

/-- The tenant whose job a refused LOAD would have been: the issuer, or the partition's owner. -/
def State.loadTenant (s : State) (r : LoadReq) : Option Nat := r.issuer.or (s.ownerOf r.part)

/-- A LOAD refused when it is decided: it ends as a job with REFUSED_FIT (R461, R462). -/
def State.refuseLoad (s : State) (r : LoadReq) : State :=
  let s1 := ((s.put HUB_LDR_STATUS_CODE stRefusedFit).put HUB_LDR_STATUS_PART r.part).showLoad r stRefusedFit
  match s.loadTenant r with
  | some t => ((s1.inc (TEN_VF_ENDED_ENDED t)).raiseVF t cLoadDone).raiseVF t cJobEnd
  | none => (s1.raisePF cLoadDone).raisePF cJobEnd

/-- A job whose load has only been accepted. -/
def newJob (r : LoadReq) : JobSt :=
  { handle := r.handle, model := r.model, image := emptyImage, objs := [], peers := [], self := 0, entry := 0, runs := [],
    held := [none, none, none, none], waiting := false, started := false, startAt := none, ending := none }

/-- LOAD: accepted into a context, left waiting for one, or refused. A partition in a reset keeps it waiting (R367). DEDUCED, log 84. -/
def State.loadCmd (s : State) (r : LoadReq) : State :=
  let st := s.get (TEN_PART_CTRL_STATE r.part)
  if s.ready && decide (st = psResetting) && s.mayLoad r then { s with loadsWaiting := s.loadsWaiting ++ [r] }
  else if s.ready && decide (st = psIdle) && s.mayLoad r && !s.unserved r.part then
    let h := match r.model.bind fun m => lookup s.models m with
      | some x => x.handle
      | none => r.handle
    let s1 : State := { s with jobs := insert s.jobs r.part (newJob { r with handle := h }), lastLoad := insert s.lastLoad r.part r }
    ((s1.toPart r.part psLoading).refreshJobLock).giveContext r
  else s.refuseLoad r

/-- The loads that waited for a reset of partition `p` are decided (R367). -/
def State.afterReset (s : State) (p : Nat) : State :=
  let mine := s.loadsWaiting.filter fun r => decide (r.part = p)
  mine.foldl State.loadCmd { s with loadsWaiting := s.loadsWaiting.filter fun r => decide (r.part ≠ p) }

/-- The request that three argument words spell (R381). -/
def loadReqOf (a0 a1 a2 : Nat) (issuer : Option Nat) : LoadReq :=
  { part := a0 % 128, model := if bit a0 7 then some (a1 % 1024) else none, handle := a1, bind := a2, issuer := issuer }

/-- LDR_LOAD: the physical function's LOAD, its arguments in HUB_LDR_ARG_n. -/
def execLdrLoad (s : State) : Answer :=
  .next (s.loadCmd (loadReqOf (s.get (HUB_LDR_ARG_ARG 0)) (s.get (HUB_LDR_ARG_ARG 1)) (s.get (HUB_LDR_ARG_ARG 2)) none))

/-! ### Verification: stage 1 (R348, R349, R364) -/

/-- What a load binds: a registered model's objects, and the peers of the bind object where the image has any. DEDUCED, log 88. -/
def State.bindOf (s : State) (r : LoadReq) (g : Image) : Option BindInfo :=
  let owned (h : Nat) : Bool := match s.obj h with
    | some o => boundOwner o (s.ownerOf r.part)
    | none => false
  match r.model.bind fun m => lookup s.models m with
  | none => if owned r.bind then s.readBind r.bind g true else none
  | some x =>
    if g.peers = 0 then some { objs := x.objs, peers := [], self := 0 }
    else if owned r.bind then (s.readBind r.bind g false).map fun b => { b with objs := x.objs } else none

/-- The fit of an image that names the binding of each object it asks for, or fails to. DEDUCED, log 88. -/
def State.fitBound (s : State) (r : LoadReq) (handle : Nat) (g : Image) (b : Option BindInfo) : Except LoadFault JobSt :=
  let ctx (b : BindInfo) : FitCtx := { part := r.part, owner := s.ownerOf r.part, model := r.model, bind := b }
  match b with
  | none => .error ((s.fitFault g (ctx { objs := [], peers := [], self := 0 })).getD (g.fault 0x1A (0, 0, 0)))
  | some b => match s.fitFault g (ctx b) with
    | some e => .error e
    | none => .ok { newJob r with handle := handle, image := g, objs := b.objs, peers := b.peers, self := b.self }
def State.fitOpened (s : State) (r : LoadReq) (handle : Nat) (x : Except LoadFault Image) : Except LoadFault JobSt :=
  match x with
  | .error e => .error e
  | .ok g => s.fitBound r handle g (s.bindOf r g)

/-- LOAD_REFUSE: the checks of R364 in order on the whole image; the job the load builds where all pass. -/
def State.verify (s : State) (r : LoadReq) (handle : Nat) : Except LoadFault JobSt :=
  s.fitOpened r handle (s.openImage handle r.model.isSome)

/-! ### What the stages write (R206, R368, R370) -/

/-- The directory without core `c`'s copies. -/
def ClusterSt.forget (x : ClusterSt) (i : Nat) : ClusterSt :=
  { x with dirReqs := x.dirReqs.filter (fun r => decide (r.core ≠ i)),
           lines := x.lines.filterMap fun l => match l.st with
             | .modified o => if o = i then none else some l
             | .shared cs =>
               let left := cs.filter fun o => decide (o ≠ i)
               if left.isEmpty then none else some { l with st := .shared left } }

/-- Core `c`'s M lines are written back and every line it holds is invalidated (R206, R236, R477). DEDUCED, log 85. -/
def State.emptyCache (s : State) (c : Nat) : State :=
  let s1 := s.cleanCache c
  let s2 := s1.setCore c { s1.core c with cache := [], plru := [], lineReqs := [], wbHeld := [] }
  s2.setCluster (clusterOf c) ((s2.cluster (clusterOf c)).forget (ixOf c))

/-- Stage 2 of core `c`: its slots EMPTY, C set with the cache clean, its TILESTORE contents. DEDUCED, log 85. -/
def State.writeSplit (s0 : State) (g : Image) (c : Nat) : State :=
  let s := s0.emptyCache c
  let k := s.core c
  let s1 := s.setCore c { k with
    slots := List.replicate 4 slotReset, active := 0, ladle := [], steps := [], outs := [], xfers := [], sendCred := [], stopped := none, fence := none, fenceTick := none, sends := 0,
    switchTo := none, request := none, preempt := false, atGate := false, starve := [] }
  let s2 := s1.put (s1.atCore c ISL_CORE_TS_CACHE_UNITS) (lookupD g.split c 0)
  (g.init.filter fun t => decide (t.core = c)).foldl (fun s t =>
    let gs := (List.range (t.data.length / 64)).map fun i : Nat =>
      { plainGranule ((t.data.drop (64 * i)).take 64) with scales := (t.scales.drop (4 * i)).take 4 }
    s.writeGrans c t.first gs) s2

/-- The tables of flask `f` for core `c`, its object slots bound (R349, R355). -/
def JobSt.tables (j : JobSt) (f : ImgFlask) (c : Nat) : Tables :=
  let t := f.tablesOf c
  { t with objs := t.objs.map fun d => { d with handle := j.objs.getD d.slot 0 } }

/-- The send credits of a route as a slot is written: the slots of a ring of the partition, else a free value. DESIGN CHOICE, log 23. -/
def firstCredit (g : Image) (f : ImgFlask) (c slot ix : Nat) (d : RouteDesc) : Nat :=
  let here : Option RingDesc :=
    if d.dkind = 2 ∧ d.remote = false then
      (g.route d.vroute).bind fun r => (f.tablesOf (r.leaves.headD 0)).rings[d.dsel]?
    else none
  match here with
  | some q => q.slots
  | none => Config.sendCredit c slot ix

/-- Stages 3 and 6 of one slot of core `c`: tables, rings empty with their forward credits, and the program where `progs`
says so. -/
def State.writeSlot (s : State) (progs : Bool) (j : JobSt) (slot flask c : Nat) : State :=
  match j.image.flasks[flask]? with
  | none => s
  | some f =>
    let t := j.tables f c
    let prog := if progs then lookupD f.progs c [] else []
    let x : SlotSt := { slotReset with
      tables := t, flask := flask, imem := prog.zipIdx.map fun e => (e.2, e.1),
      rings := t.rings.zipIdx.map fun e => (e.2, { ringReset with credits := if e.1.forward.isSome then e.1.slots else 0 }) }
    let k := s.core c
    let cred := t.routes.zipIdx.foldl (fun m e => insert m (64 * slot + e.2) (firstCredit j.image f c slot e.2 e.1)) k.sendCred
    s.setCore c { k.setSlot slot x with sendCred := cred }

/-- The expert router of cluster `k` for one slot: rounds, its expert map, the stations (R271, R273). -/
def State.writeRouter (s : State) (j : JobSt) (slot flask k : Nat) : State :=
  match j.image.flasks[flask]? with
  | none => s
  | some f =>
    let es : List ExpertEntry := match f.expmaps.find? fun m => decide (m.1 = k) with
      | some m => m.2
      | none => []
    let r : RouterSlot :=
      { descs := (f.rounds.filter fun d => decide (d.1 = k)).foldl (fun m d =>
          insert m d.2.1 { d.2.2 with model := j.model.getD 0 }) [],
        experts := es.zipIdx.map fun e => (e.2, e.1),
        stations := f.stations.foldl (fun m t => insert m t.sid t) [], rounds := [] }
    s.setCluster k ((s.cluster k).setRouter slot r)

/-- A counter's value, limit and members (R258, R361). -/
def State.writeCounter (s : State) (r : CounterRec) : State :=
  let at_ {α : Type} (f : Nat → Nat → Nat → α) : α := s.atCluster r.cluster fun i c => f i c r.ctr
  let anchor := ((maskList 16 r.members).head?).getD 0
  ((((s.put (at_ ISL_CTR_VAL_VALUE) r.value.toNat).put (at_ ISL_CTR_LIM_LIMIT) r.limit.toNat).put (at_ ISL_CTR_CFG_MEMBERS)
    r.members).put (at_ ISL_CTR_CFG_ANCHOR) anchor).setFlag (at_ ISL_CTR_CFG_DEFINED) true

/-- The slots the loader writes first: those of the first four distinct flasks, the earliest of each slot (R368). -/
def Image.firstSlots (g : Image) : List (Nat × Nat) :=
  g.residents.foldl (fun l e => if l.any fun q => decide (q.2 = e.2) then l else l ++ [e]) []

/-- Every slot marked READY with its flask (R98, R368). -/
def State.markReady (s : State) (c slot : Nat) : State :=
  let k := s.core c
  s.setCore c (k.setSlot slot { k.slots.getD slot slotReset with state := .ready, fresh := true })

/-- What a core holds once stage `stage` is written: used again for a core that is substituted (R368, R371). -/
def State.coreStages (s : State) (j : JobSt) (c stage : Nat) : State :=
  let s1 := s.writeSplit j.image c
  let es := j.image.firstSlots
  let s2 := if 3 ≤ stage then es.foldl (fun s e => s.writeSlot (decide (6 ≤ stage)) j e.2 e.1 c) s1 else s1
  if 7 ≤ stage then es.foldl (fun s e => s.markReady c e.2) s2 else s2

/-! ### Streams (R330, R374, R375) -/

/-- The lowest descriptor of an engine that no stream uses. -/
def HarborSt.freeStream (x : HarborSt) (engine : Nat) : Option Nat :=
  (List.range 64).find? fun n => (lookup x.streams (64 * engine + n)).isNone

/-- A stream of flask `f` becomes active, unless it is. -/
def State.startStream (s : State) (p flask : Nat) (j : JobSt) (d : PourRec) : State :=
  let x := s.harbor d.harbor
  if x.streams.any fun e => decide (e.2.part = p) && decide (e.2.flask = flask) && decide (e.2.desc = d) then s
  else match x.freeStream d.engine with
    | none => s
    | some n =>
      let v : PourStream :=
        { part := p, flask := flask, desc := d, handle := j.objs.getD d.slot 0, credits := d.slots, pos := 0, runs := 0,
          lastAt := s.tide.now, emptyAt := some s.tide.now, stopped := false, back := [] }
      s.setHarbor d.harbor { x with streams := insert x.streams (64 * d.engine + n) v }

/-- The streams of a flask for which `ok` holds become active. -/
def State.startStreams (s : State) (p flask : Nat) (j : JobSt) (ok : PourRec → Bool) : State :=
  match j.image.flasks[flask]? with
  | none => s
  | some f => (f.pours.filter ok).foldl (fun s d => s.startStream p flask j d) s

/-- The streams of a flask whose REPEAT is 0 stop (R372). -/
def State.stopStreams (s : State) (p flask : Nat) : State :=
  { s with harbors := s.harbors.map fun (e : Nat × HarborSt) =>
      (e.1, { e.2 with streams := e.2.streams.filter fun q =>
        !(decide (q.2.part = p) && decide (q.2.flask = flask) && decide (q.2.desc.repeats = 0)) }) }

/-- Whether the rings a stream fills overlap a ring of flask `a` (R374). -/
def Image.pourClash (g : Image) (a b : Nat) (d : PourRec) : Bool :=
  match g.flasks[a]?, g.flasks[b]?, g.route d.vroute with
  | some fa, some fb, some r => r.leaves.any fun l =>
      ((fb.tablesOf l).rings.filter fun q => decide (q.producer = 0) && decide (q.slots = d.slots)
        && decide (q.gran = d.gran)).any fun q =>
        (fa.tablesOf l).rings.any fun w => decide (q.base < ringEnd w) && decide (w.base < ringEnd q)
  | _, _, _ => false

/-- Whether slot `slot` of every core of partition `p` is in one of the states. -/
def State.slotsIn (s : State) (p slot : Nat) (ok : SlotState → Bool) : Bool :=
  (s.partCores p).all fun c => ok ((s.core c).slots.getD slot slotReset).state

/-- The next entry's streams start as soon as the current entry begins, where its slot is READY with its flask and their
rings overlap none of the current flask's (R374). -/
def State.earlyStreams (s : State) (p : Nat) (j : JobSt) (e : SeqEntry) : State :=
  match j.image.seq[e.next]? with
  | none => s
  | some n =>
    if n.flask ≠ e.flask ∧ j.held.getD n.slot none = some n.flask ∧ s.slotsIn p n.slot (· == .ready) = true then
      s.startStreams p n.flask j fun d => !j.image.pourClash e.flask n.flask d
    else s

/-! ### The stages as commands (R368, R369) -/

def State.setJob (s : State) (p : Nat) (j : JobSt) : State := { s with jobs := insert s.jobs p j }

/-- The FERRY stations of an image on each harbor begin with the job (R287). -/
def State.openStations (s : State) (p : Nat) (g : Image) : State :=
  let all := (g.flasks.flatMap fun f => f.stations.filter (·.ferry)).eraseDups
  (all.foldl (fun s (t : Station) =>
    let x := s.harbor t.harbor
    let n : FerryStation := { part := p, sid := t.sid, reports := [], pouring := [], tile := 0 }
    if x.stations.any fun (q : FerryStation) => decide (q.part = p) && decide (q.sid = t.sid) then s
    else s.setHarbor t.harbor { x with stations := x.stations ++ [n] }) s).refreshFerry

/-- The smallest multiple of 256 at or above a tick, plus 256 (R369, R520). -/
def startTick (now : DWord) : DWord := BitVec.ofNat 64 (roundUp now.toNat 256 + 256)

/-- A load refused by a check: its context reports the check, and the partition is IDLE again. -/
def State.loadRefused (s : State) (n p : Nat) (e : LoadFault) : State :=
  let s1 := ((s.put (HUB_LDR_FAULT_CHECK n) e.check).put (HUB_LDR_FAULT_SECTION n) e.section_).put (HUB_LDR_FAULT_RECORD n)
    (min 16383 e.record_)
  (s1.closeJob p e.status psIdle).raisePart p cLoadDone

/-- What a stage of a load writes (R364). -/
def State.stageWork (s : State) (p stage : Nat) (j : JobSt) : State :=
  let es := j.image.firstSlots
  let cores (f : State → Nat → State) : State := s.overCores p f
  match stage with
  | 2 => cores fun s c => s.writeSplit j.image c
  | 3 =>
    let s1 := cores fun s c => es.foldl (fun s (e : Nat × Nat) => s.writeSlot false j e.2 e.1 c) s
    let s2 := s1.overClusters p fun s k => es.foldl (fun s (e : Nat × Nat) => s.writeRouter j e.2 e.1 k) s
    j.image.counters.foldl State.writeCounter s2
  | 6 =>
    let s1 := cores fun s c => es.foldl (fun s (e : Nat × Nat) => (s.writeSlot true j e.2 e.1 c).markReady c e.2) s
    match j.image.seq[0]? with
    | none => s1
    | some e => (s1.openStations p j.image).startStreams p e.flask j fun _ => true
  | _ => s

/-- What is written when stage `stage` completes. -/
def State.stageDone (s : State) (n p stage : Nat) (j : JobSt) : State :=
  let es := j.image.firstSlots
  let s1 := s.stageWork p stage j
  let j1 := if stage = 6 then
      { j with held := (List.range 4).map fun i => (es.find? fun e => decide (e.2 = i)).map (·.1) }
    else if stage = 7 then { j with startAt := some (startTick s.tide.now) } else j
  let s2 : State := (s1.setJob p j1).put (HUB_LDR_CTX_STAGE n) (stage + 1)
  match lookup s2.loads n with
  | none => s2
  | some l => { s2 with loads := insert s2.loads n { l with stage := stage + 1 } }

/-- LOAD_STAGE_COMPLETE: the stage of a context completes on every core; VERIFY ends in a refusal or in a job. -/
def execLoadStageComplete (ctx : Fin 4) (s : State) : Answer :=
  .next (match lookup s.loads ctx with
  | none => s
  | some l =>
    let p := l.req.part
    match lookup s.jobs p with
    | none => s
    | some j =>
      if l.stage = 1 then
        match s.verify l.req j.handle with
        | .error e => s.loadRefused ctx p e
        | .ok j1 => s.stageDone ctx p 1 j1
      else if l.stage ≤ 7 then s.stageDone ctx p l.stage j else s)

/-! ### PREEMPT held until a load or a recovery ends (R371, R477, R481) -/

/-- The 64-bit tick that 32 bits name within 2^31 ticks of the tide (R486). -/
def nearTick (now : DWord) (lo : Nat) : DWord :=
  now + ((BitVec.ofNat 32 lo - now.setWidth 32).signExtend 64)

/-- A held PREEMPT is applied: SAVING, or REFUSED_FIT where a group's stop tick has passed. -/
def State.applyHeld (s : State) (p : Nat) : State :=
  match s.saves.find? fun r => decide (r.part = p) with
  | none => s
  | some r =>
    if r.group && decide (r.tick.toNat < s.tide.now.toNat) then
      { s with saves := s.saves.filter fun q => decide (q.part ≠ p) }.put (TEN_PART_STATUS_LAST_CODE p) stRefusedFit
    else s.toPart p psSaving

/-- The sequencer's registers show the entry running (R381). -/
def State.showEntry (s : State) (p : Nat) (j : JobSt) (e : SeqEntry) : State :=
  (((s.put (HUB_FSEQ_ENTRY p) j.entry).put (HUB_FSEQ_FLASK p) e.flask).put (HUB_FSEQ_SLOT p) e.slot).put (HUB_FSEQ_RUNS p)
    (lookupD j.runs j.entry 0)

/-- Core `c` runs slot `t` from its beginning. -/
def State.enterSlot (s : State) (c t : Nat) : State := s.setCore c ((s.core c).switchSlot t)

/-- JOB_START: at T every core, router and engine of the partition acts together; MODE_SWITCH to WINDOW (R216, R369). DEDUCED, log 62. -/
def State.jobStart (s : State) (p : Nat) : State :=
  match lookup s.jobs p with
  | none => s
  | some j =>
    match j.startAt, j.image.seq[0]? with
    | some t, some e =>
      if j.started then s else
      let s0 := s.atTick t
      let s1 := s0.setJobBits p true
      let s2 := s1.overCores p fun s c => (s.toWindow c).enterSlot c e.slot
      let j1 := { j with started := true, startAt := none }
      let s3 := (((s2.setJob p j1).toPart p psRunning).showEntry p j1 e).closeLoad p stDone
      (((s3.raisePart p cLoadDone).nextLoad).earlyStreams p j1 e).applyHeld p
    | _, _ => s
/-- DESIGN CHOICE, log 3. -/
def execJobStart (p : Part) (s : State) : Answer := .next (s.jobStart p)

/-! ### The flask sequencer (R372 to R375) -/

/-- A slot rearmed: READY, its registers, PC and loop stack zero. -/
def SlotSt.rearm (x : SlotSt) : SlotSt :=
  { x with state := .ready, fresh := true, pc := 0, sregs := List.replicate 32 0, spois := List.replicate 32 false,
           aregs := List.replicate 8 0, loops := [] }

/-- ENTRY_BEGIN: once the slot holds the flask and is READY or HALTED on every core, it is rearmed, the flask's streams
are active, and the switch requests go out; until then a tick of waiting is counted. DESIGN CHOICE, log 86. -/
def State.entryBegin (s : State) (p : Nat) : State :=
  match lookup s.jobs p with
  | none => s
  | some j =>
    match j.image.seq[j.entry]? with
    | none => s
    | some e =>
      if !j.waiting || !decide (s.get (TEN_PART_CTRL_STATE p) = psRunning) then s
      else if j.held.getD e.slot none = some e.flask ∧ s.slotsIn p e.slot (fun x => x == .ready || x == .halted) = true then
        let s1 := s.overCores p fun s c =>
          let k := s.core c
          s.setCore c (k.setSlot e.slot ((k.slots.getD e.slot slotReset).rearm))
        let j1 := { j with waiting := false }
        let s2 := ((s1.setJob p j1).startStreams p e.flask j1 fun _ => true).showEntry p j1 e
        s2.earlyStreams p j1 e
      else s.inc (HUB_FSEQ_WAIT_TICKS p)
def execEntryBegin (p : Part) (s : State) : Answer := .next (s.entryBegin p)

/-- ENTRY_END: every core halted in the entry's slot, and GO where the entry asks for it; the job completes at an END
entry, else the entry runs again or NEXT is to begin. -/
def State.entryEnd (s : State) (p : Nat) : State :=
  match lookup s.jobs p with
  | none => s
  | some j =>
    match j.image.seq[j.entry]? with
    | none => s
    | some e =>
      let halted := (s.partCores p).all fun c =>
        decide ((s.core c).active = e.slot) && decide ((s.core c).slot.state = .halted) && (s.core c).switchTo.isNone
      if j.started && !j.waiting && decide (s.get (TEN_PART_CTRL_STATE p) = psRunning) && halted
          && (!e.go || s.flag (HUB_FSEQ_GO_GO p)) then
        let s1 := (s.stopStreams p e.flask).setFlag (HUB_FSEQ_GO_GO p) false
        let n := lookupD j.runs j.entry 0 + 1
        if e.last then s1.closeJob p stDone psIdle
        else if e.count = 0 ∨ n < e.count then
          (s1.setJob p { j with runs := insert j.runs j.entry n, waiting := true }).put (HUB_FSEQ_RUNS p) n
        else s1.setJob p { j with runs := insert j.runs j.entry 0, entry := e.next, waiting := true }
      else s
def execEntryEnd (p : Part) (s : State) : Answer := .next (s.entryEnd p)

/-- FSEQ_GO: a W1S of GO (R381). -/
def execFseqGo (p : Part) (s : State) : Answer := .next (s.setFlag (HUB_FSEQ_GO_GO p) true)

/-- The entries from entry `i` on, in walk order. -/
def seqWalk (es : List SeqEntry) (i fuel : Nat) : List SeqEntry :=
  match fuel with
  | 0 => []
  | fuel + 1 => match es[i]? with
    | none => []
    | some e => e :: (if e.last || decide (e.count = 0) then [] else seqWalk es e.next fuel)

/-- SLOT_REWRITE: a slot that is neither ACTIVE nor the running entry's takes the flask its next entry needs: stages 3
and 6 for that slot alone, and READY (R375). -/
def State.slotRewrite (s : State) (p slot : Nat) : State :=
  match lookup s.jobs p with
  | none => s
  | some j =>
    match j.image.seq[j.entry]? with
    | none => s
    | some e =>
      let walk := if j.waiting then seqWalk j.image.seq j.entry 256 else (seqWalk j.image.seq j.entry 257).tail
      match walk.find? fun q => decide (q.slot = slot) with
      | none => s
      | some q =>
        let busy := (!j.waiting && decide (e.slot = slot)) || !s.slotsIn p slot fun x => x != .active
        if j.started && !busy && decide (j.held.getD slot none ≠ some q.flask) then
          let s1 := s.overCores p fun s c => (s.writeSlot true j slot q.flask c).markReady c slot
          let s2 := s1.overClusters p fun s k => s.writeRouter j slot q.flask k
          s2.setJob p { j with held := setAt j.held slot (some q.flask) }
        else s
def execSlotRewrite (p : Part) (slot : Slot) (s : State) : Answer := .next (s.slotRewrite p slot)

/-! ### Registered models (R293, R348, R378, R379) -/

/-- Registry entries allocated. -/
def State.exrUsed (s : State) : Nat := (s.models.map fun m => m.2.image.experts).foldl (· + ·) 0

/-- The registry entry of an expert bound at registration (R293, R378). -/
def State.boundEntry (s : State) (handle : Nat) : BitVec 128 :=
  match s.obj handle with
  | none => 0
  | some o =>
    let tier := if bit o.mask 2 then 2 else if bit o.mask 1 then 1 else 0
    BitVec.ofNat 128 (s.get RVR_EP_ID_ID + harborOf handle * 2 ^ 16 + tier * 2 ^ 18 + 2 ^ 20 + handle * 2 ^ 32
      + o.pages * 2 ^ 64 + 2 ^ 96)

/-- The status of a HUB_IMG command. -/
def State.imgDone (s : State) (code check : Nat) : State :=
  (s.put HUB_IMG_STATUS_CODE code).put HUB_IMG_STATUS_CHECK check

/-- REGISTER of model `m`, permitted to `tenant`, from an image object and a bind object. DEDUCED, log 72; DEDUCED, log 90. -/
def State.register (s : State) (m : Nat) (tenant : Option Nat) (handle bind : Nat) : State :=
  if (lookup s.models m).isSome || (s.imageObj handle).isNone then s.imgDone stRefusedFit 0
  else match s.openImage handle false with
    | .error e => s.imgDone e.status e.check
    | .ok g =>
      if g.wordsBad.isSome then s.imgDone stRefusedFit 0x11
      else match s.readBind bind g true with
        | none => s.imgDone stRefusedFit 0x1A
        | some b =>
          let owned := match s.obj bind with
            | some o => boundOwner o tenant
            | none => false
          if !owned || (s.bindBad g tenant b.objs).isSome then s.imgDone stRefusedFit 0x1A
          else if 262144 < s.exrUsed + g.experts then s.imgDone stRefusedFit 0x18
          else
            let entries := g.expertObjs.filter fun e => decide (e.2 ≠ 0xFF)
            let s1 : State := { s with
              models := insert s.models m { handle := handle, image := g, tenant := tenant, objs := b.objs },
              registry := entries.foldl (fun r e => insert r (exrKey m e.1) (s.boundEntry (b.objs.getD e.2 0))) s.registry }
            (s1.put HUB_EXR_STATUS_USED s1.exrUsed).imgDone stDone 0
def execImgRegister (s : State) : Answer :=
  let a := s.get (HUB_IMG_ARG_ARG 0)
  .next (s.register (bitsOf a 0 10) (if bit a 22 then none else some (bitsOf a 10 12)) (s.get (HUB_IMG_ARG_ARG 1))
    (s.get (HUB_IMG_ARG_ARG 2)))

/-- UNREGISTER: the model ID and its entries are free; refused while a job holds the model. DEDUCED, log 90. -/
def State.unregister (s : State) (m : Nat) : State :=
  if (lookup s.models m).isNone || s.jobs.any fun (e : Nat × JobSt) => decide (e.2.model = some m) then s.imgDone stRefusedFit 0
  else
    let s1 : State := { s with
      models := erase s.models m, registry := eraseRange s.registry (exrKey m 0) (exrKey (m + 1) 0),
      harbors := s.harbors.map fun (e : Nat × HarborSt) =>
        (e.1, { e.2 with cached := e.2.cached.filter fun x => decide (x.model ≠ m) }) }
    (s1.put HUB_EXR_STATUS_USED s1.exrUsed).imgDone stDone 0
def execImgUnregister (s : State) : Answer := .next (s.unregister (bitsOf (s.get (HUB_IMG_ARG_ARG 0)) 0 10))

end Sys2Proof.Machine
end

