-- ==== Sys2Proof/Machine/Recovery.lean ====
section
/-! DEFINITION. Fencing a core and taking a spare, recovery in place, and faults larger than a core (R137 to R139, R165,
R371, R481, R514 to R532). -/

namespace Sys2Proof.Machine

/-! ### Spares (R138, R539) -/

/-- The spare positions of island `i` that serve no logical core and are not fenced. -/
def State.unusedSpares (s : State) (i : Nat) : List Nat :=
  let x := s.isl i
  let taken := x.causeway.map (·.2) ++ (s.fuses.causeway.filter fun e => decide (e.1 / 128 = i)).map (·.2)
  spares.filter fun p => !x.fencedPos.contains p && !taken.contains p

/-- Manhattan distance between two positions. -/
def posDist (a b : Nat) : Nat :=
  (max (a / 12) (b / 12) - min (a / 12) (b / 12)) + (max (a % 12) (b % 12) - min (a % 12) (b % 12))

/-- The spare a failed position takes: the nearest, the lower position of two as near. -/
def State.spareFor (s : State) (i pos : Nat) : Option Nat :=
  leastBy (fun p => 256 * posDist pos p + p) (s.unusedSpares i)

/-- SPARES_FREE follows the map; two or fewer left set SPARE_LOW (R463, R539). -/
def State.refreshSpares (s : State) (i : Nat) : State :=
  let n := (s.unusedSpares i).length
  let s1 := s.put (ISL_FLT_STATUS_SPARES_FREE i) n
  if n ≤ 2 then s1.raisePF cSpareLow else s1

/-- The registers of core `c` that a change of PCORE returns to 0 (R173, R298, R340). -/
def State.clearMoved (s : State) (c : Nat) : State :=
  let b := s.coreKey c
  ((s.resetRegs (b + 0x050) (b + 0x054)).resetRegs (b + 0x060) (b + 0x064)).resetRegs (b + 0x148) (b + 0x158)

/-- CAUSEWAY_SUBSTITUTE: core `c`'s logical ID moves to a spare, with its record or without; none when none is left. -/
def State.substitute (s : State) (c : Nat) (copy : Bool) : Option State :=
  let i := s.phys (islOf c)
  let j := inIsland c
  match s.spareFor i (s.posOf i j) with
  | none => none
  | some q =>
    let s0 := if copy then s.emptyCache c else s
    let s1 := s0.setIsl i { s0.isl i with causeway := insert (s0.isl i).causeway j q }
    let s2 := (s1.clearMoved c).refreshSpares i
    some (if copy then s2 else s2.wipeCore c)

/-- Core `c`, fenced, takes a spare where one is left; else its logical ID is served by no core (R522, R523). DEDUCED, log 125. -/
def State.takeSpare (s : State) (c : Nat) : State := (s.substitute c false).getD s

/-- The physical core that serves `c` is fenced: CORE_FENCED and the log (R139, R463, R557). -/
def State.markFenced (s : State) (c : Nat) : State :=
  let i := s.phys (islOf c)
  let pos := s.posOf i (inIsland c)
  let s1 := s.setIsl i { s.isl i with fencedPos := pos :: (s.isl i).fencedPos }
  let spare := match s1.spareFor i pos with
    | some q => i * 256 + q
    | none => 0xFFFF
  let chk := (s.reg (s.atCore c ISL_CORE_CHK)).toNat
  (((s1.refreshSpares i).raisePF cCoreFenced).logEvent 0x0001 2 i (s.corePart c) (some c) 0
    (pay 2 (i * 256 + pos) ++ pay 2 spare ++ pay 4 chk))

/-! ### Ejection, and second faults (R524, R532) -/

/-- Whether the cluster router that serves core `c` is fenced (R525). -/
def State.routerGone (s : State) (c : Nat) : Bool :=
  bit (s.get (ISL_FLT_STATUS_RTR_FENCED (s.phys (islOf c)))) (clOf c)

/-- A fault that ends the job of partition `p`: within a recovery window the partition is fenced (R532). DEDUCED, log 124. -/
def State.strike (s : State) (p status lcore : Nat) : State :=
  if s.get (TEN_PART_CTRL_STATE p) = psRecovering then
    let s1 := (s.eject p stEjectedCompound lcore).setFlag (HUB_RCV_PART_FENCED p) true
    ((s1.partCores p).filter fun c => s1.fenced c && !s1.routerGone c).foldl State.takeSpare s1
  else s.eject p status lcore

/-! ### A core fault (R371, R481, R516, R522, R523) -/

/-- A recovery begins: the partition is RECOVERING; with no spare left the job is ejected at once. -/
def State.startRecovery (s : State) (p c : Nat) : State :=
  let i := s.phys (islOf c)
  let none_ := (s.spareFor i (s.posOf i (inIsland c))).isNone
  let r : Recovery := { phase := 1, lcore := c, detected := s.tide.now, second := false, resumeAt := none, noSpare := none_,
                        overflow := false }
  let s1 : State := { s with recov := insert s.recov p r }
  let s2 := (s1.toPart p psRecovering).refreshRecov
  if none_ then s2.eject p stEjectedFence c else s2

/-- A core fenced while its partition loads: the loader rewrites the spare from stage 2; a load that has begun PRIME
primes again (R371). DEDUCED, log 87. -/
def State.reloadCore (s : State) (p c : Nat) (j : JobSt) : State :=
  match (List.range 4).find? fun n => match lookup s.loads n with
    | some l => decide (l.req.part = p)
    | none => false with
  | none => s
  | some n =>
    let stage := match lookup s.loads n with
      | some l => l.stage
      | none => 0
    if stage ≤ 2 then s
    else
      let s1 := s.coreStages j c (stage - 1)
      if stage < 7 then s1
      else
        let s2 : State := { s1 with harbors := s1.harbors.map fun (e : Nat × HarborSt) =>
          (e.1, { e.2 with streams := e.2.streams.filter fun q => decide (q.2.part ≠ p) }) }
        s2.stageDone n p 6 { j with startAt := none }

/-- What a core's fencing does to the partition that holds it. -/
def State.fenceFault (s : State) (c : Nat) : State :=
  match s.corePart c with
  | none => s.takeSpare c
  | some p =>
    let st := s.get (TEN_PART_CTRL_STATE p)
    if st = psLoading then
      match s.substitute c false, lookup s.jobs p with
      | some s1, some j => s1.reloadCore p c j
      | some s1, none => s1
      | none, _ => s.eject p stEjectedFence c
    else if st = psRunning then s.startRecovery p c
    else if st = psRecovering then s.strike p stEjectedCompound c
    else if st = psSaving then (s.substitute c true).getD s
    else if st = psRestoring then
      match s.substitute c false with
      | some s1 => s1
      | none => s.eject p stEjectedFence c
    else s.takeSpare c

/-- A core is fenced, and what follows; a core already fenced stays as it is. DEDUCED, log 125. -/
def State.fenceCore (s : State) (c : Nat) : State :=
  if s.fenced c then s else (s.markFenced c).fenceFault c

/-- PERSISTENT_MISMATCH_FENCE: the recompute of the oldest step, or the rerun of a stage, mismatches again; the ladle is
left at the start of that step (R165, R624). -/
def execPersistentMismatchFence (c : LCore) (row col dup conv : Bool) (array : Fin 4) (s : State) : Answer :=
  let k := s.core c
  let m : Mismatch := { row := row, col := col, dup := dup, array := array.val }
  let fence (m : Mismatch) (k1 : CoreSt) : State :=
    let s1 := (s.noteMismatch c m).setFlag (s.atCore c ISL_CORE_CHK_PERSIST) true
    ((s1.setCore c k1).syncLadle c).fenceCore c
  .next (if !s.ladleLive c then s
    else if conv then match k.outs with
      | o :: _ => if o.rerun then fence m k.failTile else s
      | [] => s
    else match k.steps with
      | x :: _ =>
        let y := x.mis.getD m
        if (x.recomputed && (y.row || y.col)) || (x.rerun && y.dup) then
          fence y (k.failStep (x.rerun && y.dup && !(x.recomputed && (y.row || y.col)))) else s
      | [] => s)

/-- RCV_FENCE_GO: a W1S of GO fences the core serving LCORE, its steps in flight abandoned; clamped to 0 while any
partition loads (R538). -/
def execRcvFenceGo (s : State) : Answer :=
  let c := s.get HUB_RCV_FENCE_LCORE
  .next (if (List.range 128).any fun p => decide (s.get (TEN_PART_CTRL_STATE p) = psLoading) then
      s.clampAt HUB_CLAMP_COUNT HUB_CLAMP_LAST_ADDR HUB_CLAMP_LAST_BAR2 HUB_RCV_FENCE.addr false
    else ((s.setCore c ((s.core c).abandon 0)).syncLadle c).fenceCore c)

/-! ### The phases of a recovery (R516 to R520) -/

/-- Whether a core has stopped issuing and its units are quiet (R134). -/
def CoreSt.quiet (k : CoreSt) : Bool := k.preempt && k.steps.isEmpty && k.outs.isEmpty

/-- Whether a message of a core of partition `p` awaits its EACK or stalls. -/
def State.ravorOut (s : State) (p : Nat) : Bool :=
  (s.ravor.waiting ++ s.ravor.stalled).any fun w => match w.1 with
    | .packet c _ => decide (s.corePart c = some p)
    | .core c _ => decide (s.corePart c = some p)
    | .engine q => decide (q = p)
    | _ => false

/-- Every core of partition `p` that is not fenced is quiet, and no counter request is in flight (R261, R477). -/
def State.partQuiet (s : State) (p : Nat) : Bool :=
  ((s.partCores p).all fun c => s.fenced c || (s.core c).quiet)
    && (s.partClusters p).all fun k => (s.cluster k).ctrReqs.isEmpty

/-- Outbound traffic of partition `p` has been delivered (R62, R468, R477). -/
def State.partDrained (s : State) (p : Nat) : Bool :=
  ((s.partCores p).all fun c => (s.core c).xfers.isEmpty && decide ((s.core c).sends = 0)) && !s.ravorOut p

def State.setRecov (s : State) (p : Nat) (r : Recovery) : State := { s with recov := insert s.recov p r }

/-- One spooled message is written where it goes; none while a FIFO has no room (R519). DEDUCED, log 120. -/
def State.replayOne (s : State) (p : Nat) (x : Spooled) : Option State :=
  let leaves := match (lookup s.jobs p).bind fun j => j.image.route x.msg.vroute with
    | some r => r.leaves.filter fun l => decide (l < 2048)
    | none => []
  if x.msg.kind = 0 then (s.landPacket leaves x.msg.src x.msg.vroute x.msg.grans).map (·.1)
  else match x.sink with
    | some (i, r) => some (leaves.foldl (fun s l => s.ringFill l i r (x.msg.offset / 64) x.msg.grans false) s)
    | none => some (leaves.foldl (fun s l => s.writeGrans l (x.msg.offset / 64) x.msg.grans) s)

/-- The spool is replayed in arrival order; what cannot land stays behind, and everything after it. -/
def State.replay (s : State) (p : Nat) (ms : List Spooled) : State × List Spooled :=
  match ms with
  | [] => (s, [])
  | m :: rest => match s.replayOne p m with
    | some s1 => s1.replay p rest
    | none => (s, m :: rest)

/-- DEDUCED, log 120. -/
def State.replaySpool (s : State) (p : Nat) : State :=
  match lookup s.spools p with
  | none => s
  | some ms =>
    let (s1, left) := s.replay p ms
    { s1 with spools := insert s1.spools p left }

/-- At T every core enters WINDOW mode and continues at its PC; the partition runs (R516). -/
def State.recovered (s : State) (p : Nat) (r : Recovery) : State :=
  let s1 := s.overCores p fun s c => (s.toWindow c).setCore c { s.core c with preempt := false }
  let s2 : State := { s1 with recov := erase s1.recov p, spools := erase s1.spools p }
  let ticks := s2.tide.now.toNat - r.detected.toNat
  let s3 := (((s2.toPart p psRunning).refreshRecov).inc HUB_RCV_CNT_RECOVERED).put HUB_RCV_STATUS_LAST_CODE stDone
  let s4 := (s3.put HUB_RCV_STATUS_LAST_PART p).put HUB_RCV_LAST_TICKS (min (2 ^ 32 - 1) ticks)
  (s4.logEvent 0x000C 1 24 (some p) (some r.lcore) stDone (pay 4 ticks ++ pay 1 stDone)).applyHeld p

/-- The causeway entry of phase 5 is written and the core's record stands on the spare; a full spool ejects the job. -/
def State.recovSubst (s : State) (p : Nat) (r : Recovery) : State :=
  match s.substitute r.lcore true with
  | none => s.eject p stEjectedFence r.lcore
  | some s1 =>
    let beyond := match lookup s1.recov p with
      | some q => q.overflow
      | none => false
    if beyond then s1.eject p stEjectedFence r.lcore
    else s1.setRecov p { r with phase := 6 }

/-- RECOVERY_PHASE_COMPLETE: the phase under way ends where what it waits for has happened, and the next begins. -/
def State.recovStep (s : State) (p : Nat) : State :=
  match lookup s.recov p with
  | none => s
  | some r =>
    match r.phase with
    | 1 => s.setRecov p { r with phase := 2 }
    | 2 => if s.partQuiet p then s.setRecov p { r with phase := 3 } else s
    | 3 =>
      if s.partDrained p then
        let peers := match lookup s.jobs p with
          | some j => !j.peers.isEmpty
          | none => false
        let s1 := s.creditAll p
        if peers && decide (s.get (HUB_RCV_SPOOL_HANDLE p) = 0) then s1.eject p stEjectedFence r.lcore
        else { s1 with spools := insert s1.spools p [] }.setRecov p { r with phase := 4 }
      else s
    | 4 =>
      let busy := (s.recov.filter fun (e : Nat × Recovery) => decide (5 ≤ e.2.phase)).length
      if busy < 8 then s.setRecov p { r with phase := 5 } else s
    | 5 => s.recovSubst p r
    | 6 =>
      let s1 := s.replaySpool p
      if lookupD s1.spools p [] = [] then
        s1.setRecov p { r with phase := 7, resumeAt := some (startTick s1.tide.now) } else s1
    | _ =>
      match r.resumeAt with
      | none => s
      | some t =>
        let s1 := (s.atTick t).replaySpool p
        if lookupD s1.spools p [] = [] then s1.recovered p r
        else s1.setRecov p { r with phase := 6, resumeAt := none }
def execRecoveryPhaseComplete (p : Part) (s : State) : Answer := .next (s.recovStep p)

/-! ### Faults larger than a core (R525 to R530) -/

/-- ROUTER_FAULT: the router and its sixteen cores are fenced, its bypass forwards, the job is ejected (R525). DEDUCED, log 124. -/
def State.routerFault (s : State) (k : Nat) : State :=
  let i := s.phys (k / 8)
  let f := ISL_FLT_STATUS_RTR_FENCED i
  if bit (s.get f) (k % 8) then s
  else
    let ps := (List.range 16).map fun j => s.posOf i (16 * (k % 8) + j)
    let s1 := (s.put f (setBit (s.get f) (k % 8) true)).setIsl i { s.isl i with fencedPos := ps ++ (s.isl i).fencedPos }
    let s2 := ((s1.refreshSpares i).raisePF cCoreFenced).logEvent 0x0002 2 i (s.partOf k) none 0 (pay 1 (k % 8))
    match s2.partOf k with
    | some p => s2.strike p stEjectedFence (16 * k)
    | none => s2
def execRouterFault (k : Cluster) (s : State) : Answer := .next (s.routerFault k)

/-- A quench: the island's core rail is removed, its fabric stays, every job on it is ejected (R526, R527). DEDUCED, log 124; DEDUCED, log 125. -/
def State.quench (s : State) (i q hot amps : Nat) : State :=
  if s.flag (ISL_FLT_STATUS_QUENCHED i) || !(s.isl i).railUp then s
  else
    let s1 := ((s.setFlag (ISL_FLT_STATUS_QUENCHED i) true).put (ISL_FLT_STATUS_QREASON i) q).setPresent i false 5
    let s2 := (s1.raisePF cIslandLost).logEvent 0x0003 3 i none none 0 (pay 1 q ++ pay 1 hot ++ pay 2 amps)
    let s3 := (List.range 128).foldl (fun s p =>
      if (lookup s.jobs p).isSome && s.partOnIsland p i then s.strike p stEjectedFence (128 * s.logIsland i) else s) s2
    s3.coreRailOff i

/-- ISLAND_QUENCH: the lowest code of the triggers of R526 that fall in one evaluation, with the readings logged; the
first of them needs its four evaluations. -/
def execIslandQuench (i : Island) (reason : Fin 5) (hot : BitVec 8) (amps : BitVec 16) (s : State) : Answer :=
  .next (if reason.val = 0 ∧ (s.isl i).over115 < 4 then s else s.quench i (reason.val + 1) hot.toNat amps.toNat)

/-- Whether the job of partition `p` has an object, a stream or a save object on harbor `h` (R514). -/
def State.onHarbor (s : State) (p h : Nat) : Bool :=
  match lookup s.jobs p with
  | none => false
  | some j =>
    (j.objs.any fun o => decide (harborOf o = h)) || decide (harborOf j.handle = h)
      || (s.harbor h).streams.any (fun e => decide (e.2.part = p))
      || (s.saves ++ s.restores).any fun r => decide (r.part = p) && (r.handles.getD h none).isSome

/-- HARBOR_FAULT: the harbor pours nothing and answers nothing; the jobs with anything on it are ejected (R528). DEDUCED, log 124. -/
def State.harborFault (s : State) (h : Nat) : State :=
  let x := s.harbor h
  if x.fenced then s
  else
    let hit := (List.range 128).filter fun p => s.onHarbor p h
    let s1 := s.setHarbor h { x with fenced := true, streams := [], reqs := [], moves := [], runs := [], cached := [],
                                     fetches := [], stations := [] }
    let s2 := ((s1.raisePF cHarborFault).logEvent 0x0006 3 (16 + h) none none 0 (pay 1 h)).refreshFerry
    hit.foldl (fun s p => s.strike p stLinkLost ((s.partCores p).headD 0)) s2
def execHarborFault (h : Harbor) (s : State) : Answer := .next (s.harborFault h)

/-- OE_FAULT: the die's four ports are fenced; routes change and what it held is sent again (R436, R529). DEDUCED, log 125. -/
def State.oeFault (s : State) (d : Nat) : State :=
  let s1 := (s.raisePF cOeFault).logEvent 0x0009 3 (20 + d) none none 0 (pay 1 d)
  (List.range 4).foldl (fun s i => s.portTo (4 * d + i) ptFenced 0) s1
def execOeFault (d : Fin 4) (s : State) : Answer := .next (s.oeFault d)

/-- HUB_FAULT: the package goes down while its hub rail is up (R530). -/
def execHubFault (s : State) : Answer := .next (if s.pads.hubRail then s.hubFault else s)

end Sys2Proof.Machine
end

