-- ==== Sys2Proof/Machine/Tenancy.lean ====
section
/-! DEFINITION. Partitions and their commands, pre-emption and resume, compute resets, key slots, and the causes' messages
(R323, R454 to R486). -/

namespace Sys2Proof.Machine

/-! ### Commands and their status (R473, R485, R486) -/

/-- CODE of a tenancy command: the physical function's, or the page's of the tenant that issued it (R485, R582). -/
def State.tenCode (s : State) (who : Option Nat) (code : Nat) : State :=
  match who with
  | none => s.put TEN_CMD_STATUS_CODE code
  | some t => s.put (DB_CMD_STATUS_CODE t) code

/-- A command's result: the state it leaves where it is accepted, or none where it is refused. -/
def State.tenAnswer (s : State) (who : Option Nat) (r : Option State) : State :=
  match r with
  | some s1 => s1.tenCode who stDone
  | none => s.tenCode who stRefusedFit

/-- The arguments of the physical function's command. -/
def State.tenArg (s : State) (n : Nat) : Nat := s.get (TEN_ARG_ARG n)
/-- Whether the issuer may command partition `p`: its owner, or the physical function (R452, R486). -/
def State.mayCommand (s : State) (who : Option Nat) (p : Nat) : Bool :=
  who.isNone || (decide (s.ownerOf p = who) && decide (s.get (TEN_PART_CTRL_STATE p) ≠ psFree))
def State.partState (s : State) (p : Nat) : Nat := s.get (TEN_PART_CTRL_STATE p)

/-! ### CREATE, DESTROY, ASSIGN (R457, R460, R504) -/

/-- The owner that bits [19:7] of an argument name. -/
def ownerArg (a : Nat) : Option Nat := if bit a 19 then none else some (bitsOf a 7 12)

def State.setOwner (s : State) (p : Nat) (o : Option Nat) : State :=
  (s.setFlag (TEN_PART_CTRL_PF p) o.isNone).put (TEN_PART_CTRL_OWNER p) (o.getD 0)

/-- CREATE of partition `p` over a mask of clusters. -/
def State.create (s : State) (a mask : Nat) : Option State :=
  let p := a % 128
  let owner := ownerArg a
  let ks := maskList 128 mask
  let enabled := match owner with
    | none => true
    | some t => s.flag (TEN_VF_CTRL_EN t)
  if s.ready && decide (s.partState p = psFree) && !ks.isEmpty && enabled
      && ks.all (fun k => (s.partOf k).isNone && s.clusterExists k && s.present (s.phys (k / 8))) then
    let s1 := (List.range 4).foldl (fun s n => s.put (TEN_PART_CL_MASK p n) (bitsOf mask (32 * n) 32)) s
    some (((s1.setOwner p owner).put (TEN_PART_CTRL_FLOOR p) 0).put (TEN_PART_CTRL_STATE p) psIdle)
  else none
def execPartCreate (s : State) : Answer :=
  let mask := s.tenArg 2 + s.tenArg 3 * 2 ^ 32 + s.tenArg 4 * 2 ^ 64 + s.tenArg 5 * 2 ^ 96
  .next (s.tenAnswer none (s.create (s.tenArg 0) mask))

/-- DESTROY: an IDLE partition's clusters are free. -/
def State.destroy (s : State) (p : Nat) : Option State :=
  if s.partState p = psIdle ∧ s.minimal = false then
    let s1 := (List.range 4).foldl (fun s n => s.put (TEN_PART_CL_MASK p n) 0) s
    some (s1.setReg (TEN_PART_CTRL p) 0)
  else none
def execPartDestroy (s : State) : Answer := .next (s.tenAnswer none (s.destroy (s.tenArg 0 % 128)))

/-- ASSIGN: an IDLE partition's owner changes. DEDUCED, log 123. -/
def State.assign (s : State) (a : Nat) : Option State :=
  let p := a % 128
  if s.partState p = psIdle ∧ s.minimal = false then some (s.setOwner p (ownerArg a)) else none
def execPartAssign (s : State) : Answer := .next (s.tenAnswer none (s.assign (s.tenArg 0)))

/-! ### Save sets (R475, R476) -/

/-- The harbor of an island's quadrant (R475). DEDUCED, log 123. -/
def quadrant (i : Nat) : Nat := i / 8 * 2 + i % 4 / 2

/-- The clusters of partition `p` in a harbor's quadrant. -/
def State.inQuadrant (s : State) (p h : Nat) : Nat :=
  ((s.partClusters p).filter fun k => decide (quadrant (s.phys (k / 8)) = h)).length

/-- The save objects four argument words name, for the harbors whose quadrants hold a cluster. -/
def State.saveSet (s : State) (p : Nat) (words : List Nat) : List (Option Nat) :=
  (List.range 4).map fun h => if s.inQuadrant p h = 0 then none else some (words.getD h 0xFFFFFFFF)

/-- A save object of harbor `h`: of its harbor and owner, SPILL, near only, large enough. -/
def State.saveObjOk (s : State) (p h handle : Nat) : Bool :=
  match s.obj handle with
  | none => false
  | some o => decide (harborOf handle = h) && decide (o.owner = s.ownerOf p) && decide (o.cls = 3) && decide (o.mask = 1)
      && decide (1 + 656 * s.inQuadrant p h ≤ o.pages)

def State.saveSetOk (s : State) (p : Nat) (hs : List (Option Nat)) : Bool :=
  (List.range 4).all fun h => match hs.getD h none with
    | none => true
    | some handle => s.saveObjOk p h handle

/-- The header of a save object (R476): its first 64 bytes. -/
def saveHeader (h p : Nat) (owner : Option Nat) (mask tick : Nat) (j : JobSt) (hs : List (Option Nat)) : List Byte :=
  let img := match j.model with
    | some m => m + 2 ^ 31
    | none => j.handle
  let set := (List.range 4).foldl (fun n i => setBit n i (hs.getD i none).isSome) 0
  leBytes 4 0x56415345 ++ leBytes 1 h ++ leBytes 1 p ++ leBytes 2 (owner.getD 0x1000) ++ leBytes 16 mask ++ leBytes 8 tick
    ++ leBytes 4 img ++ leBytes 1 set ++ List.replicate 27 0

def SavedJob.header (j : SavedJob) (h : Nat) : List Byte :=
  saveHeader h j.part j.owner j.mask j.tick.toNat j.job j.handles

/-! ### PREEMPT (R477, R478, R481) -/

/-- The save objects an argument list names. -/
def setWords (args : List Nat) : List Nat := [args.getD 2 0, args.getD 3 0, args.getD 4 0, args.getD 5 0]

/-- PREEMPT: accepted into SAVING, or held while the partition loads or recovers. -/
def State.preempt (s : State) (who : Option Nat) (args : List Nat) : Option State :=
  let a := args.getD 0 0
  let p := a % 128
  let group := bit a 7
  let ts := nearTick s.tide.now (args.getD 1 0)
  let hs := s.saveSet p (setWords args)
  let st := s.partState p
  let past := group && decide (ts.toNat < s.tide.now.toNat)
  let run : MoveRun := { part := p, handles := hs, group := group, tick := ts, stopped := false, moved := false }
  let known := s.saves.any fun r => decide (r.part = p)
  if !s.mayCommand who p || past || known || !s.saveSetOk p hs || s.minimal then none
  else if st = psRunning then some ({ s with saves := s.saves ++ [run] }.toPart p psSaving)
  else if st = psLoading ∨ st = psRecovering then some { s with saves := s.saves ++ [run] }
  else none

/-- The argument words of a command of the physical function. -/
def State.tenArgs (s : State) : List Nat := (List.range 6).map s.tenArg
def execPreempt (s : State) : Answer := .next (s.tenAnswer none (s.preempt none s.tenArgs))

/-- The save of partition `p` that is under way. -/
def State.saving (s : State) (p : Nat) : Option MoveRun :=
  if s.partState p = psSaving then s.saves.find? fun r => decide (r.part = p) else none

/-- PREEMPT_STOP_TICK: at the first cycle at or after Ts every core stops issuing. -/
def State.stopGroup (s : State) (p : Nat) : State :=
  match s.saving p with
  | none => s
  | some r =>
    if r.group && !r.stopped then
      let s1 := (s.atTick r.tick).overCores p State.preemptCore
      { s1 with saves := s1.saves.map fun q => if q.part = p then { q with stopped := true } else q }
    else s
def execPreemptStopTick (p : Part) (s : State) : Answer := .next (s.stopGroup p)

/-- The registers of a partition's cores and clusters. -/
def State.partRegs (s : State) (p : Nat) : SMap Word :=
  let cs := (s.partCores p).map s.coreKey
  let ks := (s.partClusters p).map s.clusterKey
  s.regs.filter fun e => (cs.any fun b => decide (b ≤ e.1) && decide (e.1 < b + 0x400))
    || ks.any fun b => decide (b ≤ e.1) && decide (e.1 < b + 0x8000)

/-- What the save path reads of partition `p` (R476, R477). -/
def State.record_ (s : State) (p : Nat) (j : JobSt) (r : MoveRun) : SavedJob :=
  { live := true, part := p, owner := s.ownerOf p, mask := s.partMask p, handles := r.handles, tick := s.tide.now, job := j,
    cores := (s.partCores p).map fun c => (c, s.core c), clusters := (s.partClusters p).map fun k => (k, s.cluster k),
    regs := s.partRegs p,
    streams := s.harbors.flatMap fun (e : Nat × HarborSt) =>
      (e.2.streams.filter fun q => decide (q.2.part = p)).map fun q => (4096 * e.1 + q.1, q.2),
    stations := s.harbors.flatMap fun (e : Nat × HarborSt) =>
      (e.2.stations.filter fun t => decide (t.part = p)).map fun t => (e.1, t) }

/-- A saved job is ended: its count moves from SAVED to ENDED (R461, R467, R479). -/
def State.endSaved (s : State) (on : SavedJob → Bool) : State :=
  let hit := s.saved.filter fun j => j.live && on j
  let s1 := hit.foldl (fun s j => match j.owner with
    | none => s
    | some t => (s.acct t 3 false).inc (TEN_VF_ENDED_ENDED t)) s
  { s1 with saved := s1.saved.map fun j => if on j then { j with live := false } else j }

/-- Whether two save sets share an object. DEDUCED, log 121. -/
def setsMeet (a b : List (Option Nat)) : Bool := a.any fun h => h.isSome && b.contains h

/-- The records and then the header pages are written: the set holds the job (R477). -/
def State.writeSet (s : State) (j : SavedJob) : State :=
  let s1 := s.endSaved fun q => setsMeet q.handles j.handles
  let s2 : State := { s1 with saved := (s1.saved.filter fun q => !setsMeet q.handles j.handles) ++ [j] }
  (List.range 4).foldl (fun s h => match j.handles.getD h none with
    | some handle => s.setObjBytes handle 0 (j.header h)
    | none => s) s2

/-- The job of partition `p` leaves it without ending: its resources are released and the partition is IDLE. -/
def State.leavePart (s : State) (p : Nat) : State :=
  let s1 := s.releaseHarbors p
  let s2 : State := { s1 with jobs := erase s1.jobs p, saves := s1.saves.filter (fun r => decide (r.part ≠ p)),
                              restores := s1.restores.filter fun r => decide (r.part ≠ p) }
  ((((s2.toPart p psIdle).setJobBits p false).creditAll p).refreshJobLock).refreshFerry

/-- How a save ends: as a core of the partition has been fenced the job is ejected, else its record is written and it
leaves the partition. -/
def State.saveOutcome (s : State) (p : Nat) (j : SavedJob) (lost : Option Nat) : State :=
  match lost with
  | some c => (s.writeSet { j with live := false }).eject p stEjectedFence c
  | none =>
    let s1 := (s.writeSet j).leavePart p
    let s2 := match s1.ownerOf p with
      | some t => s1.acct t 3 true
      | none => s1
    ((s2.overCores p State.clearCore).put (TEN_PART_STATUS_LAST_CODE p) stDone).raisePart p cSaveDone

/-- SAVE_COMPLETE: with every core quiet and the drain over (a group's at the end of its window), the cores enter CREDIT
mode, the caches are written back, the records and headers are written, the job is SAVED and the partition IDLE; with a
core that no spare replaced the job is ejected and leaves its set (R477, R478, R481). -/
def State.saveComplete (s : State) (p : Nat) : State :=
  match s.saving p, lookup s.jobs p with
  | some r, some j =>
    if s.partQuiet p && s.partDrained p && (!r.group || r.stopped) then
      let wait := r.tick.toNat + s.get TEN_CTRL_WINDOW_US * 1200
      let s0 := if r.group then s.atTick (BitVec.ofNat 64 wait) else s
      let s1 := (s0.creditAll p).overCores p State.emptyCache
      s1.saveOutcome p (s1.record_ p j r) ((s1.partCores p).find? s1.fenced)
    else s
  | _, _ => s
def execSaveComplete (p : Part) (s : State) : Answer := .next (s.saveComplete p)

/-! ### RESUME and DISCARD (R478, R479) -/

/-- The save set a RESUME names, where it is complete and its headers match the partition. -/
def State.setOf (s : State) (p : Nat) (hs : List (Option Nat)) : Option SavedJob :=
  s.saved.find? fun j => decide (j.part = p) && decide (j.handles = hs) && decide (j.mask = s.partMask p)
    && decide (j.owner = s.ownerOf p) && (List.range 4).all fun h => match hs.getD h none with
      | none => true
      | some handle => (s.obj handle).isSome && decide ((s.objBytes handle 0 64).map (·.1) = j.header h)

/-- Whether the image of a saved job still exists. -/
def State.imageThere (s : State) (j : JobSt) : Bool :=
  match j.model with
  | some m => match lookup s.models m with
    | some x => decide (x.handle = j.handle)
    | none => false
  | none => (s.imageObj j.handle).isSome

/-- RESUME: the partition enters RESTORING in CREDIT mode. -/
def State.resume (s : State) (who : Option Nat) (args : List Nat) : Option State :=
  let a := args.getD 0 0
  let p := a % 128
  let group := bit a 7
  let t := nearTick s.tide.now (args.getD 1 0)
  let hs := s.saveSet p (setWords args)
  let past := group && decide (t.toNat < s.tide.now.toNat)
  if !s.mayCommand who p || past || decide (s.partState p ≠ psIdle) || s.flag (HUB_RCV_PART_FENCED p) || s.minimal then none
  else match s.setOf p hs with
    | none => none
    | some j =>
      if !s.imageThere j.job then none
      else
        let run : MoveRun := { part := p, handles := hs, group := group, tick := t, stopped := false, moved := false }
        let s1 : State := { s with jobs := insert s.jobs p j.job, restores := s.restores ++ [run] }
        some (((s1.toPart p psRestoring).refreshJobLock).creditAll p)
def execResume (s : State) : Answer := .next (s.tenAnswer none (s.resume none s.tenArgs))

/-- The records written back onto the partition (R479). -/
def State.restore (s : State) (p : Nat) (j : SavedJob) : State :=
  let keep (e : Nat × Word) : Bool := !((s.partRegs p).any fun q => decide (q.1 = e.1))
  let s1 : State := { s with
    cores := j.cores.foldl (fun m e => insert m e.1 { e.2 with preempt := false }) s.cores,
    clusters := j.clusters.foldl (fun m e => insert m e.1 e.2) s.clusters,
    regs := j.regs.foldl (fun m e => insert m e.1 e.2) (s.regs.filter keep),
    jobs := insert s.jobs p j.job }
  let s2 := j.streams.foldl (fun s e =>
    let x := s.harbor (e.1 / 4096)
    match x.freeStream (e.1 % 4096 / 64) with
    | some n => s.setHarbor (e.1 / 4096) { x with streams := insert x.streams (64 * (e.1 % 4096 / 64) + n) e.2 }
    | none => s) s1
  let s3 := j.stations.foldl (fun s e =>
    s.setHarbor e.1 { s.harbor e.1 with stations := (s.harbor e.1).stations ++ [e.2] }) s2
  s3.refreshFerry

/-- RESUME_TICK: at the resume tick WINDOW mode begins on every core, each continues at its saved PC and the partition
runs; a group's restore that is not complete at its tick leaves the job SAVED and the partition IDLE (R478, R479). -/
def State.resumeTick (s : State) (p : Nat) (complete : Bool) : State :=
  match s.restores.find? fun r => decide (r.part = p) with
  | none => s
  | some r =>
    match s.saved.find? fun j => j.named r with
    | none => s
    | some j =>
      let s0 := s.atTick (if r.group then r.tick else startTick s.tide.now)
      if complete then
        let s1 := ((s0.restore p j).setJobBits p true).overCores p State.toWindow
        let s2 := s1.unsave p
        let s3 := { s2 with restores := s2.restores.filter fun q => decide (q.part ≠ p) }.toPart p psRunning
        let s4 := match j.job.image.seq[j.job.entry]? with
          | some e => s3.showEntry p j.job e
          | none => s3
        (s4.put (TEN_PART_STATUS_LAST_CODE p) stDone).raisePart p cRestoreDone
      else if r.group then
        (((s0.leavePart p).wipePart p).put (TEN_PART_STATUS_LAST_CODE p) stRefusedFit).raisePart p cRestoreDone
      else s
def execResumeTick (p : Part) (complete : Bool) (s : State) : Answer := .next (s.resumeTick p complete)

/-- DISCARD: a saved job that is not being restored is ended (R479, R486). DEDUCED, log 123. -/
def State.discard (s : State) (who : Option Nat) (handle : Nat) : Option State :=
  match s.saved.find? fun j => j.live && j.handles.contains (some handle) with
  | none => none
  | some j =>
    if (who.isNone || decide (j.owner = who)) && !s.minimal && !(s.restores.any fun r => j.named r) then
      let s1 := s.endSaved fun q => decide (q.part = j.part) && decide (q.handles = j.handles)
      some { s1 with saved := s1.saved.filter fun q => !(decide (q.part = j.part) && decide (q.handles = j.handles)) }
    else none
def execDiscard (s : State) : Answer := .next (s.tenAnswer none (s.discard none (s.tenArg 2)))

/-! ### Compute resets (R466 to R473) -/

/-- Whether partition `p` saves or restores (R473). -/
def State.moving (s : State) (p : Nat) : Bool := decide (s.partState p = psSaving) || decide (s.partState p = psRestoring)

/-- A core or cluster reset begins; refused while its partition saves or restores. -/
def State.resetPiece (s : State) (scope target cluster : Nat) : Option State :=
  let bad := match s.partOf cluster with
    | some p => s.moving p
    | none => false
  let again := s.resets.any fun r => decide (r.scope = scope) && decide (r.target = target)
  if bad then none
  else if again then some s
  else some { s with resets := s.resets ++
    [{ scope := scope, target := target, byFlr := false, fromPF := true, drained := false }] }
def execResetCore (s : State) : Answer :=
  let c := bitsOf (s.tenArg 0) 3 11
  .next (s.tenAnswer none (s.resetPiece 0 c (clusterOf c)))
def execResetCluster (s : State) : Answer :=
  let k := bitsOf (s.tenArg 0) 3 7
  .next (s.tenAnswer none (s.resetPiece 1 k k))

/-- The job of partition `p` ends with EJECTED_RESET and the partition is RESETTING; a resume ends and its job stays
SAVED (R459, R473). DEDUCED, log 121. -/
def State.resetJob (s : State) (p : Nat) : State :=
  if s.partState p = psRestoring then
    ((s.leavePart p).toPart p psResetting).put (TEN_PART_STATUS_LAST_CODE p) stEjectedReset
  else if (lookup s.jobs p).isSome then s.closeJob p stEjectedReset psResetting
  else s.toPart p psResetting

/-- A partition reset: its job and its other saved jobs end, its bindings are reset, and the drain begins; one from the
physical function clears FENCED (R410, R466 to R468, R532). -/
def State.resetPart (s : State) (p : Nat) (fromPF byFlr : Bool) : Option State :=
  if s.partState p = psFree then none
  else if s.partState p = psResetting then
    some { s with resets := s.resets.map fun r =>
      if r.scope = 2 ∧ r.target = p then { r with byFlr := r.byFlr || byFlr } else r }
  else
    let s1 := (s.resetJob p).endSaved fun j =>
      decide (j.part = p) && !(s.restores.any fun r => j.named r)
    let s2 := s1.resetBindings p
    let s3 := if fromPF then s2.setFlag (HUB_RCV_PART_FENCED p) false else s2
    some { s3 with resets := (s3.resets.filter fun r =>
        !(decide (r.scope = 0) && decide (s3.partOf (clusterOf r.target) = some p))
          && !(decide (r.scope = 1) && decide (s3.partOf r.target = some p))) ++
      [{ scope := 2, target := p, byFlr := byFlr, fromPF := fromPF, drained := false }] }
def execResetPartition (s : State) : Answer :=
  .next (s.tenAnswer none (s.resetPart (bitsOf (s.tenArg 0) 3 7) true false))

/-- A package warm reset, at READY or in minimal mode (R466, R512). -/
def State.packageWarm (s : State) : State := if s.ready || s.minimal then s.warmReset else s
def execResetWarm (s : State) : Answer := .next ((s.tenCode none stDone).packageWarm)

/-- The cores of a reset's scope. -/
def State.scopeCores (s : State) (r : ResetRun) : List Nat :=
  if r.scope = 0 then [r.target]
  else if r.scope = 1 then (List.range 16).map fun j => 16 * r.target + j
  else s.partCores r.target

/-- The partition a reset lies in. -/
def State.scopePart (s : State) (r : ResetRun) : Option Nat :=
  if r.scope = 0 then s.partOf (clusterOf r.target) else if r.scope = 1 then s.partOf r.target else some r.target

/-- Whether a message over Ravor of one of the cores waits for its EACK. -/
def State.coresOut (s : State) (cs : List Nat) : Bool :=
  (s.ravor.waiting ++ s.ravor.stalled).any fun w => match w.1 with
    | .packet c _ => cs.contains c
    | .core c _ => cs.contains c
    | _ => false

/-- Every transfer and message of the scope has completed (R468). -/
def State.scopeDrained (s : State) (r : ResetRun) : Bool :=
  let cs := s.scopeCores r
  r.drained || (cs.all (fun c => (s.core c).xfers.isEmpty) && !s.coresOut cs)

/-- What a drain still holds is discarded: transfers, their tier requests, messages whose EACK is awaited (R469). -/
def State.cutCores (s : State) (cs : List Nat) : State :=
  let mine (w : RSender × RMsg) : Bool := match w.1 with
    | .packet c _ => cs.contains c
    | .core c _ => cs.contains c
    | _ => false
  let s1 : State := { s with
    ravor := { s.ravor with waiting := s.ravor.waiting.filter (fun w => !mine w),
                            stalled := s.ravor.stalled.filter fun w => !mine w },
    harbors := s.harbors.map fun (e : Nat × HarborSt) => (e.1, { e.2 with reqs := e.2.reqs.filter fun q =>
      match q.job with
      | .xfer c _ _ _ => !cs.contains c
      | _ => true }) }
  cs.foldl (fun s c => s.setCore c { s.core c with xfers := [], sends := 0 }) s1

/-- DRAIN_CUT: the drain of partition `p` is cut, of its resets, of its save, or of its recovery, which ends the
recovery in an ejection (R469, R517). -/
def State.drainCut (s : State) (p : Nat) : State :=
  let mine := s.resets.filter fun r => decide (s.scopePart r = some p) && !r.drained
  let st := s.partState p
  let draining := decide (st = psSaving) || (match lookup s.recov p with
    | some r => decide (r.phase = 3)
    | none => false)
  if mine.isEmpty && !draining then s
  else
    let cs := if draining then s.partCores p else mine.flatMap s.scopeCores
    let s1 := (s.cutCores cs).setFlag (TEN_PART_STATUS_DRAIN_CUT p) true
    let mark (r : ResetRun) : ResetRun := if s.scopePart r = some p then { r with drained := true } else r
    let s2 : State := { s1 with resets := s1.resets.map mark }
    match lookup s2.recov p with
    | some r => if r.phase = 3 then s2.eject p stEjectedFence r.lcore else s2
    | none => s2
def execDrainCut (p : Part) (s : State) : Answer := .next (s.drainCut p)

/-- FLR_BUSY of tenant `t` clears, and RESET_DONE sets, once none of its resets is under way (R462, R471). -/
def State.flrDone (s : State) (t : Nat) : State :=
  let left := s.resets.any fun r => r.byFlr && decide (s.ownerOf r.target = some t)
  if s.flag (TEN_VF_CTRL_FLR_BUSY t) && !left then
    (s.setFlag (TEN_VF_CTRL_FLR_BUSY t) false).raiseVF t cResetDone
  else s

/-- RESET_COMPLETE: the first reset of the list that `i` numbers has drained; its caches are written back and its state
is cleared, and at partition scope the partition is IDLE and RESET_DONE sets (R140, R468). -/
def State.resetComplete (s : State) (i : Nat) : State :=
  match s.resets[i]? with
  | none => s
  | some r =>
    if !s.scopeDrained r then s
    else
      let cs := s.scopeCores r
      let s0 : State := { (s.cutCores cs) with resets := s.resets.eraseIdx i }
      let s1 := cs.foldl (fun s c => if (s.isl (s.phys (islOf c))).railUp then s.emptyCache c else s) s0
      let done (s : State) : State := match s.scopePart r with
        | some p => s.put (TEN_PART_STATUS_LAST_CODE p) stDone
        | none => s
      if r.scope = 0 then done (s1.clearCore r.target)
      else if r.scope = 1 then done ((cs.foldl State.wipeCore s1).wipeCluster r.target false)
      else
        let p := r.target
        let s2 := done ((s1.wipePart p).toPart p psIdle)
        let s3 := match r.byFlr, s2.ownerOf p with
          | true, some t => s2.flrDone t
          | _, _ => s2.raisePart p cResetDone
        s3.afterReset p
def execResetComplete (index : Nat) (s : State) : Answer := .next (s.resetComplete index)

/-- A function level reset of the VF of tenant `t`: its streams are closed without an entry, its partitions are reset,
its saved jobs ended, its page and message table cleared (R410, R467, R471, R583). PRESUMED, log 14. -/
def State.flr (s : State) (t : Nat) : State :=
  let mine := s.streams.filter fun (e : Nat × ReqStream) => decide (e.2.tenant = t)
  let s1 := mine.foldl (fun s e => s.closeStream e.1) s
  let s2 := ((((s1.setReg (DB_CLAMP t) 0).setReg (DB_PSEL t) 0).setReg (DB_ASYNC t) 0).setReg (DB_OBJ_RET t) 0).setFlag
    (TEN_VF_CTRL_FLR_BUSY t) true
  let s3 : State := { s2 with
    msix := eraseRange s2.msix (msixKey (t + 1) 0) (msixKey (t + 2) 0), tokens := erase s2.tokens t,
    harbors := s2.harbors.map fun (e : Nat × HarborSt) =>
      (e.1, { e.2 with runs := e.2.runs.filter fun r => decide (r.via ≠ some t) }) }
  let s4 := (List.range 128).foldl (fun s p =>
    if s.ownerOf p = some t then (s.resetPart p false true).getD s else s) s3
  (s4.endSaved fun j => decide (j.owner = some t)).flrDone t

/-- Whether tenant `t`'s function exists (R577). -/
def State.vfLive (s : State) (t : Nat) : Bool := s.host.vfEnable && decide (t < s.host.numVfs)
def execFunctionLevelReset (t : Tenant) (s : State) : Answer := .next (if s.vfLive t then s.flr t else s)

/-! ### Key slots (R323, R455) -/

/-- Whether tenant `t` owns an object with pages in the middle or far tier (R323). -/
def State.keyHeld (s : State) (t : Nat) : Bool :=
  s.harbors.any fun (e : Nat × HarborSt) => e.2.objs.any fun o =>
    decide (o.2.owner = some t) && (!o.2.mid.isEmpty || !o.2.far.isEmpty)

/-- Eight data words as one key, word 0 lowest. -/
def keyOf (ws : List Nat) : BitVec 256 :=
  BitVec.ofNat 256 ((ws.zipIdx.map fun e => e.1 * 2 ^ (32 * e.2)).foldl (· + ·) 0)

/-- KEY_SLOT_WRITE: the pair in TEN_KEY_DATA_n takes effect whole, or the write is clamped (R455). DEDUCED, log 126. -/
def State.writeKey (s : State) : State :=
  let slot := min 4096 (s.get TEN_KEY_IDX_SLOT)
  if slot < 4096 ∧ s.keyHeld slot = true then
    s.clampAt TEN_CLAMP_COUNT TEN_CLAMP_LAST_ADDR TEN_CLAMP_LAST_BAR2 TEN_KEY_CMD.addr false
  else
    let w := (List.range 16).map fun n => s.get (TEN_KEY_DATA_DATA n)
    { s with keys := insert s.keys slot { data := keyOf (w.take 8), tweak := keyOf (w.drop 8) },
             harbors := s.harbors.map fun (e : Nat × HarborSt) =>
               (e.1, { e.2 with keyCache := e.2.keyCache.filter fun k => decide (k ≠ slot) }) }
def execKeySlotWrite (s : State) : Answer := .next s.writeKey

/-! ### Causes (R464, R465) -/

/-- A mask is written: every cause that is set and whose bit is written 1 sends its message (R464). DEDUCED, log 122. -/
def State.writeMask (s : State) (who : Option Nat) (m : Nat) : State :=
  match who with
  | some t =>
    let s1 := s.put (TEN_VF_MASK_MASK t) (m % 512)
    (List.range 9).foldl (fun s c =>
      if bit m c && bit (s.get (TEN_VF_CAUSE_CAUSE t)) c then s.message (t + 1) (s.vfVector t c) else s) s1
  | none =>
    let s1 := s.put TEN_PF_MASK_MASK m
    (List.range 32).foldl (fun s c =>
      if bit m c && bit (s.get TEN_PF_CAUSE_CAUSE) c then s.message 0 (s.pfVector c) else s) s1
def execCauseMaskWrite (who : Option Tenant) (mask : Word) (s : State) : Answer :=
  .next (s.writeMask (who.map fun t : Tenant => t.val) mask.toNat)

/-- Whether a bit of TEN_PF_CAUSE names a cause (R463). -/
def pfCause (c : Nat) : Bool := decide (c ≤ 8) || (decide (16 ≤ c) && decide (c ≤ 26))

/-- MSIX_MESSAGE: a cause of a function occurs; its bit rises and one message goes out while it is masked in (R464). -/
def execMsixMessage (who : Option Tenant) (cause : Fin 32) (s : State) : Answer :=
  .next (match who with
    | some t => if cause.val ≤ 8 then s.raiseVF t cause else s
    | none => if pfCause cause then s.raisePF cause else s)

/-- TOKEN_MODERATION_EXPIRE: a TOKEN cause that waited sets (R464). -/
def execTokenModerationExpire (t : Tenant) (s : State) : Answer :=
  .next (match lookup s.tokens t with
    | none => s
    | some h =>
      let s1 : State := { (s.atTick h.until_) with tokens := erase s.tokens t }
      if h.waiting then s1.raiseVF t cToken else s1)

/-- The status codes of partition-scope faults (R465). -/
def partFaults : List Nat := [stPoisoned, stRefusedShape, stPourStarved, stLinkLost, stEjectedFence, stEjectedCompound]

/-- PART_FAULT: a partition-scope fault of a core writes its record (R465). -/
def execPartFault (p : Part) (code : BitVec 8) (c : LCore) (s : State) : Answer :=
  .next (if partFaults.contains code.toNat && decide (s.partState p ≠ psFree) then
      s.partFault p code.toNat c s.tide.now
    else s)

end Sys2Proof.Machine
end

