-- ==== Sys2Proof/Machine/Boot.lean ====
section
/-! DEFINITION. Power-up, waves and start failures (chapter 15, R597, R600, R602): the pads and rails, the phases of a
start, the waves and their soft-start faults, the boot commands, the JTAG instructions. -/

namespace Sys2Proof.Machine

/-! ### Pads and levels -/

def State.setPads (s : State) (p : Pads) : State := { s with pads := p }
def State.setBoot (s : State) (b : BootSt) : State := { s with boot := b }

/-- A write into the Exkalet mailbox block is clamped (R513, R569, R588). -/
def State.clampMgt (s : State) (r : Reg) : State :=
  s.clampAt MGT_CLAMP_COUNT MGT_CLAMP_LAST_ADDR MGT_CLAMP_LAST_BAR2 r.addr false

/-! ### The standby rail (R490, R505, R600) -/

/-- Exkalet without its rail: what the boot flash and the log region of the far tier hold stays, and the log's sequence
goes on. -/
def Exkalet.lost (x : Exkalet) : Exkalet :=
  { exkaletReset with coldStarts := x.coldStarts, farLog := x.farLog, nextSeq := x.nextSeq, failCount := x.failCount,
                      cfgRecord := x.cfgRecord, preferred := x.preferred, slots := x.slots, keys := x.keys,
                      ownerDigest := x.ownerDigest, keySeq := x.keySeq }

/-- Every regulator stops and everything the standby rail feeds is lost (R505, R600). -/
def State.standbyLost (s : State) : State :=
  let s1 := s.railsOff
  { s1 with regs := [], exk := s1.exk.lost,
            pads := { s1.pads with vstbyGood := false, faultL := true, thermtripL := true, jtag := 0 },
            boot := { wave := 0, startMs := 0, warm := false, warmIslands := [], waitCool := false, waitPower := false,
                      pairPending := false } }

/-- STANDBY_RAIL_GOOD: Exkalet leaves reset and a start attempt begins (R490, R507). -/
def execStandbyRailGood (s : State) : Answer :=
  .next (if s.pads.vstbyGood then s
    else ({ s with exk := { s.exk with powered := true, uptimeUs := 0 },
                   pads := { s.pads with vstbyGood := true } }).coldReset)

/-- STANDBY_RAIL_LOST: everything stops; the count raised at the attempt's beginning stays (R505, R507). -/
def execStandbyRailLost (s : State) : Answer := .next (if s.pads.vstbyGood then s.standbyLost else s)

/-- VSTBY_OUT_OF_LIMITS: as the loss of the standby rail (R600). -/
def execVstbyOutOfLimits (s : State) : Answer := .next (if s.pads.vstbyGood then s.standbyLost else s)

/-! ### VIN12 and PWR_OK (R488, R491, R505, R597) -/

/-- VIN12 or PWR_OK is lost: within a start it returns to HUB in the same attempt; at READY and in minimal mode the rails
go, a BOOT event is written, and a cold start from HUB waits for the power (R505, R597). DEDUCED, log 59; DEDUCED, log 61. -/
def State.powerLost (s : State) : State :=
  if s.phase = phExk ∨ s.phase = phOff ∨ s.phase = phRetry then s
  else if s.starting then (s.setFlag MGT_BOOT_STATUS_WARM false).enterHub
  else
    let s1 := s.logEvent 0x0012 1 25 none none 0
      (pay 1 s.phase ++ pay 1 (s.get MGT_BOOT_STATUS_CAUSE) ++ pay 1 (s.get MGT_BOOT_STATUS_WARM))
    let s2 := s1.railsOff.toPhase phOff
    { s2 with pads := { s2.pads with faultL := false }, boot := { s2.boot with waitPower := true, waitCool := false } }

/-- The power has returned: the hub rail is enabled in HUB, and a start that waits for it begins (R491, R597). DEDUCED, log 59. -/
def State.powerBack (s : State) : State :=
  if s.boot.waitPower && s.pads.pwrOk && s.pads.vin12Good then (s.beginAttempt true).enterHub
  else if decide (s.phase = phHub) && !s.boot.pairPending then s.hubEnable
  else s

def execPwrOkRise (s : State) : Answer := .next (s.setPads { s.pads with pwrOk := true }).powerBack
def execPwrOkFall (s : State) : Answer := .next (s.setPads { s.pads with pwrOk := false }).powerLost
/-- VIN12 below 11.5 V or above 12.9 V for 5 µs (R597). -/
def execVin12Fault (s : State) : Answer := .next (s.setPads { s.pads with vin12Good := false }).powerLost
def execVin12WithinLimits (s : State) : Answer := .next (s.setPads { s.pads with vin12Good := true }).powerBack

/-- HUB_RAIL_TIMEOUT: the hub rail is not good 2 ms after it was enabled (R491). -/
def execHubRailTimeout (s : State) : Answer :=
  .next (if s.phase = phHub ∧ s.pads.hubRail = true ∧ s.flag HUB_CLK_STATUS_PLL_LOCK = false then s.failStart 1 else s)

/-! ### Coolant (R488, R493, R505, R506) -/

/-- The registers of the harbors and the OE dies, whose rails are off. -/
def State.computeRegs (s : State) : State := s.resetRegs 0x2000000 0x2800000

/-- Every compute rail is removed, island rails first; no island is latched (R505). -/
def State.computeOff (s : State) : State :=
  let s1 := ((List.range 16).filter fun i => (s.isl i).railUp).foldl State.coreRailOff s
  let s2 := (List.range 16).foldl (fun s p => s.portTo p ptDown 0) s1
  { s2 with harbors := s2.harbors.map (fun (e : Nat × HarborSt) => (e.1, e.2.afterReset)),
            pads := { s2.pads with harborRail := false } }.computeRegs

/-- The islands that a start ramps: all that may be, or in a warm start the ones named. -/
def State.mayRamp (s : State) (i : Nat) : Bool :=
  !s.fuses.fusedOff.contains i && !(s.isl i).latched && (!s.boot.warm || s.boot.warmIslands.contains i)

/-- COOL_LOSS_TIMEOUT: within a start the compute rails go and the attempt goes on from WAIT_COOL, the islands that stood
up to be ramped again; after READY every island is quenched and the package waits (R505, R506). -/
def State.coolLost (s : State) : State :=
  if !s.pads.coolOkL then s
  else if s.ready && !s.boot.waitCool then
    let one (s : State) (i : Nat) : State :=
      s.quench i 3 (s.get (ISL_GOV_STATUS_HOT_C i)) ((s.isl i).currents.headD 0)
    let s1 := ((List.range 16).foldl one s).computeOff
    s1.setBoot { s1.boot with waitCool := true }
  else if s.starting && decide (phHarbor ≤ s.phase) then
    let up := (List.range 16).filter fun i => (s.isl i).railUp
    let s1 := s.computeOff
    (s1.setBoot { s1.boot with wave := 0, warmIslands := up ++ s1.boot.warmIslands }).toPhase phWaitCool
  else s
def execCoolLossTimeout (s : State) : Answer := .next s.coolLost

def execCoolOkRise (s : State) : Answer := .next (s.setPads { s.pads with coolOkL := true })

/-- COOL_OK_FALL: a package that waits after READY begins a cold start from WAIT_COOL (R506, R507). -/
def execCoolOkFall (s : State) : Answer :=
  let s1 := s.setPads { s.pads with coolOkL := false }
  .next (if s1.boot.waitCool then
      let s2 := s1.beginAttempt true
      let s3 : State := { s2 with
        boot := { s2.boot with waitCool := false, warm := false, warmIslands := [] },
        islands := s2.islands.map fun (e : Nat × IslandSt) => (e.1, { e.2 with latched := false, absent := false }) }
      s3.toPhase phWaitCool
    else s1)

/-! ### The work of the phases (R489 to R503, R550) -/

/-- EXK_BOOT: the firmware of the slot that boots runs (R490, R560). -/
def State.firmwareUp (s : State) (slot : Nat) : State :=
  let s1 := { s with exk := { s.exk with fwRunning := true, restarting := false, trialSince := s.exk.uptimeUs } }
  let trial := match s1.exk.slots[slot]? with
    | some f => f.trial
    | none => false
  ((s1.setFlag MGT_STATUS_READY true).put MGT_STATUS_SLOT slot).setFlag MGT_STATUS_TRIAL trial

/-- The fuse load: the fused-off islands are recorded, and the spares that the fuse entries leave (R2, R138, R491). -/
def State.fuseLoad (s : State) : State :=
  let s1 := s.fuses.fusedOff.foldl (fun s i => s.setPresent i false 1) s
  (List.range 16).foldl (fun s i => s.put (ISL_FLT_STATUS_SPARES_FREE i) (s.unusedSpares i).length) s1

/-- The bits of a mask of `n`. -/
def anyBit (n m : Nat) : Bool := (List.range n).any fun i => bit m i

/-- HARBOR: a stack, an expander or a lane that fails ends the start (R500, R501, R503). DEDUCED, log 58. -/
def State.harborUp (s : State) (r : BootResult) : State :=
  let down (s : State) (q : Nat) : State := s.put MGT_BOOT_MEM_MID
    (s.get MGT_BOOT_MEM_MID - 2 ^ (2 * q) * bitsOf (s.get MGT_BOOT_MEM_MID) (2 * q) 2 + 2 ^ (2 * q) * 2)
  let bad (s : State) (h : Nat) : State := s.put MGT_BOOT_MEM_NEAR
    (s.get MGT_BOOT_MEM_NEAR - 2 ^ (2 * h) * bitsOf (s.get MGT_BOOT_MEM_NEAR) (2 * h) 2 + 2 ^ (2 * h) * 2)
  if anyBit 12 r.stackFail.toNat then
    (((List.range 12).filter fun k => bit r.stackFail.toNat k).foldl (fun s k => bad s (k / 3)) s).failStart 2
  else if anyBit 8 r.midTrainFail.toNat then
    (((List.range 8).filter fun q => bit r.midTrainFail.toNat q).foldl down s).failStart 3
  else if anyBit 4 r.oeFail.toNat then s.failStart 6
  else (s.setBoot { s.boot with wave := 0 }).toPhase phWaves

/-- A failing position is fenced (R139, R499). DEDUCED, log 58. -/
def State.failPos (s : State) (i pos : Nat) : State :=
  if !(s.isl i).railUp || (s.isl i).fencedPos.contains pos then s
  else s.setIsl i { s.isl i with fencedPos := pos :: (s.isl i).fencedPos }

/-- The logical cores of island `i` that fenced positions serve take spares by run-time entries; with none left the
island is absent and its core rail is removed (R138, R499). -/
def State.remap (s : State) (i : Nat) : State :=
  let one (s : State) (j : Nat) : State :=
    let pos := s.posOf i j
    if !(s.isl i).railUp || !(s.isl i).fencedPos.contains pos then s
    else match s.spareFor i pos with
      | some q => s.setIsl i { s.isl i with causeway := insert (s.isl i).causeway j q }
      | none =>
        let s1 := (s.setPresent i false 4).coreRailOff i
        s1.setIsl i { s1.isl i with absent := true }
  let s1 := (List.range 128).foldl one s
  s1.put (ISL_FLT_STATUS_SPARES_FREE i) (s1.unusedSpares i).length

/-- An anneal record, with the offset in force where it is the record of the step code in force (R533, R539, R550). -/
def State.writeRec (s : State) (i n : Nat) (voff : Int) (cls temp : Nat) : State :=
  let s1 := ((s.put (ISL_ANL_REC_VOFF i n) (unsigned 8 voff)).put (ISL_ANL_REC_CLASS i n) cls).put
    (ISL_ANL_REC_TEMP_C i n) temp
  let s2 := s1.setFlag (ISL_ANL_REC_VALID i n) true
  if s2.get (ISL_GOV_STATUS_STEP i) = n then s2.setIsl i { s2.isl i with voff := voff } else s2

/-- ISL_TEST: failed cores are mapped out, and the islands ramped in this start are annealed (R499, R550). -/
def State.islTest (s : State) (r : BootResult) : State :=
  let s1 := r.coreFail.foldl (fun s e => s.failPos e.1 e.2) s
  let s2 := (List.range 16).foldl State.remap s1
  r.anneal.foldl (fun s e =>
    if s.present e.1 && s.mayRamp e.1 then s.writeRec e.1 e.2.1 (e.2.2.1.toInt) 0 e.2.2.2.toNat else s) s2

/-- A near frame is retired: it is not allocated again, it is counted and logged (R304, R500, R558). -/
def State.retireNear (s : State) (h f : Nat) : State :=
  let x := s.harbor h
  if x.retired.contains f then s
  else
    let s1 := s.setHarbor h { x with retired := f :: x.retired }
    (s1.inc (HBR_NEAR_RETIRED_FRAMES h)).logEvent 0x0013 1 (16 + h) none none 0 (pay 4 f)

/-- Retired frames of stack `k` of harbor `h`. -/
def State.stackRetired (s : State) (h k : Nat) : Nat :=
  ((s.harbor h).retired.filter fun f => decide (f / 1048576 = k)).length

/-- NEAR_TEST: failing frames are retired; a stack with more than 4,096 of them fails the start (R500). -/
def State.nearTest (s : State) (r : BootResult) : State :=
  let s1 := r.nearRetired.foldl (fun s e => if e.2 < 3145728 then s.retireNear e.1 e.2 else s) s
  let worst (h : Nat) : Bool := (List.range 3).any fun k => decide (4096 < s1.stackRetired h k)
  let code (h : Nat) : Nat := if worst h then 2 else if (s1.harbor h).retired = [] then 0 else 1
  let s2 := s1.put MGT_BOOT_MEM_NEAR (code 0 + 4 * code 1 + 16 * code 2 + 64 * code 3)
  if (List.range 4).any worst then s2.failStart 2 else s2.toPhase phMid

/-- MID_TEST: absent ports and failing frames are recorded; an expected expander that is absent, or one that fails more
than 1/4,096 of its frames, fails the start (R501). -/
def State.midTest (s : State) (r : BootResult) : State :=
  let bad (q : Nat) : List Nat := ((r.midBad.filter fun e => decide (e.1.val = q)).map (·.2)).eraseDups
  let beyond (q : Nat) : Bool := decide (midFrames < (bad q).length * 4096)
  let absent (q : Nat) : Bool := bit r.midAbsent.toNat q
  let code (q : Nat) : Nat := if absent q then 1 else if beyond q then 2 else 0
  let s1 := s.put MGT_BOOT_MEM_MID (((List.range 8).map fun q => 4 ^ q * code q).foldl (· + ·) 0)
  let s2 := (List.range 4).foldl (fun s h =>
    s.setHarbor h { s.harbor h with
      midBad := (bad (2 * h)) ++ (bad (2 * h + 1)).map fun n => 2 ^ 24 + n }) s1
  let missing := (List.range 8).any fun q => absent q && bit (s.get MGT_BOOT_CFG_MID_EXPECT) q
  if missing || (List.range 8).any (fun q => !absent q && beyond q) then s2.failStart 3
  else s2.toPhase phFtl

/-- FTL_MOUNT ends once every harbor with NAND has mounted; the enabled ports begin to train (R502, R503). -/
def State.mountsDone (s : State) (r : BootResult) : Option State :=
  if (List.range 4).all fun h => bit r.ftlNone.toNat h || s.flag (HBR_FTL_STATUS_MOUNTED h) then
    let mask := ((List.range 4).map fun h => 2 ^ h * b2n (s.flag (HBR_FTL_STATUS_MOUNTED h))).foldl (· + ·) 0
    let s1 := (s.put MGT_BOOT_MEM_FTL mask).toPhase phLink
    some ((List.range 16).foldl (fun s p => if s.mayTrain p then s.toTrain p else s)
      ((List.range 4).foldl State.refreshCap s1))
  else none

/-- The ports that are enabled. -/
def State.enabledPorts (s : State) : List Nat := (List.range 16).filter fun p => s.flag (RVR_PORT_CTRL_EN p)

/-- LINK_TRAIN is judged at its end: with enough ports UP the package is READY (R503, R504). -/
def State.linkJudge (s : State) : State :=
  let up := (s.enabledPorts.filter fun p => decide (s.get (RVR_PORT_STATUS_STATE p) = ptUp)).length
  if up < s.get MGT_BOOT_CFG_MIN_PORTS then s.failStart 6 else s.reachReady

/-- Whether every enabled port is UP or FENCED. -/
def State.linksSettled (s : State) : Bool :=
  s.enabledPorts.all fun p =>
    decide (s.get (RVR_PORT_STATUS_STATE p) = ptUp) || decide (s.get (RVR_PORT_STATUS_STATE p) = ptFenced)

/-- The phase under way completes: the state it leaves, or none where what it waits for has not happened (R489 to R504). -/
def State.phaseNext (s : State) (r : BootResult) : Option State :=
  match s.phase with
  | 1 => match s.bootSlot with
    | none => some (s.failStart 4)
    | some n => some (s.firmwareUp n).enterHub
  | 2 =>
    if s.pads.hubRail && s.flag HUB_CLK_STATUS_DESKEW_DONE then
      some ((s.fuseLoad.setPads { s.pads with fabricRail := true }).toPhase phFabric)
    else none
  | 3 => some ((s.put MGT_BOOT_FAB_FAB_OK r.fabOk.toNat).toPhase phWaitCool)
  | 4 => if s.pads.coolOkL then none else some ((s.setPads { s.pads with harborRail := true }).toPhase phHarbor)
  | 5 => some (s.harborUp r)
  | 6 => if s.boot.wave = 4 then some (s.toPhase phIslTest) else none
  | 7 => some ((s.islTest r).toPhase phNear)
  | 8 => some (s.nearTest r)
  | 9 => some (s.midTest r)
  | 10 => s.mountsDone r
  | 11 => if s.linksSettled then some s.linkJudge else none
  | _ => none

/-- BOOT_PHASE_COMPLETE. -/
def execBootPhaseComplete (r : BootResult) (s : State) : Answer :=
  .next (((s.setBoot { s.boot with startMs := s.boot.startMs + r.ms }).phaseNext r).getD s)

/-- RETRY_WAIT_EXPIRE: a new cold start from HUB (R507). -/
def execRetryWaitExpire (s : State) : Answer :=
  .next (if s.phase = phRetry then (s.beginAttempt true).enterHub else s)

/-- LINK_TRAIN_TIMEOUT: 6 s after the phase began it ends as it stands (R503). -/
def execLinkTrainTimeout (s : State) : Answer := .next (if s.phase = phLink then s.linkJudge else s)

/-! ### Waves (R494 to R497) -/

/-- The wave of an island: its row plus its column, modulo 4 (R23, R494). -/
def waveOf (i : Nat) : Nat := (i / 4 + i % 4) % 4

/-- An island comes up at step code 2 (R495). DEDUCED, log 60. -/
def State.rampUp (s : State) (i : Nat) : State :=
  let s1 := ((s.put (ISL_GOV_STATUS_STEP i) 2).setFlag (ISL_FLT_STATUS_QUENCHED i) false).put
    (ISL_FLT_STATUS_QREASON i) 0
  (s1.setIsl i { s1.isl i with railUp := true, absent := false, voff := s1.recVoff i 2 }).setPresent i true 0

/-- WAVE_START: the next wave begins while COOL_OK_L is low (R494, R505). -/
def State.startWave (s : State) : State :=
  let w := s.boot.wave
  if decide (s.phase = phWaves) && decide (w < 4) && !s.pads.coolOkL then
    let s1 := ((List.range 16).filter fun i => decide (waveOf i = w) && s.mayRamp i).foldl State.rampUp s
    s1.setBoot { s1.boot with wave := w + 1 }
  else s
def execWaveStart (s : State) : Answer := .next s.startWave

/-- SOFT_START_FAULT: the island's regulator latches off until the next cold start (R496, R497). -/
def State.softFault (s : State) (i : Nat) (ramp : Bool) : State :=
  if decide (s.phase = phWaves) && (s.isl i).railUp && decide (waveOf i < s.boot.wave) && s.mayRamp i then
    let s1 := (s.setPresent i false (if ramp then 3 else 2)).coreRailOff i
    s1.setIsl i { s1.isl i with latched := true, absent := true }
  else s
def execSoftStartFault (i : Island) (ramp : Bool) (s : State) : Answer := .next (s.softFault i ramp)

/-! ### Boot commands (R505, R511, R513) -/

/-- Whether MGT_BOOT_CMD is accepted: at READY and in minimal mode (R511). -/
def State.bootOpen (s : State) : Bool := s.ready || s.minimal

/-- RESTART: a cold start; every job ends as a package cold reset ends it. -/
def execBootRestart (s : State) : Answer :=
  .next (if s.bootOpen then (s.beginAttempt true).enterHub else s.clampMgt MGT_BOOT_CMD)

/-- CLEAR: the failure count is 0. -/
def execBootClear (s : State) : Answer :=
  .next (if s.bootOpen then
      ({ s with exk := { s.exk with failCount := 0 } }).put MGT_BOOT_STATUS_ATTEMPTS 0
    else s.clampMgt MGT_BOOT_CMD)

/-- MGT_BOOT_CFG as a write leaves it (R513). -/
def bootCfgOf (v : Word) : Word :=
  let ports := min 16 (fieldGet v 0 5)
  let retry := max 1 (fieldGet v 5 8)
  BitVec.ofNat 32 (ports + 32 * retry + 8192 * fieldGet v 13 9)

/-- BOOT_CFG_WRITE: the register and the boot configuration record take the value. -/
def execBootCfgWrite (v : Word) (s : State) : Answer :=
  let w := bootCfgOf v
  let s1 := { s with exk := { s.exk with cfgRecord := some w } }.setReg MGT_BOOT_CFG w
  .next (if w = v then s1 else s1.clampMgt MGT_BOOT_CFG)

/-! ### PERST_L (R600) and JTAG (R602) -/

/-- PERST_BEFORE_READY: only the PCIe interface is held in reset. DEDUCED, log 66. -/
def execPerstBeforeReady (s : State) : Answer :=
  .next (if s.ready then s else
    { s with pads := { s.pads with perstL := false }, host := { s.host with held := true } })

/-- PERST_DEASSERT: the PCIe interface leaves reset. -/
def execPerstDeassert (s : State) : Answer :=
  .next { s with pads := { s.pads with perstL := true }, host := { s.host with held := false } }

/-- The IDCODE of stepping B1. -/
def idcode : Word := 0x10000000#32 ||| (0x05A0#32 <<< 12) ||| (Config.jedecId.setWidth 32 <<< 1) ||| 1#32

/-- JTAG_INSTRUCTION: EXTEST (1) and CLAMP (2) drive the pads while no job is locked in, and act as BYPASS otherwise;
IDCODE (3) shifts out the identity. DEDUCED, log 62. -/
def execJtagInstruction (i : Fin 4) (s : State) : Answer :=
  let drives := (decide (i.val = 1) || decide (i.val = 2)) && !s.flag HUB_TIDE_STATUS_JOB_LOCK
  let s1 := s.setPads { s.pads with jtag := if drives then i.val else 0 }
  .next (if i.val = 3 then s1.emit (.mgmt 602 (leBytes 4 idcode.toNat)) else s1)

end Sys2Proof.Machine
end

