-- ==== Sys2Proof/Machine/Objects.lean ====
section
/-! DEFINITION. Tier objects as commands (R309 to R316, R585): CREATE, COMMIT, DELETE, STAGE, PIN, SETMASK, page moves and
landings, and what harms or wears the tiers: patrol scrub, expanders, the flash (R304, R306, R326 to R329, R528). -/

namespace Sys2Proof.Machine

/-! ### Pages on their way into a near frame (R316, R324, R331) -/

/-- The part of an object header page that holds its code tables (R317). -/
def HarborSt.page0 (x : HarborSt) (index : Nat) : List PByte := (x.pageBytes index 0 0 2112).getD []

def State.countFaults (s : State) (h : Nat) (fs : List TileFault) : State :=
  (s.bump (HBR_INFL_ERR_CRC_FAIL h) (fs.filter fun f => decide (f = .crc)).length).bump (HBR_INFL_ERR_DECODE_FAIL h)
    (fs.filter fun f => decide (f = .decode)).length

/-- A page of the middle or far tier in the form a near frame holds: the tile pages of WEIGHT objects pass through the
inflater (R317, R324). -/
def HarborSt.nearForm (x : HarborSt) (index page : Nat) : List PByte × List TileFault :=
  match lookup x.objs index with
  | none => (pzeros 65536, [])
  | some o =>
    let raw := match lookup o.mid page, lookup o.far page with
      | some f, _ => x.midBytes f 0 65536
      | none, some _ => x.farBytes (farPage index page) 0 65536
      | none, none => pzeros 65536
    if o.cls = 0 ∧ page ≠ 0 then inflatePage raw (x.page0 index) else (raw, [])

/-- A near frame written whole. -/
def HarborSt.fillNear (x : HarborSt) (frame : Nat) (bs : List PByte) : HarborSt :=
  putAll (fun x g v => x.nearPut frame g v) x 0 (toGranules bs 1024)

/-- The page of a move stands in its near frame and the map switches: a WEIGHT page has a faster copy, a writable page
has moved (R310, R316, R331). -/
def State.landPage (s : State) (h : Nat) (m : PageMove) : State :=
  let x0 := s.harbor h
  let x := { x0 with moves := x0.moves.erase m }
  match lookup x.objs m.index with
  | none => s.setHarbor h (x.scrubNear m.frame)
  | some o =>
    let (bs, fs) := x.nearForm m.index m.page
    let o1 := { o with near := insert o.near m.page m.frame }
    let o2 := if o.cls = 0 then o1 else { o1 with mid := erase o1.mid m.page }
    let x1 := (x.fillNear m.frame bs).setObj m.index o2
    let x2 := match o.cls, lookup o.mid m.page with
      | 0, _ => x1
      | _, some f => x1.scrubMid f
      | _, none => x1
    let s1 := (s.setHarbor h x2).countFaults h fs
    (if m.mig then s1.inc (HBR_MIG_CNT_PROMOTED h) else s1).refreshCap h

/-- Whether the page of a move is held in the far tier only. -/
def HarborSt.farOnly (x : HarborSt) (index page : Nat) : Bool :=
  match lookup x.objs index with
  | none => false
  | some o => decide (o.fastest page = some 2)

/-- The index-th move ends: a landing of a far-only page, or the copy of a page of the middle tier. -/
def State.endMove (s : State) (h index : Nat) (far : Bool) : State :=
  match (s.harbor h).moves[index]? with
  | some m => if (s.harbor h).farOnly m.index m.page = far then s.landPage h m else s
  | none => s
def execPageMoveSwitch (h : Harbor) (index : Nat) (s : State) : Answer := .next (s.endMove h index false)
def execPageLanding (h : Harbor) (index : Nat) (s : State) : Answer := .next (s.endMove h index true)

/-- PAGE_MOVE_RESTART: a write to the page of the index-th move lands in the old copy, and the copy restarts. -/
def execPageMoveRestart (h : Harbor) (index : Nat) (g : Fin 1024) (grans : List Granule) (s : State) : Answer :=
  .next (match (s.harbor h).moves[index]? with
    | some m => s.writePage h m.index m.page g (grans.take (1024 - g.val))
    | none => s)

/-! ### Heat and promotion (R314, R315) -/

/-- PAGE_HEAT_HALVE: every heat of the harbor halves, and pages whose move was abandoned are considered again. DESIGN CHOICE, log 4. -/
def execPageHeatHalve (h : Harbor) (s : State) : Answer :=
  let x := s.harbor h
  let cool (o : TierObj) : TierObj :=
    { o with heat := (o.heat.map fun e => (e.1, e.2 / 2)).filter (fun e => decide (e.2 ≠ 0)), barred := [] }
  .next (s.setHarbor h { x with objs := x.objs.map fun e => (e.1, cool e.2) })

/-- A frame for a promotion: a free one, or that of a victim no hotter than DEMOTE (R315). -/
def State.promoteFrame (s : State) (h index page : Nat) : Option (State × Nat) :=
  let cold := match (s.harbor h).victim with
    | some v => decide (v.heat ≤ s.get (HBR_MIG_CTRL_DEMOTE h))
    | none => false
  match lookup (s.harbor h).objs index with
  | none => none
  | some o =>
    if (s.nearFrame h (o.stack.getD (s.firstStack h)) page).isSome || cold then s.takeNear h index page else none

/-- PAGE_PROMOTE: a page of the middle tier with heat at or above PROMOTE begins to move. -/
def State.promote (s : State) (h index page : Nat) : State :=
  match lookup (s.harbor h).objs index with
  | none => s
  | some o =>
    let moving := (s.harbor h).moves.any fun m => decide (m.index = index) && decide (m.page = page)
    if s.flag (HBR_MIG_CTRL_EN h) && bit o.mask 0 && bit o.mask 1 && decide (o.fastest page = some 1)
        && decide (s.get (HBR_MIG_CTRL_PROMOTE h) ≤ lookupD o.heat page 0) && !o.barred.contains page && !moving then
      match s.promoteFrame h index page with
      | none => s
      | some (s1, f) =>
        let m : PageMove := { index := index, page := page, frame := f, mig := true, restarts := 0 }
        s1.setHarbor h { s1.harbor h with moves := (s1.harbor h).moves ++ [m] }
    else s
def execPagePromote (h : Harbor) (index : Fin 1048576) (page : Nat) (s : State) : Answer := .next (s.promote h index page)

/-! ### CREATE (R303, R308 to R313) -/

/-- Tiers a class permits: near 1, middle 2, far 4; a WEIGHT object's far home needs near (R310). -/
def maskOk (cls mask : Nat) : Bool :=
  decide (mask ≠ 0) && (if cls = 0 then decide (mask < 8) && (!bit mask 2 || bit mask 0)
    else decide (cls < 4) && decide (mask < 4))

/-- The lowest free index of a harbor's object table. -/
def HarborSt.freeIndex (x : HarborSt) : Option Nat :=
  lowestFree (x.objs.map (·.1)) 0 0 1048576 0 (x.objs.length + 1)

/-- The far places of an object: segments of four pages, round-robin over the channels (R326). -/
def farMap (pages : Nat) : SMap Nat := (List.range pages).map fun p => (p, p / 4)

/-- The pages from `p` on take near frames, one freed where none is free; none where that fails (R303, R313). -/
def State.allocNear (s : State) (h index p n : Nat) : Option State :=
  match n with
  | 0 => some s
  | n + 1 =>
    match s.takeNear h index p with
    | none => none
    | some (s1, f) =>
      match lookup (s1.harbor h).objs index with
      | none => none
      | some o => (s1.setHarbor h ((s1.harbor h).setObj index { o with near := insert o.near p f })).allocNear h index (p + 1) n
def State.allocMid (s : State) (h index p n : Nat) : Option State :=
  match n with
  | 0 => some s
  | n + 1 =>
    match s.midFrame h p, lookup (s.harbor h).objs index with
    | some f, some o =>
      (s.setHarbor h ((s.harbor h).setObj index { o with mid := insert o.mid p f })).allocMid h index (p + 1) n
    | _, _ => none

/-- The blocks of the flash that hold an object's segments, by the segment's own key (R326). -/
def segKey (index page : Nat) : Nat := 2 ^ 22 * index + page / 4
/-- DEDUCED, log 82. -/
def State.allocFar (s : State) (h index n : Nat) : Option State :=
  let x := s.harbor h
  if x.farUsed + (n + 3) / 4 ≤ farSegments h then
    match lookup x.objs index with
    | none => none
    | some o =>
      let segs := (List.range ((n + 3) / 4)).foldl (fun m q =>
        insert m (segKey index (4 * q)) (Config.flashBlock h (segKey index (4 * q)))) x.segs
      some (s.setHarbor h { (x.setObj index { o with far := farMap n }) with segs := segs })
  else none

/-- Free near frames of a harbor. -/
def State.nearRoom (s : State) (h : Nat) : Nat := s.stackFree h 0 + s.stackFree h 1 + s.stackFree h 2
/-- Free middle frames. -/
def State.midRoom (s : State) (h : Nat) : Nat :=
  let port (p : Nat) : Nat := if s.flag (HBR_MID_ERR_LINK_DOWN h p) || decide (s.midCode h p ≠ 0) then 0 else midFrames
  port 0 + port 1 - (s.harbor h).midBad.length - (s.harbor h).midUsed.length

/-- Every page in the slowest tier of a WEIGHT object's mask, or in the fastest tier with room of a writable object's. DEDUCED, log 82. -/
def State.allocate (s : State) (h index : Nat) (cls mask n : Nat) : Option State :=
  if cls = 0 then
    if bit mask 2 then s.allocFar h index n else if bit mask 1 then s.allocMid h index 0 n else s.allocNear h index 0 n
  else if bit mask 0 ∧ n ≤ s.nearRoom h then s.allocNear h index 0 n
  else if bit mask 1 ∧ n ≤ s.midRoom h then s.allocMid h index 0 n
  else if bit mask 0 then s.allocNear h index 0 n
  else none

/-- CREATE: the object and its handle, or none. -/
def State.objCreate (s : State) (h : Nat) (a0 pages a2 : Nat) (via : Option Nat) : Option (State × Nat) :=
  let owner := if bit a0 12 then none else some (bitsOf a0 0 12)
  let cls := bitsOf a0 13 3
  let mask := bitsOf a0 16 3
  let mine := match via with
    | none => true
    | some t => decide (owner = some t)
  if mine && decide (a0 < 2 ^ 19) && decide (a2 = 0) && decide (0 < pages) && decide (pages ≤ 2 ^ 24) && maskOk cls mask then
    match (s.harbor h).freeIndex with
    | none => none
    | some i =>
      let o : TierObj := { owner := owner, cls := cls, mask := mask, pages := pages, committed := false, stack := none,
                           near := [], mid := [], far := [], pins := [], heat := [], barred := [] }
      match (s.setHarbor h ((s.harbor h).setObj i o)).allocate h i cls mask pages with
      | none => none
      | some s1 => some (s1.refreshCap h, handleOf h i)
  else none

/-! ### COMMIT, DELETE, STAGE, PIN, SETMASK (R312) -/

/-- The object a command names, of harbor `h` and of the tenant that commands. -/
def State.objFor (s : State) (h handle : Nat) (via : Option Nat) : Option TierObj :=
  if harborOf handle ≠ h then none
  else match s.obj handle, via with
    | some o, none => some o
    | some o, some t => if o.owner = some t then some o else none
    | none, _ => none

/-- A page range inside the object. -/
def TierObj.holds (o : TierObj) (first count : Nat) : Bool := decide (0 < count) && decide (first + count ≤ o.pages)

/-- COMMIT: a WEIGHT object is read-only; a far home is refused while the flash is read-only (R312, R328). DEDUCED, log 81. -/
def State.objCommit (s : State) (h handle : Nat) (o : TierObj) : Option State :=
  if o.cls ≠ 0 ∨ (bit o.mask 2 = true ∧ s.flag (HBR_FTL_STATUS_READ_ONLY h) = true) then none
  else some (s.setHarbor h ((s.harbor h).setObj (indexOf handle) { o with committed := true }))

/-- DELETE: every copy is freed, its near frames scrubbed. -/
def State.objDelete (s : State) (h handle : Nat) (o : TierObj) : State :=
  let i := indexOf handle
  let x0 := s.harbor h
  let x := (x0.moves.filter fun m => decide (m.index = i)).foldl (fun x m => x.scrubNear m.frame) x0
  let x1 := o.near.foldl (fun x e => x.scrubNear e.2) x
  let x2 := o.mid.foldl (fun x e => x.scrubMid e.2) x1
  let lo := 65536 * farPage i 0
  let hi := 65536 * farPage (i + 1) 0
  let x3 : HarborSt := { x2 with
    objs := erase x2.objs i, far := eraseRange x2.far lo hi, fpois := eraseRange x2.fpois (lo / 4096) (hi / 4096),
    segs := eraseRange x2.segs (segKey i 0) (segKey (i + 1) 0),
    moves := x2.moves.filter (fun m => decide (m.index ≠ i)),
    reqs := x2.reqs.filter fun r => match r.job with
      | .stage j _ => decide (j ≠ i)
      | _ => true }
  (s.setHarbor h x3).refreshCap h

/-- The pages of a STAGE that are not near-resident. -/
def TierObj.missing (o : TierObj) (first count : Nat) : List Nat :=
  (List.range count).filterMap fun i => if (lookup o.near (first + i)).isSome then none else some (first + i)

/-- The partition whose job names an object: the SWITCH class's floor owner (R334). -/
def State.holderOf (s : State) (handle : Nat) : Option Nat :=
  (s.jobs.find? fun e => e.2.objs.contains handle).map (·.1)

/-- Pages join their paths as SWITCH or BACKGROUND requests; one already asked for or on its way is not asked again. -/
def State.askStage (s : State) (h handle : Nat) (pages : List Nat) (urgent : Bool) : State :=
  let x := s.harbor h
  let i := indexOf handle
  match lookup x.objs i with
  | none => s
  | some o =>
    let known (p : Nat) : Bool := (x.moves.any fun m => decide (m.index = i) && decide (m.page = p))
      || x.reqs.any fun r => decide (r.job = .stage i p)
    let new := (pages.filter fun p => !known p).map fun p =>
      ({ cls := if urgent then 2 else 4, path := o.path p, part := if urgent then s.holderOf handle else none,
         at_ := s.tide.now, bytes := 65536, job := .stage i p } : TierReq)
    s.setHarbor h { x with reqs := x.reqs ++ new }

/-- PIN: pages are pinned in, or unpinned from, the near tier. -/
def State.objPin (s : State) (h handle : Nat) (o : TierObj) (first count : Nat) (on : Bool) : State :=
  let range := (List.range count).map fun i => first + i
  let pins := if on then o.pins ++ range.filter (fun p => !o.pins.contains p) else o.pins.filter fun p => !range.contains p
  s.setHarbor h ((s.harbor h).setObj (indexOf handle) { o with pins := pins })

/-- One page of an object under a new mask: it keeps a copy in the tier that is its home, or takes one, and the copies
outside the mask go. Its home is the slowest tier of a WEIGHT object's mask, and for a writable object the tier that
holds it, or the fastest of the mask with room. -/
def State.rehome (s : State) (h index mask page : Nat) : Option State :=
  let x := s.harbor h
  match lookup x.objs index with
  | none => none
  | some o =>
    let raw := (x.pageBytes index page 0 65536).getD (pzeros 65536)
    let has (t : Nat) : Bool := bit mask t && (if t = 0 then (lookup o.near page).isSome else if t = 1 then
      (lookup o.mid page).isSome else (lookup o.far page).isSome)
    let home := if o.cls = 0 then (if bit mask 2 then 2 else if bit mask 1 then 1 else 0)
      else if has 0 then 0 else if has 1 then 1 else if bit mask 0 ∧ 0 < s.nearRoom h then 0
      else if bit mask 1 then 1 else 0
    let made : Option State :=
      if has home then some s
      else if home = 0 then
        match s.takeNear h index page with
        | none => none
        | some (s1, f) => match lookup (s1.harbor h).objs index with
          | none => none
          | some o1 =>
            let y := (s1.harbor h).fillNear f (x.nearForm index page).1
            some (s1.setHarbor h (y.setObj index { o1 with near := insert o1.near page f }))
      else if home = 1 then
        match s.midFrame h page with
        | none => none
        | some f =>
          let y := putAll (fun x g v => x.midPut f g v) (x.clearPieces f 0 1024) 0 (toGranules raw 1024)
          some (s.setHarbor h (y.setObj index { o with mid := insert o.mid page f }))
      else
        let y0 := x.setObj index { o with far := insert o.far page (page / 4) }
        let y := putAll (fun x g v => x.farPut (farPage index page) g v) y0 0 (toGranules raw 1024)
        some (s.setHarbor h { y with segs := insert y.segs (segKey index page) (Config.flashBlock h (segKey index page)) })
    match made with
    | none => none
    | some s1 =>
      let y := s1.harbor h
      match lookup y.objs index with
      | none => none
      | some o1 =>
        let y1 := match bit mask 0, lookup o1.near page with
          | false, some f => y.scrubNear f
          | _, _ => y
        let y2 := match bit mask 1, lookup o1.mid page with
          | false, some f => y1.scrubMid f
          | _, _ => y1
        let lo := 65536 * farPage index page
        let y3 := if bit mask 2 then y2
          else { y2 with far := eraseRange y2.far lo (lo + 65536),
                         fpois := eraseRange y2.fpois (lo / 4096) (lo / 4096 + 16),
                         segs := erase y2.segs (segKey index page) }
        let o2 := { o1 with near := if bit mask 0 then o1.near else erase o1.near page,
                            mid := if bit mask 1 then o1.mid else erase o1.mid page,
                            far := if bit mask 2 then o1.far else erase o1.far page }
        some (s1.setHarbor h (y3.setObj index o2))

/-- SETMASK: copies move out of tiers that leave the mask; none where the remaining tiers lack room. DEDUCED, log 81. -/
def State.objSetMask (s : State) (h handle : Nat) (o : TierObj) (mask : Nat) : Option State :=
  if !maskOk o.cls mask then none
  else
    let i := indexOf handle
    let x := s.harbor h
    let x1 := { x with moves := x.moves.filter fun m => decide (m.index ≠ i) }
    let r := (List.range o.pages).foldl (fun (a : Option State) p => match a with
      | none => none
      | some s1 => s1.rehome h i mask p) (some (s.setHarbor h x1))
    match r with
    | none => none
    | some s1 => match lookup (s1.harbor h).objs i with
      | none => none
      | some o1 => some ((s1.setHarbor h ((s1.harbor h).setObj i { o1 with mask := mask })).refreshCap h)

/-! ### Commands, one at a time (R312, R583, R585, R586) -/

/-- BUSY and CODE of the interface a command came by. -/
def State.objBusy (s : State) (h : Nat) (via : Option Nat) (b : Bool) : State :=
  match via with
  | none => s.setFlag (HBR_OBJ_STATUS_BUSY h) b
  | some t => s.setFlag (DB_ASYNC_OBJ_BUSY t) b
def State.objCode (s : State) (h : Nat) (via : Option Nat) (code : Nat) : State :=
  match via with
  | none => s.put (HBR_OBJ_STATUS_CODE h) code
  | some t => (s.put (DB_ASYNC_OBJ_CODE t) code).raiseVF t cObjDone

/-- A command has ended with a status. -/
def State.objDone (s : State) (h : Nat) (r : ObjRun) (code : Nat) : State :=
  (s.objBusy h r.via false).objCode h r.via code

/-- The handle of a CREATE goes where its interface reports it. -/
def State.objReturn (s : State) (h : Nat) (via : Option Nat) (handle : Nat) : State :=
  match via with
  | none => s.put (HBR_OBJ_ARG_ARG h 0) handle
  | some t => s.put (DB_OBJ_RET_HANDLE t) handle

/-- Whether the arguments of an operation hold together: ranges inside the object, counts above 0, no bit unnamed (R312,
R586). -/
def State.objArgsOk (s : State) (h : Nat) (r : ObjRun) : Bool :=
  if r.op = 1 then true
  else match s.objFor h r.a0 r.via with
    | none => false
    | some o =>
      let count := bitsOf r.a2 0 24
      if r.op = 2 ∨ r.op = 3 then decide (r.a1 = 0) && decide (r.a2 = 0)
      else if r.op = 4 then decide (r.a2 < 2 ^ 25) && o.holds r.a1 count && bit o.mask 0
      else if r.op = 5 then decide (r.a2 < 2 ^ 25) && o.holds r.a1 count
      else if r.op = 6 then decide (r.a1 % 65536 = 0) && decide (r.a1 < 2 ^ 19) && decide (r.a2 = 0)
      else o.holds r.a1 count && decide (r.host % 4096 = 0) && !(decide (r.op = 8) && o.sealed)

/-- An operation begins: none where it is refused, else the state it leaves and whether it has ended. DEDUCED, log 81. -/
def State.objBegin (s : State) (h : Nat) (r : ObjRun) : Option (State × Bool) :=
  if !s.objArgsOk h r then none
  else if r.op = 1 then (s.objCreate h r.a0 r.a1 r.a2 r.via).map fun e => (e.1.objReturn h r.via e.2, true)
  else match s.objFor h r.a0 r.via with
    | none => none
    | some o =>
      let count := bitsOf r.a2 0 24
      if r.op = 2 then (s.objCommit h r.a0 o).map fun s1 => (s1, !bit o.mask 2)
      else if r.op = 3 then some (s.objDelete h r.a0 o, true)
      else if r.op = 4 then
        let ps := o.missing r.a1 count
        some (s.askStage h r.a0 ps (bit r.a2 24), ps.isEmpty)
      else if r.op = 5 then some (s.objPin h r.a0 o r.a1 count (bit r.a2 24), true)
      else if r.op = 6 then (s.objSetMask h r.a0 o (bitsOf r.a1 16 3)).map fun s1 => (s1, true)
      else some (s, false)

/-- The first command of the harbor's line begins; one that ends or is refused at once makes way for the next. DEDUCED, log 81. -/
def State.runObjs (s : State) (h fuel : Nat) : State :=
  match fuel, (s.harbor h).runs with
  | fuel + 1, r :: rest =>
    if r.begun then s
    else
      let s0 := s.setHarbor h { s.harbor h with runs := rest }
      match s0.objBegin h r with
      | none => (s0.objDone h r stRefusedFit).runObjs h fuel
      | some (s1, true) => (s1.objDone h r stDone).runObjs h fuel
      | some (s1, false) => s1.setHarbor h { s1.harbor h with runs := { r with begun := true } :: (s1.harbor h).runs }
  | _, _ => s

/-- A command reaches a harbor: it joins the line, and runs at once where nothing runs before it. -/
def State.objCommand (s : State) (h : Nat) (r : ObjRun) : State :=
  let s1 := (s.setHarbor h { s.harbor h with runs := (s.harbor h).runs ++ [r] }).objBusy h r.via true
  s1.runObjs h ((s1.harbor h).runs.length + 1)

/-- A command of the physical function, its arguments in HBR_OBJ_ARG_n; while BUSY = 1 it is clamped to NOP (R312). -/
def State.pfObject (s : State) (h op : Nat) : State :=
  if s.flag (HBR_OBJ_STATUS_BUSY h) then
    s.clampAt (HBR_CLAMP_COUNT h) (HBR_CLAMP_LAST_ADDR h) (HBR_CLAMP_LAST_BAR2 h) (HBR_OBJ_CMD h).addr false
  else
    let a (n : Nat) : Nat := s.get (HBR_OBJ_ARG_ARG h n)
    s.objCommand h { op := op, a0 := a 0, a1 := a 1, a2 := a 2, host := 0, data := [], via := none, begun := false }

/-- NOP and the reserved operation do nothing; the reserved one is clamped. -/
def execObjNop (h : Harbor) (s : State) : Answer :=
  .next (if s.flag (HBR_OBJ_STATUS_BUSY h) then s.pfObject h 0 else s.put (HBR_OBJ_STATUS_CODE h) stDone)
def execObjCreate (h : Harbor) (s : State) : Answer := .next (s.pfObject h 1)
def execObjCommit (h : Harbor) (s : State) : Answer := .next (s.pfObject h 2)
def execObjDelete (h : Harbor) (s : State) : Answer := .next (s.pfObject h 3)
def execObjStage (h : Harbor) (s : State) : Answer := .next (s.pfObject h 4)
def execObjPin (h : Harbor) (s : State) : Answer := .next (s.pfObject h 5)
def execObjSetmask (h : Harbor) (s : State) : Answer := .next (s.pfObject h 6)

/-- One page of an OBJ_WRITE lands: poisoned where the host's read failed or carried EP; false where it did (R575, R586). -/
def State.landHostPage (s : State) (h index page : Nat) (d : Option (List Byte × Bool)) : State × Bool :=
  match d with
  | some (bs, false) => (s.writePage h index page 0 (toGranules (clean bs) 1024), true)
  | some (bs, true) => (s.writePage h index page 0 (toGranules (bs.map fun b => (b, true)) 1024), false)
  | none => (s.writePage h index page 0 (List.replicate 1024 poisonGranule), false)

/-- One page of an OBJ_READ goes to host memory under the tenant's routing ID, with EP where it met poison. -/
def State.sendHostPage (s : State) (index page fn addr : Nat) (h : Nat) : State × Bool :=
  let bs := (((s.harbor h).warm index page).pageBytes index page 0 65536).getD (List.replicate 65536 (0, true))
  let ep := bs.any (·.2)
  ((s.setHarbor h ((s.harbor h).warm index page)).emit (.hostWrite fn addr (bs.map fun b => if b.2 then 0 else b.1) ep), !ep)

/-- The pages of an OBJ_WRITE or OBJ_READ, in ascending order (R586). -/
def State.moveHostPages (s : State) (h : Nat) (r : ObjRun) : State × Bool :=
  let fn := (r.via.map fun t => t + 1).getD 0
  (List.range (bitsOf r.a2 0 24)).foldl (fun (a : State × Bool) i =>
    let (s1, ok) := if r.op = 8 then a.1.landHostPage h (indexOf r.a0) (r.a1 + i) (r.data.getD i none)
      else a.1.sendHostPage (indexOf r.a0) (r.a1 + i) fn (r.host + 65536 * i) h
    (s1, a.2 && ok)) (s, true)

/-- The command that a harbor runs ends, where what it waits for has happened, and the next one begins. A STAGE some of
whose pages have left the near tier again asks for them again. -/
def State.objEnd (s : State) (h : Nat) : State :=
  match (s.harbor h).runs with
  | [] => s
  | r :: rest =>
    let s0 := s.setHarbor h { s.harbor h with runs := rest }
    let next (s : State) (code : Nat) : State := (s.objDone h r code).runObjs h (rest.length + 1)
    if !r.begun then s.runObjs h (rest.length + 2)
    else if r.op = 4 then
      match s.obj r.a0 with
      | none => next s0 stRefusedFit
      | some o =>
        let ps := o.missing r.a1 (bitsOf r.a2 0 24)
        if ps.isEmpty then next s0 stDone else s.askStage h r.a0 ps (bit r.a2 24)
    else if r.op = 8 ∨ r.op = 9 then
      let (s1, ok) := s0.moveHostPages h r
      next s1 (if ok then stDone else stPoisoned)
    else next s0 stDone
def execObjCommandComplete (h : Harbor) (s : State) : Answer := .next (s.objEnd h)

/-! ### Errors of the near and middle tiers (R304, R306, R514, R528) -/

/-- A used near frame is retired: its page moves to a free frame with the poison it holds (R304). -/
def State.retireUsed (s : State) (h f : Nat) : State :=
  let x := s.harbor h
  match x.objs.findSome? fun e => (e.2.near.find? fun q => decide (q.2 = f)).map fun q => (e.1, q.1) with
  | none => s.retireNear h f
  | some (i, page) =>
    match s.takeNear h i page with
    | none => s
    | some (s1, g) =>
      let y := s1.harbor h
      match lookup y.objs i with
      | none => s1
      | some o =>
        if lookup o.near page = some f then
          let y1 := y.fillNear g (y.nearBytes f 0 65536)
          let s2 := s1.setHarbor h ((y1.setObj i { o with near := insert o.near page g }).scrubNear f)
          s2.retireNear h f
        else s1.retireNear h f

/-- PATROL_SCRUB: the words of a frame are read: corrected ones are counted; uncorrectable ones are counted and read as
poison, and a frame with two of them in one patrol cycle is retired. `again` begins a new cycle. -/
def State.scrub (s : State) (h f corrected : Nat) (bad : List Nat) (again : Bool) : State :=
  let x := s.harbor h
  let seen := if again then [] else x.badReads
  let n := lookupD seen f 0 + bad.length
  let x1 := { x with badReads := if n = 0 then seen else insert seen f n,
                     npois := bad.foldl (fun m w => store false m (8192 * f + w % 8192) true) x.npois }
  let s1 := ((s.setHarbor h x1).bump (HBR_NEAR_ERR_CE_CNT h) corrected).bump (HBR_NEAR_ERR_UE_CNT h) bad.length
  if 2 ≤ n then (s1.retireUsed h f).refreshCap h else s1
/-- DESIGN CHOICE, log 78. -/
def execPatrolScrub (h : Harbor) (frame : Fin 3145728) (corrected : Nat) (bad : List (Fin 8192)) (again : Bool)
    (s : State) : Answer := .next (s.scrub h frame corrected (bad.map (·.val)) again)

/-- CXL_POISON: the pieces of a frame that an expander returns as poison are poisoned. DESIGN CHOICE, log 78. -/
def execCxlPoison (h : Harbor) (n : Fin 2) (frame : Fin 8355840) (pieces : List (Fin 256)) (s : State) : Answer :=
  let x := s.harbor h
  let f := 2 ^ 24 * n.val + frame.val
  .next ((s.setHarbor h { x with mpois := pieces.foldl (fun m p => store false m (256 * f + p.val) true) x.mpois }).inc
    (HBR_MID_ERR_POISON_CNT h n))

/-- Whether the job of partition `p` holds a writable page on port `n` of harbor `h`. -/
def State.writableOn (s : State) (p h n : Nat) : Bool :=
  match lookup s.jobs p with
  | none => false
  | some j => j.objs.any fun i => decide (harborOf i = h) && (match s.obj i with
    | some o => decide (o.cls ≠ 0) && o.mid.any fun e => decide (e.2 / 2 ^ 24 = n)
    | none => false)

/-- CXL_LINK_DOWN: the port is fenced, reads on it return poison, and the jobs with a writable page there are ejected
(R306, R514). -/
def State.linkDown (s : State) (h n : Nat) : State :=
  let x := s.harbor h
  if x.midDown.contains n then s
  else
    let hit := (List.range 128).filter fun p => s.writableOn p h n
    let s1 := (s.setHarbor h { x with midDown := n :: x.midDown }).setFlag (HBR_MID_ERR_LINK_DOWN h n) true
    let s2 := (s1.raisePF cCxlDown).logEvent 0x0007 2 (16 + h) none none 0 (pay 1 (2 * h + n))
    (hit.foldl (fun s p => s.strike p stEjectedFence ((s.partCores p).headD 0)) s2).refreshCap h
def execCxlLinkDown (h : Harbor) (n : Fin 2) (s : State) : Answer := .next (s.linkDown h n)

/-- CXL_MEDIA_EVENT: the event-specific fields of an expander's record are copied to the event log. DESIGN CHOICE, log 78. -/
def execCxlMediaEvent (h : Harbor) (n : Fin 2) (fields : List Byte) (s : State) : Answer :=
  .next (s.logEvent 0x0008 1 (16 + h) none none 0 (pay 1 (2 * h.val + n.val) ++ fields.take 31))

/-! ### The flash (R326 to R329, R502) -/

def blockReset : FlashBlock := { reads := 0, erases := 0, free := true, retired := false }
/-- DESIGN CHOICE, log 24. -/
def HarborSt.block (x : HarborSt) (b : Nat) : FlashBlock := lookupD x.blocks b blockReset
def HarborSt.setBlock (x : HarborSt) (b : Nat) (v : FlashBlock) : HarborSt := { x with blocks := insert x.blocks b v }

/-- The segments of block `b` stand in block `dst`; each map change is journalled. -/
def HarborSt.moveBlock (x : HarborSt) (b dst : Nat) : HarborSt :=
  let n := (x.segs.filter fun e => decide (e.2 = b)).length
  let x1 := { x with segs := x.segs.map (fun e => if e.2 = b then (e.1, dst) else e), journal := x.journal + n }
  if n = 0 then x1 else x1.setBlock dst { x1.block dst with free := false }

/-- ERASE_MIN and ERASE_MAX follow the blocks known. -/
def State.refreshWear (s : State) (h : Nat) : State :=
  let es := (s.harbor h).blocks.map fun e => e.2.erases
  (s.put (HBR_FTL_WEAR_ERASE_MIN h) (min 65535 ((leastBy id es).getD 0))).put (HBR_FTL_WEAR_ERASE_MAX h)
    (min 65535 (es.foldl max 0))

/-- READ_REFRESH: a block at its read limit, or with a codeword near the limit of its correction, is rewritten elsewhere
and erased. -/
def State.readRefresh (s : State) (h b dst : Nat) (ecc : Bool) : State :=
  let x := s.harbor h
  if (ecc || decide (s.get (HBR_FTL_CTRL_RD_LIMIT h) * 65536 ≤ (x.block b).reads)) && (x.block dst).free && decide (b ≠ dst)
      && !(x.block dst).retired then
    let x1 := x.moveBlock b dst
    let v := x1.block b
    ((s.setHarbor h (x1.setBlock b { v with reads := 0, erases := v.erases + 1, free := true })).inc
      (HBR_FTL_CNT_REFRESH_CNT h)).refreshWear h
  else s
def execReadRefresh (h : Harbor) (block dst : Nat) (ecc : Bool) (s : State) : Answer := .next (s.readRefresh h block dst ecc)

/-- WEAR_LEVEL: with a spread above WL_DELTA, the data of the least-erased block move into a free block of high erase
count. -/
def State.wearLevel (s : State) (h b dst : Nat) : State :=
  let x := s.harbor h
  let low := (leastBy id (x.blocks.map fun e => e.2.erases)).getD 0
  let high := (x.blocks.map fun e => e.2.erases).foldl max 0
  if s.get (HBR_FTL_CTRL_WL_DELTA h) < high - low ∧ (x.block b).erases = low ∧ (x.block dst).free = true
      ∧ low < (x.block dst).erases then
    let x1 := x.moveBlock b dst
    let v := x1.block b
    (s.setHarbor h (x1.setBlock b { v with reads := 0, erases := v.erases + 1, free := true })).refreshWear h
  else s
def execWearLevel (h : Harbor) (block dst : Nat) (s : State) : Answer := .next (s.wearLevel h block dst)

/-- BLOCK_RETIRE: a block whose program, erase or codeword failed is retired, its segments rewritten to `dst`; pages whose
codewords were uncorrectable are poisoned there. With spare blocks below 1 % of raw capacity the flash is read-only. -/
def State.retireBlock (s : State) (h b dst : Nat) (uncorrectable : List (Nat × Nat)) (spareLow : Bool) : State :=
  let x := s.harbor h
  if (x.block b).retired then s
  else
    let x1 := x.moveBlock b dst
    let x2 := x1.setBlock b { x1.block b with free := false, retired := true }
    let x3 := { x2 with fpois := uncorrectable.foldl (fun m e => store false m (16 * e.1 + e.2 % 16) true) x2.fpois }
    let s1 := ((s.setHarbor h x3).inc (HBR_FTL_CNT_RETIRED_BLK h)).bump (HBR_FAR_ERR_UE_CNT h) uncorrectable.length
    let s2 := s1.logEvent 0x0014 1 (16 + h) none none 0 (pay 1 (b % 8) ++ pay 4 (b / 8))
    if spareLow && !s2.flag (HBR_FTL_STATUS_READ_ONLY h) then
      (s2.setFlag (HBR_FTL_STATUS_READ_ONLY h) true).raisePF cFtlRo
    else s2
/-- DESIGN CHOICE, log 78. -/
def execBlockRetire (h : Harbor) (block dst : Nat) (uncorrectable : List (Nat × Fin 16)) (spareLow : Bool)
    (s : State) : Answer :=
  .next (s.retireBlock h block dst (uncorrectable.map fun (e : Nat × Fin 16) => (e.1, e.2.val)) spareLow)

/-- FTL_CHECKPOINT: the map is checkpointed and the journal begins anew. -/
def execFtlCheckpoint (h : Harbor) (s : State) : Answer :=
  .next (s.setHarbor h { s.harbor h with checkpointed := (s.harbor h).segs, journal := 0 })

/-- FTL_MOUNT: in its phase of a start every block's read counter rises by 65,536 and the harbor is mounted; a mount that
fails is a failed start (R329, R502). -/
def State.mount (s : State) (h : Nat) (ok : Bool) (ms : Nat) : State :=
  if s.phase ≠ phFtl then s
  else if !ok then s.failStart 8
  else
    let x := s.harbor h
    let x1 := { x with blocks := x.blocks.map fun e => (e.1, { e.2 with reads := satAdd 32 e.2.reads 65536 }) }
    (((s.setHarbor h x1).setFlag (HBR_FTL_STATUS_MOUNTED h) true).put (HBR_FTL_STATUS_MOUNT_MS h)
      (min 65535 ms)).refreshCap h
def execFtlMount (h : Harbor) (ok : Bool) (ms : Nat) (s : State) : Answer := .next (s.mount h ok ms)

end Sys2Proof.Machine
end

