-- ==== Sys2Proof/Machine/Ferry.lean ====
section
/-! DEFINITION. The ferry engines and the hub expert registry (R287 to R294, R297, R300, R301): reports, fetches, the ferry
cache, manifests, and the order in which experts are poured. -/

namespace Sys2Proof.Machine

/-! ### The ferry cache (R290, R300) -/

/-- HBR_FERRY_STATUS follows the fetches and the cache. -/
def State.showFerry (s : State) (h : Nat) : State :=
  let x := s.harbor h
  let flying := (x.fetches.filter fun f => f.running).length
  (s.put (HBR_FERRY_STATUS_INFLIGHT h) flying).put (HBR_FERRY_STATUS_CACHED h) (min 65535 x.cached.length)

/-- The registry version and entry of an expert now. -/
def State.regEntry (s : State) (m e : Nat) : BitVec 128 := lookupD s.registry (exrKey m e) 0

/-- The expert in the cache: at a version, or whichever came last. -/
def HarborSt.cachedAt (x : HarborSt) (m e v : Nat) : Option FerryExpert :=
  x.cached.find? fun c => decide (c.model = m) && decide (c.expert = e) && decide (c.version = v)
def HarborSt.cachedLast (x : HarborSt) (m e : Nat) : Option FerryExpert :=
  x.cached.reverse.find? fun c => decide (c.model = m) && decide (c.expert = e)
def HarborSt.fetchOf (x : HarborSt) (m e : Nat) : Option FerryFetch :=
  x.fetches.find? fun f => decide (f.model = m) && decide (f.expert = e)

/-- An expert that a station still pours is pinned. -/
def HarborSt.pouring (x : HarborSt) (m e : Nat) : Bool := x.stations.any fun t => t.pouring.contains (m, e)

/-- The free pages of the ferry cache. -/
def State.ferryFree (s : State) (h : Nat) : List Nat :=
  let x := s.harbor h
  let (lo, hi) := s.ferryRegion h
  let used := x.cached.flatMap (·.frames) ++ x.fetches.flatMap (·.frames) ++ x.retired
  ((List.range (hi - lo)).map fun i => lo + i).filter fun n => !used.contains n

/-- The expert evicted first: lowest heat, then least recently poured, then lowest (model, expert). -/
def HarborSt.coldest (x : HarborSt) : Option FerryExpert :=
  leastBy (fun c => ((c.heat * 2 ^ 64 + c.poured.toNat) * 2 ^ 10 + c.model) * 2 ^ 12 + c.expert)
    (x.cached.filter fun c => !x.pouring c.model c.expert)

/-- `n` pages of the cache, unpinned experts evicted in their order; none where pinned ones leave no room. -/
def State.ferrySpace (s : State) (h n fuel : Nat) : Option (State × List Nat) :=
  let free := s.ferryFree h
  if n ≤ free.length then some (s, free.take n)
  else match fuel, (s.harbor h).coldest with
    | fuel + 1, some c => (s.setHarbor h { s.harbor h with cached := (s.harbor h).cached.erase c }).ferrySpace h n fuel
    | _, _ => none

/-! ### Reports and fetches (R287, R288) -/

/-- An expert named by a report: whether the cache holds its current version; where not, a fetch joins the queue. -/
def State.nameExpert (s : State) (h p m e : Nat) : State × Bool :=
  let x := s.harbor h
  let v := s.regEntry m e
  if (x.cachedAt m e (exrVersion v)).isSome then (s, true)
  else if (x.fetchOf m e).isSome then (s, false)
  else
    let f : FerryFetch :=
      { model := m, expert := e, version := exrVersion v, home := exrHome v, handle := exrObject v,
        pages := exrPages v, part := p, running := false, bypass := false, lost := false, told := false,
        landed := [], frames := [], heat := 0 }
    (s.setHarbor h { x with fetches := x.fetches ++ [f] }, false)

/-- A station of harbor `h` replaced. -/
def State.setStation (s : State) (h p sid : Nat) (t : FerryStation) : State :=
  let x := s.harbor h
  s.setHarbor h { x with stations := x.stations.map fun q => if q.part = p ∧ q.sid = sid then t else q }
def HarborSt.station (x : HarborSt) (p sid : Nat) : Option FerryStation :=
  x.stations.find? fun t => decide (t.part = p) && decide (t.sid = sid)

/-- FERRY_REPORT: a cluster's report is held, and fetches of experts it names that are not cached are queued. -/
def State.ferryReport (s : State) (h p sid k m : Nat) (es : List Nat) : State :=
  match (s.harbor h).station p sid with
  | none => s
  | some t =>
    let (s1, xs) := es.foldl (fun (a : State × List (Nat × Nat × Bool)) e =>
      let (s1, hit) := a.1.nameExpert h p m e
      (s1, a.2 ++ [(m, e, hit)])) (s, [])
    s1.setStation h p sid { t with reports := t.reports ++ [(k, xs)] }
def execFerryReport (h : Harbor) (p : Part) (sid : Fin 256) (k : Cluster) (model : Fin 1024) (experts : List (Fin 4096))
    (s : State) : Answer := .next (s.ferryReport h p sid k model (experts.map (·.val)))

/-- FERRY_FETCH: the lowest (model, expert) that waits begins, at most MAX_INFLIGHT running: its pages are reserved in the
cache, or it is to bypass it, and its home is asked (R288, R290). -/
def State.ferryFetch (s : State) (h : Nat) : State :=
  let x := s.harbor h
  let waits := x.fetches.filter fun f => !f.running && f.landed.isEmpty && !f.lost
  match leastBy (fun (f : FerryFetch) => 4096 * f.model + f.expert) waits with
  | none => s
  | some f =>
    if s.get (HBR_FERRY_CTRL_MAX_INFLIGHT h) ≤ (x.fetches.filter fun g => g.running).length then s
    else
      let room := if s.flag (HBR_FERRY_CTRL_EN h) then s.ferrySpace h f.pages (x.cached.length + 1) else none
      let (s1, frames) := room.getD (s, [])
      let g := { f with running := true, bypass := room.isNone, frames := frames }
      let y := s1.harbor h
      let s2 := s1.setHarbor h { y with fetches := y.fetches.map fun q => if q = f then g else q }
      let ask := plainGranule (leBytes 4 f.handle ++ leBytes 4 0 ++ leBytes 4 f.pages)
      (s2.showFerry h).ravorSend (.ferry h f.model f.expert)
        { s2.newMsg f.home 2 with key := 0x810 + h, grans := [ask] }
def execFerryFetch (h : Harbor) (s : State) : Answer := .next (s.ferryFetch h)

/-- FERRY_REQ: the home harbor's engine reads the object's pages, each a request of its path; a fenced harbor does not
serve it (R288, R334, R528). DESIGN CHOICE, log 68. -/
def execFerryReq (h : Harbor) (src : Endpoint) (id : BitVec 16) (handle : Word) (page count : Nat) (s : State) : Answer :=
  .next (s.arrive src 0 id.toNat fun s =>
    let i := indexOf handle.toNat
    match s.obj handle.toNat with
    | none => (s, some stWindowClosed)
    | some o =>
      if harborOf handle.toNat ≠ h.val then (s, some stWindowClosed)
      else
        let x := s.harbor h
        let new := (List.range (min count (o.pages - page))).map fun n =>
          ({ cls := 3, path := o.path (page + n), part := none, at_ := s.tide.now, bytes := 65536,
             job := .ferry src i (page + n) } : TierReq)
        (s.setHarbor h { x with reqs := x.reqs ++ new }, some stDone))

/-- A page of a ferry read goes to the package that asked: packed, as its tier holds it (R288). DESIGN CHOICE, log 68. -/
def State.sendFerryPage (s : State) (h src index page : Nat) : State :=
  let x := (s.harbor h).warm index page
  let gs := (List.range 1024).map fun g => match x.pageBytes index page (64 * g) 64 with
    | some bs => asGranule bs
    | none => poisonGranule
  let s1 := s.setHarbor h x
  (List.range 4).foldl (fun s i =>
    s.ravorSend (.engine 128) { s.newMsg src 3 with key := 0x810 + h, offset := 65536 * page + 16384 * i,
                                                     grans := (gs.drop (256 * i)).take 256 }) s1

/-- A page of near memory from granules. -/
def HarborSt.fillGrans (x : HarborSt) (frame : Nat) (gs : List Granule) : HarborSt :=
  putAll (fun x g v => x.nearPut frame g v) x 0 gs

/-- A fetch has landed whole: its expert is cached, unless it bypasses the cache (R288, R290, R292). -/
def State.fetchDone (s : State) (h : Nat) (f : FerryFetch) : State :=
  let x := s.harbor h
  if f.bypass then
    (s.setHarbor h { x with fetches := x.fetches.map fun q => if q = f then { f with running := false } else q }).showFerry h
  else
    let x1 := f.frames.zipIdx.foldl (fun x e => x.fillGrans e.1 ((f.landed.drop (1024 * e.2)).take 1024)) x
    let c : FerryExpert := { model := f.model, expert := f.expert, version := f.version, frames := f.frames, heat := f.heat,
                             poured := s.tide.now }
    (s.setHarbor h { x1 with fetches := x1.fetches.erase f, cached := x1.cached ++ [c] }).showFerry h

/-- FERRY_DATA: the next granules of a fetch land. DESIGN CHOICE, log 68. -/
def execFerryData (h : Harbor) (src : Endpoint) (id : BitVec 16) (model expert : Nat) (first : Nat) (grans : List Granule)
    (s : State) : Answer :=
  .next (s.arrive src 1 id.toNat fun s =>
    let x := s.harbor h
    match x.fetchOf model expert with
    | none => (s, some stDone)
    | some f =>
      if f.running ∧ f.home = src.val ∧ first = f.landed.length ∧ f.lost = false then
        let g := { f with landed := f.landed ++ grans.take 256 }
        let s1 := s.setHarbor h { x with fetches := x.fetches.map fun q => if q = f then g else q }
        (if 1024 * f.pages ≤ g.landed.length then s1.fetchDone h g else s1, some stDone)
      else (s, some stDone))

/-- FERRY_LINK_LOST: a fetch has lost its link; the owner hears of it once, and the job continues (R291). -/
def State.ferryLost (s : State) (h m e : Nat) : State :=
  let x := s.harbor h
  match x.fetchOf m e with
  | none => s
  | some f =>
    if f.told || (!f.running && !f.lost) then s
    else
      let g := { f with lost := true, told := true, running := false }
      let s1 := (s.setHarbor h { x with fetches := x.fetches.map fun q => if q = f then g else q }).showFerry h
      s1.partFault f.part stLinkLost 0 s1.tide.now
def execFerryLinkLost (h : Harbor) (model : Fin 1024) (expert : Fin 4096) (s : State) : Answer :=
  .next (s.ferryLost h model expert)

/-! ### The close of a station round (R289, R290, R299) -/

/-- The station of the image that a ferry station serves. -/
def State.stationRec (s : State) (h p sid : Nat) : Option Station :=
  (lookup s.jobs p).bind fun j =>
    (j.image.flasks.flatMap (·.stations)).find? fun t => t.ferry && decide (t.sid = sid) && decide (t.harbor = h)

/-- The first report held of every feeder; none while one is missing. -/
def firstReports (rs : List (Nat × List (Nat × Nat × Bool))) (ks : List Nat) : Option (List (Nat × List (Nat × Nat × Bool))) :=
  match ks with
  | [] => some []
  | k :: rest => match rs.find? fun r => decide (r.1 = k), firstReports rs rest with
    | some r, some l => some (r :: l)
    | _, _ => none

/-- The experts of the reports, ascending by (model, expert), each with whether every report found it cached. DEDUCED, log 70. -/
def manifestOf (rs : List (Nat × List (Nat × Nat × Bool))) : List (Nat × Nat × Bool) :=
  let all := rs.flatMap (·.2)
  let keys := ((all.map fun e => (4096 * e.1 + e.2.1, ())).foldl (fun (m : SMap Unit) e => insert m e.1 e.2) []).map (·.1)
  keys.map fun k => (k / 4096, k % 4096, (all.filter fun e => decide (4096 * e.1 + e.2.1 = k)).all fun e => e.2.2)

/-- A word of the manifest (R289). -/
def manifestWord (m e : Nat) (failed : Bool) : Nat := e % 4096 + m % 1024 * 2 ^ 12 + b2n failed * 2 ^ 30 + 2 ^ 31

/-- A manifest expert is counted: lost, from the cache, by bypass, or fetched; its heat rises (R290, R300). -/
def State.countExpert (s : State) (h m e : Nat) (hit : Bool) : State :=
  let x := s.harbor h
  let s1 := match x.fetchOf m e with
    | some f => if f.lost then s.inc (HBR_FERRY_FAIL_COUNT h) else if f.bypass then s.inc (HBR_FERRY_BYPASS_COUNT h)
      else s.inc (HBR_FERRY_MISS_COUNT h)
    | none => if hit then s.inc (HBR_FERRY_HIT_COUNT h) else s.inc (HBR_FERRY_MISS_COUNT h)
  s1.setHarbor h { x with
    cached := x.cached.map (fun c => if c.model = m ∧ c.expert = e then { c with heat := satAdd 16 c.heat 1 } else c),
    fetches := x.fetches.map fun f => if f.model = m ∧ f.expert = e then { f with heat := satAdd 16 f.heat 1 } else f }

/-- The manifest in the members' tile stores (R289). -/
def State.writeManifest (s : State) (h : Nat) (t : Station) (words : List Nat) : State :=
  let bytes := words.flatMap (leBytes 4)
  (List.range ((bytes.length + 63) / 64)).foldl (fun s i => t.members.foldl (fun s m =>
    s.fabricWrite (16 * t.cluster + m) (BitVec.ofNat 12 (0x810 + h)) (64 * (t.manBase + i))
      ((bytes.drop (64 * i)).take 64) false) s) s

/-- STATION_ROUND_CLOSE: with a report of every feeder the manifest is written and its experts follow those being
poured. -/
def State.closeRound (s : State) (h p sid : Nat) : State :=
  match (s.harbor h).station p sid, s.stationRec h p sid with
  | some t, some r =>
    match firstReports t.reports r.feeders with
    | none => s
    | some rs =>
      let man := (manifestOf rs).take 255
      let failed (m e : Nat) : Bool := match (s.harbor h).fetchOf m e with
        | some f => f.lost
        | none => false
      let words := man.length :: man.map fun e => manifestWord e.1 e.2.1 (failed e.1 e.2.1)
      let t1 := { t with reports := rs.foldl (fun l q => l.erase q) t.reports,
                         pouring := t.pouring ++ man.map fun e => (e.1, e.2.1) }
      let s1 := man.foldl (fun s e => s.countExpert h e.1 e.2.1 e.2.2) ((s.setStation h p sid t1).writeManifest h r words)
      s1.setHarbor h { s1.harbor h with rounds := (s1.harbor h).rounds + 1 }
  | _, _ => s
def execStationRoundClose (h : Harbor) (p : Part) (sid : Fin 256) (s : State) : Answer := .next (s.closeRound h p sid)

/-- FERRY_HEAT_HALVE: after 2^HALF_LIFE_LOG2 closed station rounds all heats halve. -/
def execFerryHeatHalve (h : Harbor) (s : State) : Answer :=
  let x := s.harbor h
  let n := 2 ^ s.get (HBR_FERRY_CTRL_HALF_LIFE_LOG2 h)
  .next (if n ≤ x.rounds then
    s.setHarbor h { x with rounds := x.rounds - n, cached := x.cached.map (fun c => { c with heat := c.heat / 2 }),
                           fetches := x.fetches.map fun f => { f with heat := f.heat / 2 } }
  else s)

/-! ### Pouring manifest experts (R289, R291, R292) -/

/-- A granule as stored bytes with the poison of its words. -/
def granBytes (g : Granule) : List PByte := g.data.mapIdx fun i b => (b, g.wpois.getD (i / 4) false)

/-- Page `i` of an expert: of the fetch that is under way, or of the cache. -/
def HarborSt.expertPage (x : HarborSt) (m e i : Nat) : Option (List PByte) :=
  match x.fetchOf m e with
  | some f => if 1024 * (i + 1) ≤ f.landed.length then some (((f.landed.drop (1024 * i)).take 1024).flatMap granBytes)
    else none
  | none => ((x.cachedLast m e).bind fun c => c.frames[i]?).map fun f => x.nearBytes f 0 65536

/-- The page of the `left`-th tile from page `p` on, and its place there; none where the header of a page is not held. -/
def findTile (page : Nat → Option (List PByte)) (p left fuel : Nat) : Option (Nat × Nat) :=
  match fuel with
  | 0 => none
  | fuel + 1 =>
    match page p with
    | none => none
    | some bs =>
      let n := pval (bs.drop 4 |>.take 2)
      if left < n then some (p, left) else findTile page (p + 1) (left - n) fuel

/-- Whether a tile page's inflated form fits a near frame (R317). -/
def pageFits (page page0 : List PByte) : Bool :=
  decide (64 + (((pageTiles page).map fun t => (inflateTile t page0).1.length).foldl (· + ·) 0) ≤ 65536)

/-- Tile `t` of an expert as its station receives it: none while it has not landed. DEDUCED, log 71. -/
def HarborSt.expertTile (x : HarborSt) (m e t : Nat) : Option (List Granule × TileFault) :=
  let pages := x.expertPage m e
  match findTile pages 1 t (t + 2), pages 0 with
  | some (p, i), some z =>
    let bs := (pages p).getD []
    if pageFits bs z then some (deliverTile ((pageTiles bs).getD i none) z false) else some (poisonTile 0, .decode)
  | _, _ => match x.fetchOf m e with
    | some f => if f.lost then some (poisonTile 0, .good) else none
    | none => none

/-- The tiles of an expert: from its object header page, where that has landed. DESIGN CHOICE, log 25. -/
def HarborSt.expertTiles (x : HarborSt) (m e : Nat) : Nat :=
  match x.expertPage m e 0 with
  | some z => pval (z.drop 12 |>.take 4)
  | none => Config.expertTiles m e

/-- The expert a station pours first, its next tile, and the tiles it has. -/
def HarborSt.ferryNext (x : HarborSt) (t : FerryStation) : Option (Nat × Nat × List Granule × TileFault) :=
  match t.pouring with
  | [] => none
  | (m, e) :: _ => (x.expertTile m e t.tile).map fun g => (m, e, g)

/-- The pour of an expert has ended: it is last poured now; a version the registry no longer names is evicted, and a fetch
that bypassed the cache is forgotten. -/
def State.expertPoured (s : State) (h p sid m e : Nat) (t : FerryStation) : State :=
  let s1 := s.setStation h p sid { t with pouring := t.pouring.drop 1, tile := 0 }
  let x := s1.harbor h
  let now := exrVersion (s1.regEntry m e)
  let busy := x.pouring m e
  let cached := (x.cached.map fun c =>
    if c.model = m ∧ c.expert = e then { c with poured := s1.tide.now } else c).filter fun c =>
      busy || !(decide (c.model = m) && decide (c.expert = e)) || decide (c.version = now)
  let fetches := x.fetches.filter fun f => busy || f.running || !(decide (f.model = m) && decide (f.expert = e))
  (s1.setHarbor h { x with cached := cached, fetches := fetches }).showFerry h

/-- A station pours its next tile to its members. DEDUCED, log 71. -/
def State.ferryPour (s : State) (h p sid : Nat) : State :=
  let x := s.harbor h
  match x.station p sid with
  | none => s
  | some t => match x.ferryNext t with
    | none => s
    | some (m, e, gs, fault) =>
      let s1 := (s.emit (.noc (0x810 + h) (2 ^ 21 + 256 * p + sid) 2 s.tide.now (gs.flatMap granNats))).countFaults h [fault]
      if x.expertTiles m e ≤ t.tile + 1 then s1.expertPoured h p sid m e t
      else s1.setStation h p sid { t with tile := t.tile + 1 }

/-! ### The registry as commands (R293, R294, R301) -/

def State.exrIndex (s : State) : Nat × Nat := (s.get HUB_EXR_IDX_MODEL, s.get HUB_EXR_IDX_EXPERT)
/-- The entry in HUB_EXR_ENT_n. -/
def State.exrWords (s : State) : Nat :=
  ((List.range 4).map fun n => s.get (HUB_EXR_ENT_DATA n) * 2 ^ (32 * n)).foldl (· + ·) 0

/-- EXR_READ. -/
def execExrRead (s : State) : Answer :=
  let (m, e) := s.exrIndex
  .next ((List.range 4).foldl (fun s n => s.put (HUB_EXR_ENT_DATA n) (bitsOf (s.regEntry m e).toNat (32 * n) 32)) s)

/-- Whether an expert is bound to a LOCAL station in a loaded image (R294). -/
def State.boundLocal (s : State) (m e : Nat) : Bool :=
  s.jobs.any fun j => decide (j.2.model = some m) && j.2.image.flasks.any fun f => f.expmaps.any fun x =>
    match x.2[e]? with
    | some v => f.stations.any fun t => !t.ferry && decide (t.sid = v.station)
    | none => false

/-- An entry as a write leaves it: TIER 3 clamps to 2, reserved bits to 0, HOME keeps its value where `keep`, VERSION
counts on. DEDUCED, log 72. -/
def exrWritten (old : BitVec 128) (w : Nat) (keep : Bool) : Nat :=
  let home := if keep then exrHome old else bitsOf w 0 16
  home + bitsOf w 16 2 * 2 ^ 16 + min 2 (bitsOf w 18 2) * 2 ^ 18 + bitsOf w 20 1 * 2 ^ 20 + bitsOf w 32 64 * 2 ^ 32
    + (exrVersion old + 1) % 2 ^ 16 * 2 ^ 96

/-- EXR_WRITE: an allocated entry takes the words; a clamped part counts in the hub (R293, R294). DEDUCED, log 72. -/
def State.exrWrite (s : State) : State :=
  let (m, e) := s.exrIndex
  match lookup s.registry (exrKey m e) with
  | none => s
  | some old =>
    let w := s.exrWords
    let keep := s.boundLocal m e && decide (bitsOf w 0 16 ≠ exrHome old)
    let bad := keep || decide (bitsOf w 18 2 = 3) || decide (bitsOf w 21 11 ≠ 0) || decide (bitsOf w 112 16 ≠ 0)
    let s1 : State := { s with registry := insert s.registry (exrKey m e) (BitVec.ofNat 128 (exrWritten old w keep)) }
    if bad then s1.clampAt HUB_CLAMP_COUNT HUB_CLAMP_LAST_ADDR HUB_CLAMP_LAST_BAR2 HUB_EXR_CMD.addr false else s1
def execExrWrite (s : State) : Answer := .next s.exrWrite

end Sys2Proof.Machine
end

