-- ==== Sys2Proof/Machine/Tiers.lean ====
section
/-! DEFINITION. The paths of a harbor and how they grant (R307, R314, R323, R330 to R338), and the pour watchdog (R340,
R341). Marks: log entries on paths and floors. -/

namespace Sys2Proof.Machine

/-! ### Floors (R336, R458) -/

/-- The holder number of the ferry share. -/
def ferryShare : Nat := 128

/-- A deficit at a window's start in thirds of a byte: floor/256 of the bytes the path moves in its window. -/
def windowBytes3 (path floor : Nat) : Nat :=
  (if path < 3 then 30000 else if path < 5 then 1280 else 2304) * floor

/-- The floor of a holder at harbor `h`. -/
def State.floorOf (s : State) (h p : Nat) : Nat :=
  if p = ferryShare then 16 * s.get (HBR_ARB_CTRL_FERRY_R_SHARE h) else s.get (TEN_PART_CTRL_FLOOR p)

/-- FLOOR_WINDOW_START: the deficits of the near and middle paths, or of the far paths, are set anew. -/
def State.floorWindow (s : State) (h : Nat) (far : Bool) : State :=
  let x := s.harbor h
  let paths := if far then (List.range 8).map (· + 5) else List.range 5
  let fresh := (List.range 129).flatMap fun p => paths.map fun q => (16 * p + q, windowBytes3 q (s.floorOf h p))
  s.setHarbor h { x with deficits := fresh.foldl (fun (m : SMap Nat) e => store 0 m e.1 e.2) x.deficits }
/-- DESIGN CHOICE, log 4. -/
def execFloorWindowStart (h : Harbor) (far : Bool) (s : State) : Answer := .next (s.floorWindow h far)

/-! ### The next tile of a stream (R317, R330, R629) -/

/-- Where a stream's next tile stands: the page and its place there, or beyond the last tile of the object. -/
inductive TileSpot where
  | tile (page k : Nat)
  | beyond
  deriving DecidableEq, Repr

/-- The `left`-th tile from page `p` on of an object with `pages` pages. DESIGN CHOICE, log 69. -/
def HarborSt.locate (x : HarborSt) (index p left fuel : Nat) : TileSpot :=
  match fuel with
  | 0 => .beyond
  | fuel + 1 =>
    let n := pval ((x.pageBytes index p 4 2).getD [])
    if left < n then .tile p left else x.locate index (p + 1) (left - n) fuel

def HarborSt.spot (x : HarborSt) (v : PourStream) (o : TierObj) : TileSpot :=
  x.locate (indexOf v.handle) v.desc.first v.pos (o.pages - v.desc.first)

/-- Whether the pour engines grant for partition `p`: it loads or runs (R333, R516). -/
def State.pours (s : State) (p : Nat) : Bool :=
  let st := s.get (TEN_PART_CTRL_STATE p)
  decide (st = psLoading) || decide (st = psRunning)

/-! ### Requests (R334, R335) -/

/-- What a grant does. -/
inductive GrantAct where
  | req (r : TierReq)
  | pour (key : Nat)
  | land (key page : Nat)
  | station (part sid : Nat)
  deriving DecidableEq, Repr

/-- A request of a path as it is judged: its class rank in a tie (XFER 0, SWITCH 1, FERRY_R 2, POUR 3, BACKGROUND 4), its
time to empty as a fraction, its starve age, its floor holder, its stream number, and when it was made. -/
structure PathReq where
  rank   : Nat
  num    : Nat
  den    : Nat
  age    : Nat
  holder : Option Nat
  number : Nat
  at_    : Nat
  bytes  : Nat
  act    : GrantAct
  deriving DecidableEq, Repr

def PathReq.ttEarlier (a b : PathReq) : Bool := decide (a.num * b.den < b.num * a.den)
/-- Whether `a` goes before `b` in steps 1 and 3 of R337. -/
def PathReq.before (a b : PathReq) : Bool :=
  a.ttEarlier b || (!b.ttEarlier a && (decide (b.age < a.age) || (decide (a.age = b.age) &&
    (decide (a.rank < b.rank) || (decide (a.rank = b.rank) && decide (a.number < b.number))))))
def firstReq (xs : List PathReq) : Option PathReq :=
  xs.foldl (fun (best : Option PathReq) x => match best with
    | none => some x
    | some b => if x.before b then some x else some b) none

/-- The tiles granted and not yet released, and the starve age (R335). -/
def PourStream.granted (v : PourStream) : Nat := v.desc.slots - v.credits
def State.starveAge (s : State) (v : PourStream) : Nat :=
  match v.emptyAt with
  | some t => if v.granted = 0 ∧ v.stopped = false then s.tide.now.toNat - t.toNat else 0
  | none => 0

/-- A stream's request with its time to empty: max(0, F × PER − a), over RATE. -/
def State.streamReq (s : State) (key : Nat) (v : PourStream) (bytes : Nat) (act : GrantAct) : PathReq :=
  let a := min ((s.tide.now.toNat - v.lastAt.toNat) * v.desc.rate) 1024
  { rank := 3, num := v.granted * 1024 - a, den := max 1 v.desc.rate, age := s.starveAge v, holder := some v.part,
    number := key, at_ := v.lastAt.toNat, bytes := bytes, act := act }

/-- The bytes a tile's read moves: its header and body as stored (R334). DESIGN CHOICE, log 69. -/
def HarborSt.tileCost (x : HarborSt) (index page k : Nat) : Nat :=
  match (pageTiles ((x.pageBytes index page 0 65536).getD [])).getD k none with
  | some t => 16 + t.bodyLen
  | none => 16

/-- Whether a page is already on its way into a near frame. -/
def HarborSt.moving (x : HarborSt) (index page : Nat) : Bool :=
  x.moves.any fun m => decide (m.index = index) && decide (m.page = page)

/-- The landings of a stream: the page of its next tile and up to four ahead, where the far tier alone holds them. DEDUCED, log 80. -/
def HarborSt.landings (x : HarborSt) (o : TierObj) (index page : Nat) : List Nat :=
  ((List.range 5).map fun i => page + i).filter fun q =>
    decide (q < o.pages) && decide (o.fastest q = some 2) && !x.moving index q

/-- The requests of one stream on a path. DEDUCED, log 80. -/
def State.streamReqs (s : State) (h path key : Nat) (v : PourStream) : List PathReq :=
  let x := s.harbor h
  let i := indexOf v.handle
  if v.stopped || decide (v.credits = 0) || !s.pours v.part then []
  else match s.obj v.handle with
    | none => []
    | some o =>
      match x.spot v o with
      | .beyond => if o.path v.desc.first % 5 = path then [s.streamReq key v 16 (.pour key)] else []
      | .tile p k =>
        let tile := if o.path p = path ∧ path < 5 then [s.streamReq key v (x.tileCost i p k) (.pour key)] else []
        tile ++ ((x.landings o i p).filter fun q => decide (o.path q = path) && (s.takeNear h i q).isSome).map fun q =>
          s.streamReq key v 65536 (.land key q)

/-- Whether a request can be granted: a page to be staged needs a near frame. -/
def State.grantable (s : State) (h : Nat) (r : TierReq) : Bool :=
  match r.job with
  | .stage i p => !(s.harbor h).moving i p && (s.takeNear h i p).isSome
  | _ => true

/-- The path a request goes on now: that of its page's fastest copy when it is granted (R311). -/
def HarborSt.pathNow (x : HarborSt) (r : TierReq) : Nat :=
  let i := match r.job with
    | .xfer _ _ i p => (i, p)
    | .stage i p => (i, p)
    | .ferry _ i p => (i, p)
  match lookup x.objs i.1 with
  | some o => o.path i.2
  | none => r.path

/-- A waiting request as a path judges it. -/
def State.tierReq (s : State) (h : Nat) (r : TierReq) : PathReq :=
  let waited := s.tide.now.toNat - r.at_.toNat
  { rank := r.cls - 1 + b2n (decide (r.cls = 4)),
    num := if r.cls = 2 then 0 else s.get (HBR_ARB_CTRL_XFER_TTE h) - waited, den := 1, age := waited,
    holder := if r.cls = 3 then some ferryShare else if r.cls = 4 then none else r.part, number := 0, at_ := r.at_.toNat,
    bytes := r.bytes, act := .req r }

/-- The stations of the ferry engine with an expert's tile to pour: as streams that have nothing left in their rings. DESIGN CHOICE, log 69. -/
def State.stationReqs (s : State) (h path : Nat) : List PathReq :=
  let x := s.harbor h
  (x.stations.zipIdx.filter fun e => (x.ferryNext e.1).isSome && s.pours e.1.part).filterMap fun e =>
    let frame := match e.1.pouring with
      | (m, n) :: _ => ((x.cachedLast m n).bind fun c => c.frames.head?).getD 0
      | [] => 0
    if frame / 1048576 = path then
      some { rank := 3, num := 0, den := 1, age := 0, holder := some e.1.part, number := 256 + e.2, at_ := 0, bytes := 16,
             act := .station e.1.part e.1.sid }
    else none

/-- Every request of a path that can be granted. -/
def State.pathReqs (s : State) (h path : Nat) : List PathReq :=
  let x := s.harbor h
  ((x.reqs.filter fun r => decide (x.pathNow r = path) && s.grantable h r).map (s.tierReq h))
    ++ x.streams.flatMap (fun e => s.streamReqs h path e.1 e.2) ++ s.stationReqs h path

/-! ### The choice (R337) -/

/-- The deficit of a holder on a path, in thirds of a byte. -/
def HarborSt.deficit (x : HarborSt) (path : Nat) (holder : Option Nat) : Nat :=
  match holder with
  | some p => lookupD x.deficits (16 * p + path) 0
  | none => 0

/-- The oldest background request. -/
def oldestBg (xs : List PathReq) : Option PathReq :=
  leastBy (·.at_) (xs.filter fun r => decide (r.rank = 4))

/-- The first request found by the four steps. -/
def State.chooseReq (s : State) (h path : Nat) : Option PathReq :=
  let x := s.harbor h
  let xs := s.pathReqs h path
  let front := xs.filter fun r => decide (r.rank ≠ 4)
  let below := front.filter fun r => decide (0 < x.deficit path r.holder)
  let late := match oldestBg xs with
    | some r =>
      let quiet := match lookup x.sinceBg path with
        | none => true
        | some n => decide (2 ^ s.get (HBR_ARB_CTRL_BG_SHARE h) - 1 ≤ n)
      if quiet && decide (1200 * s.get (HBR_ARB_CTRL_BG_MAX h) ≤ r.age) then some r else none
    | none => none
  match firstReq below, late, firstReq front with
  | some r, _, _ => some r
  | none, some r, _ => some r
  | none, none, some r => some r
  | none, none, none => oldestBg xs

/-! ### The grant (R306, R311, R314, R323, R331, R332, R334, R336) -/

/-- The key pair of an object's owner is used: the harbor's 64 expanded pairs, latest first (R323). -/
def HarborSt.useKey (x : HarborSt) (o : TierObj) : HarborSt :=
  let k := o.owner.getD 4096
  { x with keyCache := (k :: x.keyCache.filter fun q => decide (q ≠ k)).take 64 }

/-- A read of a page of the middle or far tier: its owner's key pair is used, and a far page reads four pages of NAND in
its block (R307, R323, R327). DEDUCED, log 76. -/
def State.readDeep (s : State) (h index page path : Nat) : State :=
  let x := s.harbor h
  match lookup x.objs index with
  | none => s
  | some o =>
    if path < 3 then s
    else
      let x1 := x.useKey o
      let x2 := match lookup x1.segs (segKey index page) with
        | some b => if path < 5 then x1 else x1.setBlock b { x1.block b with reads := satAdd 32 (x1.block b).reads 4 }
        | none => x1
      s.setHarbor h x2

/-- A transfer of a core replaced. -/
def State.putXfer (s : State) (c : Nat) (x : Xfer) : State :=
  let k := s.core c
  s.setCore c { k with xfers := k.xfers.map fun y => if y.id = x.id then x else y }

/-- One page's share of a transfer is granted: a read fills its part of the transfer, a write lands in the page's copy
(R311, R314, R334). DESIGN CHOICE, log 34. -/
def State.grantXfer (s : State) (h c id index page : Nat) : State :=
  match (s.core c).xfers.find? fun x => decide (x.id = id) with
  | none => s
  | some x =>
    if x.closed then s
    else
      let lo := max x.offset (65536 * page)
      let hi := min (x.offset + 64 * x.grans) (65536 * (page + 1))
      let n := (hi - lo) / 64
      let i := (lo - x.offset) / 64
      let t := s.harbor h
      match lookup t.objs index, t.pageBytes index page (lo % 65536) (64 * n) with
      | some o, some bs =>
        if x.kind = 1 then
          let gs := (List.range n).map fun g => asGranule ((bs.drop (64 * g)).take 64)
          (s.setHarbor h (t.warm index page)).putXfer c
            { x with waits := x.waits - 1, data := x.data.take i ++ gs ++ x.data.drop (i + n) }
        else
          let s1 := s.writePage h index page (lo % 65536 / 64) ((x.data.drop i).take n)
          s1.putXfer c (if o.sealed then { x with waits := 0, closed := true } else { x with waits := x.waits - 1 })
      | _, _ => s.putXfer c { x with waits := 0, closed := true }

/-- A page begins its way into a near frame (R316, R331). -/
def State.beginMove (s : State) (h index page : Nat) : State :=
  match s.takeNear h index page with
  | none => s
  | some (s1, f) =>
    let m : PageMove := { index := index, page := page, frame := f, mig := false, restarts := 0 }
    s1.setHarbor h { s1.harbor h with moves := (s1.harbor h).moves ++ [m] }

/-- One tile has been granted: a credit is used, and after TILES tiles an execution is over; after REPEAT of them the
stream stops (R330, R335). -/
def PourStream.grant (v : PourStream) : PourStream :=
  let last := decide (v.desc.tiles ≤ v.pos + 1)
  let runs := if last then v.runs + 1 else v.runs
  { v with credits := v.credits - 1, emptyAt := none, pos := if last then 0 else v.pos + 1, runs := runs,
           stopped := v.stopped || (last && decide (v.desc.repeats ≠ 0) && decide (v.desc.repeats ≤ runs)) }

/-- A stream's next tile leaves for its pour group (R324, R325, R331, R332, R629). -/
def State.pourTile (s : State) (h key : Nat) : State :=
  let x := s.harbor h
  match lookup x.streams key with
  | none => s
  | some v =>
    match s.obj v.handle with
    | none => s
    | some o =>
      let i := indexOf v.handle
      let send (s : State) (gs : List Granule) (f : TileFault) : State :=
        let y := s.harbor h
        let s1 := (s.setHarbor h { y with streams := insert y.streams key v.grant }).countFaults h [f]
        s1.emit (.noc (0x800 + 4 * h + key / 64) v.desc.vroute 2 s.tide.now (gs.flatMap granNats))
      match x.spot v o with
      | .beyond => send s (poisonTile 0) .decode
      | .tile p k =>
        let bs := (x.pageBytes i p 0 65536).getD []
        let near := (lookup o.near p).isSome
        let (gs, f) := if near || pageFits bs (x.page0 i) then deliverTile ((pageTiles bs).getD k none) (x.page0 i) near
          else (poisonTile 0, TileFault.decode)
        let s1 := (s.setHarbor h (x.warm i p)).readDeep h i p (o.path p)
        let s2 := match f, lookup o.mid p with
          | .crc, some m => s1.inc (HBR_MID_ERR_CRC_CNT h (m / 2 ^ 24))
          | _, _ => s1
        send s2 gs f

/-- What a granted request does. -/
def State.doGrant (s : State) (h path : Nat) (a : GrantAct) : State :=
  match a with
  | .req r =>
    let s0 := s.setHarbor h { s.harbor h with reqs := (s.harbor h).reqs.erase r }
    match r.job with
    | .xfer c id i p => (s0.grantXfer h c id i p).readDeep h i p path
    | .stage i p => (s0.beginMove h i p).readDeep h i p path
    | .ferry src i p => (s0.sendFerryPage h src i p).readDeep h i p path
  | .pour key => s.pourTile h key
  | .land key page => match lookup (s.harbor h).streams key with
    | some v => (s.beginMove h (indexOf v.handle) page).readDeep h (indexOf v.handle) page path
    | none => s
  | .station p sid => s.ferryPour h p sid

/-- The longest starve age the harbor has seen (R339). -/
def State.showStarve (s : State) (h : Nat) : State :=
  (s.harbor h).streams.foldl (fun s e =>
    let a := min (s.starveAge e.2) (2 ^ 24 - 1)
    if s.get (HBR_ARB_STARVE_AGE_MAX h) < a then
      (s.put (HBR_ARB_STARVE_AGE_MAX h) a).put (HBR_ARB_STARVE_STREAM h) e.1
    else s) s

/-- A grant's bytes are taken from its holder's deficit, and the path counts its grants since the last of the background. -/
def HarborSt.charge (x : HarborSt) (path : Nat) (r : PathReq) : HarborSt :=
  let deficits := match r.holder with
    | some p => store 0 x.deficits (16 * p + path) (lookupD x.deficits (16 * p + path) 0 - 3 * r.bytes)
    | none => x.deficits
  let sinceBg := if r.rank = 4 then insert x.sinceBg path 0 else match lookup x.sinceBg path with
    | some n => insert x.sinceBg path (n + 1)
    | none => x.sinceBg
  { x with deficits := deficits, sinceBg := sinceBg }

/-- PATH_GRANT: a free path grants the first request found; `retries` are the read retries a flash read took. DESIGN CHOICE, log 77. -/
def State.pathGrant (s : State) (h path retries : Nat) : State :=
  if (s.harbor h).fenced then s
  else
    let s1 := s.showStarve h
    match s1.chooseReq h path with
    | none => s1
    | some r =>
      let s2 := (s1.setHarbor h ((s1.harbor h).charge path r)).doGrant h path r.act
      if path < 5 then s2 else s2.bump (HBR_FAR_ERR_RETRY_CNT h) retries
def execPathGrant (h : Harbor) (path : Fin 13) (retries : Nat) (s : State) : Answer := .next (s.pathGrant h path retries)

/-! ### The pour watchdog (R340, R341) -/

/-- Whether ring `r` of the active slot is one that pours or a runner fill and that holds no full head slot. DESIGN CHOICE, log 48. -/
def State.starves (s : State) (c r : Nat) : Bool :=
  let x := (s.core c).slot
  match x.ringDesc r with
  | some d => decide (d.producer ≤ 1) && decide ((x.ring r).avail = 0)
  | none => false

/-- POUR_WATCHDOG_EXPIRE: the wait of core `c` for ring `r` has lasted LIMIT_US: one event a wait, and the core stalls on. DESIGN CHOICE, log 48. -/
def State.watchdog (s : State) (c r : Nat) : State :=
  if !s.starves c r || (s.core c).starve.contains r || (s.core c).dbgStop then s
  else
    let s1 := s.setCore c { s.core c with starve := r :: (s.core c).starve }
    let s2 := ((s1.setFlag (s1.atCore c ISL_CORE_PWD_STARVED) true).put (s1.atCore c ISL_CORE_PWD_RING) r).inc
      (s1.atCore c ISL_CORE_PWD_EPISODES)
    match s2.corePart c with
    | some p => s2.partFault p stPourStarved c s2.tide.now
    | none => s2
def execPourWatchdogExpire (c : LCore) (r : Ring) (s : State) : Answer := .next (s.watchdog c r)

end Sys2Proof.Machine
end

