-- ==== Sys2Proof/Machine/Serving.lean ====
section
/-! DEFINITION. Request streams, the request ring, admission, the prefix index and KV blocks (R382 to R390, R401 to R404,
R408, R409, R411, R575, R584). -/

namespace Sys2Proof.Machine

/-! ### Clamps of the hub and of the doorbell pages (R411, R577, R581) -/

def State.clampHub (s : State) (addr : Nat) : State :=
  s.clampAt HUB_CLAMP_COUNT HUB_CLAMP_LAST_ADDR HUB_CLAMP_LAST_BAR2 addr false

/-- A write to the doorbell page of tenant `t` is clamped, counted in TEN_CLAMP and in the page. -/
def State.clampPage (s : State) (t off : Nat) : State :=
  (s.inc (DB_CLAMP_COUNT t)).clampAt TEN_CLAMP_COUNT TEN_CLAMP_LAST_ADDR TEN_CLAMP_LAST_BAR2 (65536 * t + off) true

/-- The stream a doorbell names, where it is open for the tenant and the tenant exists. -/
def State.streamOf (s : State) (t st : Nat) : Option ReqStream :=
  match lookup s.streams st with
  | some x => if x.tenant = t ∧ s.vfLive t = true then some x else none
  | none => none

/-! ### Opening and closing (R382, R411, R585) -/

/-- The stream that five argument words spell, of a tenant: none where a ring base is misaligned; and whether a log value
was clamped. DEDUCED, log 94. -/
def streamArgs (a1 a2 a3 a4 tenant : Nat) (shadow : Bool) : Option (ReqStream × Bool) :=
  let rq := a1 + a2 * 2 ^ 32
  let tk := a3 + bitsOf a4 0 16 * 2 ^ 32
  let rl := bitsOf a4 16 5
  let tl := bitsOf a4 21 5
  if rq % 64 = 0 ∧ tk % 64 = 0 then
    some ({ tenant := tenant, shadow := shadow, rqBase := rq, tkBase := tk, rqLog := clampTo 4 16 rl, tkLog := clampTo 4 20 tl,
            head := 0, tail := 0, fails := 0, wpos := 0, rhead := 0, held := [], ended := none },
          decide (clampTo 4 16 rl ≠ rl) || decide (clampTo 4 20 tl ≠ tl))
  else none

/-- OPEN: refused for a stream in use or a misaligned base. DEDUCED, log 94. -/
def State.openStream (s : State) (st : Nat) (x : Option (ReqStream × Bool)) : Option (State × Bool) :=
  match x, lookup s.streams st with
  | some (v, clamped), none => some (({ s with streams := insert s.streams st v }).setReqHead st v.tenant 0, clamped)
  | _, _ => none

/-- What the physical function sees of an opening: its code, and a clamp where a ring size was clamped. -/
def State.strmOpened (s : State) (r : Option (State × Bool)) : State :=
  match r with
  | none => s.put SRV_STRM_STATUS_CODE stRefusedFit
  | some (s1, clamped) => (if clamped then s1.clampHub SRV_STRM_CMD.addr else s1).put SRV_STRM_STATUS_CODE stDone

/-- STRM_OPEN: the physical function's, its arguments in SRV_STRM_ARG_n. -/
def execStrmOpen (s : State) : Answer :=
  let a (n : Nat) : Nat := s.get (SRV_STRM_ARG_ARG n)
  .next (s.strmOpened
    (s.openStream (bitsOf (a 0) 0 14) (streamArgs (a 1) (a 2) (a 3) (a 4) (bitsOf (a 0) 14 12) (bit (a 0) 26))))

/-- STRM_CLOSE. -/
def execStrmClose (s : State) : Answer :=
  .next ((s.closeStream (bitsOf (s.get (SRV_STRM_ARG_ARG 0)) 0 14)).put SRV_STRM_STATUS_CODE stDone)

/-! ### The request ring (R385, R575, R584) -/

def ReqStream.rqSize (x : ReqStream) : Nat := 2 ^ x.rqLog

/-- Units from one index to another, in ring order. DEDUCED, log 96. -/
def ringDist (size a b : Nat) : Nat := (b + size - a % size) % size

/-- Reads of `n` units from unit `u`: at most two, as the ring wraps. DEDUCED, log 96. -/
def State.readUnits (s : State) (x : ReqStream) (u n : Nat) : State :=
  let k := min n (x.rqSize - u)
  let s1 := if k = 0 then s else s.emit (.hostRead (x.tenant + 1) (x.rqBase + 64 * u) (64 * k))
  if n - k = 0 then s1 else s1.emit (.hostRead (x.tenant + 1) x.rqBase (64 * (n - k)))

/-- REQUEST_DOORBELL: a tail ahead of the kept one in ring order is taken, and its units are read. -/
def State.reqDoorbell (s : State) (t : Nat) (v : Word) : State :=
  let st := bitsOf v.toNat 0 14
  let raw := bitsOf v.toNat 16 16
  match s.streamOf t st with
  | none => s.clampPage t 0x200
  | some x =>
    let tail := min raw (x.rqSize - 1)
    let bad := decide (tail ≠ raw) || decide (bitsOf v.toNat 14 2 ≠ 0)
    if ringDist x.rqSize x.head tail ≤ ringDist x.rqSize x.head x.tail then s.clampPage t 0x200
    else
      let s1 := if bad then s.clampPage t 0x200 else s
      ({ s1 with streams := insert s1.streams st { x with tail := tail } }).readUnits x x.tail
        (ringDist x.rqSize x.tail tail)
def execRequestDoorbell (t : Tenant) (v : Word) (s : State) : Answer := .next (s.reqDoorbell t v)

/-- REQUEST_READ_RETRY: a failed read is counted and made again after 1 ms; after three failures the stream is closed. -/
def State.readRetry (s : State) (st : Nat) : State :=
  match lookup s.streams st with
  | none => s
  | some x =>
    if x.head = x.tail then s
    else
      let s1 := s.inc HUB_PCIE_ERR_CTO_CNT
      if 2 ≤ x.fails then s1.closeStream st
      else ({ s1 with streams := insert s1.streams st { x with fails := x.fails + 1 } }).readUnits x x.head
        (ringDist x.rqSize x.head x.tail)
def execRequestReadRetry (stream : Stream) (s : State) : Answer := .next (s.readRetry stream)

/-- The request a 64-byte SUBMIT header spells (R386). -/
def submitOf (b : List Byte) (order : Nat) : ServReq :=
  let n (lo k : Nat) : Nat := leNat ((b.drop lo).take k)
  let w (lo : Nat) : Word := BitVec.ofNat 32 (n lo 4)
  { tag := n 4 4, model := n 2 2 % 1024, plen := n 8 4, maxNew := n 12 4, seed := BitVec.ofNat 64 (n 16 8), temp := w 24,
    topP := w 28, minP := w 32, repPen := w 36, topK := n 40 2, repWin := n 42 2, stopTok := n 44 4,
    useIndex := bit (n 1 1) 0, publish := bit (n 1 1) 1, order := order, slot := none, looked := !bit (n 1 1) 0, history := [],
    count := 0, pos := 0, reused := false, blocks := [], isNew := true, sampling := false, records := [], atJ := none,
    drawn := none, cancelled := false, lateCancel := false, awaiting := [], replay := false, rerun := false }

/-- Whether every field but the lengths lies in the table of R386. -/
def submitOk (b : List Byte) (r : ServReq) : Bool :=
  let one : FV := ofF32 0x3F800000
  let zero : FV := ofF32 0
  let n (lo k : Nat) : Nat := leNat ((b.drop lo).take k)
  decide (n 0 1 = 1) && decide (n 1 1 < 4) && decide (n 2 2 < 1024) && decide (n 48 16 = 0)
    && isFin (ofF32 r.temp) && !ltV false (ofF32 r.temp) zero
    && ltV false zero (ofF32 r.topP) && !ltV false one (ofF32 r.topP)
    && !isNaN (ofF32 r.minP) && !ltV false (ofF32 r.minP) zero && ltV false (ofF32 r.minP) one
    && isFin (ofF32 r.repPen) && !ltV false (ofF32 r.repPen) one
    && decide (r.topK ≤ 1024) && decide (r.repWin ≤ 1024)

/-- The enabled bindings of a model, lowest first (R384). -/
def State.bindsOf (s : State) (m : Nat) : List Nat :=
  (List.range 32).filter fun b => s.flag (SRV_BIND0_EN b) && decide (s.get (SRV_BIND0_MODEL b) = m)

/-- The status a SUBMIT is refused with, if it is (R387, R453). DEDUCED, log 95. -/
def State.submitStatus (s : State) (t : Nat) (b : List Byte) (r : ServReq) : Option Nat :=
  if !submitOk b r || (s.bindsOf r.model).isEmpty || !s.flag (TEN_VF_CTRL_EN t) then some stRefusedFit
  else if r.plen = 0 ∨ 262144 < r.plen ∨ r.maxNew = 0 ∨ 262144 < r.plen + r.maxNew then some stRefusedShape
  else if s.level t < 65536 then some stBudgetExhausted
  else none

/-- The units of the entry at the ring's head: a SUBMIT's with its prompt where its length is legal, else one. DEDUCED, log 95. -/
def entryUnits (b : List Byte) : Nat :=
  let plen := leNat ((b.drop 8).take 4)
  if leNat (b.take 1) = 1 ∧ plen ≤ 262144 then 1 + (plen + 15) / 16 else 1

/-- REQUEST_ENTRY_PARSE: the whole entry at the head is parsed once the stream carries no request. DEDUCED, log 95. -/
def State.parseEntry (s : State) (st : Nat) (b : List Byte) : State :=
  match lookup s.streams st, lookup s.reqs st with
  | some x, none =>
    let n := entryUnits b
    if b.length < 64 * n ∨ b.length < 64 ∨ ringDist x.rqSize x.head x.tail < n then s
    else
      let head := (x.head + n) % x.rqSize
      let s1 := ({ s with streams := insert s.streams st { x with head := head, fails := 0 } }).setReqHead st x.tenant head
      if leNat (b.take 1) = 0 then s1
      else
        let r := submitOf b s1.nextId
        match s1.submitStatus x.tenant b r with
        | some code => s1.appendEntry st (r.statusEntry code true false)
        | none =>
          let prompt := (List.range r.plen).map fun i => leNat ((b.drop (64 + 4 * i)).take 4)
          { s1 with reqs := insert s1.reqs st { r with history := prompt }, nextId := s1.nextId + 1 }
  | _, _ => s
def execRequestEntryParse (stream : Stream) (bytes : List Byte) (s : State) : Answer := .next (s.parseEntry stream bytes)

/-! ### Admission (R384, R387) -/

/-- The requests that hold a slot of binding `b`: stream, slot, request. -/
def State.slotReqs (s : State) (b : Nat) : List (Nat × Nat × ServReq) :=
  s.reqs.filterMap fun e => match e.2.slot with
    | some (c, i) => if c = b then some (e.1, i, e.2) else none
    | none => none
def State.reqAt (s : State) (b i : Nat) : Option (Nat × ServReq) :=
  ((s.slotReqs b).find? fun e => decide (e.2.1 = i)).map fun e => (e.1, e.2.2)
def State.setReq (s : State) (st : Nat) (r : ServReq) : State := { s with reqs := insert s.reqs st r }

/-- The lowest free slot of a binding's home range. -/
def State.freeSlot (s : State) (b : Nat) : Option Nat :=
  let base := s.get (SRV_BIND1_HOME_BASE b)
  ((List.range (s.get (SRV_BIND1_HOME_CNT b))).map fun i => base + i).find? fun i => (s.reqAt b i).isNone

/-- Tokens written into the history of a home slot, from its `n`-th on (R400, R411). DESIGN CHOICE, log 105. -/
def State.putHistory (s : State) (b i n : Nat) (toks : List Nat) : State :=
  s.setObjBytes (s.get (SRV_BIND5_HIST_OBJ b)) (1048576 * (i - s.get (SRV_BIND1_HOME_BASE b)) + 4 * n)
    (toks.flatMap (leBytes 4))

/-- SLOT_ADMIT: the waiting request of a model that is of the highest QoS class and was parsed first takes the lowest free
home slot of the lowest binding that has one. -/
def State.admitOne (s : State) (m : Nat) : State :=
  let waits := s.reqs.filter fun e => e.2.slot.isNone && decide (e.2.model = m)
  let rank (e : Nat × ServReq) : Nat :=
    let q := match lookup s.streams e.1 with
      | some x => s.get (TEN_VF_CTRL_QOS x.tenant)
      | none => 0
    (7 - q) * 2 ^ 64 + e.2.order
  match leastBy rank waits, (s.bindsOf m).findSome? fun b => (s.freeSlot b).map fun i => (b, i) with
  | some (st, r), some (b, i) => (s.setReq st { r with slot := some (b, i) }).putHistory b i 0 r.history
  | _, _ => s
def execSlotAdmit (model : Fin 1024) (s : State) : Answer := .next (s.admitOne model)

/-! ### The prefix index (R401 to R404) -/

/-- The chain of R402 over the tokens of one block, from its `i`-th on. -/
def keyBlock (h : DWord) (toks : List Nat) (i : Nat) : DWord :=
  match toks with
  | [] => h
  | t :: rest => keyBlock (mix64 (h ^^^ BitVec.ofNat 64 t ^^^ BitVec.ofNat 64 (i * 2 ^ 40))) rest (i + 1)
def keyChain (h : DWord) (toks : List Nat) (m : Nat) : DWord :=
  match m with
  | 0 => h
  | m + 1 => keyChain (keyBlock h (toks.take 64) 0) (toks.drop 64) m
/-- The key of block `m` of a history. -/
def prefixKey (model scope : Nat) (toks : List Nat) (m : Nat) : DWord :=
  keyChain (mix64 (0x50524658#64 ^^^ BitVec.ofNat 64 (model * 2 ^ 32) ^^^ BitVec.ofNat 64 scope)) toks (m + 1)

def State.pfxScope (s : State) (b st : Nat) : Nat :=
  if s.flag (SRV_BIND0_PFX_SHARED b) then 0x1000
  else ((lookup s.streams st).map (·.tenant)).getD 0

/-- The tokens of one block. -/
def blockToks (toks : List Nat) (m : Nat) : List Nat := (toks.drop (64 * m)).take 64

/-- The tokens stored for index entry `e`. -/
def State.pfxToks (s : State) (e : Nat) : List Nat :=
  let bs := s.objBytes (s.get SRV_PFX_CTRL_PFX_OBJ) (256 * e) 256
  (List.range 64).map fun i => pval ((bs.drop (4 * i)).take 4)

/-- Entries of a set whose key, model and scope match. -/
def State.pfxMatches (s : State) (key : DWord) (model scope : Nat) : List (Nat × PfxEntry) :=
  let base := 16 * (key.toNat % 262144)
  s.pfx.filter fun e => decide (base ≤ e.1) && decide (e.1 < base + 16) && decide (e.2.key = key)
    && decide (e.2.model = model) && decide (e.2.scope = scope)

/-- Blocks of the prompt looked up from block `m` on, `n` more at most: each hit takes a reference (R403). -/
def State.lookBlocks (s : State) (b st : Nat) (r : ServReq) (m n : Nat) : State × ServReq :=
  match n with
  | 0 => (s, r)
  | n + 1 =>
    let scope := s.pfxScope b st
    let found := s.pfxMatches (prefixKey r.model scope r.history m) r.model scope
    match found.find? fun e => decide (s.pfxToks e.1 = blockToks r.history m) && s.bindHas b e.2.block with
    | some (i, e) =>
      let s1 := (({ s with pfx := insert s.pfx i { e with age := 0 } }).setBind b ((s.bind b).ref e.block)).inc
        SRV_PFX_HIT_COUNT
      s1.lookBlocks b st { r with blocks := r.blocks ++ [e.block], pos := 64 * (m + 1), reused := true } (m + 1) n
    | none =>
      let s1 := if found.any fun e => !decide (s.pfxToks e.1 = blockToks r.history m) then s.inc SRV_PFX_CNT_MISMATCH else s
      (s1.inc SRV_PFX_MISS_COUNT, r)

/-- The block numbers of a slot's row from entry `j` on, in the package's block table object (R392). DESIGN CHOICE, log 99. -/
def State.putRow (s : State) (b i j : Nat) (blocks : List Nat) : State :=
  if blocks = [] then s
  else s.setObjBytes (s.get (SRV_BIND4_BT_OBJ b)) (16384 * i + 4 * j) (blocks.flatMap (leBytes 4))

/-- PREFIX_LOOKUP: the prompt's blocks are looked up in order until the first miss; the hits' numbers go into the row. DESIGN CHOICE, log 100. -/
def State.prefixLook (s : State) (st : Nat) : State :=
  match lookup s.reqs st with
  | none => s
  | some r =>
    match r.slot with
    | none => s
    | some (b, i) =>
      if r.looked then s
      else
        let (s1, r1) := s.lookBlocks b st r 0 ((r.plen - 1) / 64)
        (s1.setReq st { r1 with looked := true }).putRow b i 0 r1.blocks
def execPrefixLookup (stream : Stream) (s : State) : Answer := .next (s.prefixLook stream)

/-- The binding whose range holds a block of a model. -/
def State.bindOfBlock (s : State) (model k : Nat) : Option Nat :=
  (List.range 32).find? fun b => decide (s.get (SRV_BIND0_MODEL b) = model) && s.bindHas b k

/-- References to a block of a model, and one less of them. -/
def State.blockRefs (s : State) (model k : Nat) : Nat :=
  match s.bindOfBlock model k with
  | some b => lookupD (s.bind b).refs k 0
  | none => 0
def State.unrefBlock (s : State) (model k : Nat) : State :=
  match s.bindOfBlock model k with
  | some b => s.setBind b ((s.bind b).unref k)
  | none => s

/-- PREFIX_INSERT: a completed block takes the lowest invalid entry of its set, or the oldest whose block nothing else
uses; else the insertion is skipped (R403, R404). -/
def State.prefixInsert (s : State) (b st : Nat) (r : ServReq) (m : Nat) : State :=
  let scope := s.pfxScope b st
  let key := prefixKey r.model scope r.history m
  let base := 16 * (key.toNat % 262144)
  let ways := (List.range 16).map fun w => base + w
  let old := ways.filterMap fun e => match lookup s.pfx e with
    | some v => if s.blockRefs v.model v.block = 1 then some (e, v) else none
    | none => none
  let place := match ways.find? fun e => (lookup s.pfx e).isNone with
    | some e => some e
    | none => (leastBy (fun (e : Nat × PfxEntry) => (15 - e.2.age) * 2 ^ 32 + e.1) old).map (·.1)
  match place, r.blocks[m]? with
  | some e, some k =>
    let s1 := match lookup s.pfx e with
      | some v => s.unrefBlock v.model v.block
      | none => s
    let v : PfxEntry := { key := key, model := r.model, scope := scope, block := k, age := 0 }
    let s2 := ({ s1 with pfx := insert s1.pfx e v }).setBind b ((s1.bind b).ref k)
    s2.setObjBytes (s2.get SRV_PFX_CTRL_PFX_OBJ) (256 * e) ((blockToks r.history m).flatMap (leBytes 4))
  | none, some _ => s.inc SRV_PFX_CNT_SKIP
  | _, none => s

/-- PREFIX_AGE_SWEEP: every valid entry is one older, to 15 at most. -/
def execPrefixAgeSweep (s : State) : Answer :=
  .next { s with pfx := s.pfx.map fun (e : Nat × PfxEntry) => (e.1, { e.2 with age := min 15 (e.2.age + 1) }) }

/-- PFX_OBJ_WRITE: the token store is named, and every entry is invalidated; their blocks lose the index's count. -/
def execPfxObjWrite (v : Word) (s : State) : Answer :=
  let s1 := s.pfx.foldl (fun s (e : Nat × PfxEntry) => s.unrefBlock e.2.model e.2.block) s
  .next ({ s1 with pfx := [] }.setReg SRV_PFX_CTRL v)

/-! ### Token ring heads, cancels, budgets (R388, R389, R408, R409, R411, R584) -/

/-- TOKEN_HEAD_DOORBELL: entries are returned up to HEAD, held to the write position, and held entries are written. DEDUCED, log 96. -/
def State.tokHead (s : State) (t : Nat) (v : DWord) : State :=
  let st := bitsOf v.toNat 0 14
  let head := bitsOf v.toNat 32 20
  match s.streamOf t st with
  | none => s.clampPage t 0x208
  | some x =>
    let out := x.wpos - x.rhead
    let d := ringDist x.tkSize x.rhead head
    let beyond := decide (out < d) || decide (x.tkSize ≤ head)
    let s1 := if beyond || decide (bitsOf v.toNat 14 18 ≠ 0) || decide (bitsOf v.toNat 52 12 ≠ 0) then s.clampPage t 0x208
      else s
    let y := { x with rhead := x.rhead + (if beyond then out else d) }
    ({ s1 with streams := insert s1.streams st y }).drainHeld st y.held
def execTokenHeadDoorbell (t : Tenant) (v : DWord) (s : State) : Answer := .next (s.tokHead t v)

/-- The entry that answers a cancel naming a tag neither waiting nor running. -/
def ReqStream.already (x : ReqStream) (tag : Nat) : TokEntry :=
  let seq := match x.ended with
    | some (g, q) => if g = tag then q else 0xFFFFFF
    | none => 0xFFFFFF
  { token := 0, seq := seq, fin := false, noTok := true, ack := true, replay := false, pfx := false, status := stDoneAlready,
    tag := tag }

/-- CANCEL, decided against the point the request has reached. DEDUCED, log 102. -/
def State.cancel (s : State) (t : Nat) (v : DWord) : State :=
  let st := bitsOf v.toNat 0 14
  let tag := bitsOf v.toNat 32 32
  match s.streamOf t st with
  | none => s.clampPage t 0x210
  | some x =>
    let s1 := if bitsOf v.toNat 14 18 ≠ 0 then s.clampPage t 0x210 else s
    match lookup s1.reqs st with
    | none => s1.appendEntry st (x.already tag)
    | some r =>
      if r.tag ≠ tag then s1.appendEntry st (x.already tag)
      else if r.slot.isNone then s1.endRequest st stCancelled true
      else if r.atJ.isNone then s1.setReq st { r with cancelled := true }
      else s1.setReq st { r with lateCancel := true }
def execCancel (t : Tenant) (v : DWord) (s : State) : Answer := .next (s.cancel t v)

/-- BUDGET_REFILL: RATE is added to every LEVEL, to CAP at most. -/
def State.refill (s : State) (t : Nat) : State :=
  let cap : Int := (s.get (SRV_BUD_CAP_V t) * 65536 : Nat)
  let v := s.level t + (s.get (SRV_BUD_RATE_V t) : Nat)
  s.setLevel t (if cap < v then cap else v)
def execBudgetRefill (s : State) : Answer := .next ((List.range 4096).foldl State.refill s)

/-- BUDGET_LEVEL_WRITE: the write of LEVEL_HI applies the pair, held within ±2^23 tokens. -/
def State.levelWrite (s : State) (t : Nat) (hi : Word) : State :=
  let lo := (lookupD s.levelLo t (s.reg (SRV_BUD_LEVEL_LO t))).toNat
  let v := signed 56 (lo + bitsOf hi.toNat 0 24 * 2 ^ 32)
  let s1 := { s with levelLo := erase s.levelLo t }.setLevel t v
  if clampLevel v ≠ v ∨ bitsOf hi.toNat 24 8 ≠ 0 then s1.clampHub (SRV_BUD_LEVEL_HI t).addr else s1
def execBudgetLevelWrite (t : Tenant) (hi : Word) (s : State) : Answer := .next (s.levelWrite t hi)

end Sys2Proof.Machine
end

