-- ==== Sys2Proof/Machine/Sampler.lean ====
section
/-! DEFINITION. Steps and feeds, the sampler, appends, mirroring and failover (R391 to R400, R405 to R407, R409). -/

namespace Sys2Proof.Machine

/-! ### The group of a binding (R383, R391) -/

def State.bindPart (s : State) (b : Nat) : Nat := s.get (SRV_BIND0_PART b)
def State.bindSlots (s : State) (b : Nat) : Nat := s.get (SRV_BIND1_SLOTS_M1 b) + 1
def State.bindShards (s : State) (b : Nat) : Nat := s.get (SRV_BIND2_SHARDS_M1 b) + 1

/-- The endpoints of the binding's group by rank, and this package's rank. -/
def State.bindPeers (s : State) (b : Nat) : List Nat × Nat :=
  match lookup s.jobs (s.bindPart b) with
  | some j => (j.peers, j.self)
  | none => ([], 0)
def State.bindRanks (s : State) (b : Nat) : Nat := max 1 (s.bindPeers b).1.length

/-! ### Step messages (R391, R395, R401, R408) -/

/-- Why a slot is fed nothing (R395). -/
inductive Hold where
  | none | ring | budget | mirror | block
  deriving DecidableEq, Repr

/-- What holds a request before its next step is composed, free blocks apart. DEDUCED, log 101. -/
def State.slotHold (s : State) (st : Nat) (r : ServReq) : Hold :=
  match lookup s.streams st with
  | some x =>
    if r.drawn.isSome && !r.awaiting.isEmpty then .mirror
    else if r.drawn.isSome && !(x.held.isEmpty && x.room) then .ring
    else if s.level x.tenant ≤ 0 then .budget
    else .none
  | none => .budget

/-- A held step is counted (R389, R401, R406). DEDUCED, log 101. -/
def State.countHold (s : State) (h : Hold) : State :=
  match h with
  | .ring => s.inc SRV_SAMP_CNT_TRING_HOLD
  | .mirror => s.inc SRV_SAMP_CNT_MIR_HOLD
  | .block => s.inc SRV_SAMP_CNT_KV_HOLD
  | .none => s
  | .budget => s

/-- Whether the step message may leave a request as it is: its slot is not sampled in this step, or is held. DEDUCED, log 101. -/
def State.settled (s : State) (st : Nat) (r : ServReq) : Bool :=
  !r.sampling || (r.drawn.isSome && decide (s.slotHold st r ≠ .none))

/-- The `n` lowest free blocks of a home's range, from block `k` on. -/
def freeBlocks (refs : SMap Nat) (k top n fuel : Nat) : List Nat :=
  match fuel with
  | 0 => []
  | fuel + 1 =>
    if n = 0 ∨ top ≤ k then []
    else if lookupD refs k 0 = 0 then k :: freeBlocks refs (k + 1) top (n - 1) fuel
    else freeBlocks refs (k + 1) top n fuel

/-- The tokens a request could be fed: all it has; after a failover all but the last, until only that is left (R407). -/
def ServReq.ready (r : ServReq) : Nat :=
  let len := r.history.length
  if r.rerun ∧ r.pos + 1 < len then len - 1 - r.pos else len - r.pos

/-- One slot's entry of the next step message, with the tokens left of PF_STEP (R391, R395, R401). -/
def State.feedSlot (s : State) (b st i : Nat) (r : ServReq) (left : Nat) : State × StepEntry :=
  let idle : StepEntry := { slot := i, pos := r.pos, count := 0, sample := false, isNew := false, toks := [], blocks := [] }
  let h := s.slotHold st r
  if h ≠ .none then (s.countHold h, idle)
  else
    let n := min (min (s.get (SRV_BIND2_PF_CHUNK b)) left) (if r.looked then r.ready else 0)
    if n = 0 then (s.setReq st { r with sampling := false }, idle)
    else
      let need := (r.pos + n + 63) / 64 - (r.pos + 63) / 64
      let base := s.get (SRV_BIND7_KV_BASE b)
      let top := base + s.get (SRV_BIND8_KV_CNT b)
      let refs := (s.bind b).refs
      let new := freeBlocks refs base top need (refs.length + need + 1)
      if new.length < need then (s.countHold .block, idle)
      else
        let last := decide (r.pos + n = r.history.length)
        let e : StepEntry := { slot := i, pos := r.pos, count := n, sample := last, isNew := r.isNew,
                               toks := (r.history.drop r.pos).take n, blocks := new }
        let r1 := { r with pos := r.pos + n, isNew := false, sampling := last, records := [], atJ := none, drawn := none,
                           blocks := r.blocks ++ new, rerun := r.rerun && !last }
        ((s.setBind b (new.foldl BindSt.ref (s.bind b))).setReq st r1, e)

/-- The entries of the next step message, slot by slot. -/
def State.feedSlots (s : State) (b : Nat) (slots : List (Nat × Nat × ServReq)) (left : Nat) : State × List StepEntry :=
  match slots with
  | [] => (s, [])
  | (st, i, r) :: rest =>
    let (s1, e) := s.feedSlot b st i r left
    let (s2, es) := s1.feedSlots b rest (left - e.count)
    (s2, e :: es)

/-- A step message's bytes: header, entries with their spans, tokens, block numbers as 32-bit words. -/
def entryBytes (es : List StepEntry) (at_ : Nat) : List Byte :=
  match es with
  | [] => []
  | e :: rest =>
    leBytes 8 (e.slot % 256 + e.pos % 2 ^ 24 * 2 ^ 8 + e.count % 256 * 2 ^ 32 + b2n e.sample * 2 ^ 40 + b2n e.isNew * 2 ^ 41
        + e.blocks.length % 8 * 2 ^ 42) ++ leBytes 8 (at_ % 65536) ++ entryBytes rest (at_ + e.toks.length)
/-- DESIGN CHOICE, log 97. -/
def messageBytes (step rank : Nat) (es : List StepEntry) : List Byte :=
  let span := es.flatMap (·.toks)
  leBytes 8 step ++ leBytes 2 rank ++ leBytes 2 es.length ++ leBytes 4 span.length ++ entryBytes es 0
    ++ span.flatMap (leBytes 4) ++ (es.flatMap (·.blocks)).flatMap (leBytes 4)

/-- Bytes sent to another package's hub, in messages of at most 256 granules (R391, R405, R420). -/
def State.sendHub (s : State) (b e off : Nat) (gs : List Granule) (fuel : Nat) : State :=
  match fuel with
  | 0 => s
  | fuel + 1 =>
    if gs = [] then s
    else
      let m := { s.newMsg e 1 with key := 0x828, vroute := s.get (SRV_BIND3_FEED_ROUTE b), offset := off,
                                   grans := gs.take 256 }
      (s.ravorSend (.engine (s.bindPart b)) m).sendHub b e (off + 16384) (gs.drop 256) fuel

/-- Granules of plain bytes. -/
def bytesToGrans (bs : List Byte) : List Granule := toGranules (clean bs) ((bs.length + 63) / 64)

/-- STEP_MESSAGE_SEND: the package has ended its step and every slot sampled in it has its token or is held (R391). DESIGN CHOICE, log 97. -/
def State.stepSend (s : State) (b : Nat) : State :=
  let x := s.bind b
  let slots := (List.range 256).filterMap fun i => (s.reqAt b i).map fun e => (e.1, i, e.2)
  if !s.flag (SRV_BIND0_EN b) || x.running || x.sent || !(slots.all fun e => s.settled e.1 e.2.2) then s
  else
    let (s1, es) := s.feedSlots b slots (s.get (SRV_BIND2_PF_STEP b))
    let (peers, self) := s1.bindPeers b
    let y := s1.bind b
    let s2 := s1.setBind b { y with sent := true, msgs := insert y.msgs self es }
    let gs := bytesToGrans (messageBytes (x.step + 1) self es)
    let dests := (peers.zipIdx.filter fun e => decide (e.2 ≠ self)).map (·.1)
      ++ (if s1.flag (SRV_BIND0_FAILOVER b) then [s1.get (SRV_BIND3_BUDDY b)] else [])
    dests.foldl (fun s e => s.sendHub b e 0 gs (gs.length / 256 + 1)) s2
def execStepMessageSend (b : Fin 32) (s : State) : Answer := .next (s.stepSend b)

/-- `n` free values (R405: the tokens that a reused prefix skips are in no step message). DESIGN CHOICE, log 100. -/
def State.freeToks (s : State) (n : Nat) : State × List Nat :=
  match n with
  | 0 => (s, [])
  | n + 1 =>
    let (v, s1) := s.fresh 32
    let (s2, rest) := s1.freeToks n
    (s2, v.toNat :: rest)

/-- A buddy keeps the token history of a home slot (R405). -/
def State.keepHistory (s : State) (b : Nat) (e : StepEntry) : State :=
  let old := lookupD (s.bind b).hist e.slot []
  let (s1, base) := if e.isNew then s.freeToks e.pos else (s, old)
  if e.count = 0 then s else s1.setBind b { s1.bind b with hist := insert (s1.bind b).hist e.slot (base ++ e.toks) }

/-- STEP_MESSAGE_RECEIVE: the message of a home for the next step is held; a standby binding keeps the histories. -/
def State.stepReceive (s : State) (b step rank : Nat) (es : List StepEntry) : State :=
  let x := s.bind b
  if s.flag (SRV_BIND0_STANDBY b) && !s.flag (SRV_BIND0_EN b) then es.foldl (fun s e => s.keepHistory b e) s
  else if s.flag (SRV_BIND0_EN b) && decide (step = x.step + 1) then s.setBind b { x with msgs := insert x.msgs rank es }
  else s
def execStepMessageReceive (b : Fin 32) (step : DWord) (rank : Nat) (entries : List StepEntry) (s : State) : Answer :=
  .next (s.stepReceive b step.toNat rank entries)

/-! ### The feed (R392) -/

/-- The entries of the messages by slot, each with the index of its first token in the feed's span. DESIGN CHOICE, log 98. -/
def spans (es : List StepEntry) (at_ : Nat) : List (Nat × StepEntry) :=
  match es with
  | [] => []
  | e :: rest => (at_, e) :: spans rest (at_ + e.toks.length)

/-- DESIGN CHOICE, log 97. -/
def slotEntry (es : List (Nat × StepEntry)) (i : Nat) : List Byte :=
  match es.find? fun e => decide (e.2.slot = i) with
  | some (n, e) => leBytes 8 (e.pos % 2 ^ 24 + e.count % 256 * 2 ^ 24 + n % 65536 * 2 ^ 32 + b2n e.sample * 2 ^ 48
      + b2n e.isNew * 2 ^ 49)
  | none => leBytes 8 0

/-- The feed of a step. -/
def feedBytes (step tick slots : Nat) (es : List StepEntry) : List Byte :=
  let all := spans es 0
  let table := (List.range slots).flatMap (slotEntry all)
  leBytes 8 step ++ leBytes 8 tick ++ leBytes 2 es.length ++ List.replicate 46 0 ++ table
    ++ List.replicate (roundUp table.length 64 - table.length) 0 ++ (es.flatMap (·.toks)).flatMap (leBytes 4)

/-- FEED_WRITE: new block numbers go into the package's block table, and the feed goes over FEED_ROUTE. DESIGN CHOICE, log 98. -/
def State.feedWrite (s : State) (b : Nat) : State :=
  let x := s.bind b
  let all := (List.range (s.bindRanks b)).map fun r => lookup x.msgs r
  let live := decide (s.get (TEN_PART_CTRL_STATE (s.bindPart b)) = psRunning)
  if x.running || !s.flag (SRV_BIND0_EN b) || !live || all.any (·.isNone) then s
  else
    let es := (all.filterMap id).flatten
    let s1 := es.foldl (fun s e => s.putRow b e.slot ((e.pos + 63) / 64) e.blocks) s
    let bytes := feedBytes (x.step + 1) s.tide.now.toNat (s.bindSlots b) es
    let s2 := s1.emit (.noc 0x828 (s.get (SRV_BIND3_FEED_ROUTE b)) 1 s.tide.now (0 :: (bytesToGrans bytes).flatMap granNats))
    s2.setBind b { s2.bind b with step := x.step + 1, running := true, sent := false, msgs := [], done := [], fed := es }
def execFeedWrite (b : Fin 32) (s : State) : Answer := .next (s.feedWrite b)

/-! ### Candidates and the end of a step (R393, R396, R402, R403, R405) -/

/-- The candidates of a record, and whether any byte carries poison (R393, R399). -/
def candsOf (shard : Nat) (gs : List Granule) : List Cand × Bool :=
  let bs := gs.flatMap (·.data)
  let one (i : Nat) : Cand :=
    { token := leNat ((bs.drop (8 * i)).take 4), logit := BitVec.ofNat 32 (leNat ((bs.drop (8 * i + 4)).take 4)), shard := shard }
  (((List.range 64).map one).filter fun c => decide (c.token ≠ 0xFFFFFFFF), gs.any fun g => g.wpois.any id)

/-- J of a slot: the last J's where both come in one SCLK, else a later one. -/
def State.jNumber (s : State) (same : Bool) : State × Nat :=
  let last := (s.reqs.filterMap fun e => e.2.atJ).foldl max 0
  if same then (s, last) else ({ s with nextId := s.nextId + 1 }, max (last + 1) s.nextId)

/-- CANDIDATE_RECORD: a record of a sampled home slot is taken; the last of its shards makes J, and ends a request that was
cancelled before. -/
def State.candidate (s : State) (b i shard : Nat) (gs : List Granule) (same : Bool) : State :=
  match s.reqAt b i with
  | none => s
  | some (st, r) =>
    if !r.sampling || r.atJ.isSome || decide (s.bindShards b ≤ shard) then s
    else
      let rs := insert r.records shard (candsOf shard (gs.take 8))
      if rs.length < s.bindShards b then s.setReq st { r with records := rs }
      else if r.cancelled then s.endRequest st stCancelled true
      else
        let (s1, j) := s.jNumber same
        s1.setReq st { r with records := rs, atJ := some j }
def execCandidateRecord (b : Fin 32) (slot : Fin 256) (shard : Fin 64) (grans : List Granule) (same : Bool)
    (s : State) : Answer := .next (s.candidate b slot shard grans same)

/-- The blocks whose 64th position an entry writes. -/
def completes (e : StepEntry) : List Nat :=
  (List.range ((e.pos + e.count) / 64 - e.pos / 64)).map fun i => e.pos / 64 + i

/-- The number of block `m` of a slot: the request's where this package is its home, else the block table's. -/
def State.blockNumber (s : State) (b i m : Nat) : Nat :=
  match (s.reqAt b i).bind fun e => e.2.blocks[m]? with
  | some k => k
  | none => pval (s.objBytes (s.get (SRV_BIND4_BT_OBJ b)) (16384 * i + 4 * m) 4) % 2 ^ 24

/-- BLOCK_MIRROR: the package's slice of a block goes to its buddy (R405). DESIGN CHOICE, log 77; DESIGN CHOICE, log 99; DESIGN CHOICE, log 104. -/
def State.blockMirror (s : State) (b k : Nat) : State :=
  let n := 16 * s.get (SRV_BIND9_BLK_BYTES b)
  let off := 64 * n * k
  s.sendHub b (s.get (SRV_BIND3_BUDDY b)) off (s.readObj (s.get (SRV_BIND6_KV_OBJ b)) off n) (n / 256 + 1)

/-- What one entry's end of step brings: its completed blocks are inserted and mirrored. -/
def State.endEntry (s : State) (b : Nat) (e : StepEntry) : State :=
  let fail := s.flag (SRV_BIND0_FAILOVER b)
  let s1 := if fail then (completes e).foldl (fun s m => s.blockMirror b (s.blockNumber b e.slot m)) s else s
  match s1.reqAt b e.slot with
  | none => s1
  | some (st, r) =>
    let wait := if fail then (completes e).flatMap fun m =>
        (List.range (s1.bindRanks b)).map fun k => 65536 * (r.blocks.getD m 0) + k
      else []
    let s2 := s1.setReq st { r with awaiting := r.awaiting ++ wait }
    if r.publish then (completes e).foldl (fun s m => s.prefixInsert b st r m) s2 else s2

/-- DONE_GRANULE: a shard of the package is done with the step; with the last local one the package has ended it. -/
def State.doneShard (s : State) (b shard step : Nat) (last : Bool) : State :=
  let x := s.bind b
  if !x.running || decide (step ≠ x.step) || x.done.contains shard then s
  else
    let s1 := s.setBind b { x with done := shard :: x.done, running := !last }
    if last then x.fed.foldl (fun s e => s.endEntry b e) s1 else s1
/-- DEDUCED, log 102. -/
def execDoneGranule (b : Fin 32) (shard : Fin 64) (step : DWord) (last : Bool) (s : State) : Answer :=
  .next (s.doneShard b shard step.toNat last)

/-! ### The sampler (R397 to R399) -/

/-- Whether candidate `a` goes before `c`: higher logit, then lower token. -/
def Cand.above (a c : Cand) : Bool :=
  ltV false (ofF32 c.logit) (ofF32 a.logit)
    || (!ltV false (ofF32 a.logit) (ofF32 c.logit) && decide (a.token < c.token))

/-- One candidate per token: the higher logit, then the lower shard. DEDUCED, log 103. -/
def mergeCands (cs : List Cand) : List Cand :=
  cs.foldl (fun out c => match out.find? fun d => decide (d.token = c.token) with
    | none => out ++ [c]
    | some d =>
      let better := ltV false (ofF32 d.logit) (ofF32 c.logit)
        || (!ltV false (ofF32 c.logit) (ofF32 d.logit) && decide (c.shard < d.shard))
      if better then out.map fun e => if e.token = c.token then c else e else out) []

def insertCand (c : Cand) (cs : List Cand) : List Cand :=
  match cs with
  | [] => [c]
  | d :: rest => if c.above d then c :: d :: rest else d :: insertCand c rest
/-- DEDUCED, log 103. -/
def sortCands (cs : List Cand) : List Cand := cs.foldr insertCand []

/-- The running sums of a list. -/
def runSums (acc : Word) (ws : List Word) : List Word :=
  match ws with
  | [] => []
  | w :: rest => fadd acc w :: runSums (fadd acc w) rest

/-- The shortest run of candidates whose running sum reaches `limit`. -/
def takeUntil (limit : Word) (xs : List (Cand × Word)) (sums : List Word) : List (Cand × Word) :=
  match xs, sums with
  | x :: rest, t :: ts => if ltV false (ofF32 t) (ofF32 limit) then x :: takeUntil limit rest ts else [x]
  | xs, _ => xs

/-- The penalty on a token among the last REP_WIN of the history. -/
def ServReq.penalize (r : ServReq) (c : Cand) : Cand :=
  if (r.history.drop (r.history.length - r.repWin)).contains c.token then
    { c with logit := if ltV false (ofF32 0) (ofF32 c.logit) then fdiv c.logit r.repPen else fmul c.logit r.repPen }
  else c

/-- The token drawn from the sorted candidates, of which there is at least one (R397). -/
def ServReq.pick (r : ServReq) (cs : List Cand) : Nat :=
  let c0 := (cs.head?.map fun c => (c.token, c.logit)).getD (0, 0)
  if isZero (ofF32 r.temp) then c0.1
  else
    let kept := if r.topK = 0 then cs else cs.take r.topK
    let w := fdiv 0x3F800000 r.temp
    let ps := kept.map fun c => (c, expF (fmul (fsub c.logit c0.2) w))
    let ps1 := if isZero (ofF32 r.minP) then ps else ps.filter fun e => !ltV false (ofF32 e.2) (ofF32 r.minP)
    let sums := runSums 0 (ps1.map (·.2))
    let ps2 := if ltV false (ofF32 r.topP) (ofF32 0x3F800000) then takeUntil (fmul r.topP (sumF (ps1.map (·.2)))) ps1 sums
      else ps1
    let total := sumF (ps2.map (·.2))
    let d := drawAt r.seed (BitVec.ofNat 128 (r.count + 0x5A534D50 * 2 ^ 64))
    let t := fmul (toF32 (.fin false (d / 256) (-24))) total
    match (List.zip ps2 (runSums 0 (ps2.map (·.2)))).find? fun e => ltV false (ofF32 t) (ofF32 e.2) with
    | some e => e.1.1.token
    | none => (ps2.getLast?.map fun e => e.1.token).getD c0.1

/-- What a sampler step gives: a token, or the end of the request in POISONED with or without a NaN count. DEDUCED, log 103. -/
def ServReq.sample (r : ServReq) : Option Nat × Bool :=
  let all := r.records.flatMap fun e => e.2.1
  if r.records.any fun e => e.2.2 then (none, false)
  else
    let good := mergeCands (all.filter fun c => !isNaN (ofF32 c.logit))
    if good = [] then (none, !all.isEmpty)
    else (some (r.pick (sortCands (good.map r.penalize))), false)

/-- Whether a drawn token is the request's last (R390). -/
def ServReq.final (r : ServReq) (tok : Nat) : Bool :=
  decide (r.maxNew ≤ r.count + 1) || (decide (tok = r.stopTok) && decide (r.stopTok ≠ 0xFFFFFFFF))
    || decide (262144 ≤ r.history.length + 1)

/-- The slots of unit `u` that wait for service: stream, place in service order. -/
def State.serviceLine (s : State) (u : Nat) : List (Nat × Nat) :=
  s.reqs.filterMap fun e => match e.2.slot, e.2.atJ with
    | some (b, i), some j =>
      if e.2.drawn.isNone ∧ (i - s.get (SRV_BIND1_HOME_BASE b)) % 4 = u then some (e.1, 256 * j + i) else none
    | _, _ => none

/-- SAMPLER_SERVICE: a unit draws the token of the slot that is first in J order. -/
def State.service (s : State) (u : Nat) : State :=
  match leastBy (fun (e : Nat × Nat) => e.2) (s.serviceLine u) with
  | none => s
  | some (st, _) =>
    match lookup s.reqs st with
    | none => s
    | some r =>
      match r.sample with
      | (some tok, _) => s.setReq st { r with drawn := some (tok, r.final tok) }
      | (none, nan) => (if nan then s.inc SRV_SAMP_CNT_NAN_END else s).endRequest st stPoisoned false
def execSamplerService (u : Fin 4) (s : State) : Answer := .next (s.service u)

/-! ### Appends (R388 to R390, R400, R406, R409) -/

/-- TOKEN_APPEND: a drawn token that nothing holds is written, charged and added to the history; the request ends where
the token is final or a cancel came late. -/
def State.append (s : State) (st : Nat) : State :=
  match lookup s.reqs st, lookup s.streams st with
  | some r, some x =>
    match r.drawn, r.slot with
    | some (tok, fin), some (b, i) =>
      if !r.awaiting.isEmpty || !(x.held.isEmpty && x.room) then s
      else
        let e : TokEntry := { token := tok, seq := r.count, fin := fin, noTok := false, ack := false, replay := r.replay,
                              pfx := r.reused && decide (r.count = 0), status := stDone, tag := r.tag }
        let r1 := { r with count := r.count + 1, history := r.history ++ [tok], drawn := none, atJ := none, records := [],
                           sampling := false }
        let s1 := ((s.writeEntry st x e).charge x.tenant).putHistory b i r.history.length [tok]
        let s2 := s1.setReq st r1
        if fin then
          let s3 := s2.dropRequest st
          if r.lateCancel then s3.appendEntry st (r1.statusEntry stDoneAlready false true) else s3
        else if r.lateCancel then s2.endRequest st stCancelled true
        else s2
    | _, _ => s
  | _, _ => s
def execTokenAppend (stream : Stream) (s : State) : Answer := .next (s.append stream)

/-- The acknowledgement of a block reaches a request of binding `b`. -/
def ServReq.acked (r : ServReq) (b block rank : Nat) : ServReq :=
  match r.slot with
  | some (c, _) => if c = b then { r with awaiting := r.awaiting.filter fun w => decide (w ≠ 65536 * block + rank) } else r
  | none => r

/-- MIRROR_ACK: a buddy holds a block. DESIGN CHOICE, log 104. -/
def execMirrorAck (b : Fin 32) (block rank : Nat) (s : State) : Answer :=
  .next { s with reqs := s.reqs.map fun (e : Nat × ServReq) => (e.1, e.2.acked b block rank) }

/-! ### Failover (R407) -/

/-- The last mirrored block boundary of a request: complete blocks that no buddy is still to acknowledge. -/
def ServReq.boundary (r : ServReq) : Nat :=
  let full := r.pos / 64
  let open_ := (List.range full).find? fun m => r.awaiting.any fun w => decide (w / 65536 = r.blocks.getD m 0)
  64 * open_.getD full

/-- A request fed again from the last mirrored boundary. -/
def ServReq.replayed (r : ServReq) : ServReq :=
  { r with pos := min r.boundary (r.history.length - 1), rerun := true, sampling := false, records := [], atJ := none,
           drawn := none, awaiting := [] }

/-- A shadow stream takes over a request of the lost home, with the history the step messages brought. DESIGN CHOICE, log 105. -/
def State.takeShadow (s : State) (b : Nat) (q : ShadowReq) : State :=
  match lookup s.streams q.stream, lookup s.reqs q.stream, lookup (s.bind b).hist q.slot with
  | some x, none, some toks =>
    if x.shadow then
      let r := submitOf q.hdr s.nextId
      let n := (toks.length + 63) / 64
      let bs := (List.range n).map fun m => s.blockNumber b q.slot m
      let s1 := s.setBind b (bs.foldl BindSt.ref (s.bind b))
      let r1 := { r with slot := some (b, q.slot.val), looked := true, history := toks, count := q.count, blocks := bs,
                         isNew := false, pos := toks.length, replay := true }
      let s2 := s1.setReq q.stream r1.replayed
      { s2 with nextId := s2.nextId + 1 }
    else s
  | _, _, _ => s

/-- The registered model is loaded again with the arguments of the partition's last LOAD. DESIGN CHOICE, log 105. -/
def State.reload (s : State) (b : Nat) : State :=
  let p := s.bindPart b
  match lookup s.lastLoad p with
  | some r => s.loadCmd { r with part := p, model := some (s.get (SRV_BIND0_MODEL b)) }
  | none => s

/-- SERVING_FAILOVER: a package of the group of a failover binding is lost: the job ends with LINK_LOST, a standby binding
is enabled, the model is loaded again, and the requests are fed again from their last mirrored boundary. -/
def State.serveFailover (s : State) (b lost : Nat) (shadows : List ShadowReq) : State :=
  let standby := s.flag (SRV_BIND0_STANDBY b) && !s.flag (SRV_BIND0_EN b)
  let member := s.flag (SRV_BIND0_EN b) && (s.bindPeers b).1.contains lost
  if !s.flag (SRV_BIND0_FAILOVER b) || !(standby || member) then s
  else
    let p := s.bindPart b
    let s1 := if (lookup s.jobs p).isSome then s.faultEnd p stLinkLost 0 s.tide.now else s
    let s2 := if standby then s1.setFlag (SRV_BIND0_EN b) true else s1
    let x := s2.bind b
    let s3 := s2.setBind b { x with running := false, sent := false, msgs := [], done := [], fed := [] }
    let s4 := (s3.slotReqs b).foldl (fun s e => s.setReq e.1 e.2.2.replayed) s3
    let s5 := shadows.foldl (fun s q => s.takeShadow b q) s4
    s5.reload b
/-- DESIGN CHOICE, log 105. -/
def execServingFailover (b : Fin 32) (lost : Endpoint) (shadows : List ShadowReq) (s : State) : Answer :=
  .next (s.serveFailover b lost shadows)

end Sys2Proof.Machine
end

