-- ==== Sys2Proof/Machine/Anneal.lean ====
section
/-! DEFINITION. The anneal engine (R535, R536, R550 to R553), the Exkalet pair and its restarts (R541 to R544), sensors,
THERMTRIP_L and power (R545 to R549), the copying of the event log (R557). -/

namespace Sys2Proof.Machine

def State.setExk (s : State) (x : Exkalet) : State := { s with exk := x }

/-! ### The anneal engine -/

/-- RUNNING of an island follows the channels (R539). -/
def State.showRunning (s : State) (i : Nat) : State :=
  (s.setFlag (ISL_ANL_STATUS_RUNNING i) (s.exk.channels.any fun a => match a with
    | some a => decide (a.island = i)
    | none => false)).refreshAnneal

def State.setChannel (s : State) (ch : Nat) (a : Option Anneal) : State :=
  s.setExk { s.exk with channels := setAt s.exk.channels ch a }
def State.channel (s : State) (ch : Nat) : Option Anneal := s.exk.channels.getD ch none

/-- The guarded offset of a step code: where a search begins (R551). -/
def State.guarded (s : State) (i code : Nat) : Int := s.recVoff i code + (s.get (ISL_ANL_CTRL_GUARD_MV i) : Int)

/-- REANNEAL_START: the oldest queued re-anneal takes the lowest free channel while the firmware runs. DEDUCED, log 128. -/
def State.annealStart (s : State) : State :=
  match s.exk.annealQ, (List.range 4).find? fun ch => (s.channel ch).isNone with
  | a :: rest, some ch =>
    if s.exk.fwRunning then
      let s1 := s.setExk { s.exk with annealQ := rest }
      if (s1.isl a.island).railUp then
        (s1.setChannel ch (some (newAnneal a.island a.code a.cls (s1.guarded a.island a.code)
          (s1.recVoff a.island a.code)))).showRunning a.island
      else s1.refreshAnneal
    else s
  | _, _ => s
def execReannealStart (s : State) : Answer := .next s.annealStart

/-- The offset an ended search leaves: the passing offset with the margin, not below -60 (R551). -/
def State.withMargin (s : State) (p : Int) : Int := max (-60) (p + (s.get MGT_ANL_CFG_MARGIN_MV : Int))

/-- A canary run at the offset of a search has ended: the search moves on or ends (R551). -/
def State.searchStep (s : State) (a : Anneal) (err : Bool) : Anneal :=
  match a.upward, err with
  | none, true => { a with upward := some true, v := a.v + 5 }
  | none, false =>
    if a.v - 5 < -60 then { a with upward := some false, final := some (s.withMargin a.v) }
    else { a with upward := some false, v := a.v - 5 }
  | some true, true => { a with v := a.v + 5 }
  | some true, false => { a with final := some (s.withMargin a.v) }
  | some false, false =>
    if a.v - 5 < -60 then { a with final := some (s.withMargin a.v) } else { a with v := a.v - 5 }
  | some false, true => { a with final := some (s.withMargin (a.v + 5)) }

/-- A trigger met the running re-anneal: it starts again at the higher class (R536). -/
def State.annealAgain (s : State) (ch : Nat) (a : Anneal) (cls : Nat) : State :=
  let s1 := s.setIsl a.island { s.isl a.island with restartCls := none }
  s1.setChannel ch (some (newAnneal a.island a.code cls (s1.guarded a.island a.code) (s1.recVoff a.island a.code)))

/-- CANARY_RUN: a run of 40 µs on a channel that still searches. -/
def State.canary (s : State) (ch : Nat) (err : Bool) : State :=
  match s.channel ch with
  | none => s
  | some a =>
    if a.final.isSome || decide (60 < a.v) then s
    else match (s.isl a.island).restartCls with
      | some c => s.annealAgain ch a c
      | none => s.setChannel ch (some (s.searchStep a err))
def execCanaryRun (ch : Fin 4) (err : Bool) (s : State) : Answer := .next (s.canary ch err)

/-- The payload of a REANNEAL or ANNEAL_FAIL record (R558). -/
def annealPay (code : Nat) (old new : Int) (cls temp : Nat) : List Byte :=
  pay 1 code ++ pay 1 (unsigned 8 old) ++ pay 1 (unsigned 8 new) ++ pay 1 cls ++ pay 1 temp

/-- A re-anneal fails: VOFF stays at the guarded value, FAIL sets and message 2 is posted (R536, R551). DEDUCED, log 128. -/
def State.annealFail (s : State) (ch : Nat) (a : Anneal) : State :=
  let hot := s.get (ISL_GOV_STATUS_HOT_C a.island)
  let s1 := ((s.setChannel ch none).setFlag (ISL_ANL_STATUS_FAIL a.island) true).showRunning a.island
  (s1.logEvent 0x000E 2 a.island none none 0 (annealPay a.code a.oldVoff (s.guarded a.island a.code) a.cls hot)).postMessage 2

/-- A re-anneal writes its record, applies it and clears the guard; the record of the code in force is checked (R535,
R551). -/
def State.annealPass (s : State) (ch : Nat) (a : Anneal) (new : Int) : State :=
  let i := a.island
  let hot := s.get (ISL_GOV_STATUS_HOT_C i)
  let s1 := ((s.setChannel ch none).writeRec i a.code new a.cls hot).setFlag (ISL_ANL_STATUS_GUARD i) false
  let s2 := ((s1.inc (ISL_ANL_STATUS_REANNEAL_CNT i)).showRunning i).logEvent 0x000D 0 i none none 0
    (annealPay a.code a.oldVoff new a.cls hot)
  s2.annealTrigger i (hot : Int)

/-- REANNEAL_COMPLETE: a search that ended is verified over 200 µs and writes its record, or fails. -/
def State.annealEnd (s : State) (ch : Nat) (err : Bool) : State :=
  match s.channel ch with
  | none => s
  | some a =>
    match (s.isl a.island).restartCls, a.final with
    | some c, _ => s.annealAgain ch a c
    | none, some new => if err || decide (60 < new) then s.annealFail ch a else s.annealPass ch a new
    | none, none => if 60 < a.v then s.annealFail ch a else s
def execReannealComplete (ch : Fin 4) (err : Bool) (s : State) : Answer := .next (s.annealEnd ch err)

/-- Re-anneals of every step code of an island at its load class, with the guard applied; none where one is queued or
running (R553). -/
def State.annealAll (s : State) (i : Nat) : State :=
  if (s.annealOf i).isSome || !(s.isl i).railUp then s
  else
    let cls := s.get (ISL_ANL_STATUS_LOAD_CLASS i)
    let s1 := s.guard i (s.get (ISL_GOV_STATUS_STEP i))
    let new := (List.range 5).map fun n => newAnneal i n cls (s1.guarded i n) (s1.recVoff i n)
    (s1.setExk { s1.exk with annealQ := s1.exk.annealQ ++ new }).refreshAnneal

/-! ### The pair (R541 to R544, R562) -/

/-- The pair stops: READY reads 0, an update session is gone, and the boot ROM runs unless the pair is HELD. DEDUCED, log 130. -/
def State.pairDown (s : State) (held : Bool) : State :=
  let s1 := s.setExk { s.exk with fwRunning := false, restarting := !held, update := .idle, updateBuf := [], verified := false }
  s1.setFlag MGT_STATUS_READY false

/-- A trial slot whose trial fails: the other slot is preferred again (R562). -/
def State.trialFail (s : State) : State :=
  let n := s.get MGT_STATUS_SLOT
  match s.exk.slots[n]? with
  | some f =>
    if f.trial then
      let slots := setAt s.exk.slots n { f with trial := false, failed := true, active := false }
      let s1 := (s.setExk { s.exk with slots := slots, preferred := 1 - n }).exkShow
      (s1.logEvent 0x0011 1 25 none none 0 (pay 1 5 ++ pay 1 n ++ pay 4 f.secVersion)).postMessage 5
    else s
  | none => s

/-- A restart under R541 or R542: the crash log, the count of restarts in 600 s, and before READY a failed start. DEDUCED, log 130. -/
def State.pairFault (s : State) (cause : Nat) (count : RF) : State :=
  if !s.exk.powered || s.exk.restarting || s.flag MGT_STATUS_HELD || !(s.exk.fwRunning || decide (s.phase = phExk)) then s
  else
    let s1 := ((s.crashSnapshot cause).logEvent 0x0010 3 25 none none 0 (pay 1 cause)).inc count
    let now := s1.exk.uptimeUs
    let rs := now :: s1.exk.restarts.filter fun t => decide (now ≤ t + 600000000)
    let held := decide (3 ≤ rs.length)
    let s2 := ((s1.setExk { s1.exk with restarts := rs }).trialFail).pairDown held
    let s3 := if held then (s2.setFlag MGT_STATUS_HELD true).setPads { s2.pads with faultL := false } else s2
    if s3.starting then s3.failStart 4 else s3
def execLockstepMismatch (s : State) : Answer := .next (s.pairFault 2 MGT_STATUS_LOCKSTEP_CNT)
def execExkWatchdogExpire (s : State) : Answer := .next (s.pairFault 3 MGT_STATUS_WDOG_CNT)

/-- PAIR_RESTART_COMPLETE: the boot ROM has verified a slot and the firmware runs; message 6 tells of a crash log, and a
start that waits for the firmware enables the hub rail. -/
def State.pairUp (s : State) : State :=
  if !s.exk.restarting then s
  else match s.bootSlot with
    | none => s
    | some n =>
      let s1 := s.firmwareUp n
      let s2 := if s1.exk.crash.valid then s1.postMessage 6 else s1
      if s2.boot.pairPending then
        let s3 := s2.setBoot { s2.boot with pairPending := false }
        if s3.phase = phHub then s3.hubEnable else s3
      else s2
def execPairRestartComplete (s : State) : Answer := .next s.pairUp

/-! ### Sensors and power (R545 to R549) -/

/-- THERMTRIP_ASSERT: THERMTRIP_L, the crash log with cause 5, and every VIN12-fed regulator off (R546, R554, R597). DEDUCED, log 129. -/
def State.thermtrip (s : State) : State :=
  if !s.pads.thermtripL then s
  else
    let s1 := (s.crashSnapshot 5).railsOff.toPhase phOff
    { s1 with pads := { s1.pads with thermtripL := false },
              boot := { s1.boot with waitPower := false, waitCool := false, pairPending := false } }

/-- MGT_TEMP_n: the hottest sensor of each die and the towers (R569). -/
def State.showTemps (s : State) (dies : List (List (BitVec 8))) (towers : List (BitVec 8)) : State :=
  let s1 := (dies.take 25).zipIdx.foldl (fun s e => s.put (MGT_TEMP_TEMP_C e.2) (unsigned 8 (hottest e.1).1)) s
  (towers.take 12).zipIdx.foldl (fun s e => s.put (MGT_TEMP_TEMP_C (25 + e.2)) e.1.toNat) s1

/-- The sensors at 125 °C or more, as 256 × die + sensor. -/
def hotSensors (dies : List (List (BitVec 8))) : List Nat :=
  dies.zipIdx.flatMap fun d => (d.1.zipIdx.filter fun t => decide (125 ≤ t.1.toInt)).map fun t => 256 * d.2 + t.2

/-- SENSOR_SAMPLE: one microsecond's sample; a sensor at 125 °C or more for the second time running, or a tower's thermal
trip, asserts THERMTRIP_L. DESIGN CHOICE, log 127; DEDUCED, log 129. -/
def State.sample (s : State) (dies : List (List (BitVec 8))) (towers : List (BitVec 8)) (rails : List Nat) (trip : Bool) :
    State :=
  if !s.exk.powered then s
  else
    let hot := hotSensors dies
    let again := hot.any fun k => s.exk.hotSeen.contains k
    let s1 := s.setExk { s.exk with uptimeUs := s.exk.uptimeUs + 1, hotSeen := hot, temps := dies, towers := towers,
                                    rails := rails }
    let s2 := if s1.exk.fwRunning then s1.showTemps dies towers else s1
    if again || trip then s2.thermtrip else s2
/-- DESIGN CHOICE, log 4. -/
def execSensorSample (dies : List (List (BitVec 8))) (towers : List (BitVec 8)) (rails : List Nat) (trip : Bool)
    (s : State) : Answer := .next (s.sample dies towers rails trip)

/-- The warnings of a power report (R549). -/
def State.powerWarn (s : State) (pkg : Nat) : State :=
  let warn := s.get MGT_PWR_CTRL_WARN_W
  let s1 :=
    if warn < pkg then
      if s.exk.powerWarned then s
      else ((s.setExk { s.exk with powerWarned := true }).logEvent 0x0015 1 25 none none 0 (pay 2 pkg)).postMessage 3
    else if pkg + 400 ≤ warn then s.setExk { s.exk with powerWarned := false }
    else s
  if 15200 < pkg then (s1.inc MGT_PWR_CTRL_OVER_CNT).logEvent 0x0015 2 25 none none 0 (pay 2 pkg) else s1

/-- POWER_REPORT: the mean powers of a millisecond. DEDUCED, log 129. -/
def State.powerReport (s : State) (blocks : List Nat) (standby : Nat) : State :=
  if !s.exk.powered then s
  else
    let s1 := (blocks.take 25).zipIdx.foldl (fun s e => s.put (MGT_PWR_BLK_POWER e.2) (min 65535 e.1)) s
    let pkg := min 65535 ((blocks.take 25).foldl (· + ·) standby)
    let s2 := (s1.put MGT_PWR_PKG_POWER pkg).put MGT_PWR_PEAK_PEAK (max pkg (s1.get MGT_PWR_PEAK_PEAK))
    s2.powerWarn pkg
/-- DESIGN CHOICE, log 4. -/
def execPowerReport (blocks : List Nat) (standby : Nat) (s : State) : Answer := .next (s.powerReport blocks standby)

/-- PEAK_CLR. -/
def execPeakClr (s : State) : Answer := .next (s.put MGT_PWR_PEAK_PEAK 0)

/-! ### The far-tier event log (R557) -/

/-- Whether staged records can be copied. -/
def State.farLogOk (s : State) : Bool :=
  s.exk.fwRunning && !s.minimal && s.flag (HBR_FTL_STATUS_MOUNTED 0) && !(s.harbor 0).fenced

/-- EVENT_LOG_COPY: the firmware copies the oldest staged records; the region holds 1,048,576 of them. -/
def execEventLogCopy (n : Nat) (s : State) : Answer :=
  .next (if s.farLogOk then
    let far := s.exk.farLog ++ s.exk.staged.take n
    let s1 := s.setExk { s.exk with farLog := far.drop (far.length - 1048576), staged := s.exk.staged.drop n }
    (s1.setFlag MGT_LOG_STATUS_FAR_OK true).refreshLog
  else s.setFlag MGT_LOG_STATUS_FAR_OK false)

end Sys2Proof.Machine
end

