-- ==== Sys2Proof/Machine/Mailbox.lean ====
section
/-! DEFINITION. The mailbox, keys, firmware update and the out-of-band interface (R555, R556, R560 to R567). -/

namespace Sys2Proof.Machine

/-! ### Crash log and event records as bytes (R555, R557) -/

/-- A 64-byte event record. -/
def EvRec.bytes (r : EvRec) : List Byte :=
  let part := match r.part with
    | some p => p + 0x8000
    | none => 0
  let core := match r.core with
    | some c => c + 0x8000
    | none => 0
  let body := leBytes 8 r.tick.toNat ++ leBytes 4 r.seq.toNat ++ leBytes 2 r.kind ++ leBytes 1 r.sev ++ leBytes 1 r.source
    ++ leBytes 2 part ++ leBytes 2 core ++ leBytes 1 r.status ++ leBytes 3 0
    ++ (r.payload ++ List.replicate 32 0).take 32 ++ leBytes 4 r.cold
  body ++ leBytes 4 (crc32c body).toNat

/-- The 256-byte header of the crash log. -/
def CrashLog.header (c : CrashLog) : List Byte :=
  leBytes 4 0x48535243 ++ leBytes 1 (b2n c.valid) ++ leBytes 1 c.first ++ leBytes 2 c.count ++ leBytes 8 c.firstTide.toNat
    ++ leBytes 4 c.coldStarts ++ leBytes 1 c.phase ++ leBytes 1 c.slot ++ leBytes 1 c.latest ++ leBytes 1 0
    ++ leBytes 8 c.latestTide.toNat ++ List.replicate 224 0

/-- 256 bytes of the crash log: the header, the event records, and what the spec gives no layout for. DESIGN CHOICE, log 27. -/
def CrashLog.page (c : CrashLog) (off : Nat) : List Byte :=
  if off = 0 then c.header
  else if 0x18000 ≤ off ∧ off < 0x28000 then
    let k := (off - 0x18000) / 64
    (List.range 4).flatMap fun i => match c.events[k + i]? with
      | some r => r.bytes
      | none => List.replicate 64 0
  else (List.range 256).map fun i => Config.crashCpuByte c.firstTide.toNat (off + i)

/-! ### The mailbox (R564) -/

def State.mbxArg (s : State) (n : Nat) : Nat := s.get (MGT_MBX_ARG_ARG n)
def State.mbxData (s : State) : List Byte := (List.range 64).flatMap fun n => leBytes 4 (s.get (MGT_MBX_DATA_DATA n))
def State.setMbxData (s : State) (bs : List Byte) : State :=
  (List.range 64).foldl (fun s n => s.put (MGT_MBX_DATA_DATA n) (leNat ((bs.drop (4 * n)).take 4))) s

/-- The codes that minimal mode accepts. -/
def mbxMinimal (op : Nat) : Bool := decide (op ≤ 6) || decide (op = 9)

/-- A mailbox command: to no operation while the firmware is not running, refused in minimal mode, else its effect and
its status (R541, R564). DEDUCED, log 134. -/
def State.mailbox (s : State) (op : Nat) (run : State → State × Nat) : State :=
  if !s.exk.fwRunning then s.clampMgt MGT_MBX_CMD
  else if s.minimal && !mbxMinimal op then s.put MGT_MBX_STATUS_CODE stRefusedFit
  else
    let (s1, code) := run s
    s1.put MGT_MBX_STATUS_CODE code

def State.mbxNop (s : State) : State × Nat := (s, stDone)

/-- READ_EVT: four records from a sequence number, or from the oldest held. DEDUCED, log 132. -/
def State.readEvents (s : State) (from_ : Word) : State × Nat :=
  let held := s.exk.farLog ++ s.exk.staged
  let start := match held.findIdx? fun r => decide (r.seq = from_) with
    | some i => some i
    | none => match held.head? with
      | some r => if (r.seq - from_).toNat < 2 ^ 31 then some 0 else none
      | none => none
  match start with
  | none => (s, stRefusedFit)
  | some i =>
    let rs := (held.drop i).take 4
    let first := match rs.head? with
      | some r => r.seq.toNat
      | none => 0
    ((s.setMbxData (rs.flatMap EvRec.bytes)).put (MGT_MBX_ARG_ARG 0) first, stDone)

/-- READ_CRASH: 256 bytes at a multiple of 256 within the 256 KiB. DEDUCED, log 132. -/
def State.readCrash (s : State) (off : Nat) : State × Nat :=
  if off % 256 = 0 ∧ off < 262144 then (s.setMbxData (s.exk.crash.page off), stDone) else (s, stRefusedFit)

def State.clearCrash (s : State) : State × Nat :=
  (s.setExk { s.exk with crash := { s.exk.crash with valid := false, count := 0 } }, stDone)

/-- The fields the owner signs, and the package serial number (R563). DESIGN CHOICE, log 91. -/
def keySigned (k : KeyCmd) (install : Bool) (serial : DWord) : List Byte :=
  leBytes 1 k.index ++ (if install then leBytes 96 k.key.toNat ++ leBytes 4 k.minSec.toNat else [])
    ++ leBytes 8 k.seq.toNat ++ leBytes 96 k.owner.toNat ++ leBytes 8 serial.toNat

/-- KEY_INSTALL and KEY_REVOKE: the owner's digest, a signature that verifies, and a KEY_SEQ above the record's (R563). DESIGN CHOICE, log 131. -/
def State.keyCommand (s : State) (k : KeyCmd) (install : Bool) : State × Nat :=
  let digest := Config.sha384 (keySigned k install s.fuses.serial)
  if 8 ≤ k.index then (s, stRefusedFit)
  else if s.exk.ownerDigest ≠ some (Config.sha384 (leBytes 96 k.owner.toNat)) ∨ k.seq.toNat ≤ s.exk.keySeq
      ∨ Config.ecdsaVerify k.owner digest k.r k.s = false then (s, stRefusedSignature)
  else
    let old := s.exk.keys.getD k.index { state := 0, key := 0, minSec := 0 }
    let new : ImgKey := if install then { state := 1, key := k.key, minSec := k.minSec.toNat } else { old with state := 2 }
    let s1 := (s.setExk { s.exk with keys := setAt s.exk.keys k.index new, keySeq := k.seq.toNat }).exkShow
    (s1.logEvent 0x0016 1 25 none none 0 (pay 1 k.index ++ pay 1 (if install then 1 else 2)), stDone)

/-- OWNER_PROVISION: once. DESIGN CHOICE, log 131. -/
def State.provision (s : State) (digest : List Byte) : State × Nat :=
  match s.exk.ownerDigest with
  | some _ => (s, stRefusedFit)
  | none => (s.setExk { s.exk with ownerDigest := some (BitVec.ofNat 384 (leNat (digest.take 48))) }, stDone)

/-- QUENCH with QREASON 5 (R526). -/
def State.mbxQuench (s : State) (i : Nat) : State × Nat :=
  if 16 ≤ i then (s, stRefusedFit)
  else (s.quench i 5 (s.get (ISL_GOV_STATUS_HOT_C i)) ((s.isl i).currents.headD 0), stDone)

/-- REANNEAL (R553). -/
def State.mbxReanneal (s : State) (i : Nat) : State × Nat :=
  if 16 ≤ i then (s, stRefusedFit) else (s.annealAll i, stDone)

def execMbxNop (s : State) : Answer := .next (s.mailbox 0 State.mbxNop)
def execReadEvt (s : State) : Answer := .next (s.mailbox 1 fun s => s.readEvents (s.reg (MGT_MBX_ARG 0)))
def execReadCrash (s : State) : Answer := .next (s.mailbox 2 fun s => s.readCrash (s.mbxArg 0))
def execClearCrash (s : State) : Answer := .next (s.mailbox 3 State.clearCrash)
def execKeyInstall (k : KeyCmd) (s : State) : Answer := .next (s.mailbox 4 fun s => s.keyCommand k true)
def execKeyRevoke (k : KeyCmd) (s : State) : Answer := .next (s.mailbox 5 fun s => s.keyCommand k false)
def execOwnerProvision (s : State) : Answer := .next (s.mailbox 6 fun s => s.provision s.mbxData)
def execMbxQuench (s : State) : Answer := .next (s.mailbox 7 fun s => s.mbxQuench (s.mbxArg 0))
def execMbxWarmReset (s : State) : Answer := .next (s.mailbox 8 fun s => (s.packageWarm, stDone))
def execMbxColdReset (s : State) : Answer := .next (s.mailbox 9 fun s => (s.coldReset, stDone))
def execMbxReanneal (s : State) : Answer := .next (s.mailbox 10 fun s => s.mbxReanneal (s.mbxArg 0))

/-- MAILBOX_MESSAGE: Exkalet posts a message of a kind R567 lists. -/
def execMailboxMessage (kind : Fin 8) (s : State) : Answer :=
  .next (if kind.val ≠ 0 ∧ s.exk.powered = true then s.postMessage kind else s)

/-! ### Firmware update (R561, R562); completion codes as DSP0267 gives them -/

/-- PRESUMED, log 133. -/
def ccSuccess : Nat := 0
/-- PRESUMED, log 133. -/
def ccNotInUpdate : Nat := 0x80
/-- PRESUMED, log 133. -/
def ccAlready : Nat := 0x81
/-- PRESUMED, log 133. -/
def ccInvalidState : Nat := 0x84

/-- Whether the firmware, or in minimal mode with cause 0x4 the boot ROM, answers PLDM type 5 (R562, R565). DEDUCED, log 134. -/
def State.pldmUp (s : State) : Bool :=
  s.exk.fwRunning || (s.minimal && decide (s.get MGT_BOOT_STATUS_CAUSE = 4))

/-- An answer of command `n` of PLDM type 5. PRESUMED, log 133. -/
def State.pldmReply (s : State) (n code : Nat) : State := s.emit (.mgmt (0x500 + n) (leBytes 1 code))

/-- A PLDM type 5 command: answered from `run` in one state of the session, else with an error. DEDUCED, log 134. -/
def State.update (s : State) (n : Nat) (want : List UpdState) (run : State → State × Nat) : State :=
  if !s.pldmUp then s
  else if want.contains s.exk.update then
    let (s1, code) := run s
    s1.pldmReply n code
  else s.pldmReply n (if s.exk.update = .idle then ccNotInUpdate else ccInvalidState)

def State.toUpd (s : State) (u : UpdState) : State := s.setExk { s.exk with update := u }

/-- The slot that does not run, which alone is written. -/
def State.idleSlot (s : State) : Nat := 1 - s.get MGT_STATUS_SLOT
def State.setFwSlot (s : State) (n : Nat) (f : FwSlot) : State :=
  (s.setExk { s.exk with slots := setAt s.exk.slots n f }).exkShow
def State.fwSlot (s : State) (n : Nat) : FwSlot :=
  s.exk.slots.getD n { image := [], active := false, trial := false, failed := false }
def State.fwEvent (s : State) (what n : Nat) : State :=
  s.logEvent 0x0011 1 25 none none 0 (pay 1 what ++ pay 1 n ++ pay 4 (s.fwSlot n).secVersion)

/-- REQUEST_UPDATE: update mode is entered, unless an agent holds it. -/
def State.requestUpdate (s : State) : State :=
  if !s.pldmUp then s
  else if s.exk.update = .idle then
    (s.setExk { s.exk with update := .learn, updateBuf := [], verified := false }).pldmReply 0x10 ccSuccess
  else s.pldmReply 0x10 ccAlready
def execRequestUpdate (s : State) : Answer := .next s.requestUpdate

def execPassComponentTable (last : Bool) (s : State) : Answer :=
  .next (s.update 0x13 [.learn] fun s => (if last then s.toUpd .ready else s, ccSuccess))

/-- UPDATE_COMPONENT: the one component is Exkalet firmware; the idle slot is written anew. -/
def execUpdateComponent (component : BitVec 16) (s : State) : Answer :=
  .next (s.update 0x14 [.ready] fun s =>
    if component = 1 then
      let s1 := s.setExk { s.exk with update := .download, updateBuf := [], verified := false }
      (s1.setFwSlot s1.idleSlot { image := [], active := false, trial := false, failed := false }, ccSuccess)
    else (s, ccInvalidState))

/-- REQUEST_FIRMWARE_DATA: the next bytes of the image, 4,096 at most, go into the idle slot. -/
def execRequestFirmwareData (offset : Nat) (bytes : List Byte) (s : State) : Answer :=
  .next (s.update 0x15 [.download] fun s =>
    if offset = s.exk.updateBuf.length ∧ bytes.length ≤ 4096 ∧ offset + bytes.length ≤ 15 * 1048576 then
      let s1 := s.setExk { s.exk with updateBuf := s.exk.updateBuf ++ bytes }
      (s1.setFwSlot s1.idleSlot { s1.fwSlot s1.idleSlot with image := s1.exk.updateBuf }, ccSuccess)
    else (s, ccInvalidState))

def execTransferComplete (ok : Bool) (s : State) : Answer :=
  .next (s.update 0x16 [.download] fun s => (s.toUpd (if ok then .verify else .ready), ccSuccess))

/-- VERIFY_COMPLETE: the slot's verification decides; a failure marks it FAILED. -/
def execVerifyComplete (s : State) : Answer :=
  .next (s.update 0x17 [.verify] fun s =>
    let n := s.idleSlot
    if (s.fwSlot n).bootable s.fuses.rollback then
      ((s.setExk { s.exk with update := .apply, verified := true }).fwEvent 1 n, ccSuccess)
    else (((s.toUpd .ready).setFwSlot n { s.fwSlot n with failed := true }).fwEvent 2 n, ccSuccess))

def execApplyComplete (ok : Bool) (s : State) : Answer :=
  .next (s.update 0x18 [.apply] fun s =>
    (s.setExk { s.exk with update := .ready, verified := s.exk.verified && ok }, ccSuccess))

/-- ACTIVATE_FIRMWARE: the pair alone restarts into the new slot, TRIAL and preferred, with no crash log; in minimal mode
with cause 0x4 a cold start begins (R562). DEDUCED, log 134. -/
def State.activate (s : State) : State × Nat :=
  if !s.exk.verified then (s, ccInvalidState)
  else
    let n := s.idleSlot
    let rom := !s.exk.fwRunning
    let s1 := (s.setExk { s.exk with preferred := n }).setFwSlot n { s.fwSlot n with trial := true }
    let s2 := ((s1.fwEvent 3 n).postMessage 4).pairDown false
    if rom then
      let s3 := (s2.beginAttempt true).enterHub
      ({ s3 with boot := { s3.boot with pairPending := true }, pads := { s3.pads with hubRail := false } }, ccSuccess)
    else (s2, ccSuccess)
def execActivateFirmware (s : State) : Answer := .next (s.update 0x1A [.ready] State.activate)

/-- The state of the session as DSP0267 numbers it. -/
def updCode (u : UpdState) : Nat :=
  match u with
  | .idle => 0
  | .learn => 1
  | .ready => 2
  | .download => 3
  | .verify => 4
  | .apply => 5
  | .activate => 6
def execGetStatus (s : State) : Answer :=
  .next (if s.pldmUp then s.emit (.mgmt 0x51B (leBytes 1 ccSuccess ++ leBytes 1 (updCode s.exk.update))) else s)

def execCancelUpdateComponent (s : State) : Answer :=
  .next (s.update 0x1C [.download, .verify, .apply] fun s =>
    (s.setExk { s.exk with update := .ready, updateBuf := [], verified := false }, ccSuccess))
def execCancelUpdate (s : State) : Answer :=
  .next (s.update 0x1D [.learn, .ready, .download, .verify, .apply] fun s =>
    (s.setExk { s.exk with update := .idle, updateBuf := [], verified := false }, ccSuccess))

/-- FW_TRIAL_EXPIRE: 600 s have passed since the trial slot was booted: it is ACTIVE, and the rollback counter rises to its
SEC_VERSION. -/
def State.trialPass (s : State) : State :=
  let n := s.get MGT_STATUS_SLOT
  let f := s.fwSlot n
  if s.exk.fwRunning && f.trial && decide (s.exk.trialSince + 600000000 ≤ s.exk.uptimeUs) then
    let s1 : State := { s with fuses := { s.fuses with rollback := max s.fuses.rollback (min 128 f.secVersion) } }
    let s2 := (s1.setFwSlot (1 - n) { s1.fwSlot (1 - n) with active := false }).setFwSlot n
      { f with trial := false, active := true }
    (s2.setFlag MGT_STATUS_TRIAL false).fwEvent 4 n
  else s
def execFwTrialExpire (s : State) : Answer := .next s.trialPass

/-! ### MCTP and I3C (R565, R566) -/

/-- MCTP control and PLDM base answers are those of their standards. -/
def execMctpControl (request : Nat) (args : List Byte) (s : State) : Answer :=
  .next (if s.pldmUp then s.emit (.mgmt 0 (Config.standardResponse 0 request args)) else s)
def execPldmBaseCommand (request : Nat) (args : List Byte) (s : State) : Answer :=
  .next (if s.pldmUp then s.emit (.mgmt 1 (Config.standardResponse 1 request args)) else s)

/-- The reading of a sensor. DESIGN CHOICE, log 135. -/
def State.reading (s : State) (q : PlatSensor) : Nat :=
  match q with
  | .thermal d n => ((s.exk.temps.getD d []).getD n 0).toNat
  | .tower n => (s.exk.towers.getD n 0).toNat
  | .droop i n => b2n (bit (s.isl i).alarms n)
  | .rail n => s.exk.rails.getD n 0
  | .block n => s.get (MGT_PWR_BLK_POWER n)
  | .package => s.get MGT_PWR_PKG_POWER
  | .phase => s.phase
  | .exkalet => (s.reg MGT_STATUS).toNat

/-- PLDM_PLATFORM_READ: the firmware answers PLDM type 2. DESIGN CHOICE, log 135. -/
def execPldmPlatformRead (q : PlatSensor) (s : State) : Answer :=
  .next (if s.exk.fwRunning then s.emit (.mgmt 2 (leBytes 4 (s.reading q))) else s)

/-- The effect of a mailbox command of PLDM type 63. -/
def State.oemRun (s : State) (op : Nat) (key : Option KeyCmd) : State × Nat :=
  match op, key with
  | 0, _ => s.mbxNop
  | 1, _ => s.readEvents (s.reg (MGT_MBX_ARG 0))
  | 2, _ => s.readCrash (s.mbxArg 0)
  | 3, _ => s.clearCrash
  | 4, some k => s.keyCommand k true
  | 5, some k => s.keyCommand k false
  | 6, _ => s.provision s.mbxData
  | 7, _ => s.mbxQuench (s.mbxArg 0)
  | 8, _ => (s.packageWarm, stDone)
  | 9, _ => (s.coldReset, stDone)
  | 10, _ => s.mbxReanneal (s.mbxArg 0)
  | _, _ => (s, stRefusedFit)

/-- Whether a register is an argument or a word of the data window of the mailbox. -/
def mbxRegister (a : Nat) : Bool :=
  (decide (0x100014 ≤ a) && decide (a < 0x100024)) || (decide (0x100100 ≤ a) && decide (a < 0x100200))

/-- The mailbox registers of `old` back in `s`. -/
def State.keepMbx (s old : State) : State :=
  let kept := old.regs.filter fun (e : Nat × Word) => mbxRegister e.1
  let rest := s.regs.filter fun (e : Nat × Word) => !mbxRegister e.1
  { s with regs := kept.foldl (fun m e => insert m e.1 e.2) rest }

/-- PLDM_OEM_COMMAND: a mailbox command with its own argument and data, which leaves the mailbox registers as they stand,
or the read of an MGT_ register (R565, R566). DEDUCED, log 134. -/
def State.oem (s : State) (q : OemCmd) : State :=
  if !s.exk.fwRunning then s
  else match q with
    | .read n => s.emit (.mgmt 63 (leBytes 4 (lookupD s.regs (0x100000 + 4 * n) (resetAt (0x100000 + 4 * n))).toNat))
    | .mailbox op arg key data =>
      if s.minimal && !mbxMinimal op.toNat then s.emit (.mgmt 63 (leBytes 1 stRefusedFit))
      else
        let s0 := (s.setMbxData data).put (MGT_MBX_ARG_ARG 0) arg.toNat
        let (s1, code) := s0.oemRun op.toNat key
        let reply := leBytes 1 code ++ leBytes 4 (s1.mbxArg 0) ++ s1.mbxData
        (if op = 9 then s1 else s1.keepMbx s).emit (.mgmt 63 reply)
def execPldmOemCommand (q : OemCmd) (s : State) : Answer := .next (s.oem q)

/-- ENTDAA: the target answers with its provisioned ID and takes its dynamic address. -/
def execEntdaa (addr : BitVec 7) (s : State) : Answer :=
  .next (if s.pldmUp then
    (s.setExk { s.exk with i3cAddr := some addr.toNat }).emit (.mgmt 3 (leBytes 6 Config.i3cPid.toNat))
  else s)

end Sys2Proof.Machine
end

