-- ==== Sys2Proof/Machine/Host.lean ====
section
/-! DEFINITION. The host link, its functions and BAR4 apertures (R570 to R580), and the commands of the doorbell pages (R583,
R585, R586). -/

namespace Sys2Proof.Machine

/-! ### The link and its functions (R570, R574, R575, R577) -/

/-- Whether the host link answers: from the end of phase HUB on and in minimal mode with a hub, while the interface is
not held in reset (R570, R600). -/
def State.linkUp (s : State) : Bool :=
  !s.host.held && ((decide (phFabric ≤ s.phase) && decide (s.phase ≤ phReady))
    || (s.minimal && !s.flag MGT_BOOT_STATUS_OOB_ONLY))

/-- Configuration space of every function at its defaults: no virtual function, D0, message tables masked (R574). -/
def State.configDefaults (s : State) : State :=
  { s with host := { s.host with vfEnable := false, numVfs := 0, d3hot := false }, msix := [] }

/-- CONVENTIONAL_RESET: a package warm reset, and configuration space returns to its defaults; PERST_L keeps the interface
in reset until it is released (R574, R600). PRESUMED, log 14. -/
def State.conventionalReset (s : State) (perst : Bool) : State :=
  let s1 := if perst then { s with pads := { s.pads with perstL := false }, host := { s.host with held := true } } else s
  s1.packageWarm.configDefaults
/-- DEDUCED, log 66. -/
def execConventionalReset (perst : Bool) (s : State) : Answer := .next (s.conventionalReset perst)

/-- PF_FLR: a package warm reset; VF Enable clears with the rest of the function's configuration (R574). -/
def execPfFlr (s : State) : Answer := .next (if s.linkUp then s.packageWarm.configDefaults else s)

/-- VF_ENABLE: tenants 0 to NumVFs − 1 exist. Ignored while VF Enable is 1, and impossible in minimal mode (R510, R577). DEDUCED, log 138. -/
def execVfEnable (numVfs : Fin 4097) (s : State) : Answer :=
  .next (if s.host.vfEnable || s.minimal || !s.linkUp then s
    else { s with host := { s.host with vfEnable := true, numVfs := numVfs } })

/-- VF_ENABLE_CLEAR: a function level reset of every enabled VF, then no tenant exists (R574, R577). -/
def State.vfEnableClear (s : State) : State :=
  if s.host.vfEnable then
    let s1 := (List.range s.host.numVfs).foldl State.flr s
    { s1 with host := { s1.host with vfEnable := false } }
  else s
def execVfEnableClear (s : State) : Answer := .next s.vfEnableClear

/-- PF_D3HOT and PF_TO_D0: the package's state is kept, and in D3hot the PF's BARs do not answer (R574). -/
def execPfD3hot (s : State) : Answer := .next { s with host := { s.host with d3hot := true } }
def execPfToD0 (s : State) : Answer := .next { s with host := { s.host with d3hot := false } }

/-- POISONED_TLP: dropped, reported through AER and counted (R575). DEDUCED, log 138. -/
def execPoisonedTlp (s : State) : Answer :=
  .next (if s.linkUp then
      { (s.inc HUB_PCIE_ERR_POIS_CNT) with host := { s.host with aer := s.host.aer ||| 0x1000 } }
    else s)

/-! ### Bytes of the tiers as an aperture meets them (R304, R308, R311, R321, R322, R580) -/

/-- The bytes of a page's home copy: a WEIGHT object's copy in the slowest tier of its mask, the one copy of any other. -/
def HarborSt.homeBytes (x : HarborSt) (index page off n : Nat) : Option (List PByte) :=
  match lookup x.objs index with
  | none => none
  | some o =>
    if o.cls = 0 ∧ bit o.mask 2 = true then (lookup o.far page).map fun _ => x.farBytes (farPage index page) off n
    else if o.cls = 0 ∧ bit o.mask 1 = true then (lookup o.mid page).map fun f => x.midBytes f off n
    else x.pageBytes index page off n

/-- Granules that replace `bs` from byte `off` of a page: bytes around them keep value and poison (R304). -/
def mergeBytes (old : List PByte) (skip : Nat) (bs : List Byte) : List PByte :=
  old.take skip ++ clean bs ++ old.drop (skip + bs.length)

/-- Bytes written into a page of an object, inside the page. -/
def State.putPageBytes (s : State) (h index page off : Nat) (bs : List Byte) : State :=
  let g0 := off / 64
  let n := (off + bs.length + 63) / 64 - g0
  let old := ((s.harbor h).pageBytes index page (64 * g0) (64 * n)).getD (List.replicate (64 * n) (0, true))
  s.writePage h index page g0 (toGranules (mergeBytes old (off % 64) bs) n)

/-- `n` free bytes. DESIGN CHOICE, log 137. -/
def State.freeBytes (s : State) (n : Nat) : List Byte × State :=
  let v := s.fresh (8 * n)
  ((List.range n).map fun i => BitVec.ofNat 8 (v.1.toNat / 256 ^ i), v.2)

/-- The object and page that a middle frame of a harbor holds. -/
def HarborSt.midOwner (x : HarborSt) (f : Nat) : Option (Nat × Nat × TierObj) :=
  x.objs.findSome? fun e => (e.2.mid.find? fun p => decide (p.2 = f)).map fun p => (e.1, p.1, e.2)

/-- The key pair of an object's owner: slot 4,096 is the package's (R323). DEDUCED, log 126. -/
def State.keyFor (s : State) (o : TierObj) : KeyPair :=
  lookupD s.keys (o.owner.getD 4096) { data := 0, tweak := 0 }

/-- The tweak of a 4 KiB unit (R322). -/
def xtsTweak (handle page unit : Nat) : Nat := handle + page * 2 ^ 32 + unit * 2 ^ 56

/-- The stored bytes of the 4 KiB unit `u` of a middle frame: encrypted where an object holds the frame, else as they lie. DESIGN CHOICE, log 75. -/
def State.midUnit (s : State) (h f u : Nat) : List PByte :=
  let x := s.harbor h
  let plain : List PByte := x.midBytes f (4096 * u) 4096
  match x.midOwner f with
  | none => plain
  | some (ix, pg, o) =>
    let k := s.keyFor o
    let c := Config.xtsEncrypt k.data k.tweak (xtsTweak (handleOf h ix) pg u) (plain.map fun (b : PByte) => b.1)
    plain.zipIdx.map fun (e : PByte × Nat) => (c.getD e.2 0, e.1.2)

/-- Stored bytes replaced in a unit: where an object holds the frame, what it decrypts to is what the object then holds. DESIGN CHOICE, log 75; DESIGN CHOICE, log 137. -/
def State.putMidUnit (s : State) (h f u off : Nat) (bs : List Byte) : State :=
  let x := s.harbor h
  let raw : List PByte := mergeBytes (s.midUnit h f u) off bs
  let plain : List Byte := match x.midOwner f with
    | none => raw.map fun (b : PByte) => b.1
    | some (ix, pg, o) =>
      let k := s.keyFor o
      Config.xtsDecrypt k.data k.tweak (xtsTweak (handleOf h ix) pg u) (raw.map fun (b : PByte) => b.1)
  let all := raw.zipIdx.map fun (e : PByte × Nat) => (plain.getD e.2 0, e.1.2)
  let g := (off + 63) / 64
  s.setHarbor h (putAll (fun x g v => x.midPut f g v) (x.clearPieces f (64 * u + g) ((off + bs.length) / 64 - g))
    (64 * u) (toGranules all 64))

/-! ### Apertures (R445, R580) -/

/-- What one byte of an aperture meets. -/
inductive AptByte where
  /-- Reads 0, drops writes. -/
  | none
  | obj (h index page off : Nat)
  | near (h frame off : Nat)
  | mid (h frame off : Nat)
  /-- The FTL map or the frame metadata, whose contents the spec does not lay out. -/
  | open_
  deriving DecidableEq, Repr

/-- Whether harbor `h` answers for its objects. DEDUCED, log 83. -/
def State.harborOn (s : State) (h : Nat) : Bool := !(s.harbor h).fenced && s.ready
/-- Whether harbor `h` answers for its raw tiers: in minimal mode the kept one does (R509, R510). -/
def State.tiersOn (s : State) (h : Nat) : Bool :=
  s.harborOn h || (s.minimal && decide (s.get MGT_BOOT_STATUS_MIN_HARBOR = h))

/-- What byte `off` of aperture `a` meets, for KIND 1 and 3. DESIGN CHOICE, log 137. -/
def State.aptByte (s : State) (a off : Nat) : AptByte :=
  let page := s.get (HUB_APT_PAGE_PAGE a) + off / 65536
  if s.get (HUB_APT_CTRL_KIND a) = 1 then
    let handle := s.get (HUB_APT_TGT_TGT a)
    match s.obj handle with
    | none => .none
    | some o =>
      if page < o.pages ∧ s.harborOn (harborOf handle) = true then
        .obj (harborOf handle) (indexOf handle) page (off % 65536)
      else .none
  else if s.get (HUB_APT_CTRL_KIND a) = 3 then
    let h := s.get (HUB_APT_CTRL_HARBOR a)
    if (s.flag HUB_TIDE_STATUS_JOB_LOCK && !s.minimal) || !s.tiersOn h then .none
    else if s.flag (HUB_APT_CTRL_TIER a) then
      let q := page / 8388608
      let f := page % 8388608
      if q ≥ 2 ∨ s.midCode h q ≠ 0 ∨ (s.harbor h).midDown.contains q = true then .none
      else if f < midFrames then .mid h (2 ^ 24 * q + f) (off % 65536) else .open_
    else if s.minimal || decide (3145728 ≤ page) then .none
    else if page < 4096 then .open_ else .near h page (off % 65536)
  else .none

/-- The value of one byte read. -/
def State.readByte (s : State) (b : AptByte) (free : Byte) : PByte :=
  match b with
  | .none => (0, false)
  | .obj h ix pg off => (((s.harbor h).homeBytes ix pg off 1).bind fun bs => bs[0]?).getD (0, true)
  | .near h f off => ((s.harbor h).nearBytes f off 1).getD 0 (0, true)
  | .mid h f off => (s.midUnit h f (off / 4096)).getD (off % 4096) (0, true)
  | .open_ => (free, false)

/-- The board peer that a board address names, where the source admits it (R445). DESIGN CHOICE, log 113. -/
def State.boardDest (s : State) (addr : Nat) : Option Nat :=
  let slot := addr / 2 ^ 48
  if s.flag RVR_MODE_BW && decide (slot < 4) && s.flag (RVR_BOARD_EP_V slot) && decide (bitsOf addr 38 8 = 0) then
    some (s.get (RVR_BOARD_EP_EP slot))
  else none

/-- The board address of byte `off` of aperture `a`. -/
def State.boardAddr (s : State) (a off : Nat) : Nat := s.get (HUB_APT_TGT_TGT a) % 2 ^ 20 * 2 ^ 32 + off

/-- A page of an object is read once more (R314). -/
def State.warmByte (s : State) (b : AptByte) : State :=
  match b with
  | .obj h ix pg _ => s.setHarbor h ((s.harbor h).warm ix pg)
  | _ => s

/-- APERTURE_READ: bytes from their target, zeros where it has none; a board read asks its peer, and its bytes come with
the BOARD_DATA. DEDUCED, log 136. -/
def State.aptRead (s : State) (a off n : Nat) : State :=
  let kind := s.get (HUB_APT_CTRL_KIND a)
  if kind = 2 then
    let addr := s.boardAddr a off
    match s.boardDest addr with
    | some e =>
      let s1 := { s with host := { s.host with boardReads := s.host.boardReads ++ [(e, addr % 64, n)] } }
      s1.ravorSend .board { s1.newMsg e 6 with offset := (addr % 64 + n + 63) / 64, baddr := addr - addr % 64 }
    | none => (s.inc HUB_APT_DROP_COUNT).emit (.readData (List.replicate n 0) false)
  else
    let fr := s.freeBytes n
    let bs := (List.range n).map fun i => s.aptByte a (off + i)
    let vs := bs.zipIdx.map fun (e : AptByte × Nat) => s.readByte e.1 (fr.1.getD e.2 0)
    let s1 := (if bs.contains .open_ then fr.2 else s).warmByte (bs.headD .none)
    let s2 := if kind ≠ 0 && bs.contains .none then s1.inc HUB_APT_DROP_COUNT else s1
    s2.emit (.readData (vs.map fun v => if v.2 then 0 else v.1) (ppois vs))
def execApertureRead (a : Fin 16) (off : Word) (len : Nat) (s : State) : Answer :=
  .next (if s.linkUp && !s.host.d3hot then s.aptRead a off.toNat len else s)

/-- Whether a write to a byte is dropped: no target, or a WEIGHT object after COMMIT (R311, R580). DEDUCED, log 136. -/
def State.dropsByte (s : State) (b : AptByte) : Bool :=
  match b with
  | .none => true
  | .obj h ix _ _ => ((lookup (s.harbor h).objs ix).map TierObj.sealed).getD true
  | _ => false

/-- A run of bytes written to where its first byte goes; the run stays inside a page, and in the middle tier inside a
unit. -/
def State.writeRun (s : State) (b : AptByte) (bs : List Byte) : State :=
  match b with
  | .obj h ix pg off => s.putPageBytes h ix pg off bs
  | .near h f off =>
    let x := s.harbor h
    let g0 := off / 64
    let n := (off + bs.length + 63) / 64 - g0
    let old := x.nearBytes f (64 * g0) (64 * n)
    s.setHarbor h (putAll (fun x g v => x.nearPut f g v) x g0 (toGranules (mergeBytes old (off % 64) bs) n))
  | .mid h f off => s.putMidUnit h f (off / 4096) (off % 4096) bs
  | _ => s

/-- The granules of a board write: bytes of the first and last granule that the host does not write are free. DESIGN CHOICE, log 113. -/
def State.boardBytes (s : State) (skip : Nat) (bs : List Byte) : List Granule × State :=
  let n := (skip + bs.length + 63) / 64
  let fr := s.freeBytes (64 * n)
  let whole := decide (skip = 0) && decide (bs.length = 64 * n)
  (toGranules (clean (fr.1.take skip ++ bs ++ fr.1.drop (skip + bs.length))) n, if whole then s else fr.2)

/-- APERTURE_WRITE: the bytes land in their target or are dropped and counted. DEDUCED, log 136. -/
def State.aptWrite (s : State) (a off : Nat) (bs : List Byte) : State :=
  let kind := s.get (HUB_APT_CTRL_KIND a)
  if kind = 0 then s
  else if kind = 2 then
    let addr := s.boardAddr a off
    match s.boardDest addr with
    | some e =>
      let gs := s.boardBytes (addr % 64) bs
      gs.2.ravorSend .board { gs.2.newMsg e 5 with baddr := addr - addr % 64, grans := gs.1 }
    | none => s.inc HUB_APT_DROP_COUNT
  else
    let s0 := if (List.range bs.length).any fun i => s.dropsByte (s.aptByte a (off + i)) then s.inc HUB_APT_DROP_COUNT else s
    let n := 4096 - off % 4096
    let s1 := s0.writeRun (s0.aptByte a off) (bs.take n)
    if bs.length ≤ n then s1 else s1.writeRun (s1.aptByte a (off + n)) (bs.drop n)
def execApertureWrite (a : Fin 16) (off : Word) (bytes : List Byte) (s : State) : Answer :=
  .next (if s.linkUp && !s.host.d3hot then s.aptWrite a off.toNat bytes else s)

/-! ### Commands of a doorbell page (R453, R577, R582, R585) -/

def State.dbArg (s : State) (t m : Nat) : Nat := s.get (DB_ARG_ARG t m)
def State.dbArgs (s : State) (t : Nat) : List Nat := (List.range 6).map (s.dbArg t)

/-- A command of tenant `t`: clamped where the tenant does not exist, refused where it may issue none. -/
def State.doorbell (s : State) (t : Nat) (run : State → Option State) : State :=
  if !s.vfLive t then s.clampPage t 0x100
  else s.tenAnswer (some t) (if s.flag (TEN_VF_CTRL_EN t) then run s else none)

/-- Whether a LOAD is accepted, now or when the reset it waits for ends (R367). -/
def State.takesLoad (s : State) (r : LoadReq) : Bool :=
  let st := s.get (TEN_PART_CTRL_STATE r.part)
  s.ready && s.mayLoad r && (decide (st = psResetting) || (decide (st = psIdle) && !s.unserved r.part))

/-- DB_LOAD: its arguments as HUB_LDR_ARG_n; a refused one ends as a job of the tenant (R367, R461). DEDUCED, log 139. -/
def State.dbLoad (s : State) (t : Nat) : State :=
  let r := loadReqOf (s.dbArg t 0) (s.dbArg t 1) (s.dbArg t 2) (some t)
  if !s.vfLive t then s.clampPage t 0x100
  else if s.flag (TEN_VF_CTRL_EN t) && s.takesLoad r then (s.loadCmd r).tenCode (some t) stDone
  else (s.refuseLoad r).tenCode (some t) stRefusedFit
def execDbLoad (t : Tenant) (s : State) : Answer := .next (s.dbLoad t)

def execDbPreempt (t : Tenant) (s : State) : Answer :=
  .next (s.doorbell t fun s => s.preempt (some t) (s.dbArgs t))
def execDbResume (t : Tenant) (s : State) : Answer :=
  .next (s.doorbell t fun s => s.resume (some t) (s.dbArgs t))
def execDbDiscard (t : Tenant) (s : State) : Answer :=
  .next (s.doorbell t fun s => s.discard (some t) (s.dbArg t 2))

/-- DB_RESET: partition scope only, for a partition of the tenant (R468, R585). -/
def State.dbReset (s : State) (t : Nat) : Option State :=
  let a := s.dbArg t 0
  let p := bitsOf a 3 7
  if a % 8 = 2 ∧ a < 2 ^ 10 ∧ s.mayCommand (some t) p = true ∧ s.minimal = false then s.resetPart p false false else none
def execDbReset (t : Tenant) (s : State) : Answer := .next (s.doorbell t fun s => s.dbReset t)

/-- An object command of a tenant, for the harbor that `h` numbers; refused while one of the tenant's runs, and where its
arguments do not hold together or its CREATE finds no room (R312, R585, R586). -/
def State.dbObject (s : State) (t h : Nat) (r : ObjRun) : Option State :=
  let foreign := decide (r.op = 1) && (bit r.a0 12 || decide (bitsOf r.a0 0 12 ≠ t))
  if s.flag (DB_ASYNC_OBJ_BUSY t) || foreign || !s.harborOn h || !s.objArgsOk h r then none
  else some (s.objCommand h r)

/-- The object command `op` of R312 that the page's arguments spell. DEDUCED, log 139. -/
def State.dbObj (s : State) (t op : Nat) : State :=
  s.doorbell t fun s =>
    s.dbObject t (s.dbArg t 3 % 4)
      { op := op, a0 := s.dbArg t 0, a1 := s.dbArg t 1, a2 := s.dbArg t 2, host := 0, data := [], via := some t,
        begun := false }
def execDbObjCreate (t : Tenant) (s : State) : Answer := .next (s.dbObj t 1)
def execDbObjCommit (t : Tenant) (s : State) : Answer := .next (s.dbObj t 2)
def execDbObjDelete (t : Tenant) (s : State) : Answer := .next (s.dbObj t 3)
def execDbObjStage (t : Tenant) (s : State) : Answer := .next (s.dbObj t 4)
def execDbObjPin (t : Tenant) (s : State) : Answer := .next (s.dbObj t 5)
def execDbObjSetmask (t : Tenant) (s : State) : Answer := .next (s.dbObj t 6)

/-- OBJ_WRITE (8) and OBJ_READ (9): whole pages between host memory and an object (R586). -/
def State.dbPages (s : State) (t op : Nat) (data : List (Option (List Byte × Bool))) : State :=
  s.doorbell t fun s =>
    s.dbObject t (harborOf (s.dbArg t 0))
      { op := op, a0 := s.dbArg t 0, a1 := s.dbArg t 1, a2 := s.dbArg t 2 % 2 ^ 24,
        host := s.dbArg t 3 + s.dbArg t 4 * 2 ^ 32, data := data, via := some t, begun := false }
def execObjWrite (t : Tenant) (pages : List (Option (List Byte × Bool))) (s : State) : Answer := .next (s.dbPages t 8 pages)
def execObjRead (t : Tenant) (s : State) : Answer := .next (s.dbPages t 9 [])

/-- What a tenant sees of an opening: a clamp where a ring size was clamped. -/
def dbOpened (t : Nat) (r : Option (State × Bool)) : Option State :=
  match r with
  | none => none
  | some (s1, clamped) => some (if clamped then s1.clampPage t 0x100 else s1)

/-- DB_STRM_OPEN: the tenant field is the page's own; a clamped ring size counts as a clamp (R382, R585). -/
def State.dbOpen (s : State) (t : Nat) : Option State :=
  let a := s.dbArg t
  dbOpened t (s.openStream (bitsOf (a 0) 0 14) (streamArgs (a 1) (a 2) (a 3) (a 4) t (bit (a 0) 26)))
def execDbStrmOpen (t : Tenant) (s : State) : Answer := .next (s.doorbell t fun s => s.dbOpen t)

/-- DB_STRM_CLOSE: only of a stream of the tenant (R382, R585). -/
def State.dbClose (s : State) (t : Nat) : Option State :=
  let st := bitsOf (s.dbArg t 0) 0 14
  match s.streamOf t st with
  | none => none
  | some _ => some (s.closeStream st)
def execDbStrmClose (t : Tenant) (s : State) : Answer := .next (s.doorbell t fun s => s.dbClose t)

end Sys2Proof.Machine
end

