-- ==== Sys2Proof/Machine/Registers.lean ====
section
/-! DEFINITION. Host writes of registers: REGISTER_WRITE and POUR_WDOG_LIMIT_WRITE, the access codes, clamps and locks, the
blocks' clamp counters, the doorbell pages and the message tables, and what a read returns (R11 to R16, R510, R578 to
R584, R588). A write of a register with behaviour of its own does what the command of that name does. -/

namespace Sys2Proof.Machine

/-! ### Blocks and their clamp counters (R15, R510, R579, R581, R588) -/

/-- A write at BAR0 offset `a` is clamped in the counter of the block that holds it (R581). -/
def State.clampBlock (s : State) (a : Nat) : State :=
  let i := a / 0x100000
  if 0x100000 ≤ a ∧ a < 0x200000 then s.clampAt MGT_CLAMP_COUNT MGT_CLAMP_LAST_ADDR MGT_CLAMP_LAST_BAR2 a false
  else if 16 ≤ i ∧ i < 32 then
    s.clampAt (ISL_CLAMP_COUNT (i - 16)) (ISL_CLAMP_LAST_ADDR (i - 16)) (ISL_CLAMP_LAST_BAR2 (i - 16)) a false
  else if 32 ≤ i ∧ i < 36 then
    s.clampAt (HBR_CLAMP_COUNT (i - 32)) (HBR_CLAMP_LAST_ADDR (i - 32)) (HBR_CLAMP_LAST_BAR2 (i - 32)) a false
  else if 36 ≤ i ∧ i < 40 then
    s.clampAt (OPT_CLAMP_COUNT (i - 36)) (OPT_CLAMP_LAST_ADDR (i - 36)) (OPT_CLAMP_LAST_BAR2 (i - 36)) a false
  else if 0x3000000 ≤ a ∧ a < 0x4000000 then s.clampAt RVR_CLAMP_COUNT RVR_CLAMP_LAST_ADDR RVR_CLAMP_LAST_BAR2 a false
  else if 0x4000000 ≤ a ∧ a < 0x5000000 then s.clampAt TEN_CLAMP_COUNT TEN_CLAMP_LAST_ADDR TEN_CLAMP_LAST_BAR2 a false
  else s.clampHub a

/-- Whether the fabric domain of physical island `i` is up (R509, R579). -/
def State.fabricUp (s : State) (i : Nat) : Bool :=
  s.pads.fabricRail && bit (s.get MGT_BOOT_FAB_FAB_OK) i
    && (!s.minimal || (minimalPath (s.get MGT_BOOT_STATUS_MIN_HARBOR)).contains i)

/-- Whether the die or domain that holds the register at BAR0 offset `a` answers (R509, R579). DEDUCED, log 83. -/
def State.blockLive (s : State) (a : Nat) : Bool :=
  let i := a / 0x100000
  if 16 ≤ i ∧ i < 32 then
    s.fabricUp (i - 16) && (decide (0x80000 ≤ a % 0x100000) || decide (a % 0x10000 < 0x8000)
      || ((s.isl (i - 16)).railUp && !(s.isl (i - 16)).latched))
  else if 32 ≤ i ∧ i < 36 then
    s.pads.harborRail && (!s.minimal || decide (s.get MGT_BOOT_STATUS_MIN_HARBOR = i - 32))
  else if 36 ≤ i ∧ i < 40 then s.pads.harborRail && !s.minimal
  else true

/-- A clamped write of a block that does not answer: in minimal mode the hub counts it (R510). -/
def State.clampDead (s : State) (a : Nat) : State := if s.minimal then s.clampHub a else s.clampBlock a

/-! ### Fields (R12, R14, R15, R454) -/

/-- Whether the lock of a field is closed; `is` are the indices of its register. -/
def State.locked (s : State) (l : Lock) (is : List Nat) : Bool :=
  let n := is.headD 0
  let c := is.getD 1 0
  let k := is.getD 2 0
  match l with
  | .never => false
  | .jobLock => s.flag HUB_TIDE_STATUS_JOB_LOCK
  | .coreJob => s.flag (ISL_CORE_TS_JOB n c k)
  | .windowMode => s.flag (ISL_CORE_TS_WMODE n c k)
  | .clusterJob => s.flag (ISL_CTR_RR_JOB n c)
  | .ferryActive => s.flag (HBR_FERRY_STATUS_ACTIVE n)
  | .aliasValid => s.flag RVR_EP_ALIAS_VALID
  | .seed => decide (s.reg (TEN_VF_ACCT n) ≠ 0)
  | .recovering => decide (s.partState n = psRecovering)
  | .bindEn => s.flag (SRV_BIND0_EN n)

/-- A field's value held to its stated range (R15). -/
def Clamp.apply (c : Clamp) (n : Nat) : Nat :=
  match c with
  | .none => n
  | .range lo hi => clampTo lo hi n
  | .ge bound top => if bound ≤ n then top else n
  | .special => n

/-- The vectors of nine causes, each below `cnt`. -/
def clampVec (n cnt : Nat) : Nat :=
  ((List.range 9).map fun c => min (bitsOf n (3 * c) 3) (cnt - 1) * 8 ^ c).foldl (· + ·) 0

/-- The largest FERRY_R_SHARE of a harbor other than `h`, and the sum of the floors of partitions other than `p` (R458). -/
def State.ferryShareMax (s : State) (h : Option Nat) : Nat :=
  (((List.range 4).filter fun i => decide (h ≠ some i)).map fun i => s.get (HBR_ARB_CTRL_FERRY_R_SHARE i)).foldl max 0
def State.floorSum (s : State) (p : Option Nat) : Nat :=
  (((List.range 128).filter fun i => decide (p ≠ some i)).map fun i => s.get (TEN_PART_CTRL_FLOOR i)).foldl (· + ·) 0

/-- A field's value where its rule looks at other fields: the register's table key, its indices, the field's lowest bit, the
word written (R45, R237, R300, R345, R411, R458, R485, R580). -/
def State.clampSpecial (s : State) (a : Nat) (is : List Nat) (lo n : Nat) (v : Word) : Nat :=
  let i := is.headD 0
  if a = (HUB_APT_TGT 0).addr then
    if s.get (HUB_APT_CTRL_KIND i) = 2 then n % 2 ^ 20 else n
  else if a = (ISL_GOV_STEP 0 0).addr ∧ lo = 4 then
    clampTo (if 3 ≤ fieldGet v 0 3 then 100 else 60) 110 n
  else if a = (HBR_MIG_CTRL 0).addr ∧ lo = 12 then min n (max 1 (fieldGet v 4 8) - 1)
  else if a = (HBR_FERRY_CACHE_PAGES 0).addr then
    min n (min 1572864 (3145728 - s.get (HBR_FERRY_CACHE_BASE_BASE_PAGE i)))
  else if a = (TEN_VF_VEC 0).addr then clampVec n (s.get (TEN_VF_CTRL_MSIX_CNT i))
  else if a = (SRV_BIND1 0).addr ∧ lo = 16 then min n (fieldGet v 0 8 + 1 - fieldGet v 8 8)
  else if a = (TEN_PART_CTRL 0).addr then min n (256 - 16 * s.ferryShareMax none - s.floorSum (some i))
  else if a = (HBR_ARB_CTRL 0).addr ∧ lo = 28 then
    if s.ferryShareMax (some i) < n then max (s.ferryShareMax (some i)) (min n ((256 - s.floorSum none) / 16)) else n
  else n

/-- What a field holds after a write of `n`, and whether that clamps it: `old` is what it held. DESIGN CHOICE, log 73. -/
def State.takeField (s : State) (a : Nat) (is : List Nat) (d : FieldD) (old n : Nat) (v : Word) : Nat × Bool :=
  let legal := s.clampSpecial a is d.lo (d.clamp.apply n) v
  match d.acc with
  | .ro => (old, false)
  | .rw | .rws | .rwo => (legal, decide (legal ≠ n))
  | .w1c => (old - (old &&& n), false)
  | .w1s => (old, false)
  | .wo => (old, decide (legal ≠ n))
  | .rwl => if s.locked d.lock is then (old, decide (old ≠ n)) else (legal, decide (legal ≠ n))

/-- Every field of a register after a write of `v`, and whether the write is clamped; reserved bits read 0 (R14, R15). -/
def State.takeWord (s : State) (f : RegFam) (is : List Nat) (old v : Word) : Word × Bool :=
  let start : Word × Bool × Word := (old, false, v)
  let r := f.fields.foldl (fun (x : Word × Bool × Word) d =>
    let t := s.takeField f.addr is d (fieldGet old d.lo d.width) (fieldGet v d.lo d.width) v
    (fieldPut x.1 d.lo d.width t.1, x.2.1 || t.2, fieldPut x.2.2 d.lo d.width 0)) start
  (r.1, r.2.1 || decide (r.2.2 ≠ 0))

/-! ### Registers with behaviour of their own -/

/-- The state a command leaves, where it leaves one. -/
def State.after (s : State) (a : Answer) : State :=
  match a with
  | .next t => t
  | _ => s

def asIsland (n : Nat) : Island := Fin.ofNat 16 n
def asHarbor (n : Nat) : Harbor := Fin.ofNat 4 n
def asPart (n : Nat) : Part := Fin.ofNat 128 n
def asPort (n : Nat) : Port := Fin.ofNat 16 n
def asOE (n : Nat) : OE := Fin.ofNat 4 n
def asTenant (n : Nat) : Tenant := Fin.ofNat 4096 n

/-- The logical core of a register group's indices: island, cluster, core (R141). -/
def State.groupCore (s : State) (is : List Nat) : LCore :=
  Fin.ofNat 2048 (128 * s.logIsland (is.headD 0) + 16 * is.getD 1 0 + is.getD 2 0)

/-- A tenancy command by its code; every one but RESET is refused in minimal mode (R485, R510). -/
def State.tenCmd (s : State) (op : Nat) : State :=
  let scope := s.tenArg 0 % 8
  if op = 0 then s
  else if op ≠ 6 ∧ s.minimal = true then s.tenCode none stRefusedFit
  else match op with
    | 1 => s.after (execPartCreate s)
    | 2 => s.after (execPartDestroy s)
    | 3 => s.after (execPartAssign s)
    | 4 => s.after (execPreempt s)
    | 5 => s.after (execResume s)
    | 6 => if scope = 0 then s.after (execResetCore s) else if scope = 1 then s.after (execResetCluster s)
      else if scope = 2 then s.after (execResetPartition s) else if scope = 3 then s.after (execResetWarm s)
      else s.tenCode none stRefusedFit
    | _ => s.after (execDiscard s)

/-- A mailbox command by its code: codes above 0x0A clamp to no operation; KEY_INSTALL and KEY_REVOKE, whose data window
the spec does not lay out, are taken only as the commands of those names (R563, R564). DESIGN CHOICE, log 131. -/
def State.mbxCmd (s : State) (op : Nat) : State :=
  match op with
  | 1 => s.after (execReadEvt s)
  | 2 => s.after (execReadCrash s)
  | 3 => s.after (execClearCrash s)
  | 6 => s.after (execOwnerProvision s)
  | 7 => s.after (execMbxQuench s)
  | 8 => s.after (execMbxWarmReset s)
  | 9 => s.after (execMbxColdReset s)
  | 10 => s.after (execMbxReanneal s)
  | _ => s.after (execMbxNop s)

/-- An object command of the physical function by its code (R312). -/
def State.objCmd (s : State) (h op : Nat) : State :=
  if op = 0 ∨ 7 ≤ op then s.after (execObjNop (asHarbor h) s) else s.pfObject h op

/-- What a write does beyond the fields it changes: the command that the write is. -/
def State.onWrite (s : State) (a : Nat) (is : List Nat) (v : Word) : State :=
  let i := is.headD 0
  let op := v.toNat
  if a = HUB_EXR_CMD.addr then
    if op % 4 = 1 then s.after (execExrRead s) else if op % 4 = 2 then s.after (execExrWrite s) else s
  else if a = HUB_LDR_CMD.addr then (if op % 4 = 1 then s.after (execLdrLoad s) else s)
  else if a = HUB_IMG_CMD.addr then
    if op % 4 = 1 then s.after (execImgRegister s) else if op % 4 = 2 then s.after (execImgUnregister s) else s
  else if a = (HUB_FSEQ_GO 0).addr then (if bit op 0 then s.after (execFseqGo (asPart i) s) else s)
  else if a = HUB_RCV_FENCE.addr then (if bit op 11 then s.after (execRcvFenceGo s) else s)
  else if a = MGT_MBX_CMD.addr then s.mbxCmd (op % 256)
  else if a = MGT_BOOT_CMD.addr then
    if op % 4 = 1 then s.after (execBootRestart s) else if op % 4 = 2 then s.after (execBootClear s) else s
  else if a = MGT_PWR_CTRL.addr then (if bit op 14 then s.after (execPeakClr s) else s)
  else if a = (ISL_ARR_INJ 0).addr then (if bit op 12 then s.after (execInjectionArm (asIsland i) s) else s)
  else if a = (ISL_CORE_DBG 0 0 0).addr then
    let c := s.groupCore is
    let s1 := if bit op 0 = (s.core c).dbgStop then s else s.after (execDebugHaltReq c (bit op 0) s)
    if bit op 1 then s1.after (execDebugStep c s1) else s1
  else if a = (ISL_CORE_FIFO_TW 0 0 0 0).addr then
    s.after (execFifoTestWrite (s.groupCore is) (Fin.ofNat 4 (is.getD 3 0)) v s)
  else if a = (HBR_OBJ_CMD 0).addr then s.objCmd i (op % 8)
  else if a = (OPT_REFL_CMD 0).addr then (if bit op 4 then s.after (execReflStart (asOE i) s) else s)
  else if a = RVR_EP_ALIAS.addr then (if bit op 16 then s.after (execAliasTake s) else s)
  else if a = (RVR_PORT_CTRL 0).addr then
    let s1 := if bit op 1 then s.after (execFullTrain (asPort i) s) else s
    let s2 := if bit op 7 then s1.unfence i else s1
    s2.enablePort i (bit op 0)
  else if a = RVR_EPOCH_CMD.addr then
    if op % 8 = 1 then s.after (execEpochDrain s) else if op % 8 = 2 then s.after (execEpochRetrain s)
    else if op % 8 = 3 then s.after (execEpochCommit s) else if op % 8 = 4 then s.after (execEpochResume s) else s
  else if a = RVR_TOPO_CMD.addr then
    if op % 4 = 1 then s.after (execTopoRead s) else if op % 4 = 2 then s.after (execTopoWrite s) else s
  else if a = TEN_CMD.addr then s.tenCmd (op % 8)
  else if a = TEN_KEY_CMD.addr then (if bit op 0 then s.writeKey else s)
  else if a = SRV_STRM_CMD.addr then
    if op % 4 = 1 then s.after (execStrmOpen s) else if op % 4 = 2 then s.after (execStrmClose s) else s
  else s

/-- The cleared TOKEN cause of tenant `t` may not set again before TOK_MOD_US have passed (R464). -/
def State.holdToken (s : State) (t : Nat) (v : Word) : State :=
  if bit v.toNat cToken && bit (s.get (TEN_VF_CAUSE_CAUSE t)) cToken then
    let wait := s.get (TEN_VF_TOKMOD_TOK_MOD_US t) * 1200
    { s with tokens := insert s.tokens t { until_ := s.tide.now + BitVec.ofNat 64 wait, waiting := false } }
  else s

/-- A register whose whole write is a rule of its own: the state, or none where the field rules apply. -/
def State.ownWrite (s : State) (a : Nat) (is : List Nat) (v : Word) : Option State :=
  let i := is.headD 0
  if a = MGT_BOOT_CFG.addr then some (s.after (execBootCfgWrite v s))
  else if a = (SRV_BUD_LEVEL_LO 0).addr then some { s with levelLo := insert s.levelLo i v }
  else if a = (SRV_BUD_LEVEL_HI 0).addr then some (s.levelWrite i v)
  else if a = SRV_PFX_CTRL.addr then some (s.after (execPfxObjWrite v s))
  else if a = (ISL_CORE_WCRED 0 0 0 0).addr ∧ s.locked .windowMode is = false then
    let s1 := s.after (execCreditGrantWrite (s.groupCore is) (Fin.ofNat 4 (is.getD 3 0)) (BitVec.ofNat 15 (fieldGet v 0 15))
      (BitVec.ofNat 15 (fieldGet v 15 15)) (bit v.toNat 30) s)
    let n := is.headD 0
    let more := bit v.toNat 31 && decide (s1.get (ISL_CLAMP_COUNT n) = s.get (ISL_CLAMP_COUNT n))
    some (if more then s1.clampBlock (ISL_CORE_WCRED n (is.getD 1 0) (is.getD 2 0) (is.getD 3 0)).addr else s1)
  else if a = (TEN_KEY_DATA 0).addr then some (s.setReg (TEN_KEY_DATA i) v)
  else if a = RVR_EP_ID.addr ∧ s.anyJob = true then some s
  else none

/-- What else follows from the value written: messages of a mask, the hold of a cleared TOKEN, a new endpoint ID (R441,
R464). DEDUCED, log 140. -/
def State.follow (s : State) (a : Nat) (is : List Nat) (v : Word) : State :=
  let i := is.headD 0
  if a = (TEN_VF_MASK 0).addr then s.writeMask (some i) (fieldGet v 0 9)
  else if a = TEN_PF_MASK.addr then s.writeMask none v.toNat
  else if a = RVR_EP_ID.addr then s.setFlag RVR_EP_ID_SUPERSEDED false
  else s

/-- A write of the whole register at BAR0 offset `key` (R12, R15, R579). DEDUCED, log 140. -/
def State.regWrite (s : State) (key : Nat) (v : Word) : State :=
  match regAt key with
  | none => s.clampBlock key
  | some (f, is) =>
    if !s.blockLive key then s.clampDead key
    else match s.ownWrite f.addr is v with
      | some s1 => s1
      | none =>
        let r : Reg := ⟨key, resetAt key⟩
        let s0 := if f.addr = (TEN_VF_CAUSE 0).addr then s.holdToken (is.headD 0) v else s
        let t := s.takeWord f is (s.reg r) v
        let s1 := ((s0.setReg r t.1).follow f.addr is v).onWrite f.addr is v
        if t.2 then s1.clampBlock key else s1

/-! ### Message tables (R464, R581, R582) -/

/-- A 4-byte write of entry `n` of a function's MSI-X table, as PCIe lays it out: address, data, mask; an unmasked vector
with a message pending sends it. PRESUMED, log 14. -/
def State.msixWrite (s : State) (fn n word : Nat) (v : Word) : State :=
  let k := msixKey fn n
  let e := lookupD s.msix k msixReset
  let lo := BitVec.ofNat 64 (e.addr.toNat % 2 ^ 32)
  let hi := BitVec.ofNat 64 (e.addr.toNat / 2 ^ 32 * 2 ^ 32)
  if word = 0 then { s with msix := insert s.msix k { e with addr := hi + BitVec.ofNat 64 (v.toNat / 4 * 4) } }
  else if word = 1 then { s with msix := insert s.msix k { e with addr := lo + BitVec.ofNat 64 (v.toNat * 2 ^ 32) } }
  else if word = 2 then { s with msix := insert s.msix k { e with data := v } }
  else
    let on := bit v.toNat 0
    let s1 : State := { s with msix := insert s.msix k { e with masked := on, pending := e.pending && on } }
    if e.pending && !on then s1.emit (.msix fn n) else s1

/-! ### Doorbell pages (R577, R578, R582 to R585) -/

/-- A doorbell command by its code; an OP that R585 does not list is refused, and those that move pages are taken as the
commands of their names, which carry the pages. DESIGN CHOICE, log 131. -/
def State.dbCmd (s : State) (t op : Nat) : State :=
  let tn := asTenant t
  match op with
  | 0x01 => s.dbLoad t
  | 0x02 => s.after (execDbPreempt tn s)
  | 0x03 => s.after (execDbResume tn s)
  | 0x04 => s.after (execDbDiscard tn s)
  | 0x05 => s.after (execDbReset tn s)
  | 0x11 => s.dbObj t 1
  | 0x12 => s.dbObj t 2
  | 0x13 => s.dbObj t 3
  | 0x14 => s.dbObj t 4
  | 0x15 => s.dbObj t 5
  | 0x16 => s.dbObj t 6
  | 0x18 => s.dbPages t 8 []
  | 0x19 => s.dbPages t 9 []
  | 0x20 => s.after (execDbStrmOpen tn s)
  | 0x21 => s.after (execDbStrmClose tn s)
  | _ => s.doorbell t fun _ => none

/-- A 4-byte write at offset `off` of the page of tenant `t`; mirrors write the tenant's own registers. -/
def State.pageWrite (s : State) (t off : Nat) (v : Word) : State :=
  let held (w : Nat) (s1 : State) : State := if v.toNat < 2 ^ w then s1 else s1.clampPage t off
  if !s.vfLive t then s.clampPage t off
  else if off = 0x10 then
    held 9 ((s.holdToken t v).put (TEN_VF_CAUSE_CAUSE t)
      (s.get (TEN_VF_CAUSE_CAUSE t) - (s.get (TEN_VF_CAUSE_CAUSE t) &&& v.toNat % 512)))
  else if off = 0x14 then held 9 (s.writeMask (some t) (v.toNat % 512))
  else if off = 0x18 then
    let n := clampVec (v.toNat % 2 ^ 27) (s.get (TEN_VF_CTRL_MSIX_CNT t))
    let s1 := s.put (TEN_VF_VEC_VEC t) n
    if n = v.toNat then s1 else s1.clampPage t off
  else if off = 0x1C then held 16 (s.put (TEN_VF_TOKMOD_TOK_MOD_US t) (v.toNat % 65536))
  else if off = 0x40 then held 7 (s.put (DB_PSEL_PART t) (v.toNat % 128))
  else if off = 0x100 then held 8 (s.dbCmd t (v.toNat % 256))
  else if 0x104 ≤ off ∧ off < 0x11C ∧ off % 4 = 0 then s.put (DB_ARG_ARG t ((off - 0x104) / 4)) v.toNat
  else if off = 0x200 then s.reqDoorbell t v
  else if 0x2000 ≤ off ∧ off < 0x2080 then s.msixWrite (t + 1) ((off - 0x2000) / 16) (off % 16 / 4) v
  else if (regAt (0x10000000 + 0x10000 * t + off)).isSome then s
  else s.clampPage t off

/-- An 8-byte write, where the register takes one whole (R584). -/
def State.pageWrite8 (s : State) (t off : Nat) (lo hi : Word) : Option State :=
  if off = 0x208 then some (s.tokHead t (hi ++ lo))
  else if off = 0x210 then some (s.cancel t (hi ++ lo))
  else none

/-! ### REGISTER_WRITE (R15, R578, R579) -/

/-- A clamped write of BAR0 or of a doorbell page. -/
def State.clampWrite (s : State) (bar2 : Bool) (a : Nat) : State :=
  if bar2 then s.clampPage (a / 65536) (a % 65536) else s.clampBlock a

/-- The 4 bytes at BAR0 or BAR2 offset `a`: clamped unless all of them are written; no byte enabled writes nothing. DEDUCED, log 140. -/
def State.write4 (s : State) (bar2 : Bool) (a : Nat) (v : Word) (be : BitVec 4) : State :=
  if be = 0 then s
  else if be ≠ 15 then s.clampWrite bar2 a
  else if bar2 then s.pageWrite (a / 65536) (a % 65536) v
  else if 0x7000 ≤ a ∧ a < 0x7200 then s.msixWrite 0 ((a - 0x7000) / 16) (a % 16 / 4) v
  else s.regWrite a v

/-- A write of one register or of an aligned pair: two 4-byte writes, the lower first, but for the 8-byte doorbells. The
physical function's BAR0 does not answer in D3hot (R574). DEDUCED, log 138; DEDUCED, log 140. -/
def State.hostWrite (s : State) (bar2 : Bool) (a : Nat) (lo : Word) (loBe : BitVec 4) (hi : Option (Word × BitVec 4)) : State :=
  if !s.linkUp || (s.host.d3hot && !bar2) then s
  else match hi with
    | none => s.write4 bar2 a lo loBe
    | some (w, be) =>
      let whole := if bar2 && decide (loBe = 15) && decide (be = 15) && s.vfLive (a / 65536) then
        s.pageWrite8 (a / 65536) (a % 65536) lo w else none
      match whole with
      | some s1 => s1
      | none => (s.write4 bar2 a lo loBe).write4 bar2 (a + 4) w be
def execRegisterWrite (bar2 : Bool) (dw : BitVec 26) (lo : Word) (loBe : BitVec 4) (hi : Option (Word × BitVec 4))
    (s : State) : Answer :=
  .next (s.hostWrite bar2 (4 * dw.toNat) lo loBe hi)

/-- POUR_WDOG_LIMIT_WRITE: LIMIT_US held to its range; the watchdogs compare with it from then on (R340, R346). -/
def execPourWdogLimitWrite (i : Island) (v : Word) (s : State) : Answer :=
  .next (s.regWrite (ISL_POUR_WDOG i).addr v)

/-! ### What a read returns (R12, R49, R577, R579, R582) -/

/-- What ISL_CORE_STATE shows of a core: its active slot, the states of its slots, the PC, and whether it is fenced, halted
for debug or held at the pour gate (R141). -/
def State.coreStateWord (s : State) (c : Nat) : Nat :=
  let k := s.core c
  let code : SlotState → Nat := fun x => match x with
    | .empty => 0
    | .ready => 1
    | .active => 2
    | .halted => 3
  let slots := (k.slots.zipIdx.map fun e => code e.1.state * 4 ^ e.2).foldl (· + ·) 0
  k.active + 4 * slots + 2 ^ 10 * k.slot.pc + 2 ^ 20 * (s.fenced c).toNat + 2 ^ 21 * k.dbgStop.toNat + 2 ^ 22 * k.atGate.toNat

/-- What ISL_CORE_ID shows: the logical core, the physical core that serves it, whether that is a spare, and whether a
run-time causeway entry maps it (R141). -/
def State.coreIdWord (s : State) (c : Nat) : Nat :=
  let i := s.phys (islOf c)
  c + 2 ^ 12 * s.pcore c + 2 ^ 24 * (isSpare (s.posOf i (inIsland c))).toNat
    + 2 ^ 25 * (lookup (s.isl i).causeway (inIsland c)).isSome.toNat

/-- What ISL_CORE_RING shows of ring `r` of the active slot: head, tail, full bits, slot count, producer (R237). -/
def State.ringWord (s : State) (c r : Nat) : Nat :=
  let x := (s.core c).slot
  let g := x.ring r
  match x.ringDesc r with
  | none => 0
  | some d =>
    g.head + 2 ^ 3 * g.tail + 2 ^ 6 * ((g.full.zipIdx.map fun e => e.1.toNat * 2 ^ e.2).foldl (· + ·) 0)
      + 2 ^ 14 * d.slots + 2 ^ 18 * d.producer

/-- The registers that show state the machine holds elsewhere: fuses, the tide, the key slots, the cores (R49, R141, R237,
R455, R587). The others show their own value. DESIGN CHOICE, log 17. -/
def State.shown (s : State) (key : Nat) : Option Nat :=
  let f := s.fuses
  let nibbles (w : Nat) : Nat :=
    ((List.range 8).map fun j => f.islmap.getD (8 * w + j) 0 % 16 * 16 ^ j).foldl (· + ·) 0
  let off := key % 0x100000
  let c := 128 * s.logIsland (key / 0x100000 - 16) + off / 0x10000 * 16 + off % 0x8000 / 0x400
  if key = HUB_ID.addr then
    some (f.grade + 2 ^ 8 * 0xB1 + 2 ^ 16 * ((f.fusedOff.map fun i => 2 ^ i).foldl (· + ·) 0))
  else if key = (HUB_ISLMAP 0).addr then some (nibbles 0)
  else if key = (HUB_ISLMAP 1).addr then some (nibbles 1)
  else if key = HUB_SERIAL_LO.addr then some (f.serial.toNat % 2 ^ 32)
  else if key = HUB_SERIAL_HI.addr then some (f.serial.toNat / 2 ^ 32)
  else if key = HUB_TIDE_LO.addr then some (s.tide.now.toNat % 2 ^ 32)
  else if key = TEN_KEY_STATE.addr then some (lookup s.keys (s.get TEN_KEY_IDX_SLOT)).isSome.toNat
  else if 0x1000000 ≤ key ∧ key < 0x2000000 ∧ off < 0x80000 ∧ 0x8000 ≤ off % 0x10000 ∧ off % 0x8000 < 0x4000 then
    let at_ := off % 0x400
    if at_ = 0 then some (s.coreIdWord c)
    else if at_ = 4 then some (s.coreStateWord c)
    else if 0x80 ≤ at_ ∧ at_ < 0xC0 then some (s.ringWord c ((at_ - 0x80) / 4))
    else none
  else none

/-- A register's value as a read returns it: 0 while its block does not answer, and the fields that read 0 masked, the
write-only ones (R12). DESIGN CHOICE, log 17; DEDUCED, log 126. -/
def State.readReg (s : State) (key : Nat) : Word :=
  match regAt key with
  | none => 0
  | some (f, _) =>
    if !s.blockLive key then 0
    else match s.shown key with
      | some n => BitVec.ofNat 32 n
      | none => f.fields.foldl (fun w d => if d.acc = .wo then fieldPut w d.lo d.width 0 else w) (s.reg ⟨key, resetAt key⟩)

/-- The partition information a page shows of its tenant's partition (R582). -/
def State.partInfo (s : State) (t : Nat) : Nat :=
  let p := s.get (DB_PSEL_PART t)
  if s.ownerOf p = some t ∧ s.partState p ≠ psFree then
    s.partState p + 8 + 2 ^ 8 * s.get (TEN_PART_STATUS_JOB_CODE p) + 2 ^ 16 * s.get (TEN_PART_STATUS_LAST_CODE p)
      + 2 ^ 24 * s.get (TEN_PART_FAULT_CODE p)
  else 0
def State.partFlt (s : State) (t : Nat) : Nat :=
  let p := s.get (DB_PSEL_PART t)
  if s.ownerOf p = some t ∧ s.partState p ≠ psFree then
    s.get (TEN_PART_FAULT_LCORE p) + 2 ^ 11 * s.get (TEN_PART_FAULT_VALID p)
  else 0

/-- What a read of a doorbell page returns; 0 while its tenant does not exist (R577, R582). DESIGN CHOICE, log 17. -/
def State.readPage (s : State) (t off : Nat) : Word :=
  if !s.vfLive t then 0
  else if off = 0x0 then
    BitVec.ofNat 32 (t + 2 ^ 12 * s.get (TEN_VF_CTRL_EN t) + 2 ^ 13 * s.get (TEN_VF_CTRL_QOS t)
      + 2 ^ 16 * s.get (TEN_VF_CTRL_MSIX_CNT t) + 2 ^ 20 * s.get (TEN_VF_CTRL_FLR_BUSY t))
  else if off = 0x10 then s.reg (TEN_VF_CAUSE t)
  else if off = 0x14 then s.reg (TEN_VF_MASK t)
  else if off = 0x18 then s.reg (TEN_VF_VEC t)
  else if off = 0x1C then s.reg (TEN_VF_TOKMOD t)
  else if off = 0x20 then s.reg (SRV_BUD_LEVEL_LO t)
  else if off = 0x24 then BitVec.ofNat 32 (s.get (SRV_BUD_LEVEL_HI_V t))
  else if off = 0x28 then s.reg (TEN_VF_ACCT t)
  else if off = 0x2C then s.reg (TEN_VF_ENDED t)
  else if off = 0x44 then BitVec.ofNat 32 (s.partInfo t)
  else if off = 0x48 then BitVec.ofNat 32 (s.partFlt t)
  else s.readReg (0x10000000 + 0x10000 * t + off)

end Sys2Proof.Machine
end

