-- ==== Sys2Proof/Machine/Dispatch.lean ====
section
/-! DEFINITION. One arm per command: a direct call of its meaning. -/

namespace Sys2Proof.Machine

def exec (i : Instr) (s : State) : Host.Outcome State Fault Refusal :=
  match i with
  | .registerWrite bar2 dw lo loBe hi => Sys2Proof.Machine.execRegisterWrite bar2 dw lo loBe hi s
  | .rootPllLock => Sys2Proof.Machine.execRootPllLock s
  | .pllLockTimeout => Sys2Proof.Machine.execPllLockTimeout s
  | .deskewDone => Sys2Proof.Machine.execDeskewDone s
  | .pllLockLoss => Sys2Proof.Machine.execPllLockLoss s
  | .governorEvaluation isl temps amps => Sys2Proof.Machine.execGovernorEvaluation isl temps amps s
  | .droopAlarm isl monitor => Sys2Proof.Machine.execDroopAlarm isl monitor s
  | .droopStepDown isl same => Sys2Proof.Machine.execDroopStepDown isl same s
  | .hubTideLoRead => Sys2Proof.Machine.execHubTideLoRead s
  | .tideSyncEdge => Sys2Proof.Machine.execTideSyncEdge s
  | .tideLoad => Sys2Proof.Machine.execTideLoad s
  | .tideSlew => Sys2Proof.Machine.execTideSlew s
  | .fenceCompletion c => Sys2Proof.Machine.execFenceCompletion c s
  | .fenceNoticeArrival c => Sys2Proof.Machine.execFenceNoticeArrival c s
  | .mm c f => Sys2Proof.Machine.execMm c f s
  | .mmac c f => Sys2Proof.Machine.execMmac c f s
  | .vadd c f => Sys2Proof.Machine.execVadd c f s
  | .vsub c f => Sys2Proof.Machine.execVsub c f s
  | .vmul c f => Sys2Proof.Machine.execVmul c f s
  | .vfma c f => Sys2Proof.Machine.execVfma c f s
  | .vmin c f => Sys2Proof.Machine.execVmin c f s
  | .vmax c f => Sys2Proof.Machine.execVmax c f s
  | .vsfu c f => Sys2Proof.Machine.execVsfu c f s
  | .vdiv c f => Sys2Proof.Machine.execVdiv c f s
  | .vred c f => Sys2Proof.Machine.execVred c f s
  | .vld c f => Sys2Proof.Machine.execVld c f s
  | .vst c f => Sys2Proof.Machine.execVst c f s
  | .vbcast c f => Sys2Proof.Machine.execVbcast c f s
  | .vscale c f => Sys2Proof.Machine.execVscale c f s
  | .rmax c f => Sys2Proof.Machine.execRmax c f s
  | .rsum c f => Sys2Proof.Machine.execRsum c f s
  | .rmean c f => Sys2Proof.Machine.execRmean c f s
  | .rvar c f => Sys2Proof.Machine.execRvar c f s
  | .rminmax c f => Sys2Proof.Machine.execRminmax c f s
  | .li c f => Sys2Proof.Machine.execLi c f s
  | .alu c f => Sys2Proof.Machine.execAlu c f s
  | .alui c f => Sys2Proof.Machine.execAlui c f s
  | .lds c f => Sys2Proof.Machine.execLds c f s
  | .sts c f => Sys2Proof.Machine.execSts c f s
  | .amov c f => Sys2Proof.Machine.execAmov c f s
  | .get c f => Sys2Proof.Machine.execGet c f s
  | .put c f => Sys2Proof.Machine.execPut c f s
  | .fill c f => Sys2Proof.Machine.execFill c f s
  | .copy c f => Sys2Proof.Machine.execCopy c f s
  | .send c f => Sys2Proof.Machine.execSend c f s
  | .sendi c f => Sys2Proof.Machine.execSendi c f s
  | .recv c f => Sys2Proof.Machine.execRecv c f s
  | .wput c f => Sys2Proof.Machine.execWput c f s
  | .tget c f => Sys2Proof.Machine.execTget c f s
  | .tput c f => Sys2Proof.Machine.execTput c f s
  | .transferDelivered c index closed => Sys2Proof.Machine.execTransferDelivered c index closed s
  | .rpop c f => Sys2Proof.Machine.execRpop c f s
  | .rpush c f => Sys2Proof.Machine.execRpush c f s
  | .rwait c f => Sys2Proof.Machine.execRwait c f s
  | .rsel c f => Sys2Proof.Machine.execRsel c f s
  | .ctake c f => Sys2Proof.Machine.execCtake c f s
  | .cset c f => Sys2Proof.Machine.execCset c f s
  | .cadd c f => Sys2Proof.Machine.execCadd c f s
  | .counterBankDecision k => Sys2Proof.Machine.execCounterBankDecision k s
  | .waitx c f => Sys2Proof.Machine.execWaitx c f s
  | .fence c f => Sys2Proof.Machine.execFence c f s
  | .waitt c f => Sys2Proof.Machine.execWaitt c f s
  | .waitm c f => Sys2Proof.Machine.execWaitm c f s
  | .loop c f => Sys2Proof.Machine.execLoop c f s
  | .br c f => Sys2Proof.Machine.execBr c f s
  | .beqz c f => Sys2Proof.Machine.execBeqz c f s
  | .bnez c f => Sys2Proof.Machine.execBnez c f s
  | .blt c f => Sys2Proof.Machine.execBlt c f s
  | .bge c f => Sys2Proof.Machine.execBge c f s
  | .nop c => Sys2Proof.Machine.execNop c s
  | .halt c => Sys2Proof.Machine.execHalt c s
  | .switch c slot => Sys2Proof.Machine.execSwitch c slot s
  | .yield c => Sys2Proof.Machine.execYield c s
  | .bkpt c => Sys2Proof.Machine.execBkpt c s
  | .slotSwitch c => Sys2Proof.Machine.execSlotSwitch c s
  | .switchRequestArrival c slot => Sys2Proof.Machine.execSwitchRequestArrival c slot s
  | .ladleStep c => Sys2Proof.Machine.execLadleStep c s
  | .stepChecksPass c => Sys2Proof.Machine.execStepChecksPass c s
  | .outputTileWrite c => Sys2Proof.Machine.execOutputTileWrite c s
  | .checksumRecompute c row col array => Sys2Proof.Machine.execChecksumRecompute c row col array s
  | .duplicateRerun c conv array => Sys2Proof.Machine.execDuplicateRerun c conv array s
  | .persistentMismatchFence c row col dup conv array => Sys2Proof.Machine.execPersistentMismatchFence c row col dup conv array s
  | .ladleTileDrop c => Sys2Proof.Machine.execLadleTileDrop c s
  | .preemptRequestAtCore c => Sys2Proof.Machine.execPreemptRequestAtCore c s
  | .debugHaltReq c halt => Sys2Proof.Machine.execDebugHaltReq c halt s
  | .debugStep c => Sys2Proof.Machine.execDebugStep c s
  | .injectionArm isl => Sys2Proof.Machine.execInjectionArm isl s
  | .ringFillArrival c slot r first grans final => Sys2Proof.Machine.execRingFillArrival c slot r first grans final s
  | .runnerForward c slot r => Sys2Proof.Machine.execRunnerForward c slot r s
  | .slotRelease c slot r => Sys2Proof.Machine.execSlotRelease c slot r s
  | .slotCreditReturn c slot r upstream stream => Sys2Proof.Machine.execSlotCreditReturn c slot r upstream stream s
  | .remoteWriteWindow c sender foreign first grans => Sys2Proof.Machine.execRemoteWriteWindow c sender foreign first grans s
  | .remoteWriteCredit c sender first grans => Sys2Proof.Machine.execRemoteWriteCredit c sender first grans s
  | .creditGrantWrite c n base len valid => Sys2Proof.Machine.execCreditGrantWrite c n base len valid s
  | .packetFirstWord c p route source grans => Sys2Proof.Machine.execPacketFirstWord c p route source grans s
  | .packetCommit c p grans badWords => Sys2Proof.Machine.execPacketCommit c p grans badWords s
  | .badPacketRewind c p => Sys2Proof.Machine.execBadPacketRewind c p s
  | .fifoTestWrite c p word => Sys2Proof.Machine.execFifoTestWrite c p word s
  | .gets c handle line same => Sys2Proof.Machine.execGets c handle line same s
  | .getm c handle line same => Sys2Proof.Machine.execGetm c handle line same s
  | .puts c handle line same => Sys2Proof.Machine.execPuts c handle line same s
  | .putm c handle line same => Sys2Proof.Machine.execPutm c handle line same s
  | .directoryDecision k handle line => Sys2Proof.Machine.execDirectoryDecision k handle line s
  | .inv c handle line requester => Sys2Proof.Machine.execInv c handle line requester s
  | .fwdGets c handle line requester => Sys2Proof.Machine.execFwdGets c handle line requester s
  | .fwdGetm c handle line requester => Sys2Proof.Machine.execFwdGetm c handle line requester s
  | .data c handle line => Sys2Proof.Machine.execData c handle line s
  | .invAck c handle line => Sys2Proof.Machine.execInvAck c handle line s
  | .scoreWrite c slot d first grans => Sys2Proof.Machine.execScoreWrite c slot d first grans s
  | .roundDecision k slot d => Sys2Proof.Machine.execRoundDecision k slot d s
  | .ferryReport h p sid k model experts => Sys2Proof.Machine.execFerryReport h p sid k model experts s
  | .ferryFetch h => Sys2Proof.Machine.execFerryFetch h s
  | .stationRoundClose h p sid => Sys2Proof.Machine.execStationRoundClose h p sid s
  | .ferryLinkLost h model expert => Sys2Proof.Machine.execFerryLinkLost h model expert s
  | .ferryHeatHalve h => Sys2Proof.Machine.execFerryHeatHalve h s
  | .exrRead => Sys2Proof.Machine.execExrRead s
  | .exrWrite => Sys2Proof.Machine.execExrWrite s
  | .objNop h => Sys2Proof.Machine.execObjNop h s
  | .objCreate h => Sys2Proof.Machine.execObjCreate h s
  | .objCommit h => Sys2Proof.Machine.execObjCommit h s
  | .objDelete h => Sys2Proof.Machine.execObjDelete h s
  | .objStage h => Sys2Proof.Machine.execObjStage h s
  | .objPin h => Sys2Proof.Machine.execObjPin h s
  | .objSetmask h => Sys2Proof.Machine.execObjSetmask h s
  | .objCommandComplete h => Sys2Proof.Machine.execObjCommandComplete h s
  | .pageHeatHalve h => Sys2Proof.Machine.execPageHeatHalve h s
  | .pagePromote h index page => Sys2Proof.Machine.execPagePromote h index page s
  | .pageMoveSwitch h index => Sys2Proof.Machine.execPageMoveSwitch h index s
  | .pageMoveRestart h index g grans => Sys2Proof.Machine.execPageMoveRestart h index g grans s
  | .patrolScrub h frame corrected bad again => Sys2Proof.Machine.execPatrolScrub h frame corrected bad again s
  | .cxlPoison h n frame pieces => Sys2Proof.Machine.execCxlPoison h n frame pieces s
  | .cxlLinkDown h n => Sys2Proof.Machine.execCxlLinkDown h n s
  | .cxlMediaEvent h n fields => Sys2Proof.Machine.execCxlMediaEvent h n fields s
  | .floorWindowStart h far => Sys2Proof.Machine.execFloorWindowStart h far s
  | .pathGrant h path retries => Sys2Proof.Machine.execPathGrant h path retries s
  | .pageLanding h index => Sys2Proof.Machine.execPageLanding h index s
  | .readRefresh h block dst ecc => Sys2Proof.Machine.execReadRefresh h block dst ecc s
  | .wearLevel h block dst => Sys2Proof.Machine.execWearLevel h block dst s
  | .blockRetire h block dst uncorrectable spareLow => Sys2Proof.Machine.execBlockRetire h block dst uncorrectable spareLow s
  | .ftlCheckpoint h => Sys2Proof.Machine.execFtlCheckpoint h s
  | .ftlMount h ok ms => Sys2Proof.Machine.execFtlMount h ok ms s
  | .pourWatchdogExpire c r => Sys2Proof.Machine.execPourWatchdogExpire c r s
  | .pourWdogLimitWrite isl v => Sys2Proof.Machine.execPourWdogLimitWrite isl v s
  | .ldrLoad => Sys2Proof.Machine.execLdrLoad s
  | .loadStageComplete ctx => Sys2Proof.Machine.execLoadStageComplete ctx s
  | .jobStart p => Sys2Proof.Machine.execJobStart p s
  | .imgRegister => Sys2Proof.Machine.execImgRegister s
  | .imgUnregister => Sys2Proof.Machine.execImgUnregister s
  | .entryBegin p => Sys2Proof.Machine.execEntryBegin p s
  | .entryEnd p => Sys2Proof.Machine.execEntryEnd p s
  | .fseqGo p => Sys2Proof.Machine.execFseqGo p s
  | .slotRewrite p slot => Sys2Proof.Machine.execSlotRewrite p slot s
  | .strmOpen => Sys2Proof.Machine.execStrmOpen s
  | .strmClose => Sys2Proof.Machine.execStrmClose s
  | .requestDoorbell t v => Sys2Proof.Machine.execRequestDoorbell t v s
  | .requestEntryParse stream bytes => Sys2Proof.Machine.execRequestEntryParse stream bytes s
  | .requestReadRetry stream => Sys2Proof.Machine.execRequestReadRetry stream s
  | .slotAdmit model => Sys2Proof.Machine.execSlotAdmit model s
  | .prefixLookup stream => Sys2Proof.Machine.execPrefixLookup stream s
  | .tokenHeadDoorbell t v => Sys2Proof.Machine.execTokenHeadDoorbell t v s
  | .cancel t v => Sys2Proof.Machine.execCancel t v s
  | .stepMessageSend b => Sys2Proof.Machine.execStepMessageSend b s
  | .stepMessageReceive b step rank entries => Sys2Proof.Machine.execStepMessageReceive b step rank entries s
  | .feedWrite b => Sys2Proof.Machine.execFeedWrite b s
  | .candidateRecord b slot shard grans same => Sys2Proof.Machine.execCandidateRecord b slot shard grans same s
  | .doneGranule b shard step last => Sys2Proof.Machine.execDoneGranule b shard step last s
  | .samplerService u => Sys2Proof.Machine.execSamplerService u s
  | .tokenAppend stream => Sys2Proof.Machine.execTokenAppend stream s
  | .mirrorAck b block rank => Sys2Proof.Machine.execMirrorAck b block rank s
  | .prefixAgeSweep => Sys2Proof.Machine.execPrefixAgeSweep s
  | .budgetRefill => Sys2Proof.Machine.execBudgetRefill s
  | .budgetLevelWrite t hi => Sys2Proof.Machine.execBudgetLevelWrite t hi s
  | .pfxObjWrite v => Sys2Proof.Machine.execPfxObjWrite v s
  | .servingFailover b lost shadows => Sys2Proof.Machine.execServingFailover b lost shadows s
  | .portTrainingComplete p signal width rtt ms => Sys2Proof.Machine.execPortTrainingComplete p signal width rtt ms s
  | .trainRetry p => Sys2Proof.Machine.execTrainRetry p s
  | .portRetrain p cause => Sys2Proof.Machine.execPortRetrain p cause s
  | .fullTrain p => Sys2Proof.Machine.execFullTrain p s
  | .clrFence p => Sys2Proof.Machine.execClrFence p s
  | .flitSend p => Sys2Proof.Machine.execFlitSend p s
  | .dataFlitReceive p seq ack vc dl => Sys2Proof.Machine.execDataFlitReceive p seq ack vc dl s
  | .badFlit p => Sys2Proof.Machine.execBadFlit p s
  | .nak p seq ack => Sys2Proof.Machine.execNak p seq ack s
  | .nakRepeat p => Sys2Proof.Machine.execNakRepeat p s
  | .replayTimeout p same => Sys2Proof.Machine.execReplayTimeout p same s
  | .credit p vc cls n ack => Sys2Proof.Machine.execCredit p vc cls n ack s
  | .timeReq p t1 t2 t3 => Sys2Proof.Machine.execTimeReq p t1 t2 t3 s
  | .timeRsp p depth t1 t2 t3 t4 offset => Sys2Proof.Machine.execTimeRsp p depth t1 t2 t3 t4 offset s
  | .timeExchange t1 => Sys2Proof.Machine.execTimeExchange t1 s
  | .train p ep nport width epoch alias_ refusal reason => Sys2Proof.Machine.execTrain p ep nport width epoch alias_ refusal reason s
  | .packet src key vroute id grans => Sys2Proof.Machine.execPacket src key vroute id grans s
  | .write src key vroute id offset sink grans => Sys2Proof.Machine.execWrite src key vroute id offset sink grans s
  | .ferryReq h src id handle page count => Sys2Proof.Machine.execFerryReq h src id handle page count s
  | .ferryData h src id model expert first grans => Sys2Proof.Machine.execFerryData h src id model expert first grans s
  | .eack src vc id done => Sys2Proof.Machine.execEack src vc id done s
  | .boardWr src id tenant baddr grans => Sys2Proof.Machine.execBoardWr src id tenant baddr grans s
  | .boardRd src id tenant baddr grans => Sys2Proof.Machine.execBoardRd src id tenant baddr grans s
  | .boardData src id grans => Sys2Proof.Machine.execBoardData src id grans s
  | .transitForward dest src key kind vroute tick offset resend id route hop dl grans => Sys2Proof.Machine.execTransitForward dest src key kind vroute tick offset resend id route hop dl grans s
  | .eackTimeout dest vc id => Sys2Proof.Machine.execEackTimeout dest vc id s
  | .routeFail route hop => Sys2Proof.Machine.execRouteFail route hop s
  | .heartbeatSend => Sys2Proof.Machine.execHeartbeatSend s
  | .heartbeat src => Sys2Proof.Machine.execHeartbeat src s
  | .heartbeatMiss n => Sys2Proof.Machine.execHeartbeatMiss n s
  | .takeover src ep => Sys2Proof.Machine.execTakeover src ep s
  | .withdraw src ep => Sys2Proof.Machine.execWithdraw src ep s
  | .aliasTake => Sys2Proof.Machine.execAliasTake s
  | .epochDrain => Sys2Proof.Machine.execEpochDrain s
  | .epochDrainTimeout => Sys2Proof.Machine.execEpochDrainTimeout s
  | .epochRetrain => Sys2Proof.Machine.execEpochRetrain s
  | .epochCommit => Sys2Proof.Machine.execEpochCommit s
  | .epochResume => Sys2Proof.Machine.execEpochResume s
  | .topoRead => Sys2Proof.Machine.execTopoRead s
  | .topoWrite => Sys2Proof.Machine.execTopoWrite s
  | .reflStart n => Sys2Proof.Machine.execReflStart n s
  | .reflComplete n events => Sys2Proof.Machine.execReflComplete n events s
  | .partCreate => Sys2Proof.Machine.execPartCreate s
  | .partDestroy => Sys2Proof.Machine.execPartDestroy s
  | .partAssign => Sys2Proof.Machine.execPartAssign s
  | .preempt => Sys2Proof.Machine.execPreempt s
  | .preemptStopTick p => Sys2Proof.Machine.execPreemptStopTick p s
  | .saveComplete p => Sys2Proof.Machine.execSaveComplete p s
  | .resume => Sys2Proof.Machine.execResume s
  | .resumeTick p complete => Sys2Proof.Machine.execResumeTick p complete s
  | .discard => Sys2Proof.Machine.execDiscard s
  | .resetCore => Sys2Proof.Machine.execResetCore s
  | .resetCluster => Sys2Proof.Machine.execResetCluster s
  | .resetPartition => Sys2Proof.Machine.execResetPartition s
  | .resetWarm => Sys2Proof.Machine.execResetWarm s
  | .drainCut p => Sys2Proof.Machine.execDrainCut p s
  | .resetComplete index => Sys2Proof.Machine.execResetComplete index s
  | .functionLevelReset t => Sys2Proof.Machine.execFunctionLevelReset t s
  | .keySlotWrite => Sys2Proof.Machine.execKeySlotWrite s
  | .causeMaskWrite who mask => Sys2Proof.Machine.execCauseMaskWrite who mask s
  | .msixMessage who cause => Sys2Proof.Machine.execMsixMessage who cause s
  | .tokenModerationExpire t => Sys2Proof.Machine.execTokenModerationExpire t s
  | .partFault p code c => Sys2Proof.Machine.execPartFault p code c s
  | .standbyRailGood => Sys2Proof.Machine.execStandbyRailGood s
  | .standbyRailLost => Sys2Proof.Machine.execStandbyRailLost s
  | .pwrOkRise => Sys2Proof.Machine.execPwrOkRise s
  | .pwrOkFall => Sys2Proof.Machine.execPwrOkFall s
  | .hubRailTimeout => Sys2Proof.Machine.execHubRailTimeout s
  | .coolOkFall => Sys2Proof.Machine.execCoolOkFall s
  | .coolOkRise => Sys2Proof.Machine.execCoolOkRise s
  | .coolLossTimeout => Sys2Proof.Machine.execCoolLossTimeout s
  | .vin12Fault => Sys2Proof.Machine.execVin12Fault s
  | .bootPhaseComplete r => Sys2Proof.Machine.execBootPhaseComplete r s
  | .retryWaitExpire => Sys2Proof.Machine.execRetryWaitExpire s
  | .waveStart => Sys2Proof.Machine.execWaveStart s
  | .softStartFault isl ramp => Sys2Proof.Machine.execSoftStartFault isl ramp s
  | .linkTrainTimeout => Sys2Proof.Machine.execLinkTrainTimeout s
  | .bootRestart => Sys2Proof.Machine.execBootRestart s
  | .bootClear => Sys2Proof.Machine.execBootClear s
  | .bootCfgWrite v => Sys2Proof.Machine.execBootCfgWrite v s
  | .rcvFenceGo => Sys2Proof.Machine.execRcvFenceGo s
  | .recoveryPhaseComplete p => Sys2Proof.Machine.execRecoveryPhaseComplete p s
  | .routerFault k => Sys2Proof.Machine.execRouterFault k s
  | .islandQuench isl reason hot amps => Sys2Proof.Machine.execIslandQuench isl reason hot amps s
  | .harborFault h => Sys2Proof.Machine.execHarborFault h s
  | .oeFault d => Sys2Proof.Machine.execOeFault d s
  | .hubFault => Sys2Proof.Machine.execHubFault s
  | .reannealStart => Sys2Proof.Machine.execReannealStart s
  | .canaryRun ch err => Sys2Proof.Machine.execCanaryRun ch err s
  | .reannealComplete ch err => Sys2Proof.Machine.execReannealComplete ch err s
  | .lockstepMismatch => Sys2Proof.Machine.execLockstepMismatch s
  | .exkWatchdogExpire => Sys2Proof.Machine.execExkWatchdogExpire s
  | .sensorSample dies towers rails trip => Sys2Proof.Machine.execSensorSample dies towers rails trip s
  | .powerReport blocks standby => Sys2Proof.Machine.execPowerReport blocks standby s
  | .peakClr => Sys2Proof.Machine.execPeakClr s
  | .eventLogCopy n => Sys2Proof.Machine.execEventLogCopy n s
  | .mbxNop => Sys2Proof.Machine.execMbxNop s
  | .readEvt => Sys2Proof.Machine.execReadEvt s
  | .readCrash => Sys2Proof.Machine.execReadCrash s
  | .clearCrash => Sys2Proof.Machine.execClearCrash s
  | .keyInstall k => Sys2Proof.Machine.execKeyInstall k s
  | .keyRevoke k => Sys2Proof.Machine.execKeyRevoke k s
  | .ownerProvision => Sys2Proof.Machine.execOwnerProvision s
  | .mbxQuench => Sys2Proof.Machine.execMbxQuench s
  | .mbxWarmReset => Sys2Proof.Machine.execMbxWarmReset s
  | .mbxColdReset => Sys2Proof.Machine.execMbxColdReset s
  | .mbxReanneal => Sys2Proof.Machine.execMbxReanneal s
  | .mailboxMessage kind => Sys2Proof.Machine.execMailboxMessage kind s
  | .requestUpdate => Sys2Proof.Machine.execRequestUpdate s
  | .passComponentTable last => Sys2Proof.Machine.execPassComponentTable last s
  | .updateComponent component => Sys2Proof.Machine.execUpdateComponent component s
  | .requestFirmwareData offset bytes => Sys2Proof.Machine.execRequestFirmwareData offset bytes s
  | .transferComplete ok => Sys2Proof.Machine.execTransferComplete ok s
  | .verifyComplete => Sys2Proof.Machine.execVerifyComplete s
  | .applyComplete ok => Sys2Proof.Machine.execApplyComplete ok s
  | .activateFirmware => Sys2Proof.Machine.execActivateFirmware s
  | .getStatus => Sys2Proof.Machine.execGetStatus s
  | .cancelUpdateComponent => Sys2Proof.Machine.execCancelUpdateComponent s
  | .cancelUpdate => Sys2Proof.Machine.execCancelUpdate s
  | .fwTrialExpire => Sys2Proof.Machine.execFwTrialExpire s
  | .mctpControl request args => Sys2Proof.Machine.execMctpControl request args s
  | .pldmPlatformRead q => Sys2Proof.Machine.execPldmPlatformRead q s
  | .pldmOemCommand q => Sys2Proof.Machine.execPldmOemCommand q s
  | .conventionalReset perst => Sys2Proof.Machine.execConventionalReset perst s
  | .pfFlr => Sys2Proof.Machine.execPfFlr s
  | .vfEnableClear => Sys2Proof.Machine.execVfEnableClear s
  | .pfD3hot => Sys2Proof.Machine.execPfD3hot s
  | .poisonedTlp => Sys2Proof.Machine.execPoisonedTlp s
  | .apertureRead a off len => Sys2Proof.Machine.execApertureRead a off len s
  | .apertureWrite a off bytes => Sys2Proof.Machine.execApertureWrite a off bytes s
  | .dbLoad t => Sys2Proof.Machine.execDbLoad t s
  | .dbPreempt t => Sys2Proof.Machine.execDbPreempt t s
  | .dbResume t => Sys2Proof.Machine.execDbResume t s
  | .dbDiscard t => Sys2Proof.Machine.execDbDiscard t s
  | .dbReset t => Sys2Proof.Machine.execDbReset t s
  | .dbObjCreate t => Sys2Proof.Machine.execDbObjCreate t s
  | .dbObjCommit t => Sys2Proof.Machine.execDbObjCommit t s
  | .dbObjDelete t => Sys2Proof.Machine.execDbObjDelete t s
  | .dbObjStage t => Sys2Proof.Machine.execDbObjStage t s
  | .dbObjPin t => Sys2Proof.Machine.execDbObjPin t s
  | .dbObjSetmask t => Sys2Proof.Machine.execDbObjSetmask t s
  | .objWrite t pages => Sys2Proof.Machine.execObjWrite t pages s
  | .objRead t => Sys2Proof.Machine.execObjRead t s
  | .dbStrmOpen t => Sys2Proof.Machine.execDbStrmOpen t s
  | .dbStrmClose t => Sys2Proof.Machine.execDbStrmClose t s
  | .perstBeforeReady => Sys2Proof.Machine.execPerstBeforeReady s
  | .vstbyOutOfLimits => Sys2Proof.Machine.execVstbyOutOfLimits s
  | .jtagInstruction x => Sys2Proof.Machine.execJtagInstruction x s
  | .droopAlarmClear isl cycles => Sys2Proof.Machine.execDroopAlarmClear isl cycles s
  | .idleFlit p ack => Sys2Proof.Machine.execIdleFlit p ack s
  | .portEnable p on => Sys2Proof.Machine.execPortEnable p on s
  | .vfEnable numVfs => Sys2Proof.Machine.execVfEnable numVfs s
  | .pfToD0 => Sys2Proof.Machine.execPfToD0 s
  | .perstDeassert => Sys2Proof.Machine.execPerstDeassert s
  | .vin12WithinLimits => Sys2Proof.Machine.execVin12WithinLimits s
  | .pairRestartComplete => Sys2Proof.Machine.execPairRestartComplete s
  | .pldmBaseCommand request args => Sys2Proof.Machine.execPldmBaseCommand request args s
  | .entdaa addr => Sys2Proof.Machine.execEntdaa addr s

end Sys2Proof.Machine
end

