-- ==== Sys2Proof/WellFormed.lean ====
section
/-! DEFINITION. Well-formed commands: core instructions with no reserved code (R103), and operands of the sizes the spec gives
what they stand for. -/

namespace Sys2Proof

/-- A granule with its side-band has 64 data bytes, four scales, sixteen WPOIS and four SPOIS bits (R202, R203). -/
def Granule.wf (g : Granule) : Bool :=
  decide (g.data.length = 64) && decide (g.scales.length = 4) && decide (g.wpois.length = 16) && decide (g.spois.length = 4)

/-- One to `n` whole granules: what a write, a fill or a message carries (R113, R420). -/
def gransWf (n : Nat) (gs : List Granule) : Bool :=
  decide (0 < gs.length) && decide (gs.length ≤ n) && gs.all Granule.wf

/-- An entry of a step message names a batch slot and as many tokens as it counts (R391). -/
def StepEntry.wf (e : StepEntry) : Bool := decide (e.slot < 256) && decide (e.toks.length = e.count)

/-- Whether a command is well formed. -/
def Instr.wf (i : Instr) : Bool :=
  match i with
  | .registerWrite _ dw _ _ hi => hi.isNone || decide (dw.toNat % 2 = 0)
  | .governorEvaluation _ temps _ => decide (temps.length = 16)
  | .mm _ f => Machine.matLegal f
  | .mmac _ f => Machine.matLegal f
  | .vsfu _ f => decide (f.fn.toNat ≤ 9)
  | .vred _ f => decide (f.fn.toNat ≤ 2)
  | .vld _ f => decide (f.fn.toNat ≤ 10)
  | .vst _ f => decide ((Machine.cvtDfmt f.cvt).toNat ≤ 10)
  | .rmax _ f => decide (f.fmt.toNat ≤ 10)
  | .rsum _ f => decide (f.fmt.toNat ≤ 10)
  | .rmean _ f => decide (f.fmt.toNat ≤ 10)
  | .rvar _ f => decide (f.fmt.toNat ≤ 10)
  | .rminmax _ f => decide (f.fmt.toNat ≤ 10)
  | .alu _ f => decide (f.fn.toNat ≤ 12)
  | .alui _ f => decide (f.fn.toNat ≤ 12)
  | .amov _ f => decide (f.fn.toNat ≤ 2)
  | .get _ f => decide (f.imm.toNat % 256 ≤ 9)
  | .put _ f => decide (f.imm.toNat % 256 = 6)
  | .ringFillArrival _ _ _ _ grans _ => gransWf 256 grans
  | .remoteWriteWindow _ _ _ _ grans => gransWf 256 grans
  | .remoteWriteCredit _ _ _ grans => gransWf 256 grans
  | .packetCommit _ _ grans badWords => gransWf 64 grans && badWords.all fun i => decide (i < 8 * grans.length)
  | .gets _ _ line _ => decide (line < 2 ^ 34)
  | .getm _ _ line _ => decide (line < 2 ^ 34)
  | .puts _ _ line _ => decide (line < 2 ^ 34)
  | .putm _ _ line _ => decide (line < 2 ^ 34)
  | .scoreWrite _ _ _ _ grans => gransWf 256 grans
  | .pagePromote _ _ page => decide (page < 2 ^ 24)
  | .pageMoveRestart _ _ _ grans => gransWf 256 grans
  | .stepMessageReceive _ _ _ entries => entries.all StepEntry.wf
  | .candidateRecord _ _ _ grans _ => gransWf 256 grans
  | .servingFailover _ _ shadows => shadows.all fun r => decide (r.hdr.length = 64)
  | .packet _ _ _ _ grans => gransWf 64 grans
  | .write _ _ _ _ _ _ grans => gransWf 256 grans
  | .ferryData _ _ _ _ _ _ grans => gransWf 256 grans
  | .boardWr _ _ _ _ grans => gransWf 256 grans
  | .boardRd _ _ _ _ grans => decide (0 < grans) && decide (grans ≤ 256)
  | .boardData _ _ grans => gransWf 256 grans
  | .transitForward _ _ _ _ _ _ _ _ _ _ _ _ grans => gransWf 256 grans
  | .sensorSample dies towers _ _ => decide (dies.length = 25) && dies.all (fun d => decide (d.length = 16)) && decide (towers.length = 12)
  | .powerReport blocks _ => decide (blocks.length = 25)
  | .apertureRead _ off len => decide (0 < len) && decide (off.toNat % 4096 + len ≤ 4096)
  | .apertureWrite _ off bytes => decide (0 < bytes.length) && decide (off.toNat % 4096 + bytes.length ≤ 4096)
  | .objWrite _ pages => pages.all fun p => match p with
    | some b => decide (b.1.length = 65536)
    | none => true
  | .rootPllLock | .pllLockTimeout | .deskewDone | .pllLockLoss | .droopAlarm _ _ | .droopStepDown _ _
  | .hubTideLoRead | .tideSyncEdge | .tideLoad | .tideSlew | .fenceCompletion _ | .fenceNoticeArrival _
  | .vadd _ _ | .vsub _ _ | .vmul _ _ | .vfma _ _ | .vmin _ _ | .vmax _ _ | .vdiv _ _ | .vbcast _ _ | .vscale _ _
  | .li _ _ | .lds _ _ | .sts _ _ | .fill _ _ | .copy _ _ | .send _ _ | .sendi _ _ | .recv _ _ | .wput _ _
  | .tget _ _ | .tput _ _ | .transferDelivered _ _ _ | .rpop _ _ | .rpush _ _ | .rwait _ _ | .rsel _ _
  | .ctake _ _ | .cset _ _ | .cadd _ _ | .counterBankDecision _ | .waitx _ _ | .fence _ _ | .waitt _ _
  | .waitm _ _ | .loop _ _ | .br _ _ | .beqz _ _ | .bnez _ _ | .blt _ _ | .bge _ _ | .nop _ | .halt _
  | .switch _ _ | .yield _ | .bkpt _ | .slotSwitch _ | .switchRequestArrival _ _ | .ladleStep _
  | .stepChecksPass _ | .outputTileWrite _ | .checksumRecompute _ _ _ _ | .duplicateRerun _ _ _
  | .persistentMismatchFence _ _ _ _ _ _ | .ladleTileDrop _ | .preemptRequestAtCore _ | .debugHaltReq _ _
  | .debugStep _ | .injectionArm _ | .runnerForward _ _ _ | .slotRelease _ _ _ | .slotCreditReturn _ _ _ _ _
  | .creditGrantWrite _ _ _ _ _ | .packetFirstWord _ _ _ _ _ | .badPacketRewind _ _ | .fifoTestWrite _ _ _
  | .directoryDecision _ _ _ | .inv _ _ _ _ | .fwdGets _ _ _ _ | .fwdGetm _ _ _ _ | .data _ _ _ | .invAck _ _ _
  | .roundDecision _ _ _ | .ferryReport _ _ _ _ _ _ | .ferryFetch _ | .stationRoundClose _ _ _
  | .ferryLinkLost _ _ _ | .ferryHeatHalve _ | .exrRead | .exrWrite | .objNop _ | .objCreate _ | .objCommit _
  | .objDelete _ | .objStage _ | .objPin _ | .objSetmask _ | .objCommandComplete _ | .pageHeatHalve _
  | .pageMoveSwitch _ _ | .patrolScrub _ _ _ _ _ | .cxlPoison _ _ _ _ | .cxlLinkDown _ _ | .cxlMediaEvent _ _ _
  | .floorWindowStart _ _ | .pathGrant _ _ _ | .pageLanding _ _ | .readRefresh _ _ _ _ | .wearLevel _ _ _
  | .blockRetire _ _ _ _ _ | .ftlCheckpoint _ | .ftlMount _ _ _ | .pourWatchdogExpire _ _
  | .pourWdogLimitWrite _ _ | .ldrLoad | .loadStageComplete _ | .jobStart _ | .imgRegister | .imgUnregister
  | .entryBegin _ | .entryEnd _ | .fseqGo _ | .slotRewrite _ _ | .strmOpen | .strmClose | .requestDoorbell _ _
  | .requestEntryParse _ _ | .requestReadRetry _ | .slotAdmit _ | .prefixLookup _ | .tokenHeadDoorbell _ _
  | .cancel _ _ | .stepMessageSend _ | .feedWrite _ | .doneGranule _ _ _ _ | .samplerService _ | .tokenAppend _
  | .mirrorAck _ _ _ | .prefixAgeSweep | .budgetRefill | .budgetLevelWrite _ _ | .pfxObjWrite _
  | .portTrainingComplete _ _ _ _ _ | .trainRetry _ | .portRetrain _ _ | .fullTrain _ | .clrFence _ | .flitSend _
  | .dataFlitReceive _ _ _ _ _ | .badFlit _ | .nak _ _ _ | .nakRepeat _ | .replayTimeout _ _ | .credit _ _ _ _ _
  | .timeReq _ _ _ _ | .timeRsp _ _ _ _ _ _ _ | .timeExchange _ | .train _ _ _ _ _ _ _ _ | .ferryReq _ _ _ _ _ _
  | .eack _ _ _ _ | .eackTimeout _ _ _ | .routeFail _ _ | .heartbeatSend | .heartbeat _ | .heartbeatMiss _
  | .takeover _ _ | .withdraw _ _ | .aliasTake | .epochDrain | .epochDrainTimeout | .epochRetrain | .epochCommit
  | .epochResume | .topoRead | .topoWrite | .reflStart _ | .reflComplete _ _ | .partCreate | .partDestroy
  | .partAssign | .preempt | .preemptStopTick _ | .saveComplete _ | .resume | .resumeTick _ _ | .discard
  | .resetCore | .resetCluster | .resetPartition | .resetWarm | .drainCut _ | .resetComplete _
  | .functionLevelReset _ | .keySlotWrite | .causeMaskWrite _ _ | .msixMessage _ _ | .tokenModerationExpire _
  | .partFault _ _ _ | .standbyRailGood | .standbyRailLost | .pwrOkRise | .pwrOkFall | .hubRailTimeout
  | .coolOkFall | .coolOkRise | .coolLossTimeout | .vin12Fault | .bootPhaseComplete _ | .retryWaitExpire
  | .waveStart | .softStartFault _ _ | .linkTrainTimeout | .bootRestart | .bootClear | .bootCfgWrite _
  | .rcvFenceGo | .recoveryPhaseComplete _ | .routerFault _ | .islandQuench _ _ _ _ | .harborFault _ | .oeFault _
  | .hubFault | .reannealStart | .canaryRun _ _ | .reannealComplete _ _ | .lockstepMismatch | .exkWatchdogExpire
  | .peakClr | .eventLogCopy _ | .mbxNop | .readEvt | .readCrash | .clearCrash | .keyInstall _ | .keyRevoke _
  | .ownerProvision | .mbxQuench | .mbxWarmReset | .mbxColdReset | .mbxReanneal | .mailboxMessage _
  | .requestUpdate | .passComponentTable _ | .updateComponent _ | .requestFirmwareData _ _ | .transferComplete _
  | .verifyComplete | .applyComplete _ | .activateFirmware | .getStatus | .cancelUpdateComponent | .cancelUpdate
  | .fwTrialExpire | .mctpControl _ _ | .pldmPlatformRead _ | .pldmOemCommand _ | .conventionalReset _ | .pfFlr
  | .vfEnableClear | .pfD3hot | .poisonedTlp | .dbLoad _ | .dbPreempt _ | .dbResume _ | .dbDiscard _ | .dbReset _
  | .dbObjCreate _ | .dbObjCommit _ | .dbObjDelete _ | .dbObjStage _ | .dbObjPin _ | .dbObjSetmask _ | .objRead _
  | .dbStrmOpen _ | .dbStrmClose _ | .perstBeforeReady | .vstbyOutOfLimits | .jtagInstruction _
  | .droopAlarmClear _ _ | .idleFlit _ _ | .portEnable _ _ | .vfEnable _ | .pfToD0 | .perstDeassert
  | .vin12WithinLimits | .pairRestartComplete | .pldmBaseCommand _ _ | .entdaa _ => true

end Sys2Proof
end

