-- ==== Sys2Proof/Safety.lean ====
section
/-! DEFINITION. What claims call a sound state: the canonical form of the sparse memories and of the register file, the map of
the islands, a queue of well-formed commands. -/

namespace Sys2Proof.Machine

/-- The canonical form of a tile store: addresses rise strictly and nothing listed equals what an unlisted address reads
as, in its data, its scales and its poison (R140, R202, R203). -/
def TileStore.wf (t : TileStore) : Bool :=
  canonical 0 t.data && canonical 0 t.scales && canonical false t.wpois && canonical false t.spois

/-- The canonical form of a harbor's tiers: near, middle and far bytes and their poison (R303 to R308). -/
def HarborSt.memWf (x : HarborSt) : Bool :=
  canonical 0 x.near && canonical 0 x.mid && canonical 0 x.far && canonical false x.npois && canonical false x.mpois
    && canonical false x.fpois

/-- The canonical form of every addressed memory of the block: the tiers of the harbors, the tile stores of the cores and
those that saved jobs keep. -/
abbrev Memory.wf (s : State) : Bool :=
  (s.harbors.all fun e => e.2.memWf) && (s.cores.all fun e => e.2.ts.wf)
    && s.saved.all fun j => j.cores.all fun e => e.2.ts.wf

/-- The islands' map of the fuses is one to one, onto islands that exist and are not fused off (R2, R24, R587). -/
def Fuses.sound (f : Fuses) : Bool :=
  decide f.islmap.Nodup && f.islmap.all fun i => decide (i < 16) && !f.fusedOff.contains i

/-- The invariant of the whole block: the register file lists its registers in strictly rising order and every addressed
memory is in its canonical form, so that equal contents are equal data, and the islands' map is sound. -/
def State.Inv (s : State) : Prop :=
  rising s.regs = true ∧ Memory.wf s = true ∧ s.fuses.sound = true

/-! ### What a command leaves alone -/

/-- Every register but those listed holds what it held. -/
def RegsBut (rs : List Reg) (s t : State) : Prop :=
  ∀ r : Reg, (∀ q ∈ rs, r.addr ≠ q.addr) → t.reg r = s.reg r

/-- Nothing has changed but the registers listed. -/
def OnlyRegs (rs : List Reg) (s t : State) : Prop :=
  t = { s with regs := t.regs } ∧ RegsBut rs s t

/-- Nothing has changed but core `c` and the registers listed: every other core, its tile store and its registers among
them, is as it was. -/
def CoreFrame (c : Nat) (rs : List Reg) (s t : State) : Prop :=
  t = { s with regs := t.regs, cores := t.cores } ∧ RegsBut rs s t ∧ ∀ d, d ≠ c → t.core d = s.core d

/-- Nothing has changed but harbor `h` and the registers listed: every core, job and other harbor is as it was. -/
def HarborFrame (h : Nat) (rs : List Reg) (s t : State) : Prop :=
  t = { s with regs := t.regs, harbors := t.harbors } ∧ RegsBut rs s t ∧ ∀ k, k ≠ h → t.harbor k = s.harbor k

/-- A core after an instruction that moves its program counter on: the active slot advanced, a debug step used up. -/
def CoreSt.next (k : CoreSt) : CoreSt := { k.setActive k.slot.advance with stepOnce := false }
/-- The same where the instruction has made slot `x` of the active slot. -/
def CoreSt.nextWith (k : CoreSt) (x : SlotSt) : CoreSt := { k.setActive x.advance with stepOnce := false }

/-- The registers in which an instruction of core `c` shows its events, counts and debug step (R141, R201). -/
def State.instrRegs (s : State) (c : Nat) : List Reg :=
  [s.atCore c ISL_CORE_EVT, s.atCore c ISL_CORE_VEC, s.atCore c ISL_CORE_DBG]

/-- Every command that waits is well formed. -/
def State.queueWf (s : State) : Bool := s.pending.all Instr.wf

end Sys2Proof.Machine
end

