-- ==== Sys2Proof/Certificates/Slice0/Obligations.lean ====
section
/-! DEFINITION. What is claimed of the block, rule by rule. -/

open Sys2Proof Sys2Proof.Machine


/-! ### The vector unit -/

/-- What a lane-wise operation on two registers gives: INT32 where both carry the INT32 tag, else FP32; a lane is poisoned where
one of its sources is (R175, R177). -/
def Sys2Proof.Machine.lanewise (fi ff : Word → Word → Word) (a b : VReg) : VReg :=
  if a.isInt && b.isInt then
    { isInt := true, lanes := List.zipWith fi a.lanes b.lanes, pois := orLanes a.pois b.pois }
  else { isInt := false, lanes := List.zipWith ff a.asF b.asF, pois := orLanes a.pois b.pois }

/-- Instruction `i` of core `c` completes: vector register `vd` holds `v`, the program counter has moved on, POISON_IN has
risen if a lane came out poisoned, and nothing else has changed but the counts of the vector unit. -/
def Sys2Proof.Machine.VecResult (i : Instr) (c vd : Nat) (v : VReg) (s : State) : Prop :=
  ∃ t, exec i s = .next t ∧ t.core c = CoreSt.next { s.core c with vregs := setAt (s.core c).vregs vd v }
    ∧ t.flag (s.atCore c ISL_CORE_EVT_POISON_IN) = (s.flag (s.atCore c ISL_CORE_EVT_POISON_IN) || v.pois.any id)
    ∧ CoreFrame c (s.instrRegs c) s t

/-- The lane-wise arithmetic of the vector unit. -/
def Sys2Proof.Claims.VectorArithmeticWritesVd : Prop :=
  ∀ (c : LCore) (f : VecF) (s : State), s.canIssue c = true →
    let a := (s.core c).vreg f.va
    let b := (s.core c).vreg f.vb
    let d := (s.core c).vreg f.vd
    VecResult (.vadd c f) c f.vd (lanewise iadd fadd a b) s
    ∧ VecResult (.vsub c f) c f.vd (lanewise isub fsub a b) s
    ∧ VecResult (.vmul c f) c f.vd (lanewise imul fmul a b) s
    ∧ VecResult (.vmin c f) c f.vd (lanewise imin fmin a b) s
    ∧ VecResult (.vmax c f) c f.vd (lanewise imax fmax a b) s
    ∧ VecResult (.vdiv c f) c f.vd
        { isInt := false, lanes := List.zipWith fdiv a.asF b.asF, pois := orLanes a.pois b.pois } s
    ∧ VecResult (.vfma c f) c f.vd
        { isInt := false, lanes := List.zipWith (fun p z => ffma p.1 p.2 z) (List.zip a.asF b.asF) d.asF,
          pois := orLanes (orLanes a.pois b.pois) d.pois } s

/-- The special functions, the reduction, the broadcast and the scaling. -/
def Sys2Proof.Claims.VectorFunctionsWriteVd : Prop :=
  ∀ (c : LCore) (f : VecF) (s : State), s.canIssue c = true →
    let a := (s.core c).vreg f.va
    (f.fn.toNat ≤ 9 → VecResult (.vsfu c f) c f.vd
      { isInt := false, lanes := a.asF.map fun x => (sfuFn f.fn x).getD f32NaN, pois := a.pois } s)
    ∧ (∀ op, redFn f.fn a.isInt = some op → VecResult (.vred c f) c f.vd
      { isInt := a.isInt, lanes := List.replicate 64 (laneTree op a.lanes),
        pois := List.replicate 64 (a.pois.any id) } s)
    ∧ (s.scored c [f.sa] = true → VecResult (.vbcast c f) c f.vd
      { isInt := false, lanes := List.replicate 64 (s.sreg c f.sa), pois := List.replicate 64 (s.spoison c f.sa) } s)
    ∧ (s.scored c [f.sa] = true → VecResult (.vscale c f) c f.vd
      { isInt := false, lanes := a.asF.map fun x => fmul x (s.sreg c f.sa),
        pois := a.pois.map fun q => q || s.spoison c f.sa } s)

/-- The ring slot that a load (the head slot) or a store (the tail slot) with SRC 1 goes to, as its first granule: none with
SRC 0. The ring must exist and hold a slot for it. -/
def Sys2Proof.Machine.LoadSlot (s : State) (c : Nat) (src : Bool) (ring : Nat) (g : Option Nat) : Prop :=
  if src then ∃ d, (s.core c).slot.ringDesc ring = some d ∧ 0 < ((s.core c).slot.ring ring).avail
    ∧ g = some (d.slotGran (((s.core c).slot.ring ring).headSlot d))
  else g = none
def Sys2Proof.Machine.StoreSlot (s : State) (c : Nat) (src : Bool) (ring : Nat) (g : Option Nat) : Prop :=
  if src then ∃ d, (s.core c).slot.ringDesc ring = some d ∧ 0 < ((s.core c).slot.ring ring).free d
    ∧ g = some (d.slotGran ((s.core c).slot.ring ring).tail)
  else g = none

/-- Loads: 64 elements at the aligned address, zeros with poison where they leave the scratchpad, and ADDR_OOR with them. -/
def Sys2Proof.Claims.VectorLoadReadsTileStore : Prop :=
  ∀ (c : LCore) (f : VecF) (s : State) (g : Option Nat), s.canIssue c = true → f.fn.toNat ≤ 10 → LoadSlot s c f.src f.ring g →
    let a := s.vecAddr c f f.fn g
    (s.inScratch c a (vecBytes f.fn) = true → VecResult (.vld c f) c f.vd
      { isInt := loadsInt f.fn, lanes := ((s.ts c).vecLoad f.fn a).1, pois := ((s.ts c).vecLoad f.fn a).2 } s)
    ∧ (s.inScratch c a (vecBytes f.fn) = false → VecResult (.vld c f) c f.vd
      { isInt := loadsInt f.fn, lanes := List.replicate 64 0, pois := List.replicate 64 true } s
      ∧ ∃ t, exec (.vld c f) s = .next t ∧ t.flag (s.atCore c ISL_CORE_EVT_ADDR_OOR) = true)

/-- Stores: the lanes converted and written at the aligned address, every byte outside them as it was; outside the scratchpad
nothing is written and ADDR_OOR rises. -/
def Sys2Proof.Claims.VectorStoreWritesItsBytes : Prop :=
  ∀ (c : LCore) (f : VecF) (s : State) (g : Option Nat), s.canIssue c = true → (cvtDfmt f.cvt).toNat ≤ 10 →
    StoreSlot s c f.src f.ring g →
    let a := s.vecAddr c f (cvtDfmt f.cvt) g
    let n := vecBytes (cvtDfmt f.cvt)
    let v := (s.core c).vreg f.va
    ∃ t, exec (.vst c f) s = .next t ∧ CoreFrame c (s.instrRegs c) s t
      ∧ t.core c = CoreSt.next { s.core c with ts := t.ts c }
      ∧ (s.inScratch c a n = true → t.ts c = (s.ts c).vecStore f.cvt a (s.vstRounding c f.cvt a)
          ((v.lanes.take 64).map (storeValue v.isInt (cvtDfmt f.cvt))) v.pois)
      ∧ (∀ b, b < a ∨ a + n ≤ b → (t.ts c).byte b = (s.ts c).byte b)
      ∧ (s.inScratch c a n = false → t.ts c = s.ts c ∧ t.flag (s.atCore c ISL_CORE_EVT_ADDR_OOR) = true)

/-- The vector unit: its arithmetic, its functions, the reduction, the broadcast and the scaling, each with the result the element rules give.
Where it rests on a reading or a choice of the model, not on a rule: logs 7, 8, 18 and 28. -/
def Obligations.VectorResultsAreWritten : Prop :=
  Sys2Proof.Claims.VectorArithmeticWritesVd ∧
  Sys2Proof.Claims.VectorFunctionsWriteVd

/-- Vector loads and stores at the aligned address, inside and outside the scratchpad.
Where it rests on a reading or a choice of the model, not on a rule: logs 8, 28 and 38. -/
def Obligations.VectorMemoryAccessIsExact : Prop :=
  Sys2Proof.Claims.VectorLoadReadsTileStore ∧
  Sys2Proof.Claims.VectorStoreWritesItsBytes

/-! ### Row statistics, scalars, fills and copies -/

/-- Where a STAT instruction reads its first row: a[AREG] aligned for its format, or the head slot of a ring that holds one
(R189). -/
def Sys2Proof.Machine.StatSource (s : State) (c : Nat) (f : StatF) (a : Nat) : Prop :=
  if f.src then ∃ d, (s.core c).slot.ringDesc f.ring = some d ∧ 0 < ((s.core c).slot.ring f.ring).avail
    ∧ a = 64 * d.slotGran (((s.core c).slot.ring f.ring).headSlot d)
  else a = alignDown (s.areg c f.areg).toNat (if isMX f.fmt then 64 else elemBits f.fmt / 8)

/-- Instruction `i` reduces each row under `op`: the words of row r go to DREG + 4·n·r, n of them a row; every byte outside the
words of the rows is as it was, and so is everything beside the tile store and the program counter of the core. With one row
whose source and result lie in the scratchpad, the words are those the operation gives on the row's elements. -/
def Sys2Proof.Machine.StatResult (i : Instr) (c : Nat) (f : StatF) (op : StatOp) (a : Nat) (s : State) : Prop :=
  let dst := alignDown (s.areg c f.dreg).toNat 4
  let rows := f.rows.toNat + 1
  let len := f.len.toNat + 1
  let n := (statRow op []).length
  ∃ t, exec i s = .next t ∧ CoreFrame c (s.instrRegs c) s t
    ∧ t.core c = CoreSt.next { s.core c with ts := t.ts c }
    ∧ (∀ b, b < dst ∨ dst + 4 * n * rows ≤ b → (t.ts c).byte b = (s.ts c).byte b)
    ∧ (rows = 1 → s.inScratch c a (rowBytes f.fmt len) = true → s.inScratch c dst (4 * n) = true →
        (t.ts c).bytes dst (4 * n) = (statRow op ((s.ts c).rowElems f.fmt a len).1).flatMap fun w => leBytes 4 w.toNat)

/-- The row statistics.
Where it rests on a reading or a choice of the model, not on a rule: logs 8, 28 and 37. -/
def Obligations.RowStatisticsWriteTheirWords : Prop :=
  ∀ (c : LCore) (f : StatF) (s : State) (a : Nat), s.canIssue c = true → f.fmt.toNat ≤ 10 → StatSource s c f a →
    StatResult (.rmax c f) c f .rmax a s ∧ StatResult (.rsum c f) c f .rsum a s ∧ StatResult (.rmean c f) c f .rmean a s
    ∧ StatResult (.rvar c f) c f .rvar a s ∧ StatResult (.rminmax c f) c f .rminmax a s

/-- s0 reads 0 and ignores writes; a write of another scalar register is read back, and the others are as they were. -/
def Obligations.ScalarRegisterZeroIsHardwired : Prop :=
  ∀ (x : SlotSt) (v : Word) (p : Bool), x.setS 0 v p = x ∧ x.sreg 0 = 0 ∧ x.spoison 0 = false
    ∧ ∀ i, i ≠ 0 → i < x.sregs.length → i < x.spois.length → (x.setS i v p).sreg i = v ∧ (x.setS i v p).spoison i = p
      ∧ ∀ j, j ≠ i → (x.setS i v p).sreg j = x.sreg j ∧ (x.setS i v p).spoison j = x.spoison j

/-- Instruction `i` of core `c` completes: the active slot is `x` with its program counter moved on, and nothing else has
changed but the events of the core. -/
def Sys2Proof.Machine.SlotResult (i : Instr) (c : Nat) (x : SlotSt) (s : State) : Prop :=
  ∃ t, exec i s = .next t ∧ t.core c = (s.core c).nextWith x ∧ CoreFrame c (s.instrRegs c) s t

/-- The scalar instructions: what s[SD] or a[SD] becomes. A GET of TIDE_LO latches the tide's upper half into TIDE_HI. -/
def Sys2Proof.Claims.ScalarInstructionsWriteTheirRegister : Prop :=
  ∀ (c : LCore) (f : MoveF) (s : State), s.canIssue c = true →
    let x := (s.core c).slot
    let a := x.sreg f.sa
    let w := s.wordAddr c f
    (s.scored c [f.sd] = true → SlotResult (.li c f) c (x.setS f.sd f.imm false) s)
    ∧ (∀ v, aluFn f.fn a (x.sreg f.sb) = some v → s.scored c [f.sa, f.sb, f.sd] = true →
        SlotResult (.alu c f) c (x.setS f.sd v (x.spoison f.sa || x.spoison f.sb)) s)
    ∧ (∀ v, aluFn f.fn a f.imm = some v → s.scored c [f.sa, f.sd] = true →
        SlotResult (.alui c f) c (x.setS f.sd v (x.spoison f.sa)) s)
    ∧ (s.scored c [f.sd] = true → s.inScratch c w 4 = true →
        SlotResult (.lds c f) c (x.setS f.sd (BitVec.ofNat 32 (leNat ((s.ts c).bytes w 4))) ((s.ts c).bytePois w)) s)
    ∧ (s.scored c [f.sd] = true → s.inScratch c w 4 = false → SlotResult (.lds c f) c (x.setS f.sd 0 true) s)
    ∧ (f.fn = 0 → s.scored c [f.sa] = true → x.spoison f.sa = false →
        SlotResult (.amov c f) c (x.setA f.sd (BitVec.ofNat 21 (a + f.imm).toNat)) s)
    ∧ (f.fn = 1 → SlotResult (.amov c f) c (x.setA f.sd (BitVec.ofNat 21 (addr21 (x.areg f.sa) f.imm.toInt))) s)
    ∧ (f.fn = 2 → s.scored c [f.sd] = true →
        SlotResult (.amov c f) c (x.setS f.sd (BitVec.ofNat 32 (x.areg f.sa).toNat) false) s)

/-- The special registers: GET reads each, a read of TIDE_LO latches the upper half of the tide; PUT writes EPOCH. -/
def Sys2Proof.Claims.SpecialRegistersAreReadAndWritten : Prop :=
  ∀ (c : LCore) (f : MoveF) (s : State), s.canIssue c = true →
    let k := s.core c
    (∀ v, s.special c (f.imm.toNat % 256) = some v → s.scored c [f.sd] = true →
      ∃ t, exec (.get c f) s = .next t ∧ CoreFrame c (s.instrRegs c) s t
        ∧ t.core c = { k with tideHi := if f.imm.toNat % 256 = 4 then (s.tide.now >>> 32).setWidth 32 else k.tideHi }.nextWith
            (k.slot.setS f.sd v false))
    ∧ (f.imm.toNat % 256 = 6 → s.scored c [f.sa] = true → s.spoison c f.sa = false →
      ∃ t, exec (.put c f) s = .next t ∧ CoreFrame c (s.instrRegs c) s t
        ∧ t.core c = CoreSt.next { k with epoch := s.sreg c f.sa })

/-- STS, FILL and COPY: the bytes each stores to, computed as it computes them, and no other byte of the tile store.
Where it rests on a reading or a choice of the model, not on a rule: logs 8, 29 and 39. -/
def Obligations.ScalarStoresWriteTheirBytes : Prop :=
  ∀ (c : LCore) (f : MoveF) (s : State), s.canIssue c = true →
    let w := s.wordAddr c f
    let d := (s.areg c f.sd).toNat / 64
    let room := s.scratchEnd c / 64 - d
    (s.scored c [f.sb] = true → ∃ t, exec (.sts c f) s = .next t ∧ CoreFrame c (s.instrRegs c) s t
      ∧ t.core c = CoreSt.next { s.core c with ts := t.ts c }
      ∧ (s.inScratch c w 4 = true → (t.ts c).bytes w 4 = leBytes 4 (s.sreg c f.sb).toNat
          ∧ (t.ts c).bytePois w = s.spoison c f.sb)
      ∧ (s.inScratch c w 4 = false → t.ts c = s.ts c ∧ t.flag (s.atCore c ISL_CORE_EVT_ADDR_OOR) = true)
      ∧ ∀ b, b < w ∨ w + 4 ≤ b → (t.ts c).byte b = (s.ts c).byte b)
    ∧ (s.scored c [f.sa, f.sb] = true → s.spoison c f.sa = false →
      let n := min ((s.sreg c f.sa).toNat / 64) room
      ∃ t, exec (.fill c f) s = .next t ∧ CoreFrame c (s.instrRegs c) s t
      ∧ t.core c = CoreSt.next { s.core c with ts := t.ts c }
      ∧ (∀ i < n, (t.ts c).granule (d + i) = fillGranule (s.sreg c f.sb) (s.spoison c f.sb))
      ∧ ∀ b, b < 64 * d ∨ 64 * (d + n) ≤ b → (t.ts c).byte b = (s.ts c).byte b)
    ∧ (s.scored c [f.sb] = true → s.spoison c f.sb = false →
      let g := (s.areg c f.sa).toNat / 64
      let n := min ((s.sreg c f.sb).toNat / 64) room
      ∃ t, exec (.copy c f) s = .next t ∧ CoreFrame c (s.instrRegs c) s t
      ∧ t.core c = CoreSt.next { s.core c with ts := t.ts c }
      ∧ (d + n ≤ g ∨ g + n ≤ d → s.inScratch c (64 * g) (64 * n) = true →
          ∀ i < n, (t.ts c).granule (d + i) = (s.ts c).granule (g + i))
      ∧ ∀ b, b < 64 * d ∨ 64 * (d + n) ≤ b → (t.ts c).byte b = (s.ts c).byte b)

/-- The scalar instructions and the special registers they read and write.
Where it rests on a reading or a choice of the model, not on a rule: logs 8 and 28. -/
def Obligations.ScalarUnitWritesItsRegisters : Prop :=
  Sys2Proof.Claims.ScalarInstructionsWriteTheirRegister ∧
  Sys2Proof.Claims.SpecialRegistersAreReadAndWritten

/-! ### Loops, branches, context, waits -/

/-- Instruction `i` of core `c` completes with its active slot `x` as it stands: a jump, a loop, a halt. -/
def Sys2Proof.Machine.JumpResult (i : Instr) (c : Nat) (x : SlotSt) (s : State) : Prop :=
  ∃ t, exec i s = .next t ∧ t.core c = { (s.core c).setActive x with stepOnce := false } ∧ CoreFrame c (s.instrRegs c) s t

/-- The loop, and the branches: taken to TARGET where their condition holds, else on to the next instruction. -/
def Sys2Proof.Claims.FlowMovesTheProgramCounter : Prop :=
  ∀ (c : LCore) (f : FlowF) (s : State), s.canIssue c = true →
    let x := (s.core c).slot
    let a := x.sreg f.sa
    let b := x.sreg f.sb
    let n := if f.count.toNat = 0 then a.toNat else f.count.toNat
    let ok1 := s.scored c [f.sa] = true ∧ x.spoison f.sa = false
    let ok2 := s.scored c [f.sa, f.sb] = true ∧ x.spoison f.sa = false ∧ x.spoison f.sb = false
    let landed (taken : Prop) [Decidable taken] : SlotSt := if taken then { x with pc := f.target } else x.advance
    (f.count.toNat ≠ 0 ∨ ok1 → JumpResult (.loop c f) c
      (if n = 0 then { x with loops := (afterPc x.loops f.target).1, pc := (afterPc x.loops f.target).2 }
       else { x with loops := { start := x.pc + 1, stop := f.target, left := n } :: x.loops, pc := x.pc + 1 }) s)
    ∧ JumpResult (.br c f) c { x with pc := f.target } s
    ∧ (ok1 → JumpResult (.beqz c f) c (landed (a = 0)) s)
    ∧ (ok1 → JumpResult (.bnez c f) c (landed (a ≠ 0)) s)
    ∧ (ok2 → JumpResult (.blt c f) c (landed (a.toInt < b.toInt)) s)
    ∧ (ok2 → JumpResult (.bge c f) c (landed (b.toInt ≤ a.toInt)) s)

/-- The context instructions: NOP, HALT, SWITCH to a READY slot once the units are quiet, YIELD to a pending request, BKPT with
BKPT_EN set. -/
def Sys2Proof.Claims.ContextInstructionsTakeEffect : Prop :=
  ∀ (c : LCore) (slot : Slot) (s : State), s.canIssue c = true →
    let k := s.core c
    SlotResult (.nop c) c k.slot s
    ∧ (∃ t, exec (.halt c) s = .next t ∧ CoreFrame c (s.instrRegs c) s t
        ∧ t.core c = { (k.setActive { k.slot with state := .halted }) with stepOnce := false, request := none, switchTo := k.request.or k.switchTo })
    ∧ (slot.val = k.active → SlotResult (.switch c slot) c k.slot s)
    ∧ (slot.val ≠ k.active → (k.slots.getD slot slotReset).state = .ready → k.ladleQuiet = true →
        ∃ t, exec (.switch c slot) s = .next t ∧ CoreFrame c (s.instrRegs c) s t
          ∧ t.core c = { k.next with switchTo := some slot.val })
    ∧ (∃ t, exec (.yield c) s = .next t ∧ CoreFrame c (s.instrRegs c) s t
        ∧ t.core c = { k.next with request := none, switchTo := k.request.or k.switchTo })
    ∧ (∃ t, exec (.bkpt c) s = .next t ∧ CoreFrame c (s.instrRegs c) s t
        ∧ t.core c = { k.next with dbgStop := s.flag (s.atCore c ISL_CORE_DBG_BKPT_EN) || k.dbgStop })

/-- The waits, each issued once its condition is true, and the fence at core scope. -/
def Sys2Proof.Claims.WaitsIssueOnTheirCondition : Prop :=
  ∀ (c : LCore) (f : WaitF) (s : State), s.canIssue c = true →
    let k := s.core c
    (s.tagsDone c f.mask = true → SlotResult (.waitx c f) c k.slot s)
    ∧ (s.scored c [f.sa, f.sb] = true →
        (s.sreg c f.sb).toNat * 2 ^ 32 + (s.sreg c f.sa).toNat ≤ s.tide.now.toNat → SlotResult (.waitt c f) c k.slot s)
    ∧ (k.ladleQuiet = true → SlotResult (.waitm c f) c k.slot s)
    ∧ (f.scope = 0 → ∃ t, exec (.fence c f) s = .next t ∧ CoreFrame c (s.instrRegs c) s t
        ∧ t.core c = CoreSt.next { k with fence := some 0 })
    ∧ (f.scope ≠ 0 → ∃ t, exec (.fence c f) s = .next t ∧ (t.core c).fence = some f.scope.val)

/-- Ring and route control: RPOP releases, RPUSH commits, RWAIT waits, RSEL selects. -/
def Sys2Proof.Claims.RingInstructionsMoveTheirRing : Prop :=
  ∀ (c : LCore) (f : GateF) (s : State) (d : RingDesc), s.canIssue c = true →
    let x := (s.core c).slot
    let r := x.ring f.ring
    let n := f.n.val + 1
    (x.ringDesc f.ring = some d → n ≤ r.avail → SlotResult (.rpop c f) c (x.setRing f.ring (r.releaseN d n)) s)
    ∧ (x.ringDesc f.ring = some d → n ≤ r.free d → SlotResult (.rpush c f) c (x.setRing f.ring (r.commitN d n)) s)
    ∧ (n ≤ r.avail → SlotResult (.rwait c f) c x s)
    ∧ (∀ q, x.tables.routes[f.route.val]? = some q → s.scored c [f.sa] = true → x.spoison f.sa = false →
        SlotResult (.rsel c f) c { x with rsel := Machine.insert x.rsel f.route (altOf q.kind (x.sreg f.sa)) } s)

/-- The counter instructions: each leaves its request with the cluster's counter bank, behind those that wait, and changes
nothing else but the program counter. -/
def Sys2Proof.Claims.CounterInstructionsAskTheBank : Prop :=
  ∀ (c : LCore) (f : CtrF) (s : State), s.canIssue c = true →
    let k := clusterOf c
    let asks (i : Instr) (r : CtrReq) : Prop :=
      ∃ t, exec i s = .next t ∧ t.core c = (s.core c).next
        ∧ t.cluster k = { s.cluster k with ctrReqs := (s.cluster k).ctrReqs ++ [r] }
        ∧ (∀ j, j ≠ k → t.cluster j = s.cluster j) ∧ (∀ d, d ≠ c.val → t.core d = s.core d)
        ∧ RegsBut (s.instrRegs c) s t ∧ t = { s with regs := t.regs, cores := t.cores, clusters := t.clusters }
    let req (op : Nat) (v : Word) (sd : Nat) : CtrReq :=
      { core := c, op := op, ctr := f.ctr, val := v, sd := sd, slot := (s.core c).active }
    (s.scored c [f.sd] = true → asks (.ctake c f) (req 0 (f.step.setWidth 32) f.sd))
    ∧ (s.scored c [f.sa] = true → s.spoison c f.sa = false → asks (.cset c f) (req 1 (s.sreg c f.sa) 0))
    ∧ (s.scored c [f.sa] = true → s.spoison c f.sa = false → asks (.cadd c f) (req 2 (s.sreg c f.sa) 0))

/-- An instruction whose check fails is held: one cycle counts in the stall counter of that check, and nothing else changes. -/
def Sys2Proof.Claims.FailedCheckCountsOneStall : Prop :=
  ∀ (c : LCore) (s : State), s.canIssue c = true →
    let held (i : Instr) (n : Nat) : Prop := ∃ t, exec i s = .next t
      ∧ OnlyRegs [s.atCore c fun i k j => ISL_CORE_STALL i k j n] s t
      ∧ t.get (s.atCore c fun i k j => ISL_CORE_STALL_CYCLES i k j n)
          = satAdd 32 (s.get (s.atCore c fun i k j => ISL_CORE_STALL_CYCLES i k j n)) 1
    (∀ f : MoveF, s.scored c [f.sd] = false → held (.li c f) 0 ∧ held (.lds c f) 0)
    ∧ (∀ f : XferF, s.scored c [f.sb] = true → s.placeFree c f.se = false →
        held (.wput c f) 1 ∧ held (.tget c f) 1 ∧ held (.tput c f) 1)
    ∧ (∀ f : GateF, ((s.core c).slot.ring f.ring).avail < f.n.val + 1 → held (.rwait c f) 2)
    ∧ (∀ (f : GateF) d, (s.core c).slot.ringDesc f.ring = some d → ((s.core c).slot.ring f.ring).free d < f.n.val + 1 →
        held (.rpush c f) 3)
    ∧ (∀ f : XferF, (s.fifo c f.port).take = none → held (.recv c f) 6)
    ∧ (∀ f : WaitF, (s.tagsDone c f.mask = false → held (.waitx c f) 7)
        ∧ ((s.core c).ladleQuiet = false → held (.waitm c f) 7))

/-- The core whose sequencer a command is the next instruction of; none for the other commands and for HALT, which a core past
its last instruction also takes. -/
def Sys2Proof.Instr.sequencer (i : Instr) : Option LCore :=
  match i with
  | .mm c _ | .mmac c _ | .vadd c _ | .vsub c _ | .vmul c _ | .vfma c _ | .vmin c _ | .vmax c _ | .vsfu c _ | .vdiv c _
  | .vred c _ | .vld c _ | .vst c _ | .vbcast c _ | .vscale c _ | .rmax c _ | .rsum c _ | .rmean c _ | .rvar c _
  | .rminmax c _ | .li c _ | .alu c _ | .alui c _ | .lds c _ | .sts c _ | .amov c _ | .get c _ | .put c _ | .fill c _
  | .copy c _ | .send c _ | .sendi c _ | .recv c _ | .wput c _ | .tget c _ | .tput c _ | .rpop c _ | .rpush c _
  | .rwait c _ | .rsel c _ | .ctake c _ | .cset c _ | .cadd c _ | .waitx c _ | .fence c _ | .waitt c _ | .waitm c _
  | .loop c _ | .br c _ | .beqz c _ | .bnez c _ | .blt c _ | .bge c _ | .nop c | .switch c _ | .yield c | .bkpt c =>
    some c
  | _ => none

/-- A core that may not issue (its slot is not ACTIVE, or it is stopped, fenced, pre-empted, switching, in a reset, or without a
job) changes nothing. -/
def Sys2Proof.Claims.CoreThatMayNotIssueChangesNothing : Prop :=
  ∀ (i : Instr) (c : LCore) (s : State), i.sequencer = some c → i.wf = true → s.canIssue c = false → exec i s = .next s

/-- Control flow: loops, branches and the context instructions.
Where it rests on a reading or a choice of the model, not on a rule: logs 6, 8, 30 and 35. -/
def Obligations.FlowAndContextTakeEffect : Prop :=
  Sys2Proof.Claims.FlowMovesTheProgramCounter ∧
  Sys2Proof.Claims.ContextInstructionsTakeEffect

/-- Waits and fences, ring and route control, and the counter instructions.
Where it rests on a reading or a choice of the model, not on a rule: logs 8, 31 and 36. -/
def Obligations.SynchronizationInstructionsTakeEffect : Prop :=
  Sys2Proof.Claims.WaitsIssueOnTheirCondition ∧
  Sys2Proof.Claims.RingInstructionsMoveTheirRing ∧
  Sys2Proof.Claims.CounterInstructionsAskTheBank

/-- A held instruction counts one stall, and a core that may not issue changes nothing.
Where it rests on a reading or a choice of the model, not on a rule: log 7. -/
def Obligations.HeldCoresChangeNothingElse : Prop :=
  Sys2Proof.Claims.FailedCheckCountsOneStall ∧
  Sys2Proof.Claims.CoreThatMayNotIssueChangesNothing

/-! ### Packets and transfers -/

/-- SEND and SENDI: to the null alternative and to a missing one nothing moves but the counts of R285; within the package the
packet leaves once the core holds credit for it, its credits are spent, and the message it makes is stamped with the tide. -/
def Sys2Proof.Claims.SendsSpendCreditAndLeave : Prop :=
  ∀ (c : LCore) (f : XferF) (s : State), s.canIssue c = true →
    let sends (i : Instr) (s0 : State) (gs : List Granule) : Prop :=
      let d := s0.dest c f.route
      let key := 64 * (s0.core c).active + f.route.val
      (d = .null → exec i s = .next ((s0.inc (s0.atCore c ISL_CORE_RSEL_NULL_CNT)).advance c))
      ∧ (d = .missing → ∃ t, exec i s = .next t
          ∧ t.get (s0.atCore c ISL_CORE_RSEL_OOR_CNT) = satAdd 16 (s0.get (s0.atCore c ISL_CORE_RSEL_OOR_CNT)) 1
          ∧ t.flag (s0.atCore c ISL_CORE_EVT_WCLOSED) = true ∧ t.core c = (s0.core c).next ∧ t.out = s0.out)
      ∧ (d ≠ .null → d ≠ .missing → (∀ e v, d ≠ .peer e v) → gs.length ≤ s0.credit c f.route →
          ∃ t, exec i s = .next t
            ∧ t.out = s0.out ++ [.noc c (destKey d) 0 s0.tide.now (0 :: gs.flatMap granNats)]
            ∧ t.core c = CoreSt.next { s0.core c with
                sendCred := Machine.insert (s0.core c).sendCred key (s0.credit c f.route - gs.length), sends := (s0.core c).sends + 1 }
            ∧ (∀ j, j ≠ c.val → t.core j = s0.core j) ∧ t = { s0 with regs := t.regs, cores := t.cores, out := t.out })
      ∧ (∀ e v, d = .peer e v → gs.length ≤ s0.credit c f.route →
          exec i s = .next ((s0.sendPacket c f.route d gs).advance c))
    let g := s.granAddr c f.areg
    let n := f.len.toNat + 1
    sends (.send c f) (s.outOfRange c (s.gransOut c g n)) (s.readGrans c g n)
    ∧ (s.scored c [f.sb] = true → sends (.sendi c f) s [wordGranule (s.sreg c f.sb) (s.spoison c f.sb)])

/-- RECV: the oldest visible packet of the FIFO is written from a[AREG] on, cut to LEN + 1 granules and marked with its bad
words, and leaves the FIFO whole; no byte of the core outside those granules changes, nor any other core's. -/
def Sys2Proof.Claims.RecvConsumesOldestPacket : Prop :=
  ∀ (c : LCore) (f : XferF) (s : State) (pk : Packet) (x : Fifo), s.canIssue c = true →
    (s.fifo c f.port).take = some (pk, x) →
    let g := s.granAddr c f.areg
    let gs := (pk.grans.mapIdx fun i v => parityMark pk.badWords i v).take (f.len.toNat + 1)
    ∃ t, exec (.recv c f) s = .next t
      ∧ (t.core c).fifos = setAt (s.core c).fifos f.port x
      ∧ (∀ b, b < 64 * g ∨ 64 * (g + gs.length) ≤ b → (t.ts c).byte b = (s.ts c).byte b)
      ∧ (∀ j, j ≠ c.val → t.ts j = s.ts j)
      ∧ (t.core c).slot.sregs = (s.core c).slot.sregs

/-- WPUT, TGET and TPUT issue: each takes a place of its stream engine under its tag, with the data a WPUT or TPUT reads, and the
program counter moves on. A transfer that leaves its descriptor's pages or its object moves nothing and is marked so. -/
def Sys2Proof.Claims.TransfersTakeTheirPlace : Prop :=
  ∀ (c : LCore) (f : XferF) (s : State), s.canIssue c = true → s.scored c [f.sb] = true → s.placeFree c f.se = true →
    s.spoison c f.sb = false →
    let g := s.granAddr c f.areg
    let n := f.len.toNat + 1
    let off := s.remoteOff c f
    let place (kind off handle : Nat) (cached closed : Bool) (data : List Granule) : Xfer :=
      ⟨s.nextId, f.se, f.tag, kind, (s.core c).active, 64 * g, off, n, handle, cached, 0, closed, data, []⟩
    (∀ q v, (s.core c).slot.tables.routes[f.route.val]? = some q → q.dkind ≠ 2 → s.dest c f.route = .route v →
      ∃ t, exec (.wput c f) s = .next t
        ∧ t.out = s.out ++ [.noc c v 1 s.tide.now (off :: (s.readGrans c g n).flatMap granNats)]
        ∧ (t.core c).xfers = (s.core c).xfers ++ [place 0 off 0 false false (s.readGrans c g n)]
        ∧ t.ts c = s.ts c ∧ t.nextId = s.nextId + 1)
    ∧ (∀ d, (s.core c).slot.tables.objs[f.desc.val]? = some d → s.obj d.handle = none →
      let closed (k : Nat) (data : List Granule) : List Xfer :=
        (s.core c).xfers ++ [place k (65536 * d.first + off) d.handle (decide (d.cache ≠ 0)) true data]
      (∃ t, exec (.tget c f) s = .next t ∧ (t.core c).xfers = closed 1 (List.replicate n poisonGranule) ∧ t.ts c = s.ts c)
      ∧ (∃ t, exec (.tput c f) s = .next t ∧ (t.core c).xfers = closed 2 (s.readGrans c g n) ∧ t.ts c = s.ts c))
    ∧ (∀ d o, (s.core c).slot.tables.objs[f.desc.val]? = some d → s.obj d.handle = some o → d.cache = 0 →
        off + 64 * n ≤ 65536 * d.pages → 65536 * d.first + off + 64 * n ≤ 65536 * o.pages →
      let asked (t : State) (put : Bool) : Prop :=
        (t.harbor (harborOf d.handle)).reqs = (s.harbor (harborOf d.handle)).reqs
          ++ (pageSplit (65536 * d.first + off) (64 * n)).map (fun e =>
            { cls := 1, path := o.path e.1, part := (if put then s.outOfRange c (s.gransOut c g n) else s).corePart c,
              at_ := s.tide.now, bytes := e.2, job := .xfer c s.nextId (indexOf d.handle) e.1 })
        ∧ (t.core c).xfers.getLast?.map (fun x => (x.kind, x.waits, x.closed)) =
            some (if put then 2 else 1, (pageSplit (65536 * d.first + off) (64 * n)).length, false)
        ∧ t.ts c = s.ts c
      (∃ t, exec (.tget c f) s = .next t ∧ asked t false)
      ∧ (o.sealed = false → ∃ t, exec (.tput c f) s = .next t ∧ asked t true))

/-- A transfer is delivered once its requests are granted, its lines held and its message acknowledged: it leaves its place,
which completes its tag; an uncached TGET's data are then in the tile store; one that moved nothing, or met a closed window,
raises WCLOSED. -/
def Sys2Proof.Claims.DeliveryCompletesTheTransfer : Prop :=
  ∀ (c : LCore) (index : Nat) (closed : Bool) (s : State) (x : Xfer), (s.core c).xfers[index]? = some x →
    let rest := (s.core c).xfers.filter fun y => decide (y.id ≠ x.id)
    (x.closed = true → ∃ t, exec (.transferDelivered c index closed) s = .next t ∧ (t.core c).xfers = rest
      ∧ t.ts c = s.ts c ∧ t.flag (s.atCore c ISL_CORE_EVT_WCLOSED) = true)
    ∧ (x.closed = false → x.waits = 0 → (x.cached = true → x.served = true) → s.awaits (.core c x.id) = false →
      ∃ t, exec (.transferDelivered c index closed) s = .next t ∧ (t.core c).xfers = rest
        ∧ (x.kind ≠ 1 ∨ x.cached = true → t.ts c = s.ts c)
        ∧ (x.kind = 1 → x.cached = false → ∀ i g, x.data[i]? = some g → g.wf = true →
            s.inScratch c (64 * (x.laddr / 64 + i)) 64 = true → (t.ts c).granule (x.laddr / 64 + i) = g)
        ∧ (x.kind = 1 → ∀ b, b < 64 * (x.laddr / 64) ∨ 64 * (x.laddr / 64 + x.data.length) ≤ b → (t.ts c).byte b = (s.ts c).byte b)
        ∧ (x.kind = 0 → closed = true → t.flag (s.atCore c ISL_CORE_EVT_WCLOSED) = true))

/-- SEND, SENDI and RECV.
Where it rests on a reading or a choice of the model, not on a rule: logs 8 and 33. -/
def Obligations.PacketsAreSentAndReceived : Prop :=
  Sys2Proof.Claims.SendsSpendCreditAndLeave ∧
  Sys2Proof.Claims.RecvConsumesOldestPacket

/-- WPUT, TGET and TPUT, from their issue to their delivery.
Where it rests on a reading or a choice of the model, not on a rule: logs 32, 33 and 34. -/
def Obligations.TransfersAreIssuedAndDelivered : Prop :=
  Sys2Proof.Claims.TransfersTakeTheirPlace ∧
  Sys2Proof.Claims.DeliveryCompletesTheTransfer

/-! ### The ladle -/

/-- The registers of a core that follow its ladle (R264). -/
def Sys2Proof.Machine.State.ladleRegs (s : State) (c : Nat) : List Reg :=
  [s.atCore c ISL_CORE_LADLE, s.atCore c ISL_CORE_LPOS]

/-- MM and MMAC issue: the macro enters the queue with its run-time shape and its operands' places, its sums at zero, and the
program counter moves on; no byte of the core changes, nor any other core. -/
def Sys2Proof.Claims.MacrosEnterTheQueue : Prop :=
  ∀ (c : LCore) (f : MatF) (s : State) (a o : MatDesc) (d : RingDesc), s.canIssue c = true → matLegal f = true →
    let k := s.core c
    let x := k.slot
    x.tables.mats[f.adesc.val]? = some a → x.tables.mats[f.odesc.val]? = some o → x.ringDesc f.wring = some d →
    s.scored c (matRegs f o) = true → k.queued.length < 2 → (∀ q ∈ matRegs f o, s.spoison c q = false) →
    let sh := runShape f a o (s.sreg c f.dreg)
    sh.1 ≤ a.rowsMax → sh.2.1 ≤ a.colsMax / 32 → sh.2.2 ≤ o.colsMax / 32 →
    let entered (i : Instr) (acc : Bool) : Prop := ∃ t, exec i s = .next t
      ∧ t.core c = CoreSt.next { k with ladle := k.ladle ++
          [{ seq := s.nextId, f := f, acc := acc, slot := k.active, adesc := a, odesc := o, abase := a.base + s.bregGrans c a,
             obase := if o.ringBacked then o.base else o.base + s.bregGrans c o, m := sh.1, tk := sh.2.1, tn := sh.2.2,
             wval := if o.ctr < 64 then (s.sreg c o.wreg).toNat else 0, pos := (0, 0, 0), released := 0,
             sums := List.replicate 4096 0, spois := List.replicate 4096 false, poisSeen := false, left := false, done := false }] }
      ∧ CoreFrame c (s.instrRegs c ++ s.ladleRegs c) { s with nextId := s.nextId + 1 } t
    entered (.mm c f) false ∧ (o.ringBacked = false → entered (.mmac c f) true)

/-- A ladle step: the first macro whose walk goes on begins its next step when its weight tile stands in the ring, no earlier
output it would read is unwritten and an output slot is free; the step joins those in flight with the products of its operands,
and the walk moves on. Held, it counts in LDROP_HAZ_CNT, or in stall counter 4 or 5. -/
def Sys2Proof.Claims.LadleStepBeginsOrWaits : Prop :=
  ∀ (c : LCore) (s : State) (m : Macro), s.ladleLive c = true → s.coreLive c = true → (s.core c).preempt = false →
    let k := s.core c
    (k.ladle.find? fun m => !m.done) = some m →
    let tile := k.tileSlot (k.ladle.takeWhile fun e => decide (e.seq ≠ m.seq)) m (m.tileIx m.pos)
    let held (n : Nat) (t : State) : Prop := t.get (s.atCore c fun i k j => ISL_CORE_STALL_CYCLES i k j n)
      = satAdd 32 (s.get (s.atCore c fun i k j => ISL_CORE_STALL_CYCLES i k j n)) 1
    (tile = none → ∃ t, exec (.ladleStep c) s = .next t ∧ held 4 t
        ∧ OnlyRegs [s.atCore c fun i k j => ISL_CORE_STALL i k j 4] s t)
    ∧ (tile ≠ none → k.hazard m m.pos = true → k.outSlotFree m = true → ∃ t, exec (.ladleStep c) s = .next t
        ∧ OnlyRegs [s.atCore c ISL_CORE_LDROP] s t
        ∧ t.get (s.atCore c ISL_CORE_LDROP_HAZ_CNT) = satAdd 16 (s.get (s.atCore c ISL_CORE_LDROP_HAZ_CNT)) 1)
    ∧ (tile ≠ none → k.hazard m m.pos = false → k.outSlotFree m = false → ∃ t, exec (.ladleStep c) s = .next t ∧ held 5 t
        ∧ OnlyRegs [s.atCore c fun i k j => ISL_CORE_STALL i k j 5] s t)
    ∧ (∀ g d, tile = some g → k.hazard m m.pos = false → k.outSlotFree m = true →
        (k.slots.getD m.slot slotReset).ringDesc m.f.wring = some d →
        let w := parseTile m.f.wfmt m.f.sparse ((s.ts c).granules g d.gran)
        let rows := s.slabRows c m m.pos.1 m.pos.2.2
        s.armedFor c rows w = false → ∃ t, exec (.ladleStep c) s = .next t
          ∧ (t.core c).steps = k.steps ++
              [{ macroSeq := m.seq, pos := m.pos, tile := m.tileIx m.pos, contrib := (stepSums m.f rows w).sums,
                 cpois := (stepSums m.f rows w).pois, init := if m.pos.2.2 = 0 then some (s.initSums c m m.pos) else none,
                 askips := (stepSums m.f rows w).askips, bskips := (stepSums m.f rows w).bskips, mis := none,
                 persist := false, recomputed := false, rerun := false }]
          ∧ (t.core c).ladle = k.ladle.map (fun e => if e.seq = m.seq then
              (match m.next m.pos with
                | some q => { m with pos := q }
                | none => { m with done := true }) else e)
          ∧ t.ts c = s.ts c ∧ (t.core c).outs = k.outs
          ∧ CoreFrame c (s.atCore c ISL_CORE_EVT :: s.ladleRegs c) s t)

/-- The oldest step's checks pass: it leaves the arrays and counts, its contributions are in its macro's sums, and the last
step of a tile hands the tile to the output stage. -/
def Sys2Proof.Claims.PassedStepCommits : Prop :=
  ∀ (c : LCore) (s : State) (x : StepRun) (rest : List StepRun) (m : Macro), s.ladleLive c = true →
    let k := s.core c
    k.steps = x :: rest → x.mis = none → (k.ladle.find? fun m => decide (m.seq = x.macroSeq)) = some m →
    ∃ t, exec (.stepChecksPass c) s = .next t ∧ (t.core c).steps = rest
      ∧ t.get (s.atCore c ISL_CORE_LSTEP_STEPS) = satAdd 32 (s.get (s.atCore c ISL_CORE_LSTEP_STEPS)) 1
      ∧ t.get (s.atCore c ISL_CORE_SKIP_ASKIP_CNT) = satAdd 16 (s.get (s.atCore c ISL_CORE_SKIP_ASKIP_CNT)) x.askips
      ∧ t.get (s.atCore c ISL_CORE_SKIP_BSKIP_CNT) = satAdd 16 (s.get (s.atCore c ISL_CORE_SKIP_BSKIP_CNT)) x.bskips
      ∧ (t.core c).outs.map (fun o => (o.s, o.n, o.sums, o.pois)) = k.outs.map (fun o => (o.s, o.n, o.sums, o.pois))
          ++ (if x.pos.2.2 + 1 = m.tk then [(x.pos.1, x.pos.2.1, (m.addStep x).sums, (m.addStep x).spois)] else [])
      ∧ t.ts c = s.ts c
      ∧ CoreFrame c ([s.atCore c ISL_CORE_EVT, s.atCore c ISL_CORE_LSTEP, s.atCore c ISL_CORE_SKIP] ++ s.ladleRegs c) s t

/-- The oldest step's first row or column mismatch recomputes it and abandons the steps behind it; a duplicate mismatch runs
its stage, or the oldest output tile's conversion, again. Each counts one recompute and names the array. -/
def Sys2Proof.Claims.MismatchesAreRunAgain : Prop :=
  ∀ (c : LCore) (s : State) (array : Fin 4), s.ladleLive c = true →
    let k := s.core c
    let noted (t : State) (arr : Nat) : Prop :=
      t.get (s.atCore c ISL_CORE_CHK_RECOMP_CNT) = satAdd 16 (s.get (s.atCore c ISL_CORE_CHK_RECOMP_CNT)) 1
      ∧ t.get (s.atCore c ISL_CORE_CHK_ARRAY) = arr ∧ t.flag (s.atCore c ISL_CORE_EVT_CHK_RECOMP) = true ∧ t.ts c = s.ts c
      ∧ CoreFrame c ([s.atCore c ISL_CORE_EVT, s.atCore c ISL_CORE_CHK] ++ s.ladleRegs c) s t
    (∀ x rest row col, k.steps = x :: rest → x.recomputed = false → x.mis = none → (row || col) = true →
      ∃ t, exec (.checksumRecompute c row col array) s = .next t ∧ noted t array.val
        ∧ (t.core c).steps = [{ x with recomputed := true }] ∧ (t.core c).outs = k.outs)
    ∧ (∀ x rest, k.steps = x :: rest → x.rerun = false → x.mis = none →
      ∃ t, exec (.duplicateRerun c false array) s = .next t ∧ noted t array.val
        ∧ t.core c = { k with steps := { x with rerun := true } :: rest })
    ∧ (∀ o rest, k.outs = o :: rest → o.rerun = false →
      ∃ t, exec (.duplicateRerun c true array) s = .next t ∧ noted t array.val
        ∧ t.core c = { k with outs := { o with rerun := true } :: rest })

/-- Where row `r` of an output tile is written: its block's place in the scratchpad, or in the slot of its ring. -/
def Sys2Proof.Machine.OutTile.rowPlace (o : OutTile) (ringGran : Option Nat) (r : Nat) : Nat × Nat :=
  match ringGran with
  | some g => MatDesc.place { o.m.odesc with rowsLayout := false } (cvtDfmt o.m.f.cvt) g r 0
  | none => o.m.odesc.place (cvtDfmt o.m.f.cvt) o.m.obase (128 * o.s + r) o.n

/-- Whether writing the block at `p` in format `c` touches byte `b`: its own bytes, and with the second block of a 6-bit granule
that granule's last 16, which hold zeros (R204). -/
def Sys2Proof.Machine.blockTouches (c : BitVec 4) (p : Nat × Nat) (b : Nat) : Prop :=
  let e := placeBytes c p
  (e.1 ≤ b ∧ b < e.1 + e.2) ∨ (isMX c = true ∧ elemBits c = 6 ∧ p.2 = 1 ∧ 64 * p.1 + 48 ≤ b ∧ b < 64 * p.1 + 64)

/-- The oldest completed output tile is converted and written: it leaves the output stage; only bytes of its rows' places
change, and a tile of a ring makes its slot full. -/
def Sys2Proof.Claims.OutputTileIsWritten : Prop :=
  ∀ (c : LCore) (s : State) (o : OutTile) (rest : List OutTile) (p : Nat) (j : JobSt), s.ladleLive c = true →
    (s.core c).outs = o :: rest → s.corePart c = some p → lookup s.jobs p = some j → j.ending = none →
    let x := (s.core c).slots.getD o.m.slot slotReset
    ∃ t, exec (.outputTileWrite c) s = .next t ∧ (t.core c).outs = rest
      ∧ CoreFrame c [s.atCore c ISL_CORE_EVT] s t
      ∧ (o.m.odesc.ringBacked = false →
          (∀ b, (∀ r, r < 128 → 128 * o.s + r < o.m.m → ¬ blockTouches (cvtDfmt o.m.f.cvt) (o.rowPlace none r) b) →
            (t.ts c).byte b = (s.ts c).byte b) ∧ (t.core c).slots = (s.core c).slots)
      ∧ (∀ d, o.m.odesc.ringBacked = true → x.ringDesc o.m.obase = some d →
          (∀ b, (∀ r, r < 128 → ¬ blockTouches (cvtDfmt o.m.f.cvt) (o.rowPlace (some (d.slotGran (x.ring o.m.obase).tail)) r) b) →
            (t.ts c).byte b = (s.ts c).byte b)
          ∧ (t.core c).slots = setAt (s.core c).slots o.m.slot (x.setRing o.m.obase
              (RingSt.commit { x.ring o.m.obase with reserved := (x.ring o.m.obase).reserved - 1 } d)))

/-- A tile outside the run-time shape at the head of its ring is released unused and counted; arming sets ISL_ARR_INJ.ARM. -/
def Sys2Proof.Claims.DroppedTilesAndInjections : Prop :=
  ∀ (c : LCore) (i : Island) (s : State) (m : Macro) (ms : List Macro),
    (s.ladleLive c = true → (s.core c).ladle = m :: ms → m.released < m.tiles → m.dropped m.released = true →
      (CoreSt.tileSlot (s.core c) [] m m.released).isSome = true →
      ∃ t, exec (.ladleTileDrop c) s = .next t ∧ OnlyRegs [s.atCore c ISL_CORE_LDROP] { s with cores := t.cores } t
        ∧ t.get (s.atCore c ISL_CORE_LDROP_DROP_CNT) = satAdd 16 (s.get (s.atCore c ISL_CORE_LDROP_DROP_CNT)) 1
        ∧ (t.core c).slots = ((s.core c).releaseTile m).slots ∧ t.ts c = s.ts c ∧ (∀ d, d ≠ c.val → t.core d = s.core d))
    ∧ ∃ t, exec (.injectionArm i) s = .next t ∧ t.flag (ISL_ARR_INJ_ARM i) = true
        ∧ OnlyRegs [ISL_ARR_INJ i] s t

/-- MM and MMAC from their entry into the queue to the steps their walk begins.
Where it rests on a reading or a choice of the model, not on a rule: log 40. -/
def Obligations.MacrosWalkStepByStep : Prop :=
  Sys2Proof.Claims.MacrosEnterTheQueue ∧
  Sys2Proof.Claims.LadleStepBeginsOrWaits

/-- The checks of a ladle step: passed it commits, mismatched it is run again.
Where it rests on a reading or a choice of the model, not on a rule: logs 41 and 42. -/
def Obligations.LadleStepsAreChecked : Prop :=
  Sys2Proof.Claims.PassedStepCommits ∧
  Sys2Proof.Claims.MismatchesAreRunAgain

/-- Completed tiles are written, tiles outside the shape are dropped, and injection is armed.
Where it rests on a reading or a choice of the model, not on a rule: log 41. -/
def Obligations.OutputTilesLeaveTheLadle : Prop :=
  Sys2Proof.Claims.OutputTileIsWritten ∧
  Sys2Proof.Claims.DroppedTilesAndInjections

/-! ### Slots, debug, rings, remote writes, FIFOs -/

/-- The slot switch and the requests that lead to it, the debug halt and step, and the pre-emption request at a core; each
changes its own core alone.
Where it rests on a reading or a choice of the model, not on a rule: logs 5 and 86. -/
def Obligations.SlotsSwitchAndStop : Prop :=
  ∀ (c : LCore) (slot : Slot) (s : State),
    let k := s.core c
    let own (i : Instr) (rs : List Reg) (P : CoreSt → Prop) : Prop :=
      ∃ t, exec i s = .next t ∧ P (t.core c) ∧ CoreFrame c rs s t ∧ (t.core c).ts = k.ts ∧ (t.core c).vregs = k.vregs
    (∀ n, k.switchTo = some n → n ≠ k.active → n < k.slots.length → k.active < k.slots.length →
      (k.slots.getD n slotReset).state = .ready → k.ladleQuiet = true → k.preempt = false →
      own (.slotSwitch c) [] fun q => q.active = n ∧ q.switchTo = none ∧ q.slot = (k.slots.getD n slotReset).activate
        ∧ (k.slot.state = .active → q.slots.getD k.active slotReset = { k.slot with state := .ready })
        ∧ (k.slot.state ≠ .active → q.slots.getD k.active slotReset = k.slot))
    ∧ (k.slot.state = .active → own (.switchRequestArrival c slot) [] fun q => q = { k with request := some slot.val })
    ∧ (k.slot.state ≠ .active → own (.switchRequestArrival c slot) [] fun q => q = { k with switchTo := some slot.val })
    ∧ (∀ halt, own (.debugHaltReq c halt) [s.atCore c ISL_CORE_DBG] fun q => q = { k with dbgStop := halt })
    ∧ (k.dbgStop = true → own (.debugStep c) [s.atCore c ISL_CORE_DBG] fun q => q = { k with stepOnce := true })
    ∧ (∀ p, s.corePart c = some p → s.stopsNow p = true →
        own (.preemptRequestAtCore c) [] fun q => q = { k with preempt := true, starve := [] })

/-- A ring fill within its slot is written there and the slot becomes full with its last granule; one to a full slot or beyond
it is dropped whole and counted; where the scope is in a reset it is absorbed. No byte outside the fill changes. -/
def Sys2Proof.Claims.RingFillsLandOrAreDropped : Prop :=
  ∀ (c : LCore) (slot : Slot) (r : Ring) (first : Fin 256) (gs : List Granule) (final : Bool) (s : State) (d : RingDesc),
    let k := s.core c
    let x := k.slots.getD slot slotReset
    let v := x.ring r
    let i : Instr := .ringFillArrival c slot r first gs final
    x.ringDesc r = some d → d.producer < 3 → s.absorbs c = false →
    let g := d.slotGran v.tail + first
    let last : Prop := if d.producer = 2 then first + gs.length = d.gran else final = true
    (v.full.getD v.tail false = false → first + gs.length ≤ d.gran → ∃ t, exec i s = .next t
        ∧ (last → (t.core c).slots = setAt k.slots slot (x.setRing r (v.commit d)))
        ∧ (¬ last → (t.core c).slots = setAt k.slots slot (x.setRing r { v with filled := first + gs.length }))
        ∧ (∀ j q, gs[j]? = some q → q.wf = true → s.inScratch c (64 * (g + j)) 64 = true → (t.ts c).granule (g + j) = q)
        ∧ (∀ b, b < 64 * g ∨ 64 * (g + gs.length) ≤ b → (t.ts c).byte b = (s.ts c).byte b)
        ∧ CoreFrame c [] s t)
    ∧ (v.full.getD v.tail false = true ∨ d.gran < first + gs.length → ∃ t, exec i s = .next t
        ∧ t.get (s.atCore c ISL_CORE_WIN_WDROP_CNT) = satAdd 16 (s.get (s.atCore c ISL_CORE_WIN_WDROP_CNT)) 1
        ∧ OnlyRegs [s.atCore c ISL_CORE_WIN] s t)

/-- A runner forwards the oldest full slot it has not forwarded, under a credit; the slot leaves the ring once its forward is
delivered and its consumer has released it; its credit then goes back to the producer. -/
def Sys2Proof.Claims.RunnersForwardAndReturnCredit : Prop :=
  ∀ (c : LCore) (slot : Slot) (r : Ring) (s : State) (d : RingDesc),
    let k := s.core c
    let x := k.slots.getD slot slotReset
    let v := x.ring r
    x.ringDesc r = some d →
    (∀ f rt, s.fenced c = false → d.forward = some f → x.tables.routes[f]? = some rt → v.forwarded < v.count →
      0 < v.credits →
      let g := d.slotGran (v.head + v.forwarded)
      ∃ t, exec (.runnerForward c slot r) s = .next t
        ∧ t.out = s.out ++ [.noc c rt.vroute 2 s.tide.now
            (0 :: ((s.ts c).granules g (tileGrans d ((s.ts c).granule g))).flatMap granNats)]
        ∧ t.core c = k.setSlot slot (x.setRing r { v with forwarded := v.forwarded + 1, credits := v.credits - 1 })
        ∧ (∀ e, e ≠ c.val → t.core e = s.core e) ∧ t = { s with cores := t.cores, out := t.out })
    ∧ (v.delivered < v.forwarded → ∃ t, exec (.slotRelease c slot r) s = .next t
        ∧ t.core c = k.setSlot slot (x.setRing r (RingSt.settle { v with delivered := v.delivered + 1 } d 8))
        ∧ CoreFrame c [] s t)
    ∧ (0 < v.due → d.producer = 1 → ∀ (u : LCore) (q : Fin 64), u ≠ c → let up := (s.core u).slots.getD slot slotReset
        ∃ t, exec (.slotCreditReturn c slot r (some (u, q)) none) s = .next t
          ∧ t.core c = k.setSlot slot (x.setRing r { v with due := v.due - 1 })
          ∧ t.core u = (s.core u).setSlot slot (up.setRing q { up.ring q with credits := (up.ring q).credits + 1 })
          ∧ (∀ e, e ≠ c.val → e ≠ u.val → t.core e = s.core e) ∧ t = { s with cores := t.cores })
    ∧ (0 < v.due → d.producer = 2 → ∀ (u : LCore) (q : Fin 64), u ≠ c →
        let key := 64 * slot.val + q.val
        ∃ t, exec (.slotCreditReturn c slot r (some (u, q)) none) s = .next t
          ∧ t.core u = { s.core u with sendCred := Machine.insert (s.core u).sendCred key (lookupD (s.core u).sendCred key 0 + 1) }
          ∧ (∀ e, e ≠ c.val → e ≠ u.val → t.core e = s.core e) ∧ t = { s with cores := t.cores })

/-- A remote write is judged by the mode of its core: by an open window, or against a credit entry whose length it spends;
admitted, exactly its granules are written; refused, it is dropped whole and counted. -/
def Sys2Proof.Claims.RemoteWritesNeedAWindowOrCredit : Prop :=
  ∀ (c : LCore) (sender : BitVec 12) (foreign : Bool) (first : BitVec 15) (gs : List Granule) (s : State),
    s.absorbs c = false →
    let n := first.toNat
    let written (t : State) : Prop :=
      (∀ j q, gs[j]? = some q → q.wf = true → s.inScratch c (64 * (n + j)) 64 = true → (t.ts c).granule (n + j) = q)
      ∧ (∀ b, b < 64 * n ∨ 64 * (n + gs.length) ≤ b → (t.ts c).byte b = (s.ts c).byte b)
      ∧ ∃ ts, t.core c = { s.core c with ts := ts }
    let dropped (f : Nat → Nat → Nat → RF) (r : Nat → Nat → Nat → Reg) (t : State) : Prop :=
      t.get (s.atCore c f) = satAdd 16 (s.get (s.atCore c f)) 1 ∧ OnlyRegs [s.atCore c r] s t
    (s.windowMode c = true →
      (s.windowAdmits c sender foreign n gs.length = true →
        ∃ t, exec (.remoteWriteWindow c sender foreign first gs) s = .next t ∧ written t ∧ CoreFrame c [] s t)
      ∧ (s.windowAdmits c sender foreign n gs.length = false →
        ∃ t, exec (.remoteWriteWindow c sender foreign first gs) s = .next t ∧ dropped ISL_CORE_WIN_WDROP_CNT ISL_CORE_WIN t))
    ∧ (s.windowMode c = false →
      (∀ e : Fin 4, s.creditAdmits c e sender n gs.length = true →
        (∀ e' : Fin 4, e' < e → s.creditAdmits c e' sender n gs.length = false) →
        let len := s.get (s.atCore c fun i k j => ISL_CORE_WCRED_LEN i k j e)
        ∃ t, exec (.remoteWriteCredit c sender first gs) s = .next t ∧ written t
          ∧ t.get (s.atCore c fun i k j => ISL_CORE_WCRED_LEN i k j e) = len - gs.length
          ∧ t.flag (s.atCore c fun i k j => ISL_CORE_WCRED_VALID i k j e) = decide (len ≠ gs.length)
          ∧ CoreFrame c [s.atCore c fun i k j => ISL_CORE_WCRED i k j e] s t)
      ∧ ((∀ e : Fin 4, s.creditAdmits c e sender n gs.length = false) →
        ∃ t, exec (.remoteWriteCredit c sender first gs) s = .next t ∧ dropped ISL_CORE_WIN_CDROP_CNT ISL_CORE_WIN t))

/-- A credit entry written in CREDIT mode holds BASE, LEN and VALID, and GRANT_LEN holds LEN, where the range lies in the
scratchpad; in WINDOW mode it is locked: another value is clamped and counted. -/
def Sys2Proof.Claims.CreditGrantsAreWritten : Prop :=
  ∀ (c : LCore) (n : Fin 4) (base len : BitVec 15) (valid : Bool) (s : State),
    let at_ (f : Nat → Nat → Nat → Nat → RF) : RF := s.atCore c fun i k j => f i k j n
    let pi := s.phys (islOf c)
    (s.flag (s.atCore c ISL_CORE_TS_WMODE) = false → base.toNat + len.toNat ≤ s.scratchEnd c / 64 →
      base.toNat < s.scratchEnd c / 64 →
      ∃ t, exec (.creditGrantWrite c n base len valid) s = .next t
        ∧ t.get (at_ ISL_CORE_WCRED_BASE) = base.toNat ∧ t.get (at_ ISL_CORE_WCRED_LEN) = len.toNat
        ∧ t.flag (at_ ISL_CORE_WCRED_VALID) = valid ∧ t.get (at_ ISL_CORE_WKEY_GRANT_LEN) = len.toNat
        ∧ OnlyRegs [s.atCore c fun i k j => ISL_CORE_WCRED i k j n, s.atCore c fun i k j => ISL_CORE_WKEY i k j n] s t)
    ∧ (s.flag (s.atCore c ISL_CORE_TS_WMODE) = true → s.get (at_ ISL_CORE_WCRED_LEN) ≠ len.toNat →
      ∃ t, exec (.creditGrantWrite c n base len valid) s = .next t
        ∧ t.get (ISL_CLAMP_COUNT pi) = satAdd 32 (s.get (ISL_CLAMP_COUNT pi)) 1
        ∧ OnlyRegs [ISL_CLAMP pi, ISL_CLAMP_LAST pi] s t)

/-- A packet reserves space with its first word, becomes visible with a good last word, and is rewound by a bad one with its
credits returned; a test write makes a packet of one granule.
Where it rests on a reading or a choice of the model, not on a rule: logs 45 and 46. -/
def Obligations.PacketsEnterTheirFifo : Prop :=
  ∀ (c : LCore) (p : Fin 4) (s : State),
    let x := s.fifo c p
    let shows (t : State) (y : Fifo) : Prop := (t.core c).fifos = setAt (s.core c).fifos p y
      ∧ (t.core c).ts = (s.core c).ts ∧ (t.core c).slots = (s.core c).slots
      ∧ RegsBut [s.atCore c fun i k j => ISL_CORE_FIFO i k j p] s t ∧ t = { s with regs := t.regs, cores := t.cores }
    (∀ (route source : Nat) (grans : Fin 129), s.absorbs c = false → x.inProg = none → packetGrans x.filling + grans.val ≤ 128 →
      ∃ t, exec (.packetFirstWord c p route source grans) s = .next t
        ∧ shows t { x with inProg := some (route, source, grans.val), held := none }
        ∧ (∀ e, e ≠ c.val → t.core e = s.core e))
    ∧ (∀ route source n gs bad, x.inProg = some (route, source, n) → x.testHeld = none → x.held = none →
      gs.length ≤ n →
      ∃ t, exec (.packetCommit c p gs bad) s = .next t
        ∧ shows t (Fifo.settle (Fifo.setFilling { x with inProg := none }
            (x.filling ++ [{ route := route, source := source, grans := gs, badWords := bad }])))
        ∧ (∀ e, e ≠ c.val → e ≠ source → t.core e = s.core e)
        ∧ (source < 2048 → (t.core source).sends = (s.core source).sends - 1))
    ∧ (∀ route source n, x.inProg = some (route, source, n) → x.testHeld = none → x.held = none →
      ∃ t, exec (.badPacketRewind c p) s = .next t
        ∧ shows t (Fifo.settle { x with inProg := none })
        ∧ t.get (s.atCore c fun i k j => ISL_CORE_FIFO_BAD_PKT_CNT i k j p)
            = satAdd 10 (s.get (s.atCore c fun i k j => ISL_CORE_FIFO_BAD_PKT_CNT i k j p)) 1
        ∧ t.flag (s.atCore c fun i k j => ISL_CORE_FIFO_BAD_SEEN i k j p) = true
        ∧ (source < 2048 → lookupD (t.core source).sendCred route 0 = lookupD (s.core source).sendCred route 0 + n))
    ∧ (∀ w, s.flag (s.atCore c ISL_CORE_TS_TEST) = true → x.inProg = none → x.held = none →
      packetGrans x.filling + 1 ≤ 128 →
      ∃ t, exec (.fifoTestWrite c p w) s = .next t
        ∧ shows t (Fifo.settle (Fifo.setFilling x (x.filling ++
            [{ route := 0, source := 4095, grans := [plainGranule (leBytes 4 w.toNat)], badWords := [] }])))
        ∧ (∀ e, e ≠ c.val → t.core e = s.core e))

/-- A ring between its producer and its consumers: fills land or are dropped, and its runners forward them and return its credits.
Where it rests on a reading or a choice of the model, not on a rule: logs 45 and 47. -/
def Obligations.RingsFillAndForward : Prop :=
  Sys2Proof.Claims.RingFillsLandOrAreDropped ∧
  Sys2Proof.Claims.RunnersForwardAndReturnCredit

/-- Remote writes and the windows and credits they are judged by.
Where it rests on a reading or a choice of the model, not on a rule: logs 45 and 49. -/
def Obligations.RemoteWritesAreJudged : Prop :=
  Sys2Proof.Claims.RemoteWritesNeedAWindowOrCredit ∧
  Sys2Proof.Claims.CreditGrantsAreWritten

/-! ### The cluster: caches, counters, the expert router -/

/-- A line request goes to the directory once, and counts a miss; a victim leaves the cache with its report, a modified one's
data waiting at the core. -/
def Sys2Proof.Claims.LinesAreAskedForAndEvicted : Prop :=
  ∀ (c : LCore) (handle : Word) (line : Nat) (same : Bool) (s : State),
    let k := s.core c
    let h := handle.toNat
    let cl := s.cluster (clusterOf c)
    let at_ := if same then cl.cycle else cl.cycle + 1
    let framed (t : State) : Prop :=
      t = { s with regs := t.regs, cores := t.cores, clusters := t.clusters }
      ∧ (∀ d, d ≠ c.val → t.core d = s.core d) ∧ (∀ j, j ≠ clusterOf c → t.cluster j = s.cluster j)
      ∧ RegsBut [s.atCore c ISL_CORE_CMISS, s.atCluster (clusterOf c) ISL_DIR_RACE] s t ∧ t.ts c = s.ts c
    let asked (t : State) (kind : Nat) (g : Granule) : Prop := t.cluster (clusterOf c) = { cl with
      dirReqs := cl.dirReqs ++ [{ kind := kind, core := ixOf c, handle := h, line := line, gran := g, at_ := at_ }], cycle := at_ }
    let wants (write : Bool) : Prop := k.xfers.any (fun x => x.wants h line && decide (x.kind = 2) == write) = true
      ∧ (∀ l, k.line h line = some l → l.modified = false ∧ write = true) ∧ k.lineReq h line = none ∧ 0 < s.sets c
    let missed (write : Bool) (t : State) : Prop := framed t ∧ asked t (if write then 1 else 0) poisonGranule
      ∧ t.get (s.atCore c ISL_CORE_CMISS_COUNT) = satAdd 32 (s.get (s.atCore c ISL_CORE_CMISS_COUNT)) 1
      ∧ t.core c = { k with lineReqs := k.lineReqs ++
          [{ handle := h, line := line, write := write, supply := none, fwd := none, invs := [], acks := 0 }] }
    (wants false → ∃ t, exec (.gets c handle line same) s = .next t ∧ missed false t)
    ∧ (wants true → ∃ t, exec (.getm c handle line same) s = .next t ∧ missed true t)
    ∧ (∀ l, k.line h line = some l → s.isVictim c l = true →
      (l.modified = false → ∃ t, exec (.puts c handle line same) s = .next t ∧ framed t ∧ asked t 2 l.gran
        ∧ t.core c = k.dropLine h line)
      ∧ (l.modified = true → cl.wb.length + (cl.dirReqs.filter fun r => decide (r.kind = 3)).length < 16 →
        ∃ t, exec (.putm c handle line same) s = .next t ∧ framed t ∧ asked t 3 l.gran
          ∧ t.core c = { k.dropLine h line with wbHeld := k.wbHeld ++ [l] }))

/-- The directory's decision of a line request: what it records of the line, and where the requester's data come from; of a
report: the sharer or the owner gives the line up. -/
def Sys2Proof.Claims.DirectoryDecidesOneRequest : Prop :=
  ∀ (k : Cluster) (handle : Word) (line : Nat) (s : State) (r : DirReq) (q : LineReq),
    let x := s.cluster k
    let c := 16 * k.val + r.core
    chooseReq (firstArrived x.dirReqs handle.toNat line) (s.get (s.atCluster k ISL_DIR_STATUS_RR_PTR)) = some r →
    x.wb = [] → r.core < 16 → r.handle = handle.toNat → r.line = line →
    let d := x.dirLine r.handle r.line
    let tier := s.tierLine r.handle r.line
    let others (r : DirReq) (cs : List Nat) : List Nat := cs.filter fun e => decide (e ≠ r.core)
    let done (P : State → Prop) : Prop := ∃ t, exec (.directoryDecision k handle line) s = .next t
      ∧ (t.cluster k).dirReqs = x.dirReqs.erase r ∧ (∀ e, e ≠ c → t.core e = s.core e)
      ∧ (∀ j, j ≠ k.val → t.cluster j = s.cluster j) ∧ t = { s with regs := t.regs, cores := t.cores, clusters := t.clusters }
      ∧ RegsBut [s.atCluster k ISL_DIR_STATUS, s.atCluster k ISL_DIR_RACE] s t ∧ P t
    let now (t : State) : Option DirState := (t.cluster k).dirLine r.handle r.line
    let gets (st : DirState) (q : LineReq) (t : State) : Prop := now t = some st ∧ (t.core c).lineReq r.handle r.line = some q
      ∧ t.get (s.atCluster k ISL_DIR_STATUS_RR_PTR) = (r.core + 1) % 16
    ((s.core c).lineReq r.handle r.line = some q →
      (r.kind = 0 → d = none → done (gets (.shared [r.core]) { q with supply := some tier }))
      ∧ (∀ cs, r.kind = 0 → d = some (.shared cs) →
          done (gets (.shared (r.core :: others r cs)) { q with supply := some tier }))
      ∧ (∀ o, r.kind = 0 → d = some (.modified o) → done (gets (.shared [r.core, o]) { q with fwd := some o }))
      ∧ (r.kind = 1 → d = none → done (gets (.modified r.core) { q with supply := some tier }))
      ∧ (∀ cs, r.kind = 1 → d = some (.shared cs) → done (gets (.modified r.core)
          { q with supply := some ((((s.core c).line r.handle r.line).map fun l => l.gran).getD tier), invs := others r cs }))
      ∧ (∀ o, r.kind = 1 → d = some (.modified o) → done (gets (.modified r.core) { q with fwd := some o })))
    ∧ (∀ cs, r.kind = 2 → d = some (.shared cs) →
        done fun t => now t = (if (others r cs).isEmpty then none else some (.shared (others r cs))) ∧ (t.cluster k).wb = [])
    ∧ (r.kind = 3 → d = some (.modified r.core) → done fun t => now t = none ∧ (t.cluster k).wb = [r]
        ∧ (t.core c).wbHeld = ((s.core c).dropHeld r.handle r.line).wbHeld)

/-- The messages of a coherence exchange at the cores: an invalidation drops the line and is acknowledged, a forward answers
from the owner's line, data with every acknowledgement in fill a way. -/
def Sys2Proof.Claims.CoherenceMessagesReachTheirCores : Prop :=
  ∀ (c : LCore) (handle : Word) (line : Nat) (i : Fin 16) (s : State) (q : LineReq) (l : CLine),
    let h := handle.toNat
    let u := peerOf c i
    let k := s.core c
    ((s.core u).lineReq h line = some q → q.invs.contains (ixOf c) = true →
      ∃ t, exec (.inv c handle line i) s = .next t ∧ (t.core c).line h line = none
        ∧ (t.core u).lineReq h line = some { q with invs := q.invs.filter (fun e => decide (e ≠ ixOf c)), acks := q.acks + 1 }
        ∧ (∀ d, d ≠ c.val → d ≠ u → t.core d = s.core d) ∧ t = { s with cores := t.cores })
    ∧ ((s.core u).lineReq h line = some q → q.fwd = some (ixOf c) → k.line h line = some l →
      (q.write = false → ∃ t, exec (.fwdGets c handle line i) s = .next t
        ∧ (t.core c).line h line = some { l with modified := false }
        ∧ (t.core u).lineReq h line = some { q with fwd := none, supply := some l.gran }
        ∧ (∀ d, d ≠ c.val → d ≠ u → t.core d = s.core d))
      ∧ (q.write = true → ∃ t, exec (.fwdGetm c handle line i) s = .next t ∧ (t.core c).line h line = none
        ∧ (t.core u).lineReq h line = some { q with fwd := none, supply := some l.gran }
        ∧ (∀ d, d ≠ c.val → d ≠ u → t.core d = s.core d) ∧ t = { s with cores := t.cores }))
    ∧ (∀ g w, k.lineReq h line = some q → q.supply = some g → q.invs = [] → q.acks = 0 → k.line h line = none →
        k.freeWay (line % s.sets c) = some w → k.xfers.any (fun x => x.wants h line) = false →
      ∃ t, exec (.data c handle line) s = .next t
        ∧ (t.core c).line h line = some { handle := h, line := line, set_ := line % s.sets c, way := w, modified := q.write, gran := g }
        ∧ (t.core c).lineReq h line = none ∧ CoreFrame c [] s t)
    ∧ (k.lineReq h line = some q → ∃ t, exec (.invAck c handle line) s = .next t
        ∧ (t.core c).lineReq h line = some { q with acks := q.acks - 1 } ∧ CoreFrame c [] s t)

/-- The counter bank: CSET sets, CADD adds modulo 2^32, CTAKE takes up to the limit and writes what it found, or all ones; of
two requests of different cores the addition is applied before the take. -/
def Sys2Proof.Claims.CounterBankAppliesRequests : Prop :=
  ∀ (k : Cluster) (s : State) (r : CtrReq), r.ctr < 64 →
    let val := s.atCluster k fun i c => ISL_CTR_VAL_VALUE i c r.ctr
    let v := s.get val
    let lim := s.get (s.atCluster k fun i c => ISL_CTR_LIM_LIMIT i c r.ctr)
    let stat := s.atCluster k fun i c => ISL_CTR_STAT i c r.ctr
    let wrote (t : State) (w : Word) : Prop := t.core r.core =
      (s.core r.core).setSlot r.slot (((s.core r.core).slots.getD r.slot slotReset).setS r.sd w false)
    let done (rs : List CtrReq) (P : State → Prop) : Prop := (s.cluster k).ctrReqs = rs →
      ∃ t, exec (.counterBankDecision k) s = .next t ∧ (t.cluster k).ctrReqs = [] ∧ P t
        ∧ (∀ c, c ≠ r.core → t.core c = s.core c) ∧ t = { s with regs := t.regs, cores := t.cores, clusters := t.clusters }
        ∧ RegsBut [val.reg, stat, s.atCluster k ISL_CTR_RR] s t
    (r.op = 1 → done [r] fun t => t.get val = r.val.toNat ∧ t.core r.core = s.core r.core)
    ∧ (r.op = 2 → done [r] fun t => t.get val = (v + r.val.toNat) % 2 ^ 32 ∧ t.core r.core = s.core r.core)
    ∧ (r.op = 0 → v < lim → done [r] fun t => t.get val = min (v + r.val.toNat) lim ∧ wrote t (BitVec.ofNat 32 v))
    ∧ (r.op = 0 → lim ≤ v → done [r] fun t => t.get val = v ∧ wrote t 0xFFFFFFFF)
    ∧ (∀ a : CtrReq, a.op = 2 → a.ctr = r.ctr → ixOf a.core ≠ ixOf r.core → r.op = 0 → v + a.val.toNat < lim →
        done [r, a] fun t => t.get val = min (v + a.val.toNat + r.val.toNat) lim
          ∧ wrote t (BitVec.ofNat 32 (v + a.val.toNat))
          ∧ t.get (s.atCluster k ISL_CTR_RR_RR_PTR) = (ixOf r.core + 1) % 16)

/-- Score granules of a member join the round being gathered, or are absorbed while two complete rounds stand; a complete round
of a running partition is decided, counted, and gives place to the next. -/
def Sys2Proof.Claims.RouterGathersAndDecides : Prop :=
  ∀ (c : LCore) (k : Cluster) (slot : Slot) (dn : Fin 8) (first : Nat) (gs : List Granule) (s : State) (d : RoundDesc)
    (a b : ScoreRound),
    let member := s.cluster (clusterOf c)
    let rounds := lookupD (member.router slot).rounds dn []
    (lookup (member.router slot).descs dn = some d → d.members.contains (ixOf c) = true → s.absorbs c = false →
      let i : Instr := .scoreWrite c slot dn first gs
      (rounds = [] ∨ rounds = [a] ∧ d.complete a = false → ∃ t, exec i s = .next t
        ∧ (∃ e, lookupD (((t.cluster (clusterOf c)).router slot).rounds) dn [] = [e]
          ∧ (∀ j g, gs[j]? = some g → first + j < d.tok * d.rowGrans →
              lookup e.grans (scoreKey (d.rank (ixOf c)) (first + j)) = some g))
        ∧ t = { s with regs := t.regs, clusters := t.clusters }
        ∧ RegsBut [s.atCluster (clusterOf c) ISL_ERU_STATUS] s t)
      ∧ (rounds = [a, b] → d.complete a = true → d.complete b = true → ∃ t, exec i s = .next t
        ∧ OnlyRegs [s.atCluster (clusterOf c) ISL_ERU_EVT] s t
        ∧ t.get (s.atCluster (clusterOf c) ISL_ERU_EVT_ABSORB_CNT)
            = satAdd 12 (s.get (s.atCluster (clusterOf c) ISL_ERU_EVT_ABSORB_CNT)) 1))
    ∧ (∀ rest, s.Inv → lookup ((s.cluster k).router slot).descs dn = some d →
        lookupD ((s.cluster k).router slot).rounds dn [] = a :: rest → d.complete a = true → s.partRuns (16 * k) = true →
      let x := decideRound d ((s.cluster k).router slot).experts a
      let risers := (x.place.placed.filter (·.riser)).length
      ∃ t, exec (.roundDecision k slot dn) s = .next t
        ∧ lookupD ((t.cluster k).router slot).rounds dn [] = rest
        ∧ t.get (s.atCluster k ISL_ERU_ROUNDS_ROUNDS) = satAdd 32 (s.get (s.atCluster k ISL_ERU_ROUNDS_ROUNDS)) 1
        ∧ t.get (s.atCluster k ISL_ERU_STATUS_ROUND) = dn
        ∧ t.get (s.atCluster k ISL_ERU_PLACED_PLACED)
            = satAdd 32 (s.get (s.atCluster k ISL_ERU_PLACED_PLACED)) (x.place.placed.length - risers)
        ∧ t.get (s.atCluster k ISL_ERU_RISER_RISER_PLACED) = satAdd 16 (s.get (s.atCluster k ISL_ERU_RISER_RISER_PLACED)) risers
        ∧ t = { s with regs := t.regs, cores := t.cores, clusters := t.clusters, out := t.out })

/-- The lines of a cluster: requests, evictions, the directory's decision and the messages of an exchange.
Where it rests on a reading or a choice of the model, not on a rule: logs 43 and 44. -/
def Obligations.CoherenceIsKeptByMessages : Prop :=
  Sys2Proof.Claims.LinesAreAskedForAndEvicted ∧
  Sys2Proof.Claims.DirectoryDecidesOneRequest ∧
  Sys2Proof.Claims.CoherenceMessagesReachTheirCores

/-- The shared units of a cluster: the counter bank and the router.
Where it rests on a reading or a choice of the model, not on a rule: log 5. -/
def Obligations.ClusterUnitsServeTheirCores : Prop :=
  Sys2Proof.Claims.CounterBankAppliesRequests ∧
  Sys2Proof.Claims.RouterGathersAndDecides

/-! ### Clocks, the governor, the tide, fences -/

/-- The root PLL's lock shows with the hub rail good; deskew selects MCLK and starts the tide at 0; the tide's registers and
its loads and slews, each where the rules allow it, and nothing else. -/
def Sys2Proof.Claims.ClocksStartAndTideMoves : Prop :=
  ∀ (s : State),
    let td := s.tide
    let only (i : Instr) (rs : List Reg) (P : State → Prop) : Prop :=
      ∃ t, exec i s = .next t ∧ P t ∧ RegsBut rs s t ∧ t = { s with regs := t.regs, tide := t.tide, out := t.out }
    (s.pads.hubRail = true → only .rootPllLock [HUB_CLK_STATUS] fun t => t.flag HUB_CLK_STATUS_PLL_LOCK = true
      ∧ t.tide = td ∧ t.out = s.out)
    ∧ (s.flag HUB_CLK_STATUS_PLL_LOCK = true → s.flag HUB_CLK_STATUS_DESKEW_DONE = false →
      only .deskewDone [HUB_CLK_STATUS] fun t => t.flag HUB_CLK_STATUS_DESKEW_DONE = true
        ∧ t.flag HUB_CLK_STATUS_MCLK_SEL = true ∧ t.tide = { td with now := 0, running := true } ∧ t.out = s.out)
    ∧ (only .hubTideLoRead [HUB_TIDE_HI] fun t => t.tide = td ∧ t.get HUB_TIDE_HI_TIDE = td.now.toNat / 2 ^ 32
        ∧ t.out = s.out ++ [.readData (leBytes 4 td.now.toNat) false])
    ∧ (td.running = true → s.flag HUB_TIDE_CTRL_LOAD_ARM = true →
      (s.anyJob = false → only .tideSyncEdge [] fun t => t.tide = { td with loadAt := some (td.now + 3) } ∧ t.out = s.out)
      ∧ (s.anyJob = true → only .tideSyncEdge [HUB_TIDE_CTRL, HUB_TIDE_STATUS] fun t => t.tide = td ∧ t.out = s.out
        ∧ t.flag HUB_TIDE_CTRL_LOAD_ARM = false ∧ t.flag HUB_TIDE_STATUS_LOAD_MISSED = true))
    ∧ (∀ n, td.loadAt = some n → s.anyJob = false →
      only .tideLoad [HUB_TIDE_CTRL, HUB_TIDE_STATUS] fun t => t.tide.loadAt = none
        ∧ t.tide.now = BitVec.ofNat 64 (s.get HUB_TIDE_LOAD_LO_LOAD + s.get HUB_TIDE_LOAD_HI_LOAD * 2 ^ 32)
        ∧ t.flag HUB_TIDE_CTRL_LOAD_ARM = false ∧ t.flag HUB_TIDE_STATUS_LOAD_DONE = true ∧ t.out = s.out)
    ∧ (td.running = true → s.flag HUB_TIDE_CTRL_SLEW_EN = true → td.toGo ≠ 0 →
      (∀ n, td.slewAt = some n → n.toNat + 1024 ≤ td.now.toNat) →
      only .tideSlew [HUB_TIDE_STATUS] fun t => t.out = s.out
        ∧ t.get HUB_TIDE_STATUS_SLEW_CNT = satAdd 16 (s.get HUB_TIDE_STATUS_SLEW_CNT) 1
        ∧ t.tide.now = (if 0 < td.toGo then td.now + 2 else td.now)
        ∧ t.tide.toGo = (if 0 < td.toGo then td.toGo - 1 else td.toGo + 1) ∧ t.tide.slewAt = some td.now)

/-- A slower step comes at once and a faster one after the hold, one code an evaluation; a droop slows one code, never beyond
code 2, and holds; the alarms raise and clear the stretch. -/
def Sys2Proof.Claims.GovernorStepsOneCode : Prop :=
  ∀ (i : Island) (temps : List (BitVec 8)) (amps : Nat) (monitor : Fin 8) (s : State),
    let x := s.isl i
    let hot := (hottest temps).1
    let cur := s.get (ISL_GOV_STATUS_STEP i)
    let want := max (s.ceiling i hot) (s.capCode i)
    let wait := s.get (ISL_GOV_CTRL_UP_HOLD i)
    let stretch := s.flag (ISL_GOV_STATUS_STRETCHING i)
    (s.tide.running = true → x.railUp = true → s.flag (ISL_GOV_STATUS_DROOP_HOLD i) = false →
      ∃ t, exec (.governorEvaluation i temps amps) s = .next t
        ∧ (cur < want → want ≤ 4 → t.get (ISL_GOV_STATUS_STEP i) = cur + 1)
        ∧ (want ≤ cur → x.coolFor + 1 < wait → t.get (ISL_GOV_STATUS_STEP i) = cur)
        ∧ (want < cur → wait ≤ x.coolFor + 1 →
            (∀ th, s.release i cur = some th → hot + (s.get (ISL_GOV_CTRL_HYST_C i) : Int) ≤ th) →
            t.get (ISL_GOV_STATUS_STEP i) = cur - 1)
        ∧ t.cores = s.cores ∧ t.clusters = s.clusters ∧ t.harbors = s.harbors ∧ t.jobs = s.jobs ∧ t.tide = s.tide
        ∧ (∀ j, j ≠ i.val → t.isl j = s.isl j))
    ∧ (x.railUp = true → ∃ t, exec (.droopAlarm i monitor) s = .next t
        ∧ t.isl i = { x with alarms := setBit x.alarms monitor true, clearFor := 0 }
        ∧ (s.flag (ISL_GOV_CTRL_STRETCH_EN i) = true → t.flag (ISL_GOV_STATUS_STRETCHING i) = true)
        ∧ (s.flag (ISL_GOV_CTRL_STRETCH_EN i) = false → t.regs = s.regs)
        ∧ OnlyRegs [ISL_GOV_STATUS i] { s with islands := t.islands } t)
    ∧ (stretch = true → ∃ t, exec (.droopStepDown i false) s = .next t
        ∧ t.get (ISL_GOV_STATUS_STEP i) = (if cur < 2 then cur + 1 else cur)
        ∧ (t.isl i).holdCode = (if cur < 2 then cur + 1 else 2) ∧ t.flag (ISL_GOV_STATUS_DROOP_HOLD i) = true
        ∧ t.get (ISL_GOV_STRETCH_STRETCH_CNT i)
            = satAdd 32 (s.get (ISL_GOV_STRETCH_STRETCH_CNT i)) (s.get (ISL_GOV_CTRL_STRETCH_LIMIT i) + 1)
        ∧ OnlyRegs [ISL_GOV_STATUS i, ISL_GOV_STRETCH i, ISL_GOV_DOWN i] { s with islands := t.islands } t)
    ∧ (∀ n, ∃ t, exec (.droopAlarmClear i n) s = .next t ∧ t.isl i = { x with alarms := 0 }
        ∧ t.flag (ISL_GOV_STATUS_STRETCHING i) = false
        ∧ t.get (ISL_GOV_STRETCH_STRETCH_CNT i)
            = (if stretch then satAdd 32 (s.get (ISL_GOV_STRETCH_STRETCH_CNT i)) n
               else s.get (ISL_GOV_STRETCH_STRETCH_CNT i))
        ∧ OnlyRegs [ISL_GOV_STATUS i, ISL_GOV_STRETCH i] { s with islands := t.islands } t)

/-- A tide fence completes once every participant has issued it and all each sent before is delivered: every participant then
has the same tick on its way, and with the notice resumes with FTICK. -/
def Obligations.FencesCompleteTogether : Prop :=
  ∀ (c : LCore) (s : State) (scope : Nat),
    let k := s.core c
    (k.fence = some scope → s.fenceParts c scope ≠ [] → (∀ d ∈ s.fenceParts c scope, (s.core d).gathered scope = true) →
      ∃ t, exec (.fenceCompletion c) s = .next t
        ∧ (∀ d ∈ s.fenceParts c scope, t.core d = { s.core d with fenceTick := some s.tide.now })
        ∧ (∀ d, d ∉ s.fenceParts c scope → t.core d = s.core d) ∧ t = { s with cores := t.cores })
    ∧ (∀ d, k.fence = some scope → d ∈ s.fenceParts c scope → (s.core d).gathered scope = false →
        exec (.fenceCompletion c) s = .next s)
    ∧ (∀ n, k.fenceTick = some n → ∃ t, exec (.fenceNoticeArrival c) s = .next t
        ∧ t.core c = { k with ftick := n, fence := none, fenceTick := none } ∧ CoreFrame c [] s t)

/-- The clocks, the tide, and the governor's steps between their codes.
Where it rests on a reading or a choice of the model, not on a rule: logs 3, 4, 50, 51, 52, 53, 54, 55 and 56. -/
def Obligations.ClocksRunAndAreGoverned : Prop :=
  Sys2Proof.Claims.ClocksStartAndTideMoves ∧
  Sys2Proof.Claims.GovernorStepsOneCode

/-! ### Power, starts, boot -/

/-- A failed start records its cause, asserts FAULT_L and writes the crash log; below three attempts it waits to retry, at three
the package enters minimal mode. -/
def Sys2Proof.Claims.FailedStartIsRecorded : Prop :=
  ∀ (s : State) (cause : Nat), s.starting = true → cause < 16 →
    let failed (i : Instr) (n : Nat) : Prop := ∃ t, exec i s = .next t ∧ t = s.failStart n
    let recorded (t : State) : Prop := t.get MGT_BOOT_STATUS_CAUSE = cause ∧ t.pads.faultL = false ∧ t.exk.crash.valid = true ∧ t.exk.crash.latest = 4
        ∧ (s.exk.failCount < 3 → t.phase = phRetry ∧ t.pads.hubRail = false ∧ t.pads.harborRail = false ∧ t.jobs = [])
        ∧ (3 ≤ s.exk.failCount → t.phase = phMinimal ∧ t.flag MGT_BOOT_STATUS_MINIMAL = true)
    recorded (s.failStart cause)
    ∧ (s.phase = phHub → s.pads.hubRail = true → s.flag HUB_CLK_STATUS_PLL_LOCK = false →
        failed .hubRailTimeout 1 ∧ failed .pllLockTimeout 5)
    ∧ (s.phase = phHub → s.flag HUB_CLK_STATUS_PLL_LOCK = true → ∃ t, exec .pllLockLoss s = .next t
        ∧ t = (s.setFlag HUB_CLK_STATUS_PLL_LOCK false).failStart 5)
    ∧ (s.phase = phLink → (s.enabledPorts.filter fun p => decide (s.get (RVR_PORT_STATUS_STATE p) = ptUp)).length
        < s.get MGT_BOOT_CFG_MIN_PORTS → failed .linkTrainTimeout 6)

/-- The standby rail begins a start attempt in EXK_BOOT and its loss stops everything; PWR_OK and VIN12 lost after a start take
every rail down until both return, and then a cold start from HUB begins. -/
def Sys2Proof.Claims.PowerComesAndGoes : Prop :=
  ∀ (s : State),
    let runs (i : Instr) (P : State → Prop) : Prop := ∃ t, exec i s = .next t ∧ P t
    let lost (t : State) : Prop := t.pads.vstbyGood = false ∧ t.pads.hubRail = false ∧ t.regs = [] ∧ t.jobs = []
      ∧ t.cores = [] ∧ t.exk.failCount = s.exk.failCount ∧ t.exk.farLog = s.exk.farLog
    let downs (q : Pads) (t : State) : Prop := t.phase = phOff ∧ t.boot.waitPower = true ∧ t.jobs = [] ∧ t.cores = []
      ∧ t.pads = { q with hubRail := false, fabricRail := false, harborRail := false, faultL := false }
    let returns (q : Pads) (t : State) : Prop := t.phase = phHub ∧ t.pads.hubRail = q.thermtripL
      ∧ t.exk.failCount = min 3 (s.exk.failCount + 1) ∧ t.boot.waitPower = false ∧ t.flag MGT_BOOT_STATUS_WARM = false
    (s.pads.vstbyGood = false → runs .standbyRailGood fun t => t.phase = phExk ∧ t.exk.powered = true
      ∧ t.pads.vstbyGood = true ∧ t.get MGT_BOOT_STATUS_ATTEMPTS = min 3 (s.exk.failCount + 1)
      ∧ t.flag MGT_BOOT_STATUS_WARM = false)
    ∧ (s.pads.vstbyGood = true → runs .standbyRailLost lost ∧ runs .vstbyOutOfLimits lost)
    ∧ (s.ready = true ∨ s.minimal = true → runs .pwrOkFall (downs { s.pads with pwrOk := false })
      ∧ runs .vin12Fault (downs { s.pads with vin12Good := false }))
    ∧ (s.boot.waitPower = true →
      (s.pads.vin12Good = true → runs .pwrOkRise (returns s.pads)) ∧ (s.pads.pwrOk = true → runs .vin12WithinLimits (returns s.pads)))
    ∧ (s.boot.waitPower = false → s.phase ≠ phHub →
      runs .pwrOkRise (fun t => t = { s with pads := { s.pads with pwrOk := true } })
      ∧ runs .vin12WithinLimits (fun t => t = { s with pads := { s.pads with vin12Good := true } }))

/-- Coolant: its loss takes the compute rails; a start goes on from WAIT_COOL, a package past READY waits, and begins a cold
start when the coolant returns. -/
def Sys2Proof.Claims.CoolantHoldsTheStart : Prop :=
  ∀ (s : State),
    let runs (i : Instr) (P : State → Prop) : Prop := ∃ t, exec i s = .next t ∧ P t
    (runs .coolOkRise fun t => t = { s with pads := { s.pads with coolOkL := true } })
    ∧ (s.boot.waitCool = false → runs .coolOkFall fun t => t = { s with pads := { s.pads with coolOkL := false } })
    ∧ (s.boot.waitCool = true → runs .coolOkFall fun t => t.phase = phWaitCool ∧ t.boot.waitCool = false
        ∧ t.exk.failCount = min 3 (s.exk.failCount + 1) ∧ t.pads = { s.pads with coolOkL := false })
    ∧ (s.pads.coolOkL = true → s.starting = true → phHarbor ≤ s.phase → runs .coolLossTimeout fun t => t.phase = phWaitCool
        ∧ t.pads.harborRail = false ∧ t.boot.wave = 0)
    ∧ (s.pads.coolOkL = true → s.ready = true → s.boot.waitCool = false → runs .coolLossTimeout fun t =>
        t.boot.waitCool = true ∧ t.pads.harborRail = false)

/-- The phases of a start: each ends in the next where what it waits for has happened and its tests pass. -/
def Sys2Proof.Claims.StartPhasesFollow : Prop :=
  ∀ (s : State) (r : BootResult),
    let ends (p : Nat) (P : State → Prop) : Prop := ∃ t, exec (.bootPhaseComplete r) s = .next t ∧ t.phase = p ∧ P t
    (s.phase = phExk → s.exk.preferred < 2 → match s.bootSlot with
      | some n => ends phHub fun t => t.flag MGT_STATUS_READY = true ∧ t.get MGT_STATUS_SLOT = n ∧ t.exk.fwRunning = true
      | none => ends (if s.exk.failCount < 3 then phRetry else phMinimal) fun t => t.get MGT_BOOT_STATUS_CAUSE = 4)
    ∧ (s.phase = phHub → s.pads.hubRail = true → s.flag HUB_CLK_STATUS_DESKEW_DONE = true →
        ends phFabric fun t => t.pads = { s.pads with fabricRail := true })
    ∧ (s.phase = phFabric → ends phWaitCool fun t => t.get MGT_BOOT_FAB_FAB_OK = r.fabOk.toNat)
    ∧ (s.phase = phWaitCool → s.pads.coolOkL = false → ends phHarbor fun t => t.pads = { s.pads with harborRail := true })
    ∧ (s.phase = phHarbor → r.stackFail = 0 → r.midTrainFail = 0 → r.oeFail = 0 → ends phWaves fun t => t.boot.wave = 0)
    ∧ (s.phase = phWaves → s.boot.wave = 4 → ends phIslTest fun t => t.boot.wave = 4)
    ∧ (s.phase = phIslTest → ends phNear fun t =>
        ∀ e ∈ r.coreFail, (s.isl e.1).railUp = true → (t.isl e.1).fencedPos.contains e.2 = true)
    ∧ (s.phase = phNear → r.nearRetired = [] → (∀ h k, h < 4 → k < 3 → s.stackRetired h k ≤ 4096) →
        ends phMid fun t => t.harbors = s.harbors)
    ∧ (s.phase = phMid → r.midAbsent = 0 → r.midBad = [] → ends phFtl fun t => t.get MGT_BOOT_MEM_MID = 0)
    ∧ (s.phase = phFtl → (∀ h, h < 4 → bit r.ftlNone.toNat h = true ∨ s.flag (HBR_FTL_STATUS_MOUNTED h) = true) →
        ends phLink fun t => t.pads = s.pads)
    ∧ (s.phase = phLink → s.linksSettled = true → s.get MGT_BOOT_FAB_PRESENT ≠ 0 → s.get MGT_BOOT_CFG_MIN_PORTS
        ≤ (s.enabledPorts.filter fun p => decide (s.get (RVR_PORT_STATUS_STATE p) = ptUp)).length →
        ends phReady fun t => t.get MGT_BOOT_STATUS_ATTEMPTS = 0 ∧ t.pads.faultL = true ∧ t.exk.failCount = 0)

/-- A wave ramps exactly its islands, at step code 2; a soft-start fault latches its island off and records why. -/
def Sys2Proof.Claims.WavesRampIslands : Prop :=
  ∀ (s : State) (i : Island) (ramp : Bool), s.phase = phWaves →
    let w := s.boot.wave
    (w < 4 → s.pads.coolOkL = false → ∃ t, exec .waveStart s = .next t ∧ t.boot = { s.boot with wave := w + 1 }
      ∧ (waveOf i = w → s.mayRamp i = true → (t.isl i).railUp = true ∧ t.get (ISL_GOV_STATUS_STEP i) = 2 ∧ t.present i = true
          ∧ t.flag (ISL_FLT_STATUS_QUENCHED i) = false)
      ∧ (waveOf i ≠ w ∨ s.mayRamp i = false → t.isl i = s.isl i ∧ t.present i = s.present i)
      ∧ t = { s with regs := t.regs, islands := t.islands, boot := t.boot })
    ∧ ((s.isl i).railUp = true → waveOf i < w → s.mayRamp i = true → ∃ t, exec (.softStartFault i ramp) s = .next t
      ∧ (t.isl i).railUp = false ∧ (t.isl i).latched = true ∧ (t.isl i).absent = true ∧ t.present i = false
      ∧ bitsOf (t.reg (MGT_BOOT_WHY (i / 8))).toNat (4 * (i % 8)) 4 = (if ramp then 3 else 2)
      ∧ (∀ j, j ≠ i.val → t.isl j = s.isl j) ∧ (∀ d, islOf d ≠ s.logIsland i → t.core d = s.core d))

/-- The boot commands where they are accepted, their clamp where they are not; the retry wait, the link timeout, the PCIe
reset pad and the JTAG instructions. -/
def Sys2Proof.Claims.BootCommandsAndPads : Prop :=
  ∀ (s : State) (v : Word) (j : Fin 4),
    let runs (i : Instr) (P : State → Prop) : Prop := ∃ t, exec i s = .next t ∧ P t
    let clamped (t : State) : Prop := t.get MGT_CLAMP_COUNT = satAdd 32 (s.get MGT_CLAMP_COUNT) 1
      ∧ OnlyRegs [MGT_CLAMP, MGT_CLAMP_LAST] s t
    let coldHub (t : State) : Prop := t.phase = phHub ∧ t.exk.failCount = min 3 (s.exk.failCount + 1) ∧ t.jobs = [] ∧ t.cores = []
      ∧ t.flag MGT_BOOT_STATUS_WARM = false
    (s.bootOpen = true → runs .bootRestart coldHub ∧ runs .bootClear fun t => t.exk = { s.exk with failCount := 0 }
      ∧ t.get MGT_BOOT_STATUS_ATTEMPTS = 0 ∧ OnlyRegs [MGT_BOOT_STATUS] { s with exk := t.exk } t)
    ∧ (s.bootOpen = false → runs .bootRestart clamped ∧ runs .bootClear clamped)
    ∧ (bootCfgOf v = v → runs (.bootCfgWrite v) fun t => t.reg MGT_BOOT_CFG = v ∧ t.exk.cfgRecord = some v
        ∧ OnlyRegs [MGT_BOOT_CFG] { s with exk := t.exk } t)
    ∧ (bootCfgOf v ≠ v → runs (.bootCfgWrite v) fun t => t.reg MGT_BOOT_CFG = bootCfgOf v
        ∧ t.get MGT_CLAMP_COUNT = satAdd 32 (s.get MGT_CLAMP_COUNT) 1)
    ∧ (s.phase = phRetry → runs .retryWaitExpire coldHub)
    ∧ (s.phase = phLink → s.get MGT_BOOT_FAB_PRESENT ≠ 0 → s.get MGT_BOOT_CFG_MIN_PORTS
        ≤ (s.enabledPorts.filter fun p => decide (s.get (RVR_PORT_STATUS_STATE p) = ptUp)).length →
        runs .linkTrainTimeout fun t => t.phase = phReady)
    ∧ (s.ready = false → runs .perstBeforeReady fun t => t = { s with pads := { s.pads with perstL := false },
                                                                      host := { s.host with held := true } })
    ∧ (runs .perstDeassert fun t => t = { s with pads := { s.pads with perstL := true }, host := { s.host with held := false } })
    ∧ (runs (.jtagInstruction j) fun t =>
        t.pads = { s.pads with jtag := if (j.val = 1 ∨ j.val = 2) ∧ s.flag HUB_TIDE_STATUS_JOB_LOCK = false then j.val else 0 }
        ∧ t.out = s.out ++ (if j.val = 3 then [.mgmt 602 (leBytes 4 idcode.toNat)] else [])
        ∧ t = { s with pads := t.pads, out := t.out })

/-- A start of the package: its phases, its waves, and the record a failed one leaves.
Where it rests on a reading or a choice of the model, not on a rule: logs 5, 57, 58, 60 and 61. -/
def Obligations.StartsProceedOrFail : Prop :=
  Sys2Proof.Claims.FailedStartIsRecorded ∧
  Sys2Proof.Claims.StartPhasesFollow ∧
  Sys2Proof.Claims.WavesRampIslands

/-- Power, coolant, and the commands and pads of the boot logic.
Where it rests on a reading or a choice of the model, not on a rule: logs 5, 59, 61, 62 and 66. -/
def Obligations.PowerAndCoolantRuleThePackage : Prop :=
  Sys2Proof.Claims.PowerComesAndGoes ∧
  Sys2Proof.Claims.CoolantHoldsTheStart ∧
  Sys2Proof.Claims.BootCommandsAndPads

/-! ### The ferry engine and the expert registry -/

/-- The state in which message `id` of source `src` on a virtual channel has been taken in its sequence with a status: the next
one is expected, and the status goes back in an EACK (R429, R430). -/
def Sys2Proof.Machine.State.took (s : State) (src vc id st : Nat) : State :=
  State.sendEack { s with ravor := { s.ravor with expected := insert s.ravor.expected (4 * src + vc) ((id + 1) % 65536) } } src id st

/-- The message is the one expected of its source on its virtual channel, and a port is up. -/
def Sys2Proof.Machine.State.inSequence (s : State) (src vc id : Nat) : Prop :=
  s.linked = true ∧ lookup s.ravor.expected (4 * src + vc) = some id ∧ id < 65536

/-- A report is held with what the cache holds of its experts, and an expert that is neither cached nor on its way is queued; the
lowest waiting fetch begins, in the cache where it finds room and around it otherwise. -/
def Sys2Proof.Claims.FerryReportsAndFetches : Prop :=
  ∀ (h : Harbor) (p : Part) (sid : Fin 256) (k : Cluster) (m : Fin 1024) (e : Fin 4096) (s : State),
    let x := s.harbor h
    (∀ st, x.station p sid = some st →
      let v := s.regEntry m e
      let hit := (x.cachedAt m e (exrVersion v)).isSome
      ∃ t, exec (.ferryReport h p sid k m [e]) s = .next t ∧ HarborFrame h [] s t
        ∧ (t.harbor h).station p sid = some { st with reports := st.reports ++ [(k.val, [(m.val, e.val, hit)])] }
        ∧ (t.harbor h).cached = x.cached
        ∧ (t.harbor h).fetches = x.fetches ++ (if hit || (x.fetchOf m e).isSome then [] else
            [{ model := m, expert := e, version := exrVersion v, home := exrHome v, handle := exrObject v, pages := exrPages v,
               part := p, running := false, bypass := false, lost := false, told := false, landed := [], frames := [], heat := 0 }]))
    ∧ (∀ f : FerryFetch, leastBy (fun (f : FerryFetch) => 4096 * f.model + f.expert)
          (x.fetches.filter fun f => !f.running && f.landed.isEmpty && !f.lost) = some f →
        (x.fetches.filter fun g => g.running).length < s.get (HBR_FERRY_CTRL_MAX_INFLIGHT h) →
      let asks (g : FerryFetch) : Prop := ∃ u msg, exec (.ferryFetch h) s = .next (u.ravorSend (.ferry h f.model f.expert) msg)
        ∧ (u.harbor h).fetches = x.fetches.map (fun q => if q = f then g else q)
        ∧ HarborFrame h [HBR_FERRY_STATUS h] s u ∧ msg.dest = f.home ∧ msg.kind = 2 ∧ msg.src = s.get RVR_EP_ID_ID
        ∧ msg.grans = [plainGranule (leBytes 4 f.handle ++ leBytes 4 0 ++ leBytes 4 f.pages)]
      (s.flag (HBR_FERRY_CTRL_EN h) = false → asks { f with running := true, bypass := true, frames := [] })
      ∧ (s.flag (HBR_FERRY_CTRL_EN h) = true → f.pages ≤ (s.ferryFree h).length →
          asks { f with running := true, bypass := false, frames := (s.ferryFree h).take f.pages }))

/-- A home harbor reads the pages a FERRY_REQ asks for; the granules of a fetch land in order and the whole expert enters the
cache; a lost link is told to the owner once, and the job goes on. -/
def Sys2Proof.Claims.FerryDataLand : Prop :=
  ∀ (h : Harbor) (src : Endpoint) (id : BitVec 16) (s : State),
    let x := s.harbor h
    (∀ (handle : Word) (page count : Nat) (o : TierObj), s.inSequence src 0 id.toNat → s.obj handle.toNat = some o →
      harborOf handle.toNat = h.val →
      ∃ u, exec (.ferryReq h src id handle page count) s = .next (u.took src 0 id.toNat stDone) ∧ HarborFrame h [] s u
        ∧ u.harbor h = { x with reqs := x.reqs ++ (List.range (min count (o.pages - page))).map fun n =>
            { cls := 3, path := o.path (page + n), part := none, at_ := s.tide.now, bytes := 65536,
              job := .ferry src (indexOf handle.toNat) (page + n) } })
    ∧ (∀ (m e : Nat) (gs : List Granule) (f : FerryFetch), s.inSequence src 1 id.toNat → x.fetchOf m e = some f →
        f.running = true → f.home = src.val → f.lost = false → gs.length ≤ 256 →
      ∃ u, exec (.ferryData h src id m e f.landed.length gs) s = .next (u.took src 1 id.toNat stDone)
        ∧ HarborFrame h [HBR_FERRY_STATUS h] s u
        ∧ (f.landed.length + gs.length < 1024 * f.pages → u.harbor h = { x with
            fetches := x.fetches.map fun q => if q = f then { f with landed := f.landed ++ gs } else q })
        ∧ (1024 * f.pages ≤ f.landed.length + gs.length → f.bypass = false → (u.harbor h).cached = x.cached ++
            [{ model := f.model, expert := f.expert, version := f.version, frames := f.frames, heat := f.heat,
               poured := s.tide.now }]))
    ∧ (∀ (m : Fin 1024) (e : Fin 4096) (f : FerryFetch), x.fetchOf m e = some f → f.told = false →
        f.running = true ∨ f.lost = true → f.part < 128 →
      ∃ t, exec (.ferryLinkLost h m e) s = .next t ∧ t.jobs = s.jobs ∧ t.cores = s.cores
        ∧ (t.harbor h).fetches = x.fetches.map
            (fun q => if q = f then { f with lost := true, told := true, running := false } else q)
        ∧ t.get (TEN_PART_FAULT_CODE f.part) = stLinkLost ∧ t.flag (TEN_PART_FAULT_VALID f.part) = true)

/-- A station round closes with a report of every feeder; heats halve after 2^HALF_LIFE_LOG2 rounds; the registry is read and
written through its window, a written entry's version counting on.
Where it rests on a reading or a choice of the model, not on a rule: logs 70 and 72. -/
def Obligations.StationRoundsAndRegistry : Prop :=
  ∀ (h : Harbor) (p : Part) (sid : Fin 256) (s : State),
    let x := s.harbor h
    let entry := lookup s.registry (exrKey s.exrIndex.1 s.exrIndex.2)
    (∀ st r rs, x.station p sid = some st → s.stationRec h p sid = some r → firstReports st.reports r.feeders = some rs →
      ∃ t, exec (.stationRoundClose h p sid) s = .next t ∧ (t.harbor h).rounds = x.rounds + 1
        ∧ (t.harbor h).station p sid = some { st with
            reports := rs.foldl (fun l q => l.erase q) st.reports,
            pouring := st.pouring ++ ((manifestOf rs).take 255).map fun e => (e.1, e.2.1) }
        ∧ (∀ k, k ≠ h.val → t.harbor k = s.harbor k) ∧ t.jobs = s.jobs ∧ t.clusters = s.clusters)
    ∧ (let n := 2 ^ s.get (HBR_FERRY_CTRL_HALF_LIFE_LOG2 h)
      n ≤ x.rounds → ∃ t, exec (.ferryHeatHalve h) s = .next t ∧ HarborFrame h [] s t ∧ (t.harbor h).rounds = x.rounds - n
        ∧ (t.harbor h).cached = x.cached.map (fun c => { c with heat := c.heat / 2 }))
    ∧ (∃ t, exec .exrRead s = .next t ∧ OnlyRegs ((List.range 4).map HUB_EXR_ENT) s t ∧ ∀ n, n < 4 →
        t.get (HUB_EXR_ENT_DATA n) = bitsOf (s.regEntry s.exrIndex.1 s.exrIndex.2).toNat (32 * n) 32)
    ∧ (∀ old, entry = some old → let w := s.exrWords
        bitsOf w 18 2 ≠ 3 → bitsOf w 21 11 = 0 → bitsOf w 112 16 = 0 →
        s.boundLocal s.exrIndex.1 s.exrIndex.2 = false ∨ bitsOf w 0 16 = exrHome old →
        ∃ t, exec .exrWrite s = .next t ∧ t = { s with registry := t.registry }
          ∧ lookup t.registry (exrKey s.exrIndex.1 s.exrIndex.2) = some (BitVec.ofNat 128 (bitsOf w 0 21 + bitsOf w 32 64 * 2 ^ 32
              + (exrVersion old + 1) % 2 ^ 16 * 2 ^ 96)))

/-- The ferry: reports, fetches, and the data that land.
Where it rests on a reading or a choice of the model, not on a rule: logs 68 and 71. -/
def Obligations.FerryFetchesExperts : Prop :=
  Sys2Proof.Claims.FerryReportsAndFetches ∧
  Sys2Proof.Claims.FerryDataLand

/-! ### Tier objects -/

/-- An object command of the physical function runs at once where nothing runs before it and ends with its code: CREATE returns
the new handle, COMMIT makes a WEIGHT object read-only, DELETE frees it, PIN and SETMASK change it; a STAGE of pages that are
away stays begun with its pages asked for. -/
def Sys2Proof.Claims.ObjectCommandsRun : Prop :=
  ∀ (h : Harbor) (s : State),
    let x := s.harbor h
    let a (n : Nat) : Nat := s.get (HBR_OBJ_ARG_ARG h n)
    let i := indexOf (a 0)
    let s0 := (s.setFlag (HBR_OBJ_STATUS_BUSY h) true).setHarbor h { x with runs := [] }
    let run (op : Nat) : ObjRun :=
      { op := op, a0 := a 0, a1 := a 1, a2 := a 2, host := 0, data := [], via := none, begun := false }
    let ended (c : Instr) (code : Nat) (P : State → Prop) : Prop := ∃ t, exec c s = .next t
      ∧ t.get (HBR_OBJ_STATUS_CODE h) = code ∧ t.flag (HBR_OBJ_STATUS_BUSY h) = false ∧ P t
      ∧ t.cores = s.cores ∧ t.jobs = s.jobs ∧ (∀ k, k ≠ h.val → t.harbor k = s.harbor k)
    s.flag (HBR_OBJ_STATUS_BUSY h) = false → x.runs = [] →
    (∃ t, exec (.objNop h) s = .next t ∧ t.get (HBR_OBJ_STATUS_CODE h) = 0 ∧ OnlyRegs [HBR_OBJ_STATUS h] s t)
    ∧ (∀ s1 n, s0.objCreate h (a 0) (a 1) (a 2) none = some (s1, n) → (s1.harbor h).runs = [] →
        ended (.objCreate h) stDone fun t => t.get (HBR_OBJ_ARG_ARG h 0) = n % 2 ^ 32 ∧ t.harbors = s1.harbors)
    ∧ (s0.objCreate h (a 0) (a 1) (a 2) none = none → ended (.objCreate h) stRefusedFit fun t => t.harbor h = x)
    ∧ (∀ o, s.objFor h (a 0) none = some o →
      (a 1 = 0 → a 2 = 0 →
        (o.cls = 0 → bit o.mask 2 = false → ended (.objCommit h) stDone fun t =>
          lookup (t.harbor h).objs i = some { o with committed := true })
        ∧ (o.cls ≠ 0 → ended (.objCommit h) stRefusedFit fun t => t.harbor h = x)
        ∧ (ended (.objDelete h) stDone fun t => lookup (t.harbor h).objs i = none
            ∧ ∀ j, j ≠ i → lookup (t.harbor h).objs j = lookup x.objs j))
      ∧ (a 2 < 2 ^ 25 → o.holds (a 1) (bitsOf (a 2) 0 24) = true →
        (bit o.mask 0 = true → o.missing (a 1) (bitsOf (a 2) 0 24) = [] → ended (.objStage h) stDone fun t => t.harbor h = x)
        ∧ (bit o.mask 0 = true → o.missing (a 1) (bitsOf (a 2) 0 24) ≠ [] → ∃ t, exec (.objStage h) s = .next t
            ∧ (t.harbor h).runs = [{ run 4 with begun := true }] ∧ t.flag (HBR_OBJ_STATUS_BUSY h) = true
            ∧ (∀ p ∈ o.missing (a 1) (bitsOf (a 2) 0 24), (x.moves.any fun m => decide (m.index = i) && decide (m.page = p)) = true
              ∨ ∃ q ∈ (t.harbor h).reqs, q.job = .stage i p)
            ∧ OnlyRegs [HBR_OBJ_STATUS h] { s with harbors := t.harbors } t)
        ∧ (ended (.objPin h) stDone fun t => ∃ ps, lookup (t.harbor h).objs i = some { o with pins := ps }
            ∧ ∀ p, p ∈ ps ↔ (if a 1 ≤ p ∧ p < a 1 + bitsOf (a 2) 0 24 then bit (a 2) 24 = true else p ∈ o.pins)))
      ∧ (∀ s1, a 1 % 65536 = 0 → a 1 < 2 ^ 19 → a 2 = 0 → s0.objSetMask h (a 0) o (bitsOf (a 1) 16 3) = some s1 →
          (s1.harbor h).runs = [] → ended (.objSetmask h) stDone fun t => t.harbors = s1.harbors))

/-- While a command runs its harbor takes no other: each is clamped and counted, and nothing else changes. -/
def Sys2Proof.Claims.BusyHarborClampsObjectCommands : Prop :=
  ∀ (h : Harbor) (s : State), s.flag (HBR_OBJ_STATUS_BUSY h) = true →
    let clamped (i : Instr) : Prop := ∃ t, exec i s = .next t ∧ OnlyRegs [HBR_CLAMP h, HBR_CLAMP_LAST h] s t
      ∧ t.get (HBR_CLAMP_COUNT h) = satAdd 32 (s.get (HBR_CLAMP_COUNT h)) 1
    clamped (.objNop h) ∧ clamped (.objCreate h) ∧ clamped (.objCommit h) ∧ clamped (.objDelete h) ∧ clamped (.objStage h)
      ∧ clamped (.objPin h) ∧ clamped (.objSetmask h)

/-- Heats halve, a hot page of the middle tier begins to move, a move ends with the map switched to its near frame, a write
meets a page on its way, and a command that has begun completes.
Where it rests on a reading or a choice of the model, not on a rule: logs 4 and 79. -/
def Obligations.PagesMoveBetweenTiers : Prop :=
  ∀ (h : Harbor) (s : State),
    let x := s.harbor h
    let capRegs := [HBR_INFL_ERR h, HBR_MIG_CNT h, HBR_CAP_NEAR h, HBR_CAP_MID h, HBR_CAP_FAR h]
    let switched (c : Instr) (m : PageMove) (o : TierObj) : Prop := ∃ t, exec c s = .next t ∧ HarborFrame h capRegs s t
      ∧ (t.harbor h).moves = x.moves.erase m
      ∧ lookup (t.harbor h).objs m.index = some { o with
          near := insert o.near m.page m.frame, mid := if o.cls = 0 then o.mid else erase o.mid m.page }
      ∧ ∀ j, j ≠ m.index → lookup (t.harbor h).objs j = lookup x.objs j
    (∀ n m o, x.moves[n]? = some m → lookup x.objs m.index = some o →
      (x.farOnly m.index m.page = false → switched (.pageMoveSwitch h n) m o)
      ∧ (x.farOnly m.index m.page = true → switched (.pageLanding h n) m o)
      ∧ (∀ (g : Fin 1024) (gs : List Granule), o.sealed = false →
          (x.moves.find? fun q => decide (q.index = m.index) && decide (q.page = m.page)) = some m →
          ∃ t, exec (.pageMoveRestart h n g gs) s = .next t ∧ HarborFrame h [HBR_MIG_ABORT h] s t
            ∧ (m.restarts < 3 → (t.harbor h).moves = x.moves.map (fun q => if q = m then { m with restarts := m.restarts + 1 } else q)
                ∧ t.get (HBR_MIG_ABORT_RESTART_CNT h) = satAdd 16 (s.get (HBR_MIG_ABORT_RESTART_CNT h)) 1)
            ∧ (3 ≤ m.restarts → (t.harbor h).moves = x.moves.erase m
                ∧ t.get (HBR_MIG_ABORT_ABORT_CNT h) = satAdd 16 (s.get (HBR_MIG_ABORT_ABORT_CNT h)) 1)))
    ∧ (∃ t, exec (.pageHeatHalve h) s = .next t ∧ HarborFrame h [] s t ∧ ∀ i o, lookup x.objs i = some o →
        lookup (t.harbor h).objs i = some { o with
          heat := (o.heat.map fun e => (e.1, e.2 / 2)).filter (fun e => decide (e.2 ≠ 0)), barred := [] })
    ∧ (∀ (i : Fin 1048576) p o s1 f, lookup x.objs i = some o → s.flag (HBR_MIG_CTRL_EN h) = true → bit o.mask 0 = true →
        bit o.mask 1 = true → o.fastest p = some 1 → s.get (HBR_MIG_CTRL_PROMOTE h) ≤ lookupD o.heat p 0 →
        o.barred.contains p = false → (x.moves.any fun m => decide (m.index = i.val) && decide (m.page = p)) = false →
        s.promoteFrame h i p = some (s1, f) → ∃ t, exec (.pagePromote h i p) s = .next t
          ∧ (t.harbor h).moves = (s1.harbor h).moves ++ [{ index := i, page := p, frame := f, mig := true, restarts := 0 }]
          ∧ t.regs = s1.regs)
    ∧ (∀ r, x.runs = [r] → r.begun = true → r.op = 2 → r.via = none → ∃ t, exec (.objCommandComplete h) s = .next t
        ∧ (t.harbor h).runs = [] ∧ t.get (HBR_OBJ_STATUS_CODE h) = stDone ∧ t.flag (HBR_OBJ_STATUS_BUSY h) = false
        ∧ HarborFrame h [HBR_OBJ_STATUS h] s t)

/-- What harms the tiers: words found bad read as poison and two of them retire a free frame, a middle piece is poisoned, an expander's link goes down, and its media
event is logged; each is counted where the rules say. -/
def Sys2Proof.Claims.TierErrorsAreShown : Prop :=
  ∀ (h : Harbor) (n : Fin 2) (s : State),
    let x := s.harbor h
    (∀ (f : Fin 3145728) (ce : Nat) (bad : List (Fin 8192)) (again : Bool),
      (if again then [] else x.badReads) = ([] : SMap Nat) → bad.length < 2 →
      ∃ t, exec (.patrolScrub h f ce bad again) s = .next t ∧ HarborFrame h [HBR_NEAR_ERR h] s t
        ∧ t.get (HBR_NEAR_ERR_CE_CNT h) = satAdd 16 (s.get (HBR_NEAR_ERR_CE_CNT h)) ce
        ∧ t.get (HBR_NEAR_ERR_UE_CNT h) = satAdd 16 (s.get (HBR_NEAR_ERR_UE_CNT h)) bad.length
        ∧ (∀ w ∈ bad, lookupD (t.harbor h).npois (8192 * f.val + w.val) false = true)
        ∧ (t.harbor h).near = x.near ∧ (t.harbor h).objs = x.objs)
    ∧ (∀ (f : Fin 3145728) (ce : Nat) (bad : List (Fin 8192)), 2 ≤ bad.length → x.retired.contains f.val = false →
        (∀ e ∈ x.objs, ∀ q ∈ e.2.near, q.2 ≠ f.val) → ∃ t, exec (.patrolScrub h f ce bad true) s = .next t
        ∧ (t.harbor h).retired = f.val :: x.retired
        ∧ t.get (HBR_NEAR_RETIRED_FRAMES h) = satAdd 22 (s.get (HBR_NEAR_RETIRED_FRAMES h)) 1)
    ∧ (∀ (f : Fin 8355840) (ps : List (Fin 256)), ∃ t, exec (.cxlPoison h n f ps) s = .next t
        ∧ HarborFrame h [HBR_MID_ERR h n] s t
        ∧ t.get (HBR_MID_ERR_POISON_CNT h n) = satAdd 12 (s.get (HBR_MID_ERR_POISON_CNT h n)) 1
        ∧ (∀ p ∈ ps, lookupD (t.harbor h).mpois (256 * (2 ^ 24 * n.val + f.val) + p.val) false = true)
        ∧ (t.harbor h).mid = x.mid ∧ (t.harbor h).objs = x.objs)
    ∧ (x.midDown.contains n.val = false → (∀ p, p < 128 → s.writableOn p h n = false) →
        ∃ t, exec (.cxlLinkDown h n) s = .next t ∧ (t.harbor h).midDown = n.val :: x.midDown
          ∧ t.flag (HBR_MID_ERR_LINK_DOWN h n) = true ∧ bit (t.get TEN_PF_CAUSE_CAUSE) cCxlDown = true
          ∧ t.jobs = s.jobs ∧ t.cores = s.cores ∧ (∀ k, k ≠ h.val → t.harbor k = s.harbor k))
    ∧ (∀ fields, s.exk.staged.length < 1024 → ∃ t, exec (.cxlMediaEvent h n fields) s = .next t
        ∧ t.exk.staged.getLast?.map (fun r => (r.kind, r.source, r.payload)) =
            some (8, 16 + h.val, pay 1 (2 * h.val + n.val) ++ fields.take 31)
        ∧ OnlyRegs [MGT_LOG_STATUS, MGT_LOG_NEWEST, MGT_LOG_OLDEST] { s with exk := t.exk } t)

/-- The flash: a worn or read-disturbed block's segments move and it is erased, a failed one is retired, the map is checkpointed,
and a mount in its phase of a start shows. -/
def Sys2Proof.Claims.FlashBlocksAreKept : Prop :=
  ∀ (h : Harbor) (b dst : Nat) (s : State), b ≠ dst →
    let x := s.harbor h
    let erased (t : State) : Prop := (t.harbor h).block b =
        { (x.block b) with reads := 0, erases := (x.block b).erases + 1, free := true }
      ∧ (t.harbor h).segs = x.segs.map (fun e => if e.2 = b then (e.1, dst) else e) ∧ (t.harbor h).objs = x.objs
    (∀ ecc, ecc = true ∨ s.get (HBR_FTL_CTRL_RD_LIMIT h) * 65536 ≤ (x.block b).reads → (x.block dst).free = true →
      (x.block dst).retired = false → ∃ t, exec (.readRefresh h b dst ecc) s = .next t ∧ erased t
        ∧ t.get (HBR_FTL_CNT_REFRESH_CNT h) = satAdd 16 (s.get (HBR_FTL_CNT_REFRESH_CNT h)) 1
        ∧ HarborFrame h [HBR_FTL_CNT h, HBR_FTL_WEAR h] s t)
    ∧ (let low := (leastBy id (x.blocks.map fun e => e.2.erases)).getD 0
      s.get (HBR_FTL_CTRL_WL_DELTA h) < (x.blocks.map fun e => e.2.erases).foldl max 0 - low → (x.block b).erases = low →
      (x.block dst).free = true → low < (x.block dst).erases →
      ∃ t, exec (.wearLevel h b dst) s = .next t ∧ erased t ∧ HarborFrame h [HBR_FTL_WEAR h] s t)
    ∧ (∀ (bad : List (Nat × Fin 16)) (low : Bool), (x.block b).retired = false →
        ∃ t, exec (.blockRetire h b dst bad low) s = .next t ∧ ((t.harbor h).block b).retired = true
          ∧ (t.harbor h).segs = x.segs.map (fun e => if e.2 = b then (e.1, dst) else e)
          ∧ t.get (HBR_FTL_CNT_RETIRED_BLK h) = satAdd 16 (s.get (HBR_FTL_CNT_RETIRED_BLK h)) 1
          ∧ t.get (HBR_FAR_ERR_UE_CNT h) = satAdd 16 (s.get (HBR_FAR_ERR_UE_CNT h)) bad.length
          ∧ (∀ e ∈ bad, lookupD (t.harbor h).fpois (16 * e.1 + e.2.val) false = true)
          ∧ t.flag (HBR_FTL_STATUS_READ_ONLY h) = (s.flag (HBR_FTL_STATUS_READ_ONLY h) || low)
          ∧ t.jobs = s.jobs ∧ t.cores = s.cores)
    ∧ (∃ t, exec (.ftlCheckpoint h) s = .next t ∧ HarborFrame h [] s t
        ∧ t.harbor h = { x with checkpointed := x.segs, journal := 0 })
    ∧ (∀ ms, s.phase = phFtl → ∃ t, exec (.ftlMount h true ms) s = .next t ∧ t.flag (HBR_FTL_STATUS_MOUNTED h) = true
        ∧ t.get (HBR_FTL_STATUS_MOUNT_MS h) = min 65535 ms
        ∧ (∀ q v, lookup x.blocks q = some v → lookup (t.harbor h).blocks q = some { v with reads := satAdd 32 v.reads 65536 })
        ∧ HarborFrame h [HBR_FTL_STATUS h, HBR_CAP_NEAR h, HBR_CAP_MID h, HBR_CAP_FAR h] s t)

/-- Object commands of the physical function, and those a busy harbor clamps.
Where it rests on a reading or a choice of the model, not on a rule: logs 81 and 82. -/
def Obligations.ObjectCommandsAreTakenOneByOne : Prop :=
  Sys2Proof.Claims.ObjectCommandsRun ∧
  Sys2Proof.Claims.BusyHarborClampsObjectCommands

/-- The errors of the tiers, and the flash that keeps its blocks.
Where it rests on a reading or a choice of the model, not on a rule: logs 76 and 78. -/
def Obligations.TiersShowTheirErrors : Prop :=
  Sys2Proof.Claims.TierErrorsAreShown ∧
  Sys2Proof.Claims.FlashBlocksAreKept

/-! ### Paths, pours and floors -/

/-- A floor window sets every holder's deficit anew; a path's grant takes its request, charges its holder, and does what was asked:
a tile leaves for its pour group under a credit, a page begins its way into a near frame.
Where it rests on a reading or a choice of the model, not on a rule: logs 69, 77 and 80. -/
def Obligations.PathsGrantRequests : Prop :=
  ∀ (h : Harbor) (s : State),
    let x := s.harbor h
    (∀ far, ∃ t, exec (.floorWindowStart h far) s = .next t ∧ HarborFrame h [] s t
      ∧ (∀ p q, p ≤ 128 → q < 13 → (t.harbor h).deficit q (some p) =
          (if (if far then 5 ≤ q else q < 5) then windowBytes3 q (s.floorOf h p) else x.deficit q (some p)))
      ∧ (t.harbor h).reqs = x.reqs ∧ (t.harbor h).objs = x.objs)
    ∧ (∀ (path : Fin 13) (n : Nat) (r : PathReq), x.fenced = false → (s.showStarve h).chooseReq h path = some r →
      (∀ (q : TierReq) i p s1 f, r.act = .req q → q.job = .stage i p →
        ((s.showStarve h).setHarbor h { x.charge path r with reqs := x.reqs.erase q }).takeNear h i p = some (s1, f) →
        ∃ t, exec (.pathGrant h path n) s = .next t
          ∧ (t.harbor h).moves = (s1.harbor h).moves ++ [{ index := i, page := p, frame := f, mig := false, restarts := 0 }]
          ∧ (t.harbor h).reqs = (s1.harbor h).reqs ∧ t.jobs = s.jobs ∧ t.cores = s.cores)
      ∧ (∀ key v o p k, r.act = .pour key → lookup x.streams key = some v → s.obj v.handle = some o →
          harborOf v.handle = h.val → x.spot v o = .tile p k → lookup o.near p ≠ none →
        let tile := deliverTile ((pageTiles ((x.pageBytes (indexOf v.handle) p 0 65536).getD [])).getD k none)
          (x.page0 (indexOf v.handle)) true
        ∃ t, exec (.pathGrant h path n) s = .next t
          ∧ lookup (t.harbor h).streams key = some v.grant
          ∧ (∀ e, e ≠ key → lookup (t.harbor h).streams e = lookup x.streams e)
          ∧ t.out = s.out ++ [.noc (0x800 + 4 * h.val + key / 64) v.desc.vroute 2 s.tide.now (tile.1.flatMap granNats)]
          ∧ (t.harbor h).deficits = (x.charge path r).deficits ∧ t.jobs = s.jobs ∧ t.cores = s.cores))
    ∧ (∀ (path : Fin 13) n, x.fenced = true → exec (.pathGrant h path n) s = .next s)

/-- The credits a pour stream holds: a grant spends one and the head's return of one gives it back, never beyond the ring's
slots; a stream that has poured REPEAT times stops. -/
def Sys2Proof.Claims.PourCreditsAreConserved : Prop :=
  ∀ (c : LCore) (slot : Slot) (r : Ring) (e : Fin 16) (n : Fin 64) (s : State) (d : RingDesc) (v : PourStream),
    let k := s.core c
    let x := k.slots.getD slot slotReset
    let h := e.val / 4
    let key := 64 * (e.val % 4) + n.val
    (v.grant.credits = v.credits - 1 ∧ (v.pos + 1 < v.desc.tiles → v.grant.pos = v.pos + 1 ∧ v.grant.stopped = v.stopped)
      ∧ (v.desc.tiles ≤ v.pos + 1 → v.grant.pos = 0 ∧ v.grant.runs = v.runs + 1
        ∧ (v.desc.repeats ≠ 0 → v.desc.repeats ≤ v.runs + 1 → v.grant.stopped = true)))
    ∧ (x.ringDesc r = some d → d.producer = 0 → 0 < (x.ring r).due → lookup (s.harbor h).streams key = some v →
      s.groupHeads v = [c.val] → lookupD v.back c 0 = 0 → v.stopped = false →
      ∃ t, exec (.slotCreditReturn c slot r none (some (e, n))) s = .next t
        ∧ (∃ w, lookup (t.harbor h).streams key = some w ∧ w.credits = min v.desc.slots (v.credits + 1) ∧ w.lastAt = s.tide.now
            ∧ w.pos = v.pos ∧ w.runs = v.runs)
        ∧ t.core c = k.setSlot slot (x.setRing r { x.ring r with due := (x.ring r).due - 1 })
        ∧ (∀ j, j ≠ c.val → t.core j = s.core j) ∧ (∀ j, j ≠ h → t.harbor j = s.harbor j) ∧ t.regs = s.regs)

/-- A wait for weights that lasts LIMIT_US is one event: the ring is named, the episode counted, the partition's owner told, and the
core stalls on with its job. -/
def Sys2Proof.Claims.PourStarvationIsAnEvent : Prop :=
  ∀ (c : LCore) (r : Ring) (s : State) (p : Nat), s.starves c r = true → (s.core c).dbgStop = false → s.Inv →
    ((s.core c).starve.contains r.val = false → s.corePart c = some p → ∃ t, exec (.pourWatchdogExpire c r) s = .next t
      ∧ t.core c = { s.core c with starve := r.val :: (s.core c).starve }
      ∧ t.flag (s.atCore c ISL_CORE_PWD_STARVED) = true ∧ t.get (s.atCore c ISL_CORE_PWD_RING) = r
      ∧ t.get (s.atCore c ISL_CORE_PWD_EPISODES) = satAdd 16 (s.get (s.atCore c ISL_CORE_PWD_EPISODES)) 1
      ∧ t.get (TEN_PART_FAULT_CODE p) = stPourStarved ∧ t.jobs = s.jobs ∧ (∀ d, d ≠ c.val → t.core d = s.core d))
    ∧ ((s.core c).starve.contains r.val = true → exec (.pourWatchdogExpire c r) s = .next s)

/-- Pour streams: their credits, and the event of their starvation.
Where it rests on a reading or a choice of the model, not on a rule: logs 47 and 48. -/
def Obligations.PoursHoldTheirCredits : Prop :=
  Sys2Proof.Claims.PourCreditsAreConserved ∧
  Sys2Proof.Claims.PourStarvationIsAnEvent

/-! ### Loads and the flask sequencer -/

/-- Partition `p` has no job any more, is IDLE and shows the status its job ended with. -/
def Sys2Proof.Machine.State.jobOver (t : State) (p code : Nat) : Prop :=
  lookup t.jobs p = none ∧ t.get (TEN_PART_CTRL_STATE p) = psIdle ∧ t.get (TEN_PART_STATUS_JOB_CODE p) = code % 256

/-- LOAD: an accepted load makes its partition LOADING with a job and takes the lowest free context, or waits for one; a
partition in a reset keeps the load waiting; any other LOAD ends as REFUSED_FIT and changes no job. -/
def Sys2Proof.Claims.LoadsAreDecided : Prop :=
  ∀ (s : State),
    let r := loadReqOf (s.get (HUB_LDR_ARG_ARG 0)) (s.get (HUB_LDR_ARG_ARG 1)) (s.get (HUB_LDR_ARG_ARG 2)) none
    let st := s.get (TEN_PART_CTRL_STATE r.part)
    let runs (P : State → Prop) : Prop := ∃ t, exec .ldrLoad s = .next t ∧ P t
    (s.ready = true → st = psIdle → s.mayLoad r = true → s.unserved r.part = false →
      runs (fun t => t.get (TEN_PART_CTRL_STATE r.part) = psLoading ∧ (∃ j, lookup t.jobs r.part = some j ∧ j.started = false
            ∧ j.entry = 0 ∧ j.model = r.model)
          ∧ (∀ p, p ≠ r.part → lookup t.jobs p = lookup s.jobs p) ∧ t.flag HUB_TIDE_STATUS_JOB_LOCK = true ∧ t.cores = s.cores)
      ∧ (∀ n, (List.range 4).find? (fun n => (lookup s.loads n).isNone) = some n → runs fun t =>
          lookup t.loads n = some { req := r, stage := 1 } ∧ t.loadsWaiting = s.loadsWaiting
            ∧ t.flag (HUB_LDR_CTX_ACTIVE n) = true ∧ t.get (HUB_LDR_CTX_STAGE n) = 1 ∧ t.get (HUB_LDR_CTX_PART n) = r.part
            ∧ t.get HUB_LDR_STATUS_CTX = n ∧ t.get (HUB_LDR_FAULT_CHECK n) = 0)
      ∧ ((∀ n, n < 4 → lookup s.loads n ≠ none) → runs fun t => t.loadsWaiting = s.loadsWaiting ++ [r] ∧ t.loads = s.loads))
    ∧ (s.ready = true → st = psResetting → s.mayLoad r = true →
        exec .ldrLoad s = .next { s with loadsWaiting := s.loadsWaiting ++ [r] })
    ∧ (s.ready = false ∨ s.mayLoad r = false ∨ (st ≠ psIdle ∧ st ≠ psResetting) ∨ (st = psIdle ∧ s.unserved r.part = true) →
        runs fun t => t.get HUB_LDR_STATUS_CODE = stRefusedFit ∧ t.get HUB_LDR_STATUS_PART = r.part
          ∧ t.jobs = s.jobs ∧ t.loads = s.loads ∧ t.loadsWaiting = s.loadsWaiting ∧ t.cores = s.cores)

/-- The stages of a load: VERIFY ends in a job or in the status and the record of the check that failed, the job gone; each
later stage is written and the next one begins; PRIME chooses the start tick; at that tick the job runs, its cores in WINDOW
mode in entry 0's slot. -/
def Sys2Proof.Claims.LoadStagesFollow : Prop :=
  ∀ (ctx : Fin 4) (s : State) (l : LoadRun) (j : JobSt), lookup s.loads ctx = some l → lookup s.jobs l.req.part = some j →
    l.req.part < 128 → s.Inv →
    let p := l.req.part
    let done (P : State → Prop) : Prop := ∃ t, exec (.loadStageComplete ctx) s = .next t ∧ P t
    (l.stage = 1 → done fun t => match s.verify l.req j.handle with
      | .ok j1 => lookup t.jobs p = some j1 ∧ lookup t.loads ctx = some { l with stage := 2 }
          ∧ t.get (HUB_LDR_CTX_STAGE ctx) = 2 ∧ t.cores = s.cores ∧ RegsBut [HUB_LDR_CTX ctx] s t
      | .error e => t.jobOver p e.status ∧ (s.loadsWaiting = [] →
          lookup t.loads ctx = none ∧ t.get (HUB_LDR_FAULT_CHECK ctx) = e.check % 256
            ∧ t.get (HUB_LDR_CTX_CODE ctx) = e.status % 256 ∧ t.flag (HUB_LDR_CTX_ACTIVE ctx) = false))
    ∧ (2 ≤ l.stage → l.stage ≤ 7 → done fun t => lookup t.loads ctx = some { l with stage := l.stage + 1 }
        ∧ t.get (HUB_LDR_CTX_STAGE ctx) = (l.stage + 1) % 8
        ∧ (l.stage = 2 → ∀ c ∈ s.partCores p, (t.core c).slots = List.replicate 4 slotReset ∧ (t.core c).cache = [])
        ∧ (l.stage = 6 → ∃ j1, lookup t.jobs p = some j1 ∧ j1.image = j.image
            ∧ j1.held = (List.range 4).map fun i => (j.image.firstSlots.find? fun e => decide (e.2 = i)).map (·.1))
        ∧ (l.stage = 7 → lookup t.jobs p = some { j with startAt := some (startTick s.tide.now) } ∧ t.cores = s.cores))
    ∧ (∀ tk e (q : Part), q.val = p → j.startAt = some tk → j.image.seq[0]? = some e → j.started = false → s.saves = [] →
        ∃ t, exec (.jobStart q) s = .next t ∧ t.get (TEN_PART_CTRL_STATE p) = psRunning
          ∧ lookup t.jobs p = some { j with started := true, startAt := none }
          ∧ (∀ c ∈ s.partCores p, (t.core c).active = e.slot ∧ (t.core c).switchTo = none
              ∧ t.flag (s.atCore c ISL_CORE_TS_WMODE) = true)
          ∧ t.get (HUB_FSEQ_FLASK p) = e.flask % 64 ∧ t.get (HUB_FSEQ_SLOT p) = e.slot % 4)

/-- The flask sequencer: an entry whose slot is not ready counts its waiting; ready, the slot is rearmed on every core; an entry
that ends runs again, gives place to NEXT, or completes the job; GO is set by its write; a free slot is rewritten with the
flask its next entry needs. -/
def Sys2Proof.Claims.FlaskSequenceRuns : Prop :=
  ∀ (p : Part) (s : State) (j : JobSt) (e : SeqEntry), lookup s.jobs p = some j → j.image.seq[j.entry]? = some e →
    s.get (TEN_PART_CTRL_STATE p) = psRunning → s.Inv →
    let runs (i : Instr) (P : State → Prop) : Prop := ∃ t, exec i s = .next t ∧ P t
    let fits := j.held.getD e.slot none = some e.flask ∧ s.slotsIn p e.slot (fun x => x == .ready || x == .halted) = true
    (runs (.fseqGo p) fun t => t.flag (HUB_FSEQ_GO_GO p) = true ∧ OnlyRegs [HUB_FSEQ_GO p] s t)
    ∧ (j.waiting = true →
      (fits → runs (.entryBegin p) fun t => lookup t.jobs p = some { j with waiting := false }
        ∧ (∀ c ∈ s.partCores p, e.slot < (s.core c).slots.length → (t.core c).slots.getD e.slot slotReset
            = ((s.core c).slots.getD e.slot slotReset).rearm)
        ∧ (∀ c, c ∉ s.partCores p → t.core c = s.core c) ∧ RegsBut [HUB_FSEQ p] s t)
      ∧ (¬ fits → runs (.entryBegin p) fun t => OnlyRegs [HUB_FSEQ_WAIT p] s t
        ∧ t.get (HUB_FSEQ_WAIT_TICKS p) = satAdd 32 (s.get (HUB_FSEQ_WAIT_TICKS p)) 1))
    ∧ (j.started = true → j.waiting = false → (e.go = true → s.flag (HUB_FSEQ_GO_GO p) = true) →
        (∀ c ∈ s.partCores p, (s.core c).active = e.slot ∧ (s.core c).slot.state = .halted ∧ (s.core c).switchTo = none) →
        let n := lookupD j.runs j.entry 0 + 1
        (e.last = true → runs (.entryEnd p) fun t => t.jobOver p stDone)
        ∧ (e.last = false → runs (.entryEnd p) fun t => lookup t.jobs p = (if e.count = 0 ∨ n < e.count
            then some { j with runs := insert j.runs j.entry n, waiting := true }
            else some { j with runs := insert j.runs j.entry 0, entry := e.next, waiting := true })
          ∧ t.flag (HUB_FSEQ_GO_GO p) = false ∧ t.cores = s.cores ∧ RegsBut [HUB_FSEQ p, HUB_FSEQ_GO p] s t))
    ∧ (∀ (x : Slot) q, (if j.waiting then seqWalk j.image.seq j.entry 256 else (seqWalk j.image.seq j.entry 257).tail).find?
          (fun q => decide (q.slot = x.val)) = some q →
        j.started = true → (j.waiting = false → e.slot ≠ x.val) → s.slotsIn p x (fun y => y != .active) = true →
        j.held.getD x none ≠ some q.flask → runs (.slotRewrite p x) fun t =>
          lookup t.jobs p = some { j with held := setAt j.held x (some q.flask) }
            ∧ (∀ c ∈ s.partCores p, x < (s.core c).slots.length → ((t.core c).slots.getD x slotReset).state = .ready)
            ∧ (∀ c, c ∉ s.partCores p → t.core c = s.core c) ∧ t.regs = s.regs)

/-- REGISTER makes a model of an image whose checks pass and writes its registry entries, and reports the check that fails;
UNREGISTER of a number that no model has is refused. -/
def Sys2Proof.Claims.ModelsAreRegistered : Prop :=
  ∀ (s : State),
    let a := s.get (HUB_IMG_ARG_ARG 0)
    let m := bitsOf a 0 10
    let tenant : Option Nat := if bit a 22 then none else some (bitsOf a 10 12)
    let h := s.get (HUB_IMG_ARG_ARG 1)
    let b := s.get (HUB_IMG_ARG_ARG 2)
    let refused (i : Instr) (code check : Nat) : Prop := ∃ t, exec i s = .next t ∧ OnlyRegs [HUB_IMG_STATUS] s t
      ∧ t.get HUB_IMG_STATUS_CODE = code % 256 ∧ t.get HUB_IMG_STATUS_CHECK = check % 1024
    (lookup s.models m ≠ none ∨ s.imageObj h = none → refused .imgRegister stRefusedFit 0)
    ∧ (lookup s.models m = none → s.imageObj h ≠ none → ∃ t, exec .imgRegister s = .next t ∧
      match s.openImage h false with
      | .error e => OnlyRegs [HUB_IMG_STATUS] s t ∧ t.get HUB_IMG_STATUS_CODE = e.status % 256
          ∧ t.get HUB_IMG_STATUS_CHECK = e.check % 1024
      | .ok g => t.cores = s.cores ∧ t.jobs = s.jobs ∧ RegsBut [HUB_IMG_STATUS, HUB_EXR_STATUS] s t
          ∧ (t.get HUB_IMG_STATUS_CODE = stRefusedFit ∧ t.models = s.models ∧ t.registry = s.registry
            ∨ t.get HUB_IMG_STATUS_CODE = stDone ∧ t.get HUB_IMG_STATUS_CHECK = 0
              ∧ ∃ x, lookup t.models m = some x ∧ x.handle = h ∧ x.image = g ∧ x.tenant = tenant
                ∧ (s.readBind b g true).map (·.objs) = some x.objs ∧ ∀ k, k ≠ m → lookup t.models k = lookup s.models k))
    ∧ (lookup s.models m = none → refused .imgUnregister stRefusedFit 0)

/-- UNREGISTER frees the model ID and its registry entries and deletes no object; it is refused with REFUSED_FIT while a job on
the package is loading or running the model (R379). -/
def Obligations.UnregisterFreesTheModel : Prop :=
  ∀ (s : State),
    let m := bitsOf (s.get (HUB_IMG_ARG_ARG 0)) 0 10
    lookup s.models m ≠ none →
    ((s.jobs.any fun e => decide (e.2.model = some m)) = true → ∃ t, exec .imgUnregister s = .next t
        ∧ OnlyRegs [HUB_IMG_STATUS] s t ∧ t.get HUB_IMG_STATUS_CODE = stRefusedFit)
    ∧ ((s.jobs.any fun e => decide (e.2.model = some m)) = false →
        ∃ t, exec .imgUnregister s = .next t ∧ lookup t.models m = none ∧ (∀ k, k ≠ m → lookup t.models k = lookup s.models k)
          ∧ t.get HUB_IMG_STATUS_CODE = stDone ∧ (∀ e, e < 4096 → lookup t.registry (exrKey m e) = none)
          ∧ (∀ k, (∀ e, e < 4096 → k ≠ exrKey m e) → lookup t.registry k = lookup s.registry k)
          ∧ (∀ hb, ∀ x ∈ (t.harbor hb).cached, x.model ≠ m) ∧ (∀ hb, (t.harbor hb).objs = (s.harbor hb).objs)
          ∧ t.jobs = s.jobs ∧ t.cores = s.cores ∧ RegsBut [HUB_IMG_STATUS, HUB_EXR_STATUS] s t)

/-- A load from its command to the tick its job starts at.
Where it rests on a reading or a choice of the model, not on a rule: logs 67, 84, 85, 88 and 89. -/
def Obligations.LoadsFollowTheirStages : Prop :=
  Sys2Proof.Claims.LoadsAreDecided ∧
  Sys2Proof.Claims.LoadStagesFollow

/-- Registered models, and the flask sequencer of a running job.
Where it rests on a reading or a choice of the model, not on a rule: logs 89 and 90. -/
def Obligations.ModelsAndFlasksAreSequenced : Prop :=
  Sys2Proof.Claims.FlaskSequenceRuns ∧
  Sys2Proof.Claims.ModelsAreRegistered

/-! ### Request streams and serving -/

/-- Streams are opened with empty rings and closed; the request tail is taken where it lies ahead and its units are read; reads
that fail are counted and made again twice, then the stream is closed; token ring entries are returned, cancels decided, and
budgets refilled and written, each by the tenant's own page. -/
def Sys2Proof.Claims.StreamsAndDoorbells : Prop :=
  ∀ (s : State) (tn : Tenant) (v : Word) (d : DWord),
    let runs (i : Instr) (P : State → Prop) : Prop := ∃ t, exec i s = .next t ∧ P t
    let a (n : Nat) : Nat := s.get (SRV_STRM_ARG_ARG n)
    let o := bitsOf (a 0) 0 14
    let args := streamArgs (a 1) (a 2) (a 3) (a 4) (bitsOf (a 0) 14 12) (bit (a 0) 26)
    let clamped (t : State) : Prop := t.get (DB_CLAMP_COUNT tn) = satAdd 32 (s.get (DB_CLAMP_COUNT tn)) 1
      ∧ t.get TEN_CLAMP_COUNT = satAdd 32 (s.get TEN_CLAMP_COUNT) 1 ∧ OnlyRegs [DB_CLAMP tn, TEN_CLAMP, TEN_CLAMP_LAST] s t
    (∀ x c, args = some (x, c) → lookup s.streams o = none → runs .strmOpen fun t => lookup t.streams o = some x
        ∧ x.rqBase = a 1 + a 2 * 2 ^ 32 ∧ x.tenant = bitsOf (a 0) 14 12 ∧ x.head = 0 ∧ x.tail = 0 ∧ x.wpos = 0
        ∧ t.get SRV_STRM_STATUS_CODE = stDone ∧ (∀ k, k ≠ o → lookup t.streams k = lookup s.streams k) ∧ t.reqs = s.reqs)
    ∧ (args = none ∨ lookup s.streams o ≠ none → runs .strmOpen fun t => t.get SRV_STRM_STATUS_CODE = stRefusedFit
        ∧ OnlyRegs [SRV_STRM_STATUS] s t)
    ∧ (runs .strmClose fun t => lookup t.streams o = none ∧ t.get SRV_STRM_STATUS_CODE = stDone
        ∧ (lookup s.streams o ≠ none → lookup t.reqs o = none) ∧ (∀ k, k ≠ o → lookup t.streams k = lookup s.streams k))
    ∧ (let st := bitsOf v.toNat 0 14
      let tail := bitsOf v.toNat 16 16
      (s.streamOf tn st = none → runs (.requestDoorbell tn v) clamped)
      ∧ ∀ x, s.streamOf tn st = some x → tail < x.rqSize → bitsOf v.toNat 14 2 = 0 →
        (ringDist x.rqSize x.head x.tail < ringDist x.rqSize x.head tail → runs (.requestDoorbell tn v) fun t =>
          t = { s with streams := insert s.streams st { x with tail := tail }, out := t.out }
            ∧ (x.tail < tail → t.out = s.out ++ [.hostRead (tn + 1) (x.rqBase + 64 * x.tail) (64 * (tail - x.tail))]))
        ∧ (ringDist x.rqSize x.head tail ≤ ringDist x.rqSize x.head x.tail → runs (.requestDoorbell tn v) clamped))
    ∧ (∀ (st : Stream) x, lookup s.streams st = some x → x.head ≠ x.tail →
        (x.fails < 2 → runs (.requestReadRetry st) fun t => lookup t.streams st = some { x with fails := x.fails + 1 }
          ∧ t.get HUB_PCIE_ERR_CTO_CNT = satAdd 16 (s.get HUB_PCIE_ERR_CTO_CNT) 1
          ∧ t = { s with regs := t.regs, streams := t.streams, out := t.out } ∧ RegsBut [HUB_PCIE_ERR] s t)
        ∧ (2 ≤ x.fails → runs (.requestReadRetry st) fun t => lookup t.streams st = none ∧ lookup t.reqs st = none
          ∧ t.get HUB_PCIE_ERR_CTO_CNT = satAdd 16 (s.get HUB_PCIE_ERR_CTO_CNT) 1))
    ∧ (let st := bitsOf d.toNat 0 14
      let head := bitsOf d.toNat 32 20
      (s.streamOf tn st = none → runs (.tokenHeadDoorbell tn d) clamped)
      ∧ ∀ x, s.streamOf tn st = some x → x.held = [] → bitsOf d.toNat 14 18 = 0 → bitsOf d.toNat 52 12 = 0 →
        (head < x.tkSize → ringDist x.tkSize x.rhead head ≤ x.wpos - x.rhead → runs (.tokenHeadDoorbell tn d) fun t =>
          t = { s with streams := insert s.streams st { x with rhead := x.rhead + ringDist x.tkSize x.rhead head } })
        ∧ (x.wpos - x.rhead < ringDist x.tkSize x.rhead head → runs (.tokenHeadDoorbell tn d) fun t =>
          t.streams = insert s.streams st { x with rhead := x.rhead + (x.wpos - x.rhead) }
            ∧ clamped { t with streams := s.streams }))
    ∧ (let st := bitsOf d.toNat 0 14
      let tag := bitsOf d.toNat 32 32
      (s.streamOf tn st = none → runs (.cancel tn d) clamped)
      ∧ ∀ x, s.streamOf tn st = some x → bitsOf d.toNat 14 18 = 0 →
        ((∀ r, lookup s.reqs st = some r → r.tag ≠ tag) → x.held = [] → x.room = true → runs (.cancel tn d) fun t =>
          lookup t.streams st = some { x with wpos := x.wpos + 1 } ∧ t.reqs = s.reqs
          ∧ ∃ more, t.out = s.out ++ .hostWrite (x.tenant + 1) (x.tkBase + 32 * (x.wpos % x.tkSize))
              ((x.already tag).bytes (decide (x.wpos / x.tkSize % 2 = 0)) s.tide.now) false :: more)
        ∧ ∀ r, lookup s.reqs st = some r → r.tag = tag →
          (r.slot = none → runs (.cancel tn d) fun t => lookup t.reqs st = none)
          ∧ (r.slot ≠ none → runs (.cancel tn d) fun t => t = { s with reqs := insert s.reqs st (if r.atJ = none
              then { r with cancelled := true } else { r with lateCancel := true }) }))
    ∧ (runs .budgetRefill fun t => ∀ n, n < 4096 → t.level n =
        clampLevel (min ((s.get (SRV_BUD_CAP_V n) * 65536 : Nat) : Int) (s.level n + (s.get (SRV_BUD_RATE_V n) : Nat))))
    ∧ (let lo := (lookupD s.levelLo tn (s.reg (SRV_BUD_LEVEL_LO tn))).toNat
      let w := signed 56 (lo + bitsOf v.toNat 0 24 * 2 ^ 32)
      runs (.budgetLevelWrite tn v) fun t => t.level tn = clampLevel w ∧ lookup t.levelLo tn = none
        ∧ (t.get HUB_CLAMP_COUNT = if clampLevel w = w ∧ bitsOf v.toNat 24 8 = 0 then s.get HUB_CLAMP_COUNT
            else satAdd 32 (s.get HUB_CLAMP_COUNT) 1))

/-- A request whose entry is whole is parsed, or refused with its status; the first waiting request of the highest class takes
the lowest free slot; its prompt's blocks are looked up; the index ages, and loses every entry with its token store. -/
def Sys2Proof.Claims.RequestsAreAdmitted : Prop :=
  ∀ (st : Stream) (s : State),
    let runs (i : Instr) (P : State → Prop) : Prop := ∃ t, exec i s = .next t ∧ P t
    (∀ x b, lookup s.streams st = some x → lookup s.reqs st = none → 64 ≤ b.length → 64 * entryUnits b ≤ b.length →
      entryUnits b ≤ ringDist x.rqSize x.head x.tail →
      let y := { x with head := (x.head + entryUnits b) % x.rqSize, fails := 0 }
      let r := submitOf b s.nextId
      (leNat (b.take 1) = 0 → runs (.requestEntryParse st b) fun t => lookup t.streams st = some y ∧ t.reqs = s.reqs)
      ∧ (leNat (b.take 1) ≠ 0 → s.submitStatus x.tenant b r = none → runs (.requestEntryParse st b) fun t =>
          lookup t.streams st = some y ∧ t.nextId = s.nextId + 1 ∧ t.out = s.out
          ∧ lookup t.reqs st = some { r with
              history := (List.range r.plen).map fun i => leNat ((b.drop (64 + 4 * i)).take 4) })
      ∧ (∀ code, leNat (b.take 1) ≠ 0 → s.submitStatus x.tenant b r = some code → x.held = [] → x.room = true →
          runs (.requestEntryParse st b) fun t => lookup t.streams st = some { y with wpos := x.wpos + 1 } ∧ t.reqs = s.reqs
            ∧ ∃ more, t.out = s.out ++ .hostWrite (x.tenant + 1) (x.tkBase + 32 * (x.wpos % x.tkSize))
                ((r.statusEntry code true false).bytes (decide (x.wpos / x.tkSize % 2 = 0)) s.tide.now) false :: more))
    ∧ (∀ (m : Fin 1024) e b i,
        let q (f : Nat × ServReq) : Nat := ((lookup s.streams f.1).map fun x => s.get (TEN_VF_CTRL_QOS x.tenant)).getD 0
        let waits (f : Nat × ServReq) : Prop := f ∈ s.reqs ∧ f.2.slot = none ∧ f.2.model = m
        waits e → (∀ f, waits f → f ≠ e → q f < q e ∨ (q f = q e ∧ e.2.order < f.2.order)) → (∀ f ∈ s.reqs, f.2.order < 2 ^ 64) →
        (s.bindsOf m).findSome? (fun b => (s.freeSlot b).map fun i => (b, i)) = some (b, i) →
        runs (.slotAdmit m) fun t => t.reqs = insert s.reqs e.1 { e.2 with slot := some (b, i) } ∧ t.streams = s.streams)
    ∧ (∀ r b i, lookup s.reqs st = some r → r.slot = some (b, i) → r.looked = false →
        let found := s.pfxMatches (prefixKey r.model (s.pfxScope b st) r.history 0) r.model (s.pfxScope b st)
        let hit := found.find? fun e => decide (s.pfxToks e.1 = blockToks r.history 0) && s.bindHas b e.2.block
        (r.plen ≤ 64 → runs (.prefixLookup st) fun t => lookup t.reqs st = some { r with looked := true }
          ∧ t.pfx = s.pfx ∧ t.binds = s.binds)
        ∧ (64 < r.plen → hit = none → runs (.prefixLookup st) fun t => lookup t.reqs st = some { r with looked := true }
          ∧ t.pfx = s.pfx ∧ t.get SRV_PFX_MISS_COUNT = satAdd 32 (s.get SRV_PFX_MISS_COUNT) 1)
        ∧ (∀ k e, 64 < r.plen → r.plen ≤ 128 → hit = some (k, e) → runs (.prefixLookup st) fun t =>
            lookup t.reqs st = some { r with looked := true, blocks := r.blocks ++ [e.block], pos := 64, reused := true }
            ∧ lookup t.pfx k = some { e with age := 0 }
            ∧ lookupD (t.bind b).refs e.block 0 = lookupD (s.bind b).refs e.block 0 + 1
            ∧ t.get SRV_PFX_HIT_COUNT = satAdd 32 (s.get SRV_PFX_HIT_COUNT) 1))
    ∧ (runs .prefixAgeSweep fun t => t = { s with pfx := t.pfx }
        ∧ ∀ k e, lookup s.pfx k = some e → lookup t.pfx k = some { e with age := min 15 (e.age + 1) })
    ∧ (∀ v, runs (.pfxObjWrite v) fun t => t.pfx = [] ∧ t.reg SRV_PFX_CTRL = v ∧ RegsBut [SRV_PFX_CTRL] s t
        ∧ t = { s with regs := t.regs, pfx := [], binds := t.binds })

/-- Steps of a binding: the message of the next step goes out once every slot is settled, with an entry for each slot; messages
of the next step are held; the feed is written once every rank's message stands, and the step runs; it ends with the last
shard's done granule.
Where it rests on a reading or a choice of the model, not on a rule: logs 97, 98 and 101. -/
def Obligations.StepsAreFedAndDone : Prop :=
  ∀ (b : Fin 32) (s : State),
    let x := s.bind b
    let slots := (List.range 256).filterMap fun i => (s.reqAt b i).map fun e => (e.1, i, e.2)
    let runs (i : Instr) (P : State → Prop) : Prop := ∃ t, exec i s = .next t ∧ P t
    (s.flag (SRV_BIND0_EN b) = true → x.running = false → x.sent = false → (∀ e ∈ slots, s.settled e.1 e.2.2 = true) →
      (runs (.stepMessageSend b) fun t => (t.bind b).sent = true ∧ (t.bind b).running = false ∧ (t.bind b).step = x.step
        ∧ ∃ es, lookup (t.bind b).msgs (s.bindPeers b).2 = some es ∧ es.map (·.slot) = slots.map (·.2.1))
      ∧ (∀ st i r, slots = [(st, i, r)] → s.slotHold st r = .none → r.looked = true →
        let n := min (min (s.get (SRV_BIND2_PF_CHUNK b)) (s.get (SRV_BIND2_PF_STEP b))) r.ready
        0 < n → (r.pos + n + 63) / 64 = (r.pos + 63) / 64 → runs (.stepMessageSend b) fun t =>
          lookup (t.bind b).msgs (s.bindPeers b).2 = some [StepEntry.mk i r.pos n
              (decide (r.pos + n = r.history.length)) r.isNew ((r.history.drop r.pos).take n) []]
          ∧ ∃ q, lookup t.reqs st = some q ∧ q.pos = r.pos + n ∧ q.sampling = decide (r.pos + n = r.history.length)
              ∧ q.history = r.history ∧ q.blocks = r.blocks))
    ∧ (s.flag (SRV_BIND0_EN b) = false ∨ x.running = true ∨ x.sent = true → exec (.stepMessageSend b) s = .next s)
    ∧ (∀ step rank es, s.flag (SRV_BIND0_EN b) = true → exec (.stepMessageReceive b step rank es) s =
        .next (if step.toNat = x.step + 1 then s.setBind b { x with msgs := insert x.msgs rank es } else s))
    ∧ (s.flag (SRV_BIND0_EN b) = true → x.running = false → s.get (TEN_PART_CTRL_STATE (s.bindPart b)) = psRunning →
        (∀ r, r < s.bindRanks b → lookup x.msgs r ≠ none) → runs (.feedWrite b) fun t => t.bind b = { x with
          step := x.step + 1, running := true, sent := false, msgs := [], done := [],
          fed := ((List.range (s.bindRanks b)).filterMap fun r => lookup x.msgs r).flatten }
        ∧ t.reqs = s.reqs ∧ t.jobs = s.jobs ∧ t.cores = s.cores
        ∧ ∃ gs, t.out.getLast? = some (.noc 0x828 (s.get (SRV_BIND3_FEED_ROUTE b)) 1 s.tide.now gs))
    ∧ (∀ (shard : Fin 64) (step : DWord) last, x.running = true → step.toNat = x.step → x.done.contains shard.val = false →
        runs (.doneGranule b shard step last) fun t => (t.bind b).running = !last ∧ (t.bind b).done = shard.val :: x.done
          ∧ (t.bind b).step = x.step ∧ (last = false → t = s.setBind b (t.bind b)))
    ∧ (∀ (shard : Fin 64) (step : DWord) last, x.running = false ∨ step.toNat ≠ x.step ∨ x.done.contains shard.val = true →
        exec (.doneGranule b shard step last) s = .next s)

/-- Candidates of a sampled slot gather by shard; the slot that came first is drawn first; a drawn token is appended, charged and
kept in the history, and ends its request where it is final; acknowledged blocks are awaited no more; a lost package ends the
binding's job and its requests go back to their mirrored boundary.
Where it rests on a reading or a choice of the model, not on a rule: logs 102, 103, 104 and 105. -/
def Obligations.TokensAreDrawnAndAppended : Prop :=
  ∀ (b : Fin 32) (s : State),
    let runs (i : Instr) (P : State → Prop) : Prop := ∃ t, exec i s = .next t ∧ P t
    (∀ (i : Fin 256) (shard : Fin 64) gs same st r, s.reqAt b i = some (st, r) → r.sampling = true → r.atJ = none →
      shard < s.bindShards b →
      let rs := insert r.records shard (candsOf shard (gs.take 8))
      (rs.length < s.bindShards b → exec (.candidateRecord b i shard gs same) s = .next (s.setReq st { r with records := rs }))
      ∧ (s.bindShards b ≤ rs.length → r.cancelled = false → runs (.candidateRecord b i shard gs same) fun t => ∃ j,
          t.reqs = insert s.reqs st { r with records := rs, atJ := some j } ∧ t.regs = s.regs
          ∧ (same = false → ∀ e ∈ s.reqs, ∀ k, e.2.atJ = some k → k < j))
      ∧ (s.bindShards b ≤ rs.length → r.cancelled = true → lookup s.reqs st = some r →
          runs (.candidateRecord b i shard gs same) fun t => lookup t.reqs st = none))
    ∧ (∀ (u : Fin 4) st k r, (st, k) ∈ s.serviceLine u → (∀ e ∈ s.serviceLine u, e ≠ (st, k) → k < e.2) →
        lookup s.reqs st = some r → (∀ x, lookup s.streams st = some x → x.tenant < 4096) → runs (.samplerService u) fun t => match r.sample with
          | (some tok, _) => t = s.setReq st { r with drawn := some (tok, r.final tok) }
          | (none, nan) => lookup t.reqs st = none ∧ t.get SRV_SAMP_CNT_NAN_END =
              (if nan then satAdd 8 (s.get SRV_SAMP_CNT_NAN_END) 1 else s.get SRV_SAMP_CNT_NAN_END))
    ∧ (∀ (st : Stream) r x tok fin i, lookup s.reqs st = some r → lookup s.streams st = some x → r.drawn = some (tok, fin) →
        r.slot = some (b.val, i) → x.tenant < 4096 →
        (r.awaiting = [] → x.held = [] → x.room = true → r.lateCancel = false → runs (.tokenAppend st) fun t =>
          t.level x.tenant = clampLevel (s.level x.tenant - 65536)
          ∧ (fin = false → lookup t.streams st = some { x with wpos := x.wpos + 1 } ∧ ∃ q, lookup t.reqs st = some q
              ∧ q.count = r.count + 1 ∧ q.history = r.history ++ [tok] ∧ q.drawn = none ∧ q.sampling = false)
          ∧ (fin = true → lookup t.reqs st = none
              ∧ lookup t.streams st = some { x with wpos := x.wpos + 1, ended := some (r.tag, r.count) })
          ∧ ∃ e more, t.out = s.out ++ .hostWrite (x.tenant + 1) (x.tkBase + 32 * (x.wpos % x.tkSize)) e false :: more)
        ∧ (r.awaiting ≠ [] ∨ x.held ≠ [] ∨ x.room = false → exec (.tokenAppend st) s = .next s))
    ∧ (∀ block rank, runs (.mirrorAck b block rank) fun t => t = { s with reqs := t.reqs } ∧ ∀ st r, lookup s.reqs st = some r →
        lookup t.reqs st = some (if r.slot.map (·.1) = some b.val
          then { r with awaiting := r.awaiting.filter fun w => decide (w ≠ 65536 * block + rank) } else r))
    ∧ (∀ (lost : Endpoint) j st i r, s.flag (SRV_BIND0_FAILOVER b) = true → s.flag (SRV_BIND0_EN b) = true →
        (s.bindPeers b).1.contains lost.val = true → lookup s.jobs (s.bindPart b) = some j →
        lookup s.lastLoad (s.bindPart b) = none → s.slotReqs b = [(st, i, r)] → s.Inv →
        runs (.servingFailover b lost []) fun t => t.jobOver (s.bindPart b) stLinkLost ∧ (t.bind b).running = false
          ∧ (t.bind b).msgs = [] ∧ t.reqs = insert s.reqs st r.replayed)
    ∧ (∀ (lost : Endpoint) q, s.flag (SRV_BIND0_FAILOVER b) = false → exec (.servingFailover b lost q) s = .next s)

/-- Streams and their doorbells, and the requests they bring.
Where it rests on a reading or a choice of the model, not on a rule: logs 94, 95 and 96. -/
def Obligations.StreamsBringRequests : Prop :=
  Sys2Proof.Claims.StreamsAndDoorbells ∧
  Sys2Proof.Claims.RequestsAreAdmitted

/-! ### Ravor ports -/

/-- The states of a port: enabled it trains, its neighbour's record is taken, a training that meets its conditions ends UP with
the credits of a fresh link, a failed one DOWN with its reason and at the third FENCED; a failed port trains again, a port
that is UP retrains, and CLR_FENCE leaves FENCED.
Where it rests on a reading or a choice of the model, not on a rule: log 117. -/
def Obligations.PortsTrainAndFence : Prop :=
  ∀ (p : Port) (s : State),
    let x := s.port p
    let st := s.get (RVR_PORT_STATUS_STATE p)
    let runs (i : Instr) (P : State → Prop) : Prop := ∃ t, exec i s = .next t ∧ P t
    let portOnly (rs : List Reg) (t : State) : Prop := t = { s with regs := t.regs, ravor := t.ravor } ∧ RegsBut rs s t
      ∧ t.ravor = { s.ravor with ports := t.ravor.ports } ∧ ∀ q, q ≠ p.val → t.port q = s.port q
    let training (rs : List Reg) (fails : Nat) (t : State) : Prop := portOnly rs t ∧ t.get (RVR_PORT_STATUS_STATE p) = ptTrain
      ∧ t.port p = { portReset with fails := fails, records := [s.ownTrain p 3 false] }
    (∀ width epoch al refusal reason ep np, st = ptTrain → runs (.train p ep np width epoch al refusal reason) fun t =>
      portOnly [] t ∧ (t.port p).nbr = some (TrainRec.mk ep np width epoch.toNat (al.map fun e => e.val) refusal reason)
      ∧ (t.port p).records = (if (s.topo ep).redir = true then x.records ++ [s.ownTrain p 3 true] else x.records))
    ∧ (∀ signal (width : Fin 4) rtt ms r, st = ptTrain → x.nbr = some r → s.trainReason p signal width rtt = 0 →
        runs (.portTrainingComplete p signal width rtt ms) fun t => t.get (RVR_PORT_STATUS_STATE p) = ptUp
          ∧ t.get (RVR_PORT_STATUS_REASON p) = 0 ∧ t.get (RVR_PORT_STATUS_WIDTH p) = width
          ∧ t.get (RVR_PORT_STATUS_NBR_EP p) = r.ep % 65536 ∧ t.get (RVR_PORT_STATUS_NBR_PORT p) = r.port % 16
          ∧ t.flag (RVR_PORT_CTRL_FULL_TRAIN p) = false ∧ t.port p = { portReset with credits := initialCredits }
          ∧ RegsBut [RVR_PORT_STATUS p, RVR_PORT_RTT p, RVR_PORT_CTRL p] s t)
    ∧ (∀ signal (width : Fin 4) rtt ms, st = ptTrain → s.trainReason p signal width rtt ≠ 0 →
        runs (.portTrainingComplete p signal width rtt ms) fun t =>
          t.get (RVR_PORT_STATUS_STATE p) = (if 2 ≤ x.fails then ptFenced else ptDown)
          ∧ t.get (RVR_PORT_STATUS_REASON p) = s.trainReason p signal width rtt
          ∧ t.port p = { portReset with fails := x.fails + 1 } ∧ t.jobs = s.jobs)
    ∧ (st = ptDown → s.mayTrain p = true → (0 < x.fails → runs (.trainRetry p) (training [RVR_PORT_STATUS p] x.fails)))
    ∧ (st = ptDown → s.pads.harborRail = true → s.phase = phLink ∨ s.ready = true → s.flag RVR_EP_ID_SUPERSEDED = false →
        runs (.portEnable p true) fun t => training [RVR_PORT_CTRL p, RVR_PORT_STATUS p] x.fails t
          ∧ t.flag (RVR_PORT_CTRL_EN p) = true)
    ∧ (st ≠ ptUp → runs (.portEnable p false) fun t => portOnly [RVR_PORT_CTRL p, RVR_PORT_STATUS p] t
        ∧ t.flag (RVR_PORT_CTRL_EN p) = false ∧ t.get (RVR_PORT_STATUS_STATE p) = ptDown ∧ t.port p = portReset)
    ∧ (∀ cause, st = ptUp → cause ≠ 1 ∨ 8 ≤ x.expiries → s.Inv → runs (.portRetrain p cause) fun t =>
        t.get (RVR_PORT_STATUS_STATE p) = ptTrain ∧ (t.port p).unacked = [] ∧ (t.port p).queue = [] ∧ (t.port p).fails = x.fails
          ∧ t.get (RVR_PORT_GAP_RETRAIN_CNT p) = satAdd 16 (s.get (RVR_PORT_GAP_RETRAIN_CNT p)) 1)
    ∧ (runs (.fullTrain p) fun t => OnlyRegs [RVR_PORT_CTRL p] s t ∧ t.flag (RVR_PORT_CTRL_FULL_TRAIN p) = true)
    ∧ (st = ptFenced → (s.mayTrain p = true → runs (.clrFence p) (training [RVR_PORT_STATUS p] 0))
        ∧ (s.mayTrain p = false → runs (.clrFence p) fun t => portOnly [RVR_PORT_STATUS p] t
            ∧ t.get (RVR_PORT_STATUS_STATE p) = ptDown ∧ t.port p = portReset))
    ∧ (st ≠ ptFenced → exec (.clrFence p) s = .next s)

/-- The link layer of a port that is UP: acknowledgements free what they cover, a NAK and an expired timer replay from the flit they
name, credits come back, flits in order advance the expected number, a gap, a duplicate and a damaged flit are counted and
change it not; a slot sends waiting records, else the replay, else a new flit under a credit, else an idle flit. -/
def Sys2Proof.Claims.LinkLayerIsReliable : Prop :=
  ∀ (p : Port) (s : State) (seq ack : BitVec 12), s.portUp p = true →
    let x := s.port p
    let portOnly (rs : List Reg) (t : State) : Prop := t = { s with regs := t.regs, ravor := t.ravor } ∧ RegsBut rs s t
      ∧ t.ravor = { s.ravor with ports := t.ravor.ports } ∧ ∀ q, q ≠ p.val → t.port q = s.port q
    let does (i : Instr) (rs : List Reg) (P : State → Prop) : Prop := ∃ t, exec i s = .next t ∧ portOnly rs t ∧ P t
    let sends (y : PortSt) (kind n : Nat) : Prop := ∃ t bs, exec (.flitSend p) s = .next t ∧ bs.length = 256
      ∧ t.out = s.out ++ [.flit p kind n bs] ∧ t = { s with ravor := t.ravor, out := t.out } ∧ t.port p = y
      ∧ ∀ q, q ≠ p.val → t.port q = s.port q
    let counted (t : State) (f : RF) : Prop := t.get f = satAdd 16 (s.get f) 1
    (does (.idleFlit p ack) [] fun t => (∀ pre f post, x.unacked = pre ++ f :: post → f.seq = ack.toNat →
        (∀ g ∈ pre, g.seq ≠ f.seq) → (t.port p).unacked = post ∧ (t.port p).expiries = 0)
      ∧ ((∀ f ∈ x.unacked, f.seq ≠ ack.toNat) → t.port p = x))
    ∧ (∀ f post, x.unacked = f :: post → x.replay = [] →
        (f.seq = seq.toNat → (∀ g ∈ x.unacked, g.seq ≠ ack.toNat ∧ g.seq ≠ (seq.toNat + 4095) % 4096) →
          does (.nak p seq ack) [RVR_PORT_ERR p] fun t => (t.port p).replay = x.unacked ∧ (t.port p).unacked = x.unacked
            ∧ (t.port p).replayFrom = some seq.toNat ∧ counted t (RVR_PORT_ERR_NAK_CNT p))
        ∧ (does (.replayTimeout p false) [RVR_PORT_REPLAY p] fun t => (t.port p).replay = x.unacked
            ∧ (t.port p).expiries = x.expiries + 1 ∧ counted t (RVR_PORT_REPLAY_TMO_CNT p)))
    ∧ (∀ (vc : Fin 3) cls (n : BitVec 16), does (.credit p vc cls n ack) [] fun t => ∀ k,
        lookupD (t.port p).credits k 0 = lookupD x.credits k 0 + (if k = 2 * vc.val + b2n cls then n.toNat else 0))
    ∧ (∀ (vc : Fin 3) dl, x.exp < 4096 →
        (seq.toNat = x.exp → does (.dataFlitReceive p seq ack vc dl) [] fun t => (t.port p).exp = (x.exp + 1) % 4096
          ∧ (t.port p).nakFor = none ∧ (lookupD x.owed (2 * vc.val + b2n dl) 0 < 63 →
            lookupD (t.port p).owed (2 * vc.val + b2n dl) 0 = lookupD x.owed (2 * vc.val + b2n dl) 0 + 1))
        ∧ (0 < (seq.toNat + 4096 - x.exp) % 4096 → (seq.toNat + 4096 - x.exp) % 4096 < 2048 →
          does (.dataFlitReceive p seq ack vc dl) [RVR_PORT_GAP p] fun t => (t.port p).exp = x.exp
            ∧ (t.port p).nakFor = some x.exp ∧ counted t (RVR_PORT_GAP_GAP_CNT p))
        ∧ (2048 ≤ (seq.toNat + 4096 - x.exp) % 4096 → does (.dataFlitReceive p seq ack vc dl) [RVR_PORT_REPLAY p] fun t =>
          (t.port p).exp = x.exp ∧ (t.port p).records = x.records ∧ counted t (RVR_PORT_REPLAY_DUP_CNT p)))
    ∧ (does (.badFlit p) [RVR_PORT_ERR p] fun t => counted t (RVR_PORT_ERR_CRC_CNT p) ∧ t.port p = (if x.nakFor = some x.exp then x
        else { x with records := x.records ++ [nakRecord x.exp], nakFor := some x.exp }))
    ∧ (does (.nakRepeat p) [] fun t => t.port p =
        (if x.nakFor = some x.exp then { x with records := x.records ++ [nakRecord x.exp] } else x))
    ∧ (x.records ≠ [] → sends { x with records := x.records.drop 15 } 2 0)
    ∧ (x.records = [] →
      (∀ f rest, x.replay = f :: rest →
        sends { x with replay := rest, replayFrom := if rest = [] then none else x.replayFrom } 1 f.seq)
      ∧ (∀ i f, x.replay = [] → x.unacked.length < 2048 → x.pick = some i → x.queue[i]? = some f →
        sends { x with queue := x.queue.eraseIdx i, unacked := x.unacked ++ [{ f with seq := x.nextSeq }],
                       nextSeq := (x.nextSeq + 1) % 4096, credits := insert x.credits (2 * f.vc + b2n f.dl)
                         (lookupD x.credits (2 * f.vc + b2n f.dl) 0 - 1) } 1 x.nextSeq)
      ∧ (x.replay = [] → x.unacked.length = 2048 ∨ x.pick = none → x.owed = [] → sends x 0 0))

/-- The time transfer: a child asks its parent, a parent answers, and the sixteenth answer sets the offset, its alignment and what
the tide is to slew; fifteen are only kept. -/
def Sys2Proof.Claims.TimeIsTransferred : Prop :=
  ∀ (p : Port) (s : State) (t1 t2 t3 t4 : Word) (depth : BitVec 8) (off : BitVec 16), s.portUp p = true →
    let tells (i : Instr) (r : List Byte) : Prop := exec i s = .next (s.setPort p { s.port p with records := (s.port p).records ++ [r] })
    let rsp := Instr.timeRsp p depth t1 t2 t3 t4 off
    let d := stampDiff t2 t1 - stampDiff t4 t3
    let sum := (s.ravor.offsets ++ [d]).foldl (· + ·) 0
    let v := meanOffset sum off.toInt
    (s.get RVR_TIME_CTRL_ROLE = 1 → s.get RVR_TIME_CTRL_PARENT = p →
      tells (.timeExchange t1) (timeReqRecord t1)
      ∧ (s.ravor.offsets.length < 15 →
        exec rsp s = .next { s with ravor := { s.ravor with offsets := s.ravor.offsets ++ [d] } })
      ∧ (15 ≤ s.ravor.offsets.length → ∃ t, exec rsp s = .next t ∧ t.ravor.offsets = [] ∧ t.tide.toGo = v
        ∧ t.tide.now = s.tide.now ∧ t.flag RVR_TIME_STATUS_LOCKED = true
        ∧ t.flag HUB_TIDE_STATUS_ALIGNED = (decide (v.natAbs ≤ 3) && decide (depth.toNat ≤ 3))
        ∧ t.flag RVR_TIME_STATUS_FAR = decide (1024 < v.natAbs) ∧ t.get RVR_TIME_STATUS_DEPTH = min 15 (depth.toNat + 1)
        ∧ (-127 ≤ v → v ≤ 127 → signed 8 (t.get HUB_TIDE_STATUS_OFFSET) = v)
        ∧ RegsBut [HUB_TIDE_STATUS, RVR_TIME_STATUS] s t))
    ∧ (s.get RVR_TIME_CTRL_ROLE = 2 → tells (.timeReq p t1 t2 t3) (timeRspRecord (s.get RVR_TIME_STATUS_DEPTH) t1 t2 t3 0))
    ∧ (s.get RVR_TIME_CTRL_ROLE = 0 → exec (.timeReq p t1 t2 t3) s = .next s)

/-- A port that is UP: its link layer and its time transfer.
Where it rests on a reading or a choice of the model, not on a rule: logs 116 and 118. -/
def Obligations.PortsCarryFlitsAndTime : Prop :=
  Sys2Proof.Claims.LinkLayerIsReliable ∧
  Sys2Proof.Claims.TimeIsTransferred

/-! ### Messages of the fabric -/

/-- Messages that arrive: one already taken is only acknowledged again; a write of another package lands through an open window or
is answered WINDOW_CLOSED, a packet enters its FIFOs or waits, board accesses reach the frames of their tenant's objects or
are answered WINDOW_CLOSED; an acknowledgement ends the message it names; a message for another package crosses to its egress
port, or is answered with ROUTE_FAIL.
Where it rests on a reading or a choice of the model, not on a rule: logs 107, 109, 113, 114 and 119. -/
def Obligations.MessagesTerminateOrPass : Prop :=
  ∀ (src : Endpoint) (key vr : BitVec 12) (id : BitVec 16) (s : State),
    let again (i : Instr) (vc : Nat) : Prop := exec i s = .next ((s.inc RVR_E2E_CNT_DUP_CNT).sendEack src id.toNat stDone)
    (∀ off sink gs e, s.linked = true → lookup s.ravor.expected (4 * src) = some e →
        1 ≤ (e + 65536 - id.toNat) % 65536 → (e + 65536 - id.toNat) % 65536 ≤ 32768 →
        again (.write src key vr id off sink gs) 0 ∧ again (.packet src key vr id gs) 0)
    ∧ (s.inSequence src 0 id.toNat → s.mirrorBind key vr.toNat = none →
      (∀ off sink gs, s.jobFor src vr.toNat = none →
        exec (.write src key vr id off sink gs) s = .next (s.absorbed.took src 0 id.toNat stWindowClosed)
        ∧ exec (.packet src key vr id gs) s = .next (s.absorbed.took src 0 id.toNat stWindowClosed))
      ∧ ∀ p leaves gs, s.jobFor src vr.toNat = some (p, leaves) → s.spools? p = false →
        (∀ (c : LCore) (n : Nat), leaves = [c.val] → s.absorbs c = false → s.windowMode c = true → gs.length ≤ 256 → 64 * n < 2 ^ 32 →
          (s.windowAdmits c key true n gs.length = true → ∃ u,
            exec (.write src key vr id (BitVec.ofNat 32 (64 * n)) none gs) s = .next (u.took src 0 id.toNat stDone)
            ∧ (∀ j q, gs[j]? = some q → q.wf = true → s.inScratch c (64 * (n + j)) 64 = true → (u.ts c).granule (n + j) = q)
            ∧ (∀ b, b < 64 * n ∨ 64 * (n + gs.length) ≤ b → (u.ts c).byte b = (s.ts c).byte b)
            ∧ (∃ ts, u.core c = { s.core c with ts := ts }) ∧ CoreFrame c [] s u)
          ∧ (s.windowAdmits c key true n gs.length = false → ∃ u,
            exec (.write src key vr id (BitVec.ofNat 32 (64 * n)) none gs) s = .next (u.took src 0 id.toNat stWindowClosed)
            ∧ u.get (s.atCore c ISL_CORE_WIN_WDROP_CNT) = satAdd 16 (s.get (s.atCore c ISL_CORE_WIN_WDROP_CNT)) 1
            ∧ OnlyRegs [s.atCore c ISL_CORE_WIN] s u))
        ∧ (64 < gs.length → exec (.packet src key vr id gs) s = .next (s.absorbed.took src 0 id.toNat stWindowClosed))
        ∧ (gs.length ≤ 64 → (∀ u ok, s.landPacket leaves src vr.toNat gs = some (u, ok) →
            exec (.packet src key vr id gs) s = .next (u.took src 0 id.toNat (closedOr ok)))
          ∧ (s.landPacket leaves src vr.toNat gs = none → ∃ t, exec (.packet src key vr id gs) s = .next t
            ∧ t.ravor = s.ravor ∧ t.jobs = s.jobs ∧ ∀ d, d ∉ leaves → t.core d = s.core d)))
    ∧ (∀ (tn : Tenant) (a : DWord) (n : Nat), s.inSequence src 0 id.toNat →
      (∀ g, s.boardGrans src tn a 1 true = none →
        exec (.boardWr src id tn a [g]) s = .next (s.took src 0 id.toNat stWindowClosed))
      ∧ (∀ g ix pg o, s.boardGrans src tn a 1 true = some [(ix, pg, o)] → exec (.boardWr src id tn a [g]) s =
          .next ((s.writePage (bitsOf a.toNat 46 2) ix pg o [g]).took src 0 id.toNat stDone))
      ∧ (s.boardGrans src tn a (min n 256) false = none →
        exec (.boardRd src id tn a n) s = .next (s.took src 0 id.toNat stWindowClosed))
      ∧ (s.boardGrans src tn a (min n 256) false ≠ none → ∃ m, exec (.boardRd src id tn a n) s =
          .next ((s.ravorSend (.engine 128) m).took src 0 id.toNat stDone) ∧ m.dest = src ∧ m.kind = 7 ∧ m.tenant = tn
          ∧ m.baddr = a.toNat ∧ m.grans.length = min n 256 ∧ m.src = s.get RVR_EP_ID_ID))
    ∧ (∀ gs, s.inSequence src 1 id.toNat →
      ((s.host.boardReads.find? fun r => decide (r.1 = src.val)) = none →
        exec (.boardData src id gs) s = .next (s.absorbed.took src 1 id.toNat stWindowClosed))
      ∧ ∀ r, (s.host.boardReads.find? fun r => decide (r.1 = src.val)) = some r → ∃ u : State,
        exec (.boardData src id gs) s = .next (u.took src 1 id.toNat stDone)
        ∧ u.out = s.out ++ [.readData (((gs.flatMap fun g => g.data).drop r.2.1).take r.2.2) (gs.any granPoisoned)]
        ∧ u.host.boardReads = s.host.boardReads.erase r ∧ u = { s with host := u.host, out := u.out })
    ∧ (∀ (vc : Fin 3) done who m, s.linked = true → (s.ravor.waiting.find? fun w => decide (w.2.dest = src.val)
          && decide (vcOf w.2.kind = vc.val) && decide (w.2.id = id.toNat)) = some (who, m) →
        s.get RVR_EPOCH_STATUS_PHASE ≠ 1 →
        (∀ c r, who = .packet c r → ∃ t, exec (.eack src vc id done) s = .next t
          ∧ t.ravor.waiting = s.ravor.waiting.erase (who, m) ∧ t.regs = s.regs ∧ (∀ d, d ≠ c → t.core d = s.core d)
          ∧ t.core c = { s.core c with sends := (s.core c).sends - 1,
                                       sendCred := insert (s.core c).sendCred r (lookupD (s.core c).sendCred r 0 + m.grans.length) })
        ∧ (∀ p, who = .engine p → ∃ t, exec (.eack src vc id done) s = .next t ∧ t = { s with ravor := t.ravor }
            ∧ t.ravor.waiting = s.ravor.waiting.erase (who, m)))
    ∧ (∀ (dest : Endpoint) (kind : Fin 9) tick (off : Word) resend route (hop : Fin 16) dl gs, s.linked = true →
        let p := hopPort route hop
        let i := Instr.transitForward dest src key kind vr tick off resend id route hop dl gs
        (hop.val < hopCount route → s.portUp p = true → ∃ m : RMsg, exec i s = .next (s.setPort p { s.port p with
            queue := (s.port p).queue ++ m.flits (dl || hopDate route hop) })
          ∧ m.dest = dest ∧ m.src = src ∧ m.key = key.toNat ∧ m.kind = kind ∧ m.vroute = vr.toNat ∧ m.tick = tick
          ∧ m.offset = off.toNat ∧ m.resend = resend ∧ m.id = id.toNat ∧ m.route = route ∧ m.hop = hop + 1 ∧ m.grans = gs)
        ∧ (hopCount route ≤ hop.val ∨ s.portUp p = false → ∃ m : RMsg, exec i s = .next (s.ravorSend .board m) ∧ m.dest = src
          ∧ m.kind = 8 ∧ m.offset = 4 ∧ m.grans = [plainGranule (leBytes 8 route.toNat ++ leBytes 1 hop.val)]))

/-- A message sent takes the next number of its destination's sequence and the route in use, and waits for its EACK. A timeout or a
ROUTE_FAIL marks the route; the lowest usable one comes in use and what waits is sent again. Heartbeats end the silence of
their watches; at MISS periods with no route the watcher takes its endpoint over, and says so; the lower watcher stands. -/
def Sys2Proof.Claims.RoutesFailOver : Prop :=
  ∀ (s : State) (e : Endpoint),
    let runs (i : Instr) (P : State → Prop) : Prop := ∃ t, exec i s = .next t ∧ P t
    let v := s.via e
    let x := s.topo v
    let told (t : State) (l : State) (sub : Nat) : Prop := ∃ msg : RMsg, t = l.ravorSend .board msg ∧ msg.kind = 8
      ∧ msg.offset = sub ∧ msg.grans = []
    (∀ who (m : RMsg), s.get RVR_EPOCH_STATUS_PHASE = 0 → s.usable x x.inUse = true → m.dest = e → m.resend = false →
        acked m.kind = true →
        let k := 4 * e.val + vcOf m.kind
        let id := lookupD s.ravor.nextId k 0
        let t := s.ravorSend who m
        t.ravor.waiting = s.ravor.waiting ++ [(who, { m with id := id })] ∧ lookup t.ravor.nextId k = some ((id + 1) % 65536)
          ∧ (∃ fs, (t.port (hopPort (x.routes.getD x.inUse 0) 0)).queue
              = (s.port (hopPort (x.routes.getD x.inUse 0) 0)).queue ++ fs) ∧ t.regs = s.regs ∧ t.cores = s.cores)
    ∧ (∀ (vc : Fin 3) (id : BitVec 16) n,
        let hit := s.ravor.waiting.any fun w => decide (w.2.dest = e.val) && decide (vcOf w.2.kind = vc.val) && decide (w.2.id = id.toNat)
        (hit = false → exec (.eackTimeout e vc id) s = .next s)
        ∧ (hit = true → bit x.valid x.inUse = true →
          s.bestRoute { x with failed := setBit x.failed x.inUse true } = some n → runs (.eackTimeout e vc id) fun t =>
            t.topo v = { x with failed := setBit x.failed x.inUse true, inUse := n } ∧ t.ravor.waiting = s.ravor.waiting
            ∧ t.get RVR_ROUTE_SW_FAIL_SW_CNT = satAdd 16 (s.get RVR_ROUTE_SW_FAIL_SW_CNT) 1 ∧ t.jobs = s.jobs
            ∧ (∀ q, q ≠ v → t.topo q = s.topo q) ∧ RegsBut [RVR_ROUTE_SW, RVR_E2E_CNT] s t))
    ∧ (∀ route hop, s.linked = true → runs (.routeFail route hop) fun t => ∀ q y n, lookup s.ravor.active q = some y → n < 4 →
        bit y.valid n = true → y.routes.getD n 0 = route → bit (t.topo q).failed n = true)
    ∧ (∀ route hop, s.linked = false → exec (.routeFail route hop) s = .next s)
    ∧ ((∀ n, n < 4 → s.flag (RVR_HB_TGT_V n) = false) → exec .heartbeatSend s = .next s)
    ∧ (∀ n, n < 4 → s.flag (RVR_HB_TGT_V n) = true → (∀ k, k < 4 → k ≠ n → s.flag (RVR_HB_TGT_V k) = false) →
        runs .heartbeatSend fun t => told t s 1)
    ∧ (s.linked = true → runs (.heartbeat e) fun t => t = { s with ravor := { s.ravor with silent := t.ravor.silent } }
        ∧ ∀ n, lookup t.ravor.silent n = if n < 4 ∧ s.get (RVR_WATCH_EP n) = e then none else lookup s.ravor.silent n)
    ∧ (∀ n : Fin 4, s.flag (RVR_WATCH_ARM n) = true → s.watchSuspended = false → s.get (RVR_WATCH_EP n) = e →
        let k := lookupD s.ravor.silent n 0 + 1
        (k < s.get RVR_HB_CTRL_MISS ∨ s.bestRoute x ≠ none ∨ s.flag (RVR_WATCH_LOST n) = true →
          exec (.heartbeatMiss n) s = .next { s with ravor := { s.ravor with silent := insert s.ravor.silent n k } })
        ∧ (s.get RVR_HB_CTRL_MISS ≤ k → s.bestRoute x = none → s.flag (RVR_WATCH_LOST n) = false →
          s.flag RVR_EP_ALIAS_VALID = false → runs (.heartbeatMiss n) fun t => t.flag (RVR_WATCH_LOST n) = true
            ∧ t.flag (RVR_WATCH_TAKEN n) = true ∧ t.flag RVR_EP_ALIAS_VALID = true ∧ t.get RVR_EP_ALIAS_ALIAS = e
            ∧ t.jobs = s.jobs ∧ t.cores = s.cores))
    ∧ (s.flag RVR_EP_ALIAS_VALID = false → runs .aliasTake fun t => t.flag RVR_EP_ALIAS_VALID = true
        ∧ t.get RVR_EP_ALIAS_ALIAS = s.get RVR_EP_ALIAS_ALIAS ∧ t.jobs = s.jobs)
    ∧ (s.flag RVR_EP_ALIAS_VALID = true → exec .aliasTake s = .next s)
    ∧ (∀ src : Endpoint,
        let mine := s.flag RVR_EP_ALIAS_VALID = true ∧ s.get RVR_EP_ALIAS_ALIAS = e
        (mine → s.get RVR_EP_ID_ID < src → exec (.takeover src e) s = .next s)
        ∧ (s.linked = true → (s.topo e).redir = false ∨ src < (s.topo e).redirect → (mine → src ≤ s.get RVR_EP_ID_ID) →
          runs (.takeover src e) fun t => (t.topo e).redir = true ∧ (t.topo e).redirect = src
            ∧ (lookupD t.ravor.shadow e topoReset).redir = true ∧ (lookupD t.ravor.shadow e topoReset).redirect = src
            ∧ (mine → t.flag RVR_EP_ALIAS_VALID = false) ∧ t.jobs = s.jobs)
        ∧ (s.linked = true → (s.topo e).redir = true → (s.topo e).redirect = src → runs (.withdraw src e) fun t =>
          (t.topo e).redir = false ∧ t.jobs = s.jobs ∧ t.cores = s.cores))

/-- An epoch change goes through its steps in their order, each other command clamped and counted: DRAIN waits for what is under
way or its timeout, RETRAIN trains the ports, COMMIT makes the SHADOW bank ACTIVE with its marks clear, RESUME runs again.
The topology table's window reads both banks and writes SHADOW. The reflectometer measures a lane whose port is not up. -/
def Sys2Proof.Claims.EpochsAndTopology : Prop :=
  ∀ (s : State),
    let phase := s.get RVR_EPOCH_STATUS_PHASE
    let runs (i : Instr) (P : State → Prop) : Prop := ∃ t, exec i s = .next t ∧ P t
    let clamped (i : Instr) : Prop := runs i fun t => t.get RVR_CLAMP_COUNT = satAdd 32 (s.get RVR_CLAMP_COUNT) 1
      ∧ OnlyRegs [RVR_CLAMP, RVR_CLAMP_LAST] s t
    let ix := s.get RVR_TOPO_IDX_EP
    (phase = 0 → runs .epochDrain fun t => OnlyRegs [RVR_EPOCH_STATUS] s t
        ∧ t.get RVR_EPOCH_STATUS_PHASE = (if s.ravor.waiting = [] then 2 else 1))
    ∧ (phase = 1 → runs .epochDrainTimeout fun t => OnlyRegs [RVR_EPOCH_STATUS] s t
        ∧ t.get RVR_EPOCH_STATUS_PHASE = 2 ∧ t.flag RVR_EPOCH_STATUS_DRAIN_TMO = true)
    ∧ (phase = 2 → s.Inv → runs .epochRetrain fun t => t.get RVR_EPOCH_STATUS_PHASE = 3
        ∧ ∀ p, p < 16 → s.mayTrain p = true → s.get (RVR_PORT_STATUS_STATE p) ≠ ptFenced → t.get (RVR_PORT_STATUS_STATE p) = ptTrain)
    ∧ (phase = 3 → s.Inv →
      (s.ravor.committed = false → runs .epochCommit fun t => t.ravor.committed = true ∧ t.ravor.shadow = s.ravor.active
        ∧ t.get RVR_EPOCH_STATUS_EPOCH = (s.get RVR_EPOCH_STATUS_EPOCH + 1) % 65536 ∧ t.ravor.expected = []
        ∧ ∀ e y, lookup s.ravor.shadow e = some y → ∃ z, lookup t.ravor.active e = some z ∧ z.routes = y.routes
            ∧ z.valid = y.valid ∧ z.failed = 0 ∧ z.portFailed = 0)
      ∧ (s.ravor.committed = true → runs .epochResume fun t => t.get RVR_EPOCH_STATUS_PHASE = 0 ∧ t.ravor.stalled = []
        ∧ t.ravor.committed = false ∧ t.ravor.resumedAt = some s.tide.now))
    ∧ (phase ≠ 0 → clamped .epochDrain) ∧ (phase ≠ 2 → clamped .epochRetrain)
    ∧ (phase ≠ 3 ∨ s.ravor.committed = true → clamped .epochCommit)
    ∧ (phase ≠ 3 ∨ s.ravor.committed = false → clamped .epochResume)
    ∧ (runs .topoRead fun t => let y := s.bankEntry
        OnlyRegs (RVR_TOPO_CTL :: (List.range 8).map RVR_TOPO_ROUTE) s t ∧ t.get RVR_TOPO_CTL_REDIRECT = y.redirect % 65536
        ∧ t.flag RVR_TOPO_CTL_REDIR = y.redir ∧ t.get RVR_TOPO_CTL_RVALID = y.valid % 16
        ∧ t.get RVR_TOPO_CTL_FAILED = (y.failed ||| y.portFailed) % 16 ∧ t.flag RVR_TOPO_CTL_ANN = y.ann
        ∧ ∀ n, n < 8 → t.get (RVR_TOPO_ROUTE_ROUTE n) = bitsOf (y.routes.getD (n / 2) 0).toNat (32 * (n % 2)) 32)
    ∧ (s.flag RVR_TOPO_IDX_BANK = true → runs .topoWrite fun t =>
        t = { s with ravor := { s.ravor with shadow := t.ravor.shadow } } ∧ (∀ e, e ≠ ix → lookup t.ravor.shadow e = lookup s.ravor.shadow e)
        ∧ ∃ y, lookup t.ravor.shadow ix = some y ∧ y.valid = s.get RVR_TOPO_CTL_RVALID ∧ y.redir = s.flag RVR_TOPO_CTL_REDIR
          ∧ y.redirect = s.get RVR_TOPO_CTL_REDIRECT ∧ y.ann = s.flag RVR_TOPO_CTL_ANN ∧ y.failed = s.bankEntry.failed
          ∧ ∀ n, n < 4 → (y.routes.getD n 0).toNat =
              s.get (RVR_TOPO_ROUTE_ROUTE (2 * n)) + s.get (RVR_TOPO_ROUTE_ROUTE (2 * n + 1)) * 2 ^ 32)
    ∧ (s.flag RVR_TOPO_IDX_BANK = false → clamped .topoWrite)
    ∧ (∀ n : OE,
      let q := s.get (RVR_PORT_STATUS_STATE (4 * n.val + s.get (OPT_REFL_CMD_LANE n) / 4))
      (s.flag (OPT_REFL_STATUS_BUSY n) = false → q = ptDown ∨ q = ptFenced → runs (.reflStart n) fun t =>
        t.flag (OPT_REFL_STATUS_BUSY n) = true ∧ OnlyRegs [OPT_REFL_STATUS n] s t)
      ∧ (s.flag (OPT_REFL_STATUS_BUSY n) = true ∨ (q ≠ ptDown ∧ q ≠ ptFenced ∧ s.flag (OPT_REFL_CMD_FORCE n) = false) →
        runs (.reflStart n) fun t => t.flag (OPT_REFL_STATUS_REFUSED n) = true ∧ OnlyRegs [OPT_REFL_STATUS n] s t)
      ∧ (∀ es, s.flag (OPT_REFL_STATUS_BUSY n) = true → es.length ≤ 8 → runs (.reflComplete n es) fun t =>
        t.flag (OPT_REFL_STATUS_BUSY n) = false ∧ t.get (OPT_REFL_STATUS_EVENTS n) = es.length
        ∧ t.flag (OPT_REFL_STATUS_DIRTY n) = (es.any fun e => s.dirtyEvent n e.2.1.toNat e.2.2.toNat)
        ∧ (∀ k e, es[k]? = some e → t.get (OPT_REFL_EVT_DIST_CM n k) = e.1.toNat ∧ t.get (OPT_REFL_EVT_REFL n k) = e.2.1.toNat
            ∧ t.get (OPT_REFL_EVT_LOSS n k) = e.2.2.toNat
            ∧ t.flag (OPT_REFL_EVT_CLEAN n k) = s.dirtyEvent n e.2.1.toNat e.2.2.toNat)
        ∧ (∀ k, es.length ≤ k → k < 8 → t.reg (OPT_REFL_EVT n k) = 0)
        ∧ OnlyRegs (OPT_REFL_STATUS n :: (List.range 8).map (OPT_REFL_EVT n)) s t))

/-- Routes that fail over, epochs, and the topology table.
Where it rests on a reading or a choice of the model, not on a rule: logs 110, 111, 112 and 115. -/
def Obligations.PathsBetweenPackagesChange : Prop :=
  Sys2Proof.Claims.RoutesFailOver ∧
  Sys2Proof.Claims.EpochsAndTopology

/-! ### Partitions, saved jobs, resets -/

/-- CREATE makes a free partition of free clusters IDLE with its owner and no floor; DESTROY frees an IDLE partition, ASSIGN
changes its owner; each is refused elsewhere and then changes nothing but its status. -/
def Sys2Proof.Claims.PartitionsAreMade : Prop :=
  ∀ (s : State),
    let a := s.tenArg 0
    let p := a % 128
    let mask := s.tenArg 2 + s.tenArg 3 * 2 ^ 32 + s.tenArg 4 * 2 ^ 64 + s.tenArg 5 * 2 ^ 96
    let parts := TEN_PART_CTRL p :: TEN_CMD_STATUS :: (List.range 4).map (TEN_PART_CL p)
    let done (i : Instr) (P : State → Prop) : Prop := ∃ t, exec i s = .next t ∧ t.get TEN_CMD_STATUS_CODE = stDone
      ∧ OnlyRegs parts s t ∧ P t
    let refused (i : Instr) : Prop := ∃ t, exec i s = .next t ∧ t.get TEN_CMD_STATUS_CODE = stRefusedFit
      ∧ OnlyRegs [TEN_CMD_STATUS] s t
    (s.ready = true → s.partState p = psFree → mask ≠ 0 → (∀ n, ownerArg a = some n → s.flag (TEN_VF_CTRL_EN n) = true) →
      (∀ k, k < 128 → bit mask k = true → s.partOf k = none ∧ s.clusterExists k = true ∧ s.present (s.phys (k / 8)) = true) →
      done .partCreate fun t => t.partState p = psIdle ∧ t.partMask p = mask ∧ t.ownerOf p = ownerArg a
        ∧ t.get (TEN_PART_CTRL_FLOOR p) = 0)
    ∧ (s.ready = false ∨ s.partState p ≠ psFree ∨ mask = 0 ∨ (∃ n, ownerArg a = some n ∧ s.flag (TEN_VF_CTRL_EN n) = false)
        ∨ (∃ k, k < 128 ∧ bit mask k = true ∧ (s.partOf k ≠ none ∨ s.clusterExists k = false)) → refused .partCreate)
    ∧ (s.partState p = psIdle → s.minimal = false →
        (done .partDestroy fun t => t.partState p = psFree ∧ t.partMask p = 0)
        ∧ (done .partAssign fun t => t.partState p = psIdle ∧ t.partMask p = s.partMask p ∧ t.ownerOf p = ownerArg a))
    ∧ (s.partState p ≠ psIdle ∨ s.minimal = true → refused .partDestroy ∧ refused .partAssign)

/-- PREEMPT of a running partition begins a save, of a loading one waits; a group stops at its tick; a drained save leaves the job
SAVED and the partition IDLE. RESUME restores it, and at the resume tick it runs with its cores as saved; DISCARD ends it. -/
def Sys2Proof.Claims.JobsAreSavedAndResumed : Prop :=
  ∀ (s : State) (p : Part), s.Inv →
    let a := s.tenArg 0
    let hs := s.saveSet p (setWords s.tenArgs)
    let run : MoveRun :=
      { part := p, handles := hs, group := false, tick := nearTick s.tide.now (s.tenArg 1), stopped := false, moved := false }
    let runs (i : Instr) (P : State → Prop) : Prop := ∃ t, exec i s = .next t ∧ P t
    let code (t : State) (n : Nat) : Prop := t.get TEN_CMD_STATUS_CODE = n
    (a = p → s.minimal = false →
      (s.saves = [] → s.saveSetOk p hs = true →
        (s.partState p = psRunning → runs .preempt fun t => code t stDone ∧ t.partState p = psSaving ∧ t.saves = [run]
          ∧ t = { s with regs := t.regs, saves := t.saves } ∧ RegsBut [TEN_CMD_STATUS, TEN_PART_CTRL p] s t)
        ∧ (s.partState p = psLoading → runs .preempt fun t => code t stDone ∧ t.saves = [run]
          ∧ OnlyRegs [TEN_CMD_STATUS] { s with saves := t.saves } t)
        ∧ (s.partState p = psIdle → runs .preempt fun t => code t stRefusedFit ∧ OnlyRegs [TEN_CMD_STATUS] s t))
      ∧ (∀ j, s.partState p = psIdle → s.flag (HUB_RCV_PART_FENCED p) = false → s.setOf p hs = some j → s.imageThere j.job = true →
        runs .resume fun t => code t stDone ∧ t.partState p = psRestoring ∧ lookup t.jobs p = some j.job
          ∧ t.restores = s.restores ++ [run] ∧ t.cores = s.cores ∧ t.saved = s.saved)
      ∧ (s.setOf p hs = none → runs .resume fun t => code t stRefusedFit ∧ OnlyRegs [TEN_CMD_STATUS] s t))
    ∧ (∀ r, s.saving p = some r → r.group = true → r.stopped = false → runs (.preemptStopTick p) fun t =>
        (∀ c ∈ s.partCores p, (t.core c).preempt = true) ∧ (∀ c, c ∉ s.partCores p → t.core c = s.core c)
        ∧ t.saves = s.saves.map (fun q => if q.part = p.val then { q with stopped := true } else q)
        ∧ r.tick.toNat ≤ t.tide.now.toNat ∧ t.regs = s.regs ∧ t.jobs = s.jobs)
    ∧ (∀ r j, s.saving p = some r → lookup s.jobs p = some j → s.partQuiet p = true → s.partDrained p = true →
        r.group = false ∨ r.stopped = true → (∀ c ∈ s.partCores p, s.fenced c = false) → s.saved = [] →
        runs (.saveComplete p) fun t => lookup t.jobs p = none ∧ t.partState p = psIdle
          ∧ t.get (TEN_PART_STATUS_LAST_CODE p) = stDone
          ∧ (∃ q, t.saved = [q] ∧ q.live = true ∧ q.part = p ∧ q.owner = s.ownerOf p ∧ q.mask = s.partMask p
              ∧ q.handles = r.handles ∧ q.job = j ∧ q.cores.map (·.1) = s.partCores p)
          ∧ ∀ c ∈ s.partCores p, (t.core c).vregs = coreReset.vregs ∧ (t.core c).ts = tileStoreReset)
    ∧ (∀ r j, (s.restores.find? fun r => decide (r.part = p.val)) = some r → (s.saved.find? fun j => j.named r) = some j →
        (j.cores.map (·.1)).Nodup → (∀ e ∈ j.regs, 0x1000000 ≤ e.1 ∧ e.1 < 0x2000000) →
        (runs (.resumeTick p true) fun t => t.partState p = psRunning ∧ lookup t.jobs p = some j.job
          ∧ (∀ e ∈ j.cores, t.core e.1 = { e.2 with preempt := false })
          ∧ (∀ c ∈ s.partCores p, t.flag (s.atCore c ISL_CORE_TS_WMODE) = true) ∧ (∀ q ∈ t.restores, q.part ≠ p)
          ∧ t.get (TEN_PART_STATUS_LAST_CODE p) = stDone)
        ∧ (r.group = true → runs (.resumeTick p false) fun t => t.partState p = psIdle ∧ lookup t.jobs p = none
          ∧ t.get (TEN_PART_STATUS_LAST_CODE p) = stRefusedFit ∧ t.saved = s.saved))
    ∧ (∀ j, (s.saved.find? fun j => j.live && j.handles.contains (some (s.tenArg 2))) = some j → s.minimal = false →
        (s.restores.any fun r => j.named r) = false → runs .discard fun t => code t stDone
          ∧ t.saved = (s.saved.filter fun q => !(decide (q.part = j.part) && decide (q.handles = j.handles)))
          ∧ t.jobs = s.jobs ∧ t.cores = s.cores)
    ∧ ((s.saved.find? fun j => j.live && j.handles.contains (some (s.tenArg 2))) = none → runs .discard fun t =>
        code t stRefusedFit ∧ OnlyRegs [TEN_CMD_STATUS] s t)

/-- Resets begin with their drain, are refused for a partition that saves or restores, end what they must, and clear their scope
when they complete: a core keeps the programs of its slots, a partition's cores and clusters are as after a package reset
and the partition is IDLE. A cut drain discards what is under way. A function level reset closes its tenant's streams.
Where it rests on a reading or a choice of the model, not on a rule: logs 63, 65 and 121. -/
def Obligations.ResetsDrainAndComplete : Prop :=
  ∀ (s : State), s.Inv →
    let a := s.tenArg 0
    let c := bitsOf a 3 11
    let k := bitsOf a 3 7
    let runs (i : Instr) (P : State → Prop) : Prop := ∃ t, exec i s = .next t ∧ P t
    let code (t : State) (n : Nat) : Prop := t.get TEN_CMD_STATUS_CODE = n
    let fresh (scope target : Nat) : ResetRun :=
      { scope := scope, target := target, byFlr := false, fromPF := true, drained := false }
    let begins (i : Instr) (r : ResetRun) (cl : Nat) : Prop :=
      ((∀ q, s.partOf cl = some q → s.moving q = false) → (∀ q ∈ s.resets, q.scope ≠ r.scope ∨ q.target ≠ r.target) →
        runs i fun t => code t stDone ∧ OnlyRegs [TEN_CMD_STATUS] { s with resets := s.resets ++ [r] } t)
      ∧ (∀ q, s.partOf cl = some q → s.moving q = true → runs i fun t => code t stRefusedFit ∧ OnlyRegs [TEN_CMD_STATUS] s t)
    begins .resetCore (fresh 0 c) (clusterOf c) ∧ begins .resetCluster (fresh 1 k) k
    ∧ (s.partState k = psFree → runs .resetPartition fun t => code t stRefusedFit ∧ OnlyRegs [TEN_CMD_STATUS] s t)
    ∧ (∀ j, lookup s.jobs k = some j → s.partState k = psRunning → s.saved = [] → s.reqs = [] →
        runs .resetPartition fun t => code t stDone ∧ lookup t.jobs k = none ∧ t.partState k = psResetting
          ∧ t.get (TEN_PART_STATUS_JOB_CODE k) = stEjectedReset ∧ t.flag (HUB_RCV_PART_FENCED k) = false
          ∧ t.resets.getLast? = some (fresh 2 k) ∧ ∀ q, q ≠ k → lookup t.jobs q = lookup s.jobs q)
    ∧ (s.ready = true → runs .resetWarm fun t => t.phase = (if s.pads.coolOkL then phWaitCool else phHarbor)
        ∧ t.jobs = [] ∧ t.cores = [] ∧ t.reqs = [] ∧ t.saved = [])
    ∧ (s.ready = false → s.minimal = false → runs .resetWarm fun t => code t stDone ∧ OnlyRegs [TEN_CMD_STATUS] s t)
    ∧ (∀ p : Part, s.partState p = psSaving → lookup s.recov p = none → runs (.drainCut p) fun t =>
        t.flag (TEN_PART_STATUS_DRAIN_CUT p) = true ∧ RegsBut [TEN_PART_STATUS p] s t ∧ t.jobs = s.jobs
        ∧ (∀ c ∈ s.partCores p, t.core c = { s.core c with xfers := [], sends := 0 })
        ∧ ∀ c, c ∉ s.partCores p → t.core c = s.core c)
    ∧ (∀ i r, s.resets[i]? = some r → s.scopeDrained r = true →
        (r.scope = 0 → r.target < 2048 → runs (.resetComplete i) fun t => t.resets = s.resets.eraseIdx i
          ∧ (t.core r.target).slots = (s.core r.target).slots.map SlotSt.coreReset
          ∧ (t.core r.target).vregs = coreReset.vregs ∧ (t.core r.target).ts = tileStoreReset
          ∧ (t.core r.target).cache = [] ∧ (t.core r.target).xfers = [] ∧ t.jobs = s.jobs
          ∧ ∀ d, d ≠ r.target → t.core d = s.core d)
        ∧ (r.scope = 1 → r.target < 128 → runs (.resetComplete i) fun t => t.resets = s.resets.eraseIdx i
          ∧ (∀ d, clusterOf d = r.target → t.core d = coreReset) ∧ t.cluster r.target = clusterReset ∧ t.jobs = s.jobs
          ∧ ∀ d, clusterOf d ≠ r.target → t.core d = s.core d)
        ∧ (r.scope = 2 → r.target < 128 → r.byFlr = false → s.loadsWaiting = [] → runs (.resetComplete i) fun t =>
          t.resets = s.resets.eraseIdx i ∧ t.partState r.target = psIdle
          ∧ (∀ d ∈ s.partCores r.target, t.core d = coreReset) ∧ (∀ q ∈ s.partClusters r.target, t.cluster q = clusterReset)
          ∧ ∀ d, d ∉ s.partCores r.target → t.core d = s.core d))
    ∧ (∀ tn : Tenant,
        (s.vfLive tn = false → exec (.functionLevelReset tn) s = .next s)
        ∧ (s.vfLive tn = true → (∀ p, p < 128 → s.ownerOf p ≠ some tn.val) → s.resets = [] → runs (.functionLevelReset tn) fun t =>
          (∀ st x, lookup s.streams st = some x → x.tenant = tn → lookup t.streams st = none ∧ lookup t.reqs st = none)
          ∧ lookup t.tokens tn = none ∧ t.reg (DB_CLAMP tn) = 0 ∧ t.flag (TEN_VF_CTRL_FLR_BUSY tn) = false
          ∧ bit (t.get (TEN_VF_CAUSE_CAUSE tn)) cResetDone = true ∧ (∀ q ∈ t.saved, q.owner = some tn.val → q.live = false)
          ∧ t.jobs = s.jobs ∧ t.cores = s.cores))

/-- Causes rise in the function's register and send one message where the mask lets them; a mask that is written sends for each set
cause it lets through; a moderated TOKEN cause waits for its time; a partition's fault writes its record and tells its owner;
a key pair is written whole, or clamped while its tenant has pages under it.
Where it rests on a reading or a choice of the model, not on a rule: logs 122 and 126. -/
def Obligations.CausesFaultsAndKeys : Prop :=
  ∀ (s : State) (tn : Tenant) (m : Word) (k : Fin 32),
    let runs (i : Instr) (P : State → Prop) : Prop := ∃ t, exec i s = .next t ∧ P t
    let sent (fn v : Nat) (t : State) : Prop := if (lookupD s.msix (msixKey fn v) msixReset).masked
      then t.out = s.out ∧ (lookupD t.msix (msixKey fn v) msixReset).pending = true
      else t.out = s.out ++ [.msix fn v] ∧ t.msix = s.msix
    let raised (who : Option Tenant) (f mk : RF) (r : Reg) (fn v : Nat) : Prop := runs (.msixMessage who k) fun t =>
      t.get f = setBit (s.get f) k true ∧ RegsBut [r] s t ∧ t = { s with regs := t.regs, msix := t.msix, out := t.out }
        ∧ (if bit (s.get f) k = false ∧ bit (s.get mk) k = true then sent fn v t else t.out = s.out ∧ t.msix = s.msix)
    let slot := min 4096 (s.get TEN_KEY_IDX_SLOT)
    (k.val ≤ 8 → raised (some tn) (TEN_VF_CAUSE_CAUSE tn) (TEN_VF_MASK_MASK tn) (TEN_VF_CAUSE tn) (tn + 1) (s.vfVector tn k))
    ∧ (pfCause k = true → raised none TEN_PF_CAUSE_CAUSE TEN_PF_MASK_MASK TEN_PF_CAUSE 0 (s.pfVector k))
    ∧ (8 < k.val → exec (.msixMessage (some tn) k) s = .next s) ∧ (pfCause k = false → exec (.msixMessage none k) s = .next s)
    ∧ (runs (.causeMaskWrite (some tn) m) fun t => t.get (TEN_VF_MASK_MASK tn) = m.toNat % 512 ∧ RegsBut [TEN_VF_MASK tn] s t
        ∧ ((∀ c, c < 9 → bit m.toNat c = true → bit (s.get (TEN_VF_CAUSE_CAUSE tn)) c = false) → t.out = s.out ∧ t.msix = s.msix))
    ∧ (runs (.causeMaskWrite none m) fun t => t.get TEN_PF_MASK_MASK = m.toNat ∧ RegsBut [TEN_PF_MASK] s t
        ∧ ((∀ c, c < 32 → bit m.toNat c = true → bit (s.get TEN_PF_CAUSE_CAUSE) c = false) → t.out = s.out ∧ t.msix = s.msix))
    ∧ (∀ h, lookup s.tokens tn = some h → runs (.tokenModerationExpire tn) fun t => lookup t.tokens tn = none
        ∧ h.until_.toNat ≤ t.tide.now.toNat ∧ (h.waiting = true → bit (t.get (TEN_VF_CAUSE_CAUSE tn)) cToken = true)
        ∧ (h.waiting = false → t.regs = s.regs))
    ∧ (lookup s.tokens tn = none → exec (.tokenModerationExpire tn) s = .next s)
    ∧ (∀ (p : Part) (code : BitVec 8) (c : LCore), partFaults.contains code.toNat = true → s.partState p ≠ psFree →
        runs (.partFault p code c) fun t => t.get (TEN_PART_FAULT_CODE p) = code.toNat ∧ t.get (TEN_PART_FAULT_LCORE p) = c
          ∧ t.flag (TEN_PART_FAULT_VALID p) = true
          ∧ t.flag (TEN_PART_FAULT_OVERWRITTEN p) = (s.flag (TEN_PART_FAULT_OVERWRITTEN p) || s.flag (TEN_PART_FAULT_VALID p))
          ∧ t.get (TEN_PART_FAULT_COUNT p) = satAdd 11 (s.get (TEN_PART_FAULT_COUNT p)) 1
          ∧ t.get (TEN_PART_FTICK_TICK p) = s.tide.now.toNat % 2 ^ 32
          ∧ (∀ n, s.ownerOf p = some n → bit (t.get (TEN_VF_CAUSE_CAUSE n)) cPartFault = true)
          ∧ (s.ownerOf p = none → bit (t.get TEN_PF_CAUSE_CAUSE) cPartFault = true) ∧ t.jobs = s.jobs ∧ t.cores = s.cores)
    ∧ (slot = 4096 ∨ s.keyHeld slot = false → runs .keySlotWrite fun t => t.regs = s.regs
        ∧ (∃ pr, lookup t.keys slot = some pr ∧ ∀ n, n < 8 → bitsOf pr.data.toNat (32 * n) 32 = s.get (TEN_KEY_DATA_DATA n)
            ∧ bitsOf pr.tweak.toNat (32 * n) 32 = s.get (TEN_KEY_DATA_DATA (8 + n)))
        ∧ (∀ q, q ≠ slot → lookup t.keys q = lookup s.keys q) ∧ ∀ h, slot ∉ (t.harbor h).keyCache)
    ∧ (slot < 4096 → s.keyHeld slot = true → runs .keySlotWrite fun t => OnlyRegs [TEN_CLAMP, TEN_CLAMP_LAST] s t
        ∧ t.get TEN_CLAMP_COUNT = satAdd 32 (s.get TEN_CLAMP_COUNT) 1)

/-- Partitions made and unmade, their jobs saved and resumed.
Where it rests on a reading or a choice of the model, not on a rule: logs 121 and 123. -/
def Obligations.PartitionsAndTheirJobs : Prop :=
  Sys2Proof.Claims.PartitionsAreMade ∧
  Sys2Proof.Claims.JobsAreSavedAndResumed

/-! ### Faults and recovery -/

/-- Position `q` is the spare that position `pos` of island `i` takes: unused, not fenced, and of those the nearest, the lower of two
as near (R138). -/
def Sys2Proof.Machine.State.nearestSpare (s : State) (i pos q : Nat) : Prop :=
  q ∈ s.unusedSpares i ∧ q ≠ pos ∧ ∀ r ∈ s.unusedSpares i, r ≠ pos → 256 * posDist pos q + q ≤ 256 * posDist pos r + r

/-- A core that is fenced: without a partition its number moves to the nearest spare with nothing kept; with a running job a
recovery begins, or, where no spare is left, the job is ejected. While a partition loads, the command is clamped. A ladle
step whose recompute mismatches again fences its core. -/
def Sys2Proof.Claims.FencedCoresAreReplaced : Prop :=
  ∀ (s : State) (c : LCore), s.Inv →
    let i := s.phys (islOf c)
    let j := inIsland c
    let pos := s.posOf i j
    let runs (a : Instr) (P : State → Prop) : Prop := ∃ t, exec a s = .next t ∧ P t
    let fencedNow (t : State) : Prop := (t.isl i).fencedPos.contains pos = true
    let quietLoads := ∀ p, p < 128 → s.partState p ≠ psLoading
    let recovering (p : Nat) (t : State) : Prop := t.partState p = psRecovering ∧ lookup t.jobs p = lookup s.jobs p
      ∧ ∃ r, lookup t.recov p = some r ∧ r.phase = 1 ∧ r.lcore = c ∧ r.detected = s.tide.now ∧ r.overflow = false
    (s.get HUB_RCV_FENCE_LCORE = c → s.fenced c = false →
      (quietLoads →
        (runs .rcvFenceGo fencedNow)
        ∧ (s.corePart c = none → (∃ q ∈ s.unusedSpares i, q ≠ pos) → runs .rcvFenceGo fun t => s.nearestSpare i pos (t.posOf i j)
            ∧ t.core c = coreReset ∧ (∀ d, d ≠ c.val → t.core d = s.core d) ∧ t.jobs = s.jobs
            ∧ bit (t.get TEN_PF_CAUSE_CAUSE) cCoreFenced = true)
        ∧ (∀ p, s.corePart c = some p → s.partState p = psRunning →
          ((∃ q ∈ s.unusedSpares i, q ≠ pos) → runs .rcvFenceGo (recovering p))
          ∧ ((∀ q ∈ s.unusedSpares i, q = pos) → lookup s.jobs p ≠ none → s.flag HUB_RCV_CTRL_WITHDRAW = false → s.reqs = [] →
            runs .rcvFenceGo fun t => t.jobOver p stEjectedFence ∧ t.get (TEN_PART_FAULT_CODE p) = stEjectedFence
              ∧ t.get (TEN_PART_FAULT_LCORE p) = c ∧ lookup t.recov p = none)))
      ∧ ((∃ p, p < 128 ∧ s.partState p = psLoading) → runs .rcvFenceGo fun t => OnlyRegs [HUB_CLAMP, HUB_CLAMP_LAST] s t
          ∧ t.get HUB_CLAMP_COUNT = satAdd 32 (s.get HUB_CLAMP_COUNT) 1))
    ∧ (∀ x rest row col dup array p, s.ladleLive c = true → (s.core c).steps = x :: rest → x.mis = none → x.recomputed = true →
        row = true ∨ col = true → s.corePart c = some p → s.partState p = psRunning → (∃ q ∈ s.unusedSpares i, q ≠ pos) →
        runs (.persistentMismatchFence c row col dup false array) fun t => fencedNow t ∧ recovering p t
          ∧ t.flag (s.atCore c ISL_CORE_CHK_PERSIST) = true ∧ t.flag (s.atCore c ISL_CORE_CHK_ROW_MIS) = row
          ∧ t.flag (s.atCore c ISL_CORE_CHK_COL_MIS) = col ∧ t.get (s.atCore c ISL_CORE_CHK_ARRAY) = array)

/-- The phases of a recovery: each ends in the next where what it waits for has happened, the sixth with the spool replayed and a
tick chosen, at which every core continues in WINDOW mode and the partition runs. -/
def Sys2Proof.Claims.RecoveryPhasesFollow : Prop :=
  ∀ (s : State) (p : Part) (r : Recovery), lookup s.recov p = some r → s.Inv →
    let step := Instr.recoveryPhaseComplete p
    let i := s.phys (islOf r.lcore)
    let ends (P : State → Prop) : Prop := ∃ t, exec step s = .next t ∧ P t
    (r.phase = 1 → exec step s = .next (s.setRecov p { r with phase := 2 }))
    ∧ (r.phase = 2 → exec step s = .next (if s.partQuiet p then s.setRecov p { r with phase := 3 } else s))
    ∧ (r.phase = 3 → s.partDrained p = true →
        (∀ j, lookup s.jobs p = some j → j.peers = [] ∨ s.get (HUB_RCV_SPOOL_HANDLE p) ≠ 0) → ends fun t =>
          lookup t.recov p = some { r with phase := 4 } ∧ lookup t.spools p = some [] ∧ t.cores = s.cores
          ∧ ∀ c ∈ s.partCores p, t.flag (s.atCore c ISL_CORE_TS_WMODE) = false)
    ∧ (r.phase = 3 → s.partDrained p = false → exec step s = .next s)
    ∧ (r.phase = 4 → (s.recov.filter fun e => decide (5 ≤ e.2.phase)).length < 8 →
        exec step s = .next (s.setRecov p { r with phase := 5 }))
    ∧ (r.phase = 5 → r.overflow = false → s.unusedSpares i ≠ [] → ends fun t => lookup t.recov p = some { r with phase := 6 }
        ∧ t.posOf i (inIsland r.lcore) ∈ s.unusedSpares i ∧ (t.core r.lcore).slots = (s.core r.lcore).slots
        ∧ t.jobs = s.jobs ∧ ∀ d, d ≠ r.lcore → t.core d = s.core d)
    ∧ (r.phase = 6 → lookup s.spools p = some [] → ends fun t =>
        lookup t.recov p = some { r with phase := 7, resumeAt := some (startTick s.tide.now) } ∧ t.cores = s.cores ∧ t.regs = s.regs)
    ∧ (∀ tk, r.phase = 7 → r.resumeAt = some tk → lookup s.spools p = some [] → s.saves = [] → ends fun t =>
        t.partState p = psRunning ∧ lookup t.recov p = none ∧ lookup t.spools p = none ∧ lookup t.jobs p = lookup s.jobs p
          ∧ tk.toNat ≤ t.tide.now.toNat ∧ t.get HUB_RCV_STATUS_LAST_CODE = stDone ∧ t.get HUB_RCV_STATUS_LAST_PART = p
          ∧ t.get HUB_RCV_CNT_RECOVERED = satAdd 16 (s.get HUB_RCV_CNT_RECOVERED) 1
          ∧ ∀ c ∈ s.partCores p, (t.core c).preempt = false ∧ t.flag (s.atCore c ISL_CORE_TS_WMODE) = true)

/-- Faults larger than a core: a router fault fences its cores, a quench takes its island's core rail, a harbor fault leaves its
harbor answering nothing, each with the jobs it meets ended; an OE fault fences four ports; a hub fault takes the package
down to a start from HUB. One that has happened changes nothing again.
Where it rests on a reading or a choice of the model, not on a rule: logs 124 and 125. -/
def Obligations.LargerFaultsEndTheirJobs : Prop :=
  ∀ (s : State), s.Inv →
    let runs (a : Instr) (P : State → Prop) : Prop := ∃ t, exec a s = .next t ∧ P t
    (∀ k : Cluster,
      let i := s.phys (k / 8)
      let f := ISL_FLT_STATUS_RTR_FENCED i
      (bit (s.get f) (k % 8) = true → exec (.routerFault k) s = .next s)
      ∧ (bit (s.get f) (k % 8) = false → runs (.routerFault k) fun t => bit (t.get f) (k % 8) = true
        ∧ (∀ j, j < 16 → (t.isl i).fencedPos.contains (s.posOf i (16 * (k % 8) + j)) = true)
        ∧ (s.partOf k = none → t.jobs = s.jobs ∧ t.cores = s.cores)
        ∧ ∀ p, s.partOf k = some p → lookup s.jobs p ≠ none → lookup t.jobs p = none))
    ∧ (∀ (i : Island) reason hot amps,
        (s.flag (ISL_FLT_STATUS_QUENCHED i) = true ∨ (s.isl i).railUp = false → exec (.islandQuench i reason hot amps) s = .next s)
        ∧ (s.flag (ISL_FLT_STATUS_QUENCHED i) = false → (s.isl i).railUp = true → reason ≠ 0 ∨ 4 ≤ (s.isl i).over115 →
          runs (.islandQuench i reason hot amps) fun t => (t.isl i).railUp = false ∧ t.flag (ISL_FLT_STATUS_QUENCHED i) = true
            ∧ t.get (ISL_FLT_STATUS_QREASON i) = reason.val + 1 ∧ t.present i = false
            ∧ ((∀ e ∈ s.streams, e.2.tenant < 4096) → ∀ p, p < 128 → s.partOnIsland p i = true → lookup t.jobs p = none)))
    ∧ (∀ h : Harbor,
        ((s.harbor h).fenced = true → exec (.harborFault h) s = .next s)
        ∧ ((s.harbor h).fenced = false → runs (.harborFault h) fun t => (t.harbor h).fenced = true ∧ (t.harbor h).streams = []
          ∧ (t.harbor h).reqs = [] ∧ ∀ p, p < 128 → s.onHarbor p h = true → lookup t.jobs p = none))
    ∧ (∀ d : Fin 4, runs (.oeFault d) fun t => ∀ n, n < 4 → t.get (RVR_PORT_STATUS_STATE (4 * d + n)) = ptFenced)
    ∧ (s.pads.hubRail = true → runs .hubFault fun t => t.phase = phHub ∧ t.pads.faultL = false ∧ t.jobs = [] ∧ t.cores = []
        ∧ t.pads.fabricRail = false ∧ t.pads.harborRail = false ∧ t.exk.crash.valid = true ∧ t.exk.crash.latest = 1
        ∧ t.exk.failCount = min 3 (s.exk.failCount + 1))
    ∧ (s.pads.hubRail = false → exec .hubFault s = .next s)

/-- A fenced core and the phases of the recovery it begins.
Where it rests on a reading or a choice of the model, not on a rule: logs 87, 120 and 125. -/
def Obligations.CoreFaultsAreRecovered : Prop :=
  Sys2Proof.Claims.FencedCoresAreReplaced ∧
  Sys2Proof.Claims.RecoveryPhasesFollow

/-! ### The Exkalet pair, the anneal engine, telemetry -/

/-- The registers that follow the event log: its own, and where a full buffer drops a record, the message that says so. -/
def Sys2Proof.Machine.logRegs : List Reg := [MGT_LOG_STATUS, MGT_LOG_NEWEST, MGT_LOG_OLDEST, MGT_MBX_MSG, TEN_PF_CAUSE]

/-- The oldest queued re-anneal takes the lowest free channel; a canary run moves its search by 5 mV or ends it; one that ended
and verifies writes its record, applies it and clears the guard, one that fails leaves the guard and posts message 2; one
whose class has risen starts again.
Where it rests on a reading or a choice of the model, not on a rule: log 128. -/
def Obligations.ReannealsSearchAndEnd : Prop :=
  ∀ (s : State) (ch : Fin 4) (a : Anneal) (err : Bool), s.exk.channels.length = 4 → a.island < 16 → a.code < 5 →
    let i := a.island
    let go (f : Bool → Instr) (P : State → Prop) : Prop := ∃ t, exec (f err) s = .next t ∧ P t
    let now (b : Anneal) (t : State) : Prop := t = s.setExk { s.exk with channels := s.exk.channels.set ch (some b) }
    let fresh (c : Nat) : Anneal := newAnneal i a.code c (s.guarded i a.code) (s.recVoff i a.code)
    let others (t : State) : Prop := ∀ c, c ≠ ch.val → t.channel c = s.channel c
    let logged (t : State) : Prop := ∃ r, t.exk.staged.getLast? = some r ∧ r.tick = s.tide.now ∧ r.source = i
    (∀ rest, s.exk.annealQ = a :: rest → s.exk.fwRunning = true → s.channel ch = none →
        (∀ c, c < ch.val → (s.channel c).isSome = true) → ∃ t, exec .reannealStart s = .next t ∧ t.exk.annealQ = rest
          ∧ t.get MGT_ANL_CFG_PENDING = min 16 rest.length ∧ others t
          ∧ OnlyRegs [ISL_ANL_STATUS i, MGT_ANL_CFG] { s with exk := t.exk } t
          ∧ (if (s.isl i).railUp then t.channel ch = some (fresh a.cls) ∧ t.flag (ISL_ANL_STATUS_RUNNING i) = true
              ∧ bit (t.get MGT_ANL_CFG_BUSY_CH) ch = true else t.channel ch = none))
    ∧ (s.exk.annealQ = [] ∨ s.exk.fwRunning = false → exec .reannealStart s = .next s)
    ∧ (s.channel ch = none → exec (.canaryRun ch err) s = .next s ∧ exec (.reannealComplete ch err) s = .next s)
    ∧ (s.channel ch = some a →
      (∀ c, (s.isl i).restartCls = some c → a.v ≤ 60 → a.final = none → go (.canaryRun ch) fun t =>
        t.channel ch = some (fresh c) ∧ (t.isl i).restartCls = none ∧ others t ∧ t.regs = s.regs)
      ∧ ((s.isl i).restartCls = none →
        (a.final = none → a.v ≤ 60 → exec (.reannealComplete ch err) s = .next s ∧ go (.canaryRun ch) fun t =>
          (err = true → a.upward ≠ some false → now { a with upward := some true, v := a.v + 5 } t)
          ∧ (err = false → a.upward = some true → now { a with final := some (s.withMargin a.v) } t)
          ∧ (err = false → a.upward ≠ some true → -55 ≤ a.v → now { a with upward := some false, v := a.v - 5 } t)
          ∧ (err = false → a.upward ≠ some true → a.v < -55 →
              now { a with upward := some false, final := some (s.withMargin a.v) } t)
          ∧ (err = true → a.upward = some false → now { a with final := some (s.withMargin (a.v + 5)) } t))
        ∧ (∀ v, a.final = some v → v ≤ 60 → -60 ≤ v → a.cls < 4 → err = false → a.code = s.get (ISL_GOV_STATUS_STEP i) →
            s.get (ISL_ANL_STATUS_LOAD_CLASS i) ≤ a.cls → go (.reannealComplete ch) fun t =>
              signed 8 (t.get (ISL_ANL_REC_VOFF i a.code)) = v ∧ t.get (ISL_ANL_REC_CLASS i a.code) = a.cls
              ∧ t.get (ISL_ANL_REC_TEMP_C i a.code) = s.get (ISL_GOV_STATUS_HOT_C i) ∧ t.flag (ISL_ANL_REC_VALID i a.code) = true
              ∧ (t.isl i).voff = v ∧ t.flag (ISL_ANL_STATUS_GUARD i) = false ∧ t.channel ch = none ∧ others t ∧ logged t
              ∧ t.get (ISL_ANL_STATUS_REANNEAL_CNT i) = satAdd 16 (s.get (ISL_ANL_STATUS_REANNEAL_CNT i)) 1
              ∧ RegsBut ([ISL_ANL_REC i a.code, ISL_ANL_STATUS i, MGT_ANL_CFG] ++ logRegs) s t)
        ∧ (((∃ v, a.final = some v) ∧ err = true) ∨ (∃ v, a.final = some v ∧ 60 < v) ∨ (a.final = none ∧ 60 < a.v) →
            go (.reannealComplete ch) fun t => t.flag (ISL_ANL_STATUS_FAIL i) = true ∧ t.channel ch = none ∧ others t
              ∧ t.islands = s.islands ∧ t.get MGT_MBX_MSG_KIND = 2 ∧ t.flag MGT_MBX_MSG_PENDING = true ∧ logged t
              ∧ t.flag (ISL_ANL_STATUS_GUARD i) = s.flag (ISL_ANL_STATUS_GUARD i)
              ∧ RegsBut ([ISL_ANL_STATUS i, MGT_ANL_CFG] ++ logRegs) s t)))

/-- A lockstep mismatch or a watchdog expiry stops the running pair alone: crash log, count, READY 0, a restart, at the third in
600 s held with FAULT_L, before READY a failed start. A restart that completes runs the firmware of the slot that boots. -/
def Sys2Proof.Claims.ThePairRestartsAlone : Prop :=
  ∀ (s : State),
    let recent := s.exk.uptimeUs :: s.exk.restarts.filter fun t => decide (s.exk.uptimeUs ≤ t + 600000000)
    let stops (i : Instr) (cause : Nat) (f : RF) : Prop :=
      (s.exk.powered = true → s.exk.restarting = false → s.flag MGT_STATUS_HELD = false → s.exk.fwRunning = true →
        (s.starting = false → ∃ t, exec i s = .next t ∧ t.exk.fwRunning = false ∧ t.flag MGT_STATUS_READY = false
          ∧ t.get f = satAdd 8 (s.get f) 1 ∧ t.exk.crash.valid = true ∧ t.exk.crash.latest = cause
          ∧ t.exk.crash.count = satAdd 16 s.exk.crash.count 1 ∧ t.exk.restarts = recent
          ∧ (recent.length < 3 → t.exk.restarting = true ∧ t.flag MGT_STATUS_HELD = false ∧ t.pads = s.pads)
          ∧ (3 ≤ recent.length → t.exk.restarting = false ∧ t.flag MGT_STATUS_HELD = true ∧ t.pads = { s.pads with faultL := false })
          ∧ t = { s with regs := t.regs, exk := t.exk, pads := t.pads, msix := t.msix, out := t.out })
        ∧ (s.starting = true → ∃ t, exec i s = .next t ∧ t.get MGT_BOOT_STATUS_CAUSE = 4 ∧ t.exk.crash.latest = 4
          ∧ t.phase = (if s.exk.failCount < 3 then phRetry else phMinimal)))
      ∧ (s.exk.powered = false ∨ s.exk.restarting = true ∨ s.flag MGT_STATUS_HELD = true → exec i s = .next s)
    stops .lockstepMismatch 2 MGT_STATUS_LOCKSTEP_CNT ∧ stops .exkWatchdogExpire 3 MGT_STATUS_WDOG_CNT
    ∧ (s.exk.restarting = false → exec .pairRestartComplete s = .next s)
    ∧ (s.exk.restarting = true → s.exk.preferred < 2 → ∃ t, exec .pairRestartComplete s = .next t ∧ match s.bootSlot with
        | none => t = s
        | some n => t.exk.fwRunning = true ∧ t.exk.restarting = false ∧ t.flag MGT_STATUS_READY = true ∧ t.get MGT_STATUS_SLOT = n
          ∧ t.exk.trialSince = s.exk.uptimeUs ∧ t.jobs = s.jobs ∧ t.cores = s.cores
          ∧ (s.exk.crash.valid = true → t.get MGT_MBX_MSG_KIND = 6 ∧ t.flag MGT_MBX_MSG_PENDING = true)
          ∧ (s.boot.pairPending = false → t.pads = s.pads ∧ t.boot = s.boot)
          ∧ (s.boot.pairPending = true → t.boot.pairPending = false ∧ (s.phase = phHub →
              t.pads = { s.pads with hubRail := s.pads.pwrOk && s.pads.vin12Good && s.pads.thermtripL })))

/-- Telemetry: a sample shows the hottest sensor of each die, and a sensor at 125 °C for the second time or a tower's trip asserts
THERMTRIP_L with every rail off; a report shows the mean powers, the peak and the warnings; the log is copied when the
firmware and the harbor can. -/
def Sys2Proof.Claims.TelemetryIsShown : Prop :=
  ∀ (s : State) (dies : List (List (BitVec 8))) (towers : List (BitVec 8)) (rails blocks : List Nat) (trip : Bool)
      (standby n : Nat),
    let runs (i : Instr) (P : State → Prop) : Prop := ∃ t, exec i s = .next t ∧ P t
    let again := (hotSensors dies).any fun k => s.exk.hotSeen.contains k
    let pkg := min 65535 ((blocks.take 25).foldl (· + ·) standby)
    let far := s.exk.farLog ++ s.exk.staged.take n
    (s.exk.powered = false → exec (.sensorSample dies towers rails trip) s = .next s
      ∧ exec (.powerReport blocks standby) s = .next s)
    ∧ (s.exk.powered = true →
      (again = false → trip = false → runs (.sensorSample dies towers rails trip) fun t =>
        t.exk = { s.exk with uptimeUs := s.exk.uptimeUs + 1, hotSeen := hotSensors dies, temps := dies, towers := towers,
                             rails := rails }
        ∧ (if s.exk.fwRunning then OnlyRegs ((List.range 37).map MGT_TEMP) { s with exk := t.exk } t
            ∧ (∀ d ts, d < 25 → dies[d]? = some ts → t.get (MGT_TEMP_TEMP_C d) = unsigned 8 (hottest ts).1)
            ∧ (∀ d x, d < 12 → towers[d]? = some x → t.get (MGT_TEMP_TEMP_C (25 + d)) = x.toNat)
          else t = { s with exk := t.exk }))
      ∧ (again = true ∨ trip = true → s.pads.thermtripL = true → runs (.sensorSample dies towers rails trip) fun t =>
          t.phase = phOff ∧ t.pads = { s.pads with thermtripL := false, hubRail := false, fabricRail := false, harborRail := false }
          ∧ t.exk.crash.valid = true ∧ t.exk.crash.latest = 5 ∧ t.jobs = [] ∧ t.cores = [])
      ∧ (runs (.powerReport blocks standby) fun t => t.get MGT_PWR_PKG_POWER = pkg
          ∧ t.get MGT_PWR_PEAK_PEAK = max pkg (s.get MGT_PWR_PEAK_PEAK)
          ∧ (∀ b x, b < 25 → blocks[b]? = some x → t.get (MGT_PWR_BLK_POWER b) = min 65535 x)
          ∧ (s.get MGT_PWR_CTRL_WARN_W < pkg → t.exk.powerWarned = true ∧ (s.exk.powerWarned = false →
              t.get MGT_MBX_MSG_KIND = 3 ∨ t.get MGT_MBX_MSG_KIND = 7))
          ∧ (pkg ≤ s.get MGT_PWR_CTRL_WARN_W → t.exk.powerWarned = (s.exk.powerWarned && decide (s.get MGT_PWR_CTRL_WARN_W < pkg + 400)))
          ∧ (15200 < pkg → t.get MGT_PWR_CTRL_OVER_CNT = satAdd 16 (s.get MGT_PWR_CTRL_OVER_CNT) 1)
          ∧ (pkg ≤ 15200 → pkg ≤ s.get MGT_PWR_CTRL_WARN_W →
              RegsBut ((List.range 25).map MGT_PWR_BLK ++ [MGT_PWR_PKG, MGT_PWR_PEAK]) s t)))
    ∧ (runs .peakClr fun t => t.get MGT_PWR_PEAK_PEAK = 0 ∧ OnlyRegs [MGT_PWR_PEAK] s t)
    ∧ (s.farLogOk = true → far.length ≤ 1048576 → runs (.eventLogCopy n) fun t =>
        t.exk = { s.exk with farLog := far, staged := s.exk.staged.drop n }
          ∧ t.flag MGT_LOG_STATUS_FAR_OK = true ∧ t.get MGT_LOG_STATUS_STAGED = (s.exk.staged.length - n) % 2048
          ∧ OnlyRegs [MGT_LOG_STATUS, MGT_LOG_NEWEST, MGT_LOG_OLDEST] { s with exk := t.exk } t)
    ∧ (s.farLogOk = false → runs (.eventLogCopy n) fun t => t.flag MGT_LOG_STATUS_FAR_OK = false ∧ OnlyRegs [MGT_LOG_STATUS] s t)

/-- The management pair: it restarts alone, and its telemetry is shown.
Where it rests on a reading or a choice of the model, not on a rule: logs 127, 129 and 130. -/
def Obligations.ThePairAndItsTelemetry : Prop :=
  Sys2Proof.Claims.ThePairRestartsAlone ∧
  Sys2Proof.Claims.TelemetryIsShown

/-! ### Mailbox, keys, firmware update, out of band -/

/-- Mailbox commands answer in MGT_MBX_STATUS.CODE with their effect, a refused argument with REFUSED_FIT and nothing else; to no
operation while the firmware is not running, and refused where minimal mode does not accept them. -/
def Sys2Proof.Claims.MailboxCommandsAnswer : Prop :=
  ∀ (s : State) (k : KeyCmd) (kind : Fin 8), s.Inv →
    let ready := s.exk.fwRunning = true ∧ s.minimal = false
    let arg := s.get (MGT_MBX_ARG_ARG 0)
    let answers (i : Instr) (code : Nat) (P : State → Prop) : Prop :=
      ∃ t, exec i s = .next t ∧ t.get MGT_MBX_STATUS_CODE = code ∧ P t
    let refused (i : Instr) (code : Nat) : Prop := answers i code fun t => OnlyRegs [MGT_MBX_STATUS] s t
    let window := (List.range 64).map MGT_MBX_DATA
    let shows (bs : List Byte) (t : State) : Prop := ∀ n, n < 64 → t.get (MGT_MBX_DATA_DATA n) = leNat ((bs.drop (4 * n)).take 4)
    let held := s.exk.farLog ++ s.exk.staged
    let digest (install : Bool) := Config.sha384 (keySigned k install s.fuses.serial)
    let key (i : Instr) (install : Bool) : Prop :=
      (8 ≤ k.index → refused i stRefusedFit)
      ∧ (k.index < 8 → s.exk.ownerDigest ≠ some (Config.sha384 (leBytes 96 k.owner.toNat)) ∨ k.seq.toNat ≤ s.exk.keySeq →
          refused i stRefusedSignature)
      ∧ (k.index < 8 → s.exk.keys.length = 8 → s.exk.ownerDigest = some (Config.sha384 (leBytes 96 k.owner.toNat)) →
          s.exk.keySeq < k.seq.toNat → if Config.ecdsaVerify k.owner (digest install) k.r k.s then
            answers i stDone fun t => t.exk.keySeq = k.seq.toNat ∧ (∀ n, n ≠ k.index → t.exk.keys[n]? = s.exk.keys[n]?)
              ∧ (install = true → t.exk.keys[k.index]? = some { state := 1, key := k.key, minSec := k.minSec.toNat })
              ∧ (install = false → (t.exk.keys[k.index]?).map (·.state) = some 2)
              ∧ t.get (MGT_KEY_STATE k.index) = (if install then 1 else 2)
          else refused i stRefusedSignature)
    (∀ i ∈ [Instr.mbxNop, .readEvt, .readCrash, .clearCrash, .keyInstall k, .keyRevoke k, .ownerProvision, .mbxQuench,
        .mbxWarmReset, .mbxColdReset, .mbxReanneal], s.exk.fwRunning = false → ∃ t, exec i s = .next t
          ∧ t.get MGT_CLAMP_COUNT = satAdd 32 (s.get MGT_CLAMP_COUNT) 1 ∧ OnlyRegs [MGT_CLAMP, MGT_CLAMP_LAST] s t)
    ∧ (∀ i ∈ [Instr.mbxQuench, .mbxWarmReset, .mbxReanneal], s.exk.fwRunning = true → s.minimal = true →
        refused i stRefusedFit)
    ∧ (s.exk.fwRunning = true →
      (answers .mbxNop stDone fun t => OnlyRegs [MGT_MBX_STATUS] s t)
      ∧ (∀ pre r post, held = pre ++ r :: post → r.seq = s.reg (MGT_MBX_ARG 0) → (∀ q ∈ pre, q.seq ≠ r.seq) →
          answers .readEvt stDone fun t => shows ((r :: post.take 3).flatMap EvRec.bytes) t
            ∧ t.reg (MGT_MBX_ARG 0) = s.reg (MGT_MBX_ARG 0) ∧ OnlyRegs (MGT_MBX_STATUS :: MGT_MBX_ARG 0 :: window) s t)
      ∧ (∀ r post, held = r :: post → (∀ q ∈ held, q.seq ≠ s.reg (MGT_MBX_ARG 0)) →
          ((r.seq - s.reg (MGT_MBX_ARG 0)).toNat < 2 ^ 31 → answers .readEvt stDone fun t =>
            shows ((r :: post.take 3).flatMap EvRec.bytes) t ∧ t.reg (MGT_MBX_ARG 0) = r.seq
              ∧ OnlyRegs (MGT_MBX_STATUS :: MGT_MBX_ARG 0 :: window) s t)
          ∧ (2 ^ 31 ≤ (r.seq - s.reg (MGT_MBX_ARG 0)).toNat → refused .readEvt stRefusedFit))
      ∧ (arg % 256 = 0 → arg < 262144 → answers .readCrash stDone fun t => shows (s.exk.crash.page arg) t
          ∧ OnlyRegs (MGT_MBX_STATUS :: window) s t)
      ∧ (arg % 256 ≠ 0 ∨ 262144 ≤ arg → refused .readCrash stRefusedFit)
      ∧ (answers .clearCrash stDone fun t => t.exk = { s.exk with crash := { s.exk.crash with valid := false, count := 0 } }
          ∧ OnlyRegs [MGT_MBX_STATUS] { s with exk := t.exk } t)
      ∧ (s.exk.ownerDigest = none → answers .ownerProvision stDone fun t =>
          (∃ d, t.exk = { s.exk with ownerDigest := some d }
            ∧ ∀ n, n < 12 → bitsOf d.toNat (32 * n) 32 = s.get (MGT_MBX_DATA_DATA n))
          ∧ OnlyRegs [MGT_MBX_STATUS] { s with exk := t.exk } t)
      ∧ (s.exk.ownerDigest ≠ none → refused .ownerProvision stRefusedFit)
      ∧ key (.keyInstall k) true ∧ key (.keyRevoke k) false
      ∧ (answers .mbxColdReset stDone fun t => t.phase = phExk ∧ t.jobs = [] ∧ t.cores = [] ∧ t.exk.fwRunning = false
          ∧ t.pads.thermtripL = true ∧ t.pads.faultL = false ∧ t.exk.failCount = min 3 (s.exk.failCount + 1)
          ∧ t.exk.crash = s.exk.crash ∧ t.exk.staged = s.exk.staged ∧ t.exk.farLog = s.exk.farLog ∧ t.exk.keys = s.exk.keys))
    ∧ (ready →
      (16 ≤ arg → refused .mbxQuench stRefusedFit ∧ refused .mbxReanneal stRefusedFit)
      ∧ (arg < 16 →
        (s.flag (ISL_FLT_STATUS_QUENCHED arg) = false → (s.isl arg).railUp = true → answers .mbxQuench stDone fun t =>
          (t.isl arg).railUp = false ∧ t.flag (ISL_FLT_STATUS_QUENCHED arg) = true ∧ t.get (ISL_FLT_STATUS_QREASON arg) = 5)
        ∧ (s.flag (ISL_FLT_STATUS_QUENCHED arg) = true ∨ (s.isl arg).railUp = false → refused .mbxQuench stDone)
        ∧ ((s.annealOf arg).isSome = true ∨ (s.isl arg).railUp = false → refused .mbxReanneal stDone)
        ∧ (s.annealOf arg = none → (s.isl arg).railUp = true → answers .mbxReanneal stDone fun t =>
            t.flag (ISL_ANL_STATUS_GUARD arg) = true
            ∧ (t.isl arg).voff = s.guarded arg (s.get (ISL_GOV_STATUS_STEP arg))
            ∧ t.exk.annealQ = s.exk.annealQ ++ ((List.range 5).map fun n =>
                newAnneal arg n (s.get (ISL_ANL_STATUS_LOAD_CLASS arg)) (s.guarded arg n) (s.recVoff arg n))
            ∧ RegsBut [MGT_MBX_STATUS, ISL_ANL_STATUS arg, MGT_ANL_CFG] s t))
      ∧ (s.ready = true → answers .mbxWarmReset stDone fun t => t.jobs = [] ∧ t.cores = []
          ∧ t.phase = (if s.pads.coolOkL then phWaitCool else phHarbor) ∧ t.exk.crash = s.exk.crash ∧ t.exk.keys = s.exk.keys)
      ∧ (s.ready = false → refused .mbxWarmReset stDone))
    ∧ (kind.val ≠ 0 → s.exk.powered = true → ∃ t, exec (.mailboxMessage kind) s = .next t ∧ t.get MGT_MBX_MSG_KIND = kind
        ∧ t.flag MGT_MBX_MSG_PENDING = true ∧ RegsBut [MGT_MBX_MSG, TEN_PF_CAUSE] s t
        ∧ (s.flag MGT_MBX_MSG_PENDING = false → bit (t.get TEN_PF_CAUSE_CAUSE) cMgt = true)
        ∧ (s.flag MGT_MBX_MSG_PENDING = true → t.get TEN_PF_CAUSE_CAUSE = s.get TEN_PF_CAUSE_CAUSE))
    ∧ (kind.val = 0 ∨ s.exk.powered = false → exec (.mailboxMessage kind) s = .next s)

/-- A firmware update: each command in its state of the session moves it on and answers success, elsewhere it answers an error and
changes nothing; only the slot that does not run is written, and only a verified one is activated. A trial of 600 s makes
the slot ACTIVE and raises the rollback counter.
Where it rests on a reading or a choice of the model, not on a rule: logs 133 and 134. -/
def Obligations.FirmwareUpdatesProceed : Prop :=
  ∀ (s : State) (last ok : Bool) (component : BitVec 16) (offset : Nat) (bytes : List Byte),
    let n := s.idleSlot
    let u := s.exk.update
    let tells (c code : Nat) (t : State) : Prop := t.out = s.out ++ [.mgmt (0x500 + c) [BitVec.ofNat 8 code]]
    let moves (i : Instr) (c : Nat) (P : State → Prop) : Prop := ∃ t, exec i s = .next t ∧ tells c ccSuccess t ∧ P t
    let logs (i : Instr) (c : Nat) (P : State → Prop) : Prop := ∃ t, exec i s = .next t
      ∧ t.out.getLast? = some (.mgmt (0x500 + c) [BitVec.ofNat 8 ccSuccess]) ∧ P t
    let others (t : State) : Prop := t.jobs = s.jobs ∧ t.cores = s.cores ∧ t.harbors = s.harbors ∧ t.pads = s.pads
      ∧ t.fwSlot (1 - n) = s.fwSlot (1 - n)
    let wrong (i : Instr) (c : Nat) (us : List UpdState) : Prop := u ∉ us → ∃ t, exec i s = .next t
      ∧ tells c (if u = .idle then ccNotInUpdate else ccInvalidState) t ∧ t = { s with out := t.out }
    let only (v : UpdState) (t : State) : Prop := t = { s with exk := { s.exk with update := v }, out := t.out }
    (s.pldmUp = false → ∀ i ∈ [Instr.requestUpdate, .passComponentTable last, .updateComponent component,
        .requestFirmwareData offset bytes, .transferComplete ok, .verifyComplete, .applyComplete ok, .activateFirmware,
        .getStatus, .cancelUpdateComponent, .cancelUpdate], exec i s = .next s)
    ∧ (s.pldmUp = true →
      wrong (.passComponentTable last) 0x13 [.learn] ∧ wrong (.updateComponent component) 0x14 [.ready]
      ∧ wrong (.requestFirmwareData offset bytes) 0x15 [.download] ∧ wrong (.transferComplete ok) 0x16 [.download]
      ∧ wrong .verifyComplete 0x17 [.verify] ∧ wrong (.applyComplete ok) 0x18 [.apply] ∧ wrong .activateFirmware 0x1A [.ready]
      ∧ wrong .cancelUpdateComponent 0x1C [.download, .verify, .apply]
      ∧ wrong .cancelUpdate 0x1D [.learn, .ready, .download, .verify, .apply]
      ∧ (u = .idle → moves .requestUpdate 0x10 fun t => t.exk = { s.exk with update := .learn, updateBuf := [], verified := false }
          ∧ t = { s with exk := t.exk, out := t.out })
      ∧ (u ≠ .idle → ∃ t, exec .requestUpdate s = .next t ∧ tells 0x10 ccAlready t ∧ t = { s with out := t.out })
      ∧ (u = .learn → moves (.passComponentTable last) 0x13 (only (if last then .ready else .learn)))
      ∧ (u = .ready → component = 1 → s.exk.slots.length = 2 → moves (.updateComponent component) 0x14 fun t => others t
          ∧ t.exk.update = .download ∧ t.exk.updateBuf = [] ∧ t.exk.verified = false ∧ (t.fwSlot n).image = [])
      ∧ (u = .ready → component ≠ 1 → ∃ t, exec (.updateComponent component) s = .next t ∧ tells 0x14 ccInvalidState t
          ∧ t = { s with out := t.out })
      ∧ (u = .download → offset = s.exk.updateBuf.length → bytes.length ≤ 4096 → offset + bytes.length ≤ 15 * 1048576 →
          s.exk.slots.length = 2 → moves (.requestFirmwareData offset bytes) 0x15 fun t => others t ∧ t.exk.update = .download
            ∧ t.exk.updateBuf = s.exk.updateBuf ++ bytes ∧ (t.fwSlot n).image = s.exk.updateBuf ++ bytes)
      ∧ (u = .download → moves (.transferComplete ok) 0x16 (only (if ok then .verify else .ready)))
      ∧ (u = .verify → s.exk.slots.length = 2 → logs .verifyComplete 0x17 fun t => others t
          ∧ (if (s.fwSlot n).bootable s.fuses.rollback then t.exk.update = .apply ∧ t.exk.verified = true
              ∧ t.fwSlot n = s.fwSlot n
            else t.exk.update = .ready ∧ (t.fwSlot n).failed = true ∧ t.exk.preferred = s.exk.preferred))
      ∧ (u = .apply → moves (.applyComplete ok) 0x18 fun t => t = { s with out := t.out, exk := { s.exk with
          update := .ready, verified := s.exk.verified && ok } })
      ∧ (u = .ready → s.exk.verified = true → s.exk.slots.length = 2 → s.exk.fwRunning = true →
          logs .activateFirmware 0x1A fun t => others t ∧ t.exk.preferred = n ∧ (t.fwSlot n).trial = true
            ∧ t.exk.fwRunning = false ∧ t.exk.restarting = true ∧ t.flag MGT_STATUS_READY = false
            ∧ t.exk.crash = s.exk.crash ∧ t.get MGT_MBX_MSG_KIND = 4 ∧ t.flag MGT_MBX_MSG_PENDING = true)
      ∧ (u = .ready → s.exk.verified = false → ∃ t, exec .activateFirmware s = .next t ∧ tells 0x1A ccInvalidState t
          ∧ t = { s with out := t.out })
      ∧ (∃ t, exec .getStatus s = .next t ∧ t.out = s.out ++ [.mgmt 0x51B [0, BitVec.ofNat 8 (updCode u)]]
          ∧ t = { s with out := t.out })
      ∧ (u ∈ [.download, .verify, .apply] → moves .cancelUpdateComponent 0x1C fun t => t = { s with out := t.out, exk :=
          { s.exk with update := .ready, updateBuf := [], verified := false } })
      ∧ (u ∈ [.learn, .ready, .download, .verify, .apply] → moves .cancelUpdate 0x1D fun t => t = { s with out := t.out, exk :=
          { s.exk with update := .idle, updateBuf := [], verified := false } }))
    ∧ (let m := s.get MGT_STATUS_SLOT
      let due := s.exk.fwRunning = true ∧ (s.fwSlot m).trial = true ∧ s.exk.trialSince + 600000000 ≤ s.exk.uptimeUs
      (due → s.exk.slots.length = 2 → ∃ t, exec .fwTrialExpire s = .next t
        ∧ t.fuses = { s.fuses with rollback := max s.fuses.rollback (min 128 (s.fwSlot m).secVersion) }
        ∧ t.fwSlot m = { s.fwSlot m with trial := false, active := true } ∧ t.fwSlot (1 - m) = { s.fwSlot (1 - m) with active := false }
        ∧ t.flag MGT_STATUS_TRIAL = false ∧ t.jobs = s.jobs ∧ t.cores = s.cores)
      ∧ (¬ due → exec .fwTrialExpire s = .next s))

/-- The out-of-band side: a target with a firmware or boot ROM to answer takes an address and answers with what its standards
give; PLDM type 2 reads its sensors; an OEM command reads a register or is a mailbox command that leaves the mailbox's own
registers as they stand. Without firmware nothing answers. -/
def Sys2Proof.Claims.OutOfBandAnswers : Prop :=
  ∀ (s : State) (request : Nat) (args : List Byte) (q : PlatSensor) (addr : BitVec 7) (op : BitVec 8) (arg : Word)
      (key : Option KeyCmd) (data : List Byte) (r : Fin 1024), s.Inv →
    let tells (i : Instr) (k : Nat) (bs : List Byte) : Prop := exec i s = .next { s with out := s.out ++ [.mgmt k bs] }
    let window := (data ++ List.replicate 256 0).take 256
    let oem := Instr.pldmOemCommand (.mailbox op arg key data)
    let accepted := s.exk.fwRunning = true ∧ (s.minimal = false ∨ op.toNat ≤ 6 ∨ op = 9)
    let runs (P : State → Prop) : Prop := ∃ t, exec oem s = .next t ∧ P t
    let sends (code : Nat) (t : State) : Prop := t.out = s.out ++ [.mgmt 63 (BitVec.ofNat 8 code :: leBytes 4 arg.toNat ++ window)]
    (s.pldmUp = true →
      tells (.mctpControl request args) 0 (Config.standardResponse 0 request args)
      ∧ tells (.pldmBaseCommand request args) 1 (Config.standardResponse 1 request args)
      ∧ exec (.entdaa addr) s = .next { s with exk := { s.exk with i3cAddr := some addr.toNat },
                                               out := s.out ++ [.mgmt 3 (leBytes 6 Config.i3cPid.toNat)] })
    ∧ (s.pldmUp = false → exec (.mctpControl request args) s = .next s ∧ exec (.pldmBaseCommand request args) s = .next s
        ∧ exec (.entdaa addr) s = .next s)
    ∧ (s.exk.fwRunning = true → tells (.pldmPlatformRead q) 2 (leBytes 4 (s.reading q))
        ∧ tells (.pldmOemCommand (.read r)) 63 (leBytes 4 (s.reg ⟨0x100000 + 4 * r, resetAt (0x100000 + 4 * r)⟩).toNat))
    ∧ (s.exk.fwRunning = false → exec (.pldmPlatformRead q) s = .next s ∧ exec (.pldmOemCommand (.read r)) s = .next s
        ∧ exec oem s = .next s)
    ∧ (s.exk.fwRunning = true → s.minimal = true → 6 < op.toNat → op ≠ 9 → tells oem 63 [BitVec.ofNat 8 stRefusedFit])
    ∧ (accepted → op ≠ 9 → runs fun t => ∀ g : Reg, mbxRegister g.addr = true → t.reg g = s.reg g)
    ∧ (accepted → op = 0 → runs fun t => sends stDone t ∧ t = { s with regs := t.regs, out := t.out } ∧ RegsBut [] s t)
    ∧ (accepted → op = 3 → runs fun t => sends stDone t ∧ RegsBut [] s t
        ∧ t.exk = { s.exk with crash := { s.exk.crash with valid := false, count := 0 } })
    ∧ (accepted → 10 < op.toNat → runs fun t => sends stRefusedFit t ∧ t = { s with regs := t.regs, out := t.out }
        ∧ RegsBut [] s t)

/-- What the management answers: the mailbox and the out-of-band side.
Where it rests on a reading or a choice of the model, not on a rule: logs 131, 132, 133, 134 and 135. -/
def Obligations.ManagementAnswers : Prop :=
  Sys2Proof.Claims.MailboxCommandsAnswer ∧
  Sys2Proof.Claims.OutOfBandAnswers

/-! ### The host link, apertures and doorbell pages -/

/-- The host link: resets of the package through it, functions that come and go, power states, poisoned packets. A conventional
reset or the physical function's FLR at READY is a package warm reset with configuration space at its defaults. -/
def Sys2Proof.Claims.HostLinkActs : Prop :=
  ∀ (s : State) (perst : Bool) (n : Fin 4097),
    let runs (i : Instr) (P : State → Prop) : Prop := ∃ t, exec i s = .next t ∧ P t
    let defaults (t : State) : Prop := t.host.vfEnable = false ∧ t.host.numVfs = 0 ∧ t.host.d3hot = false ∧ t.msix = []
    let warm (t : State) : Prop := t.phase = (if s.pads.coolOkL then phWaitCool else phHarbor) ∧ t.jobs = [] ∧ t.cores = []
      ∧ t.reqs = [] ∧ t.streams = [] ∧ t.exk.failCount = min 3 (s.exk.failCount + 1) ∧ t.flag MGT_BOOT_STATUS_WARM = true
    (runs (.conventionalReset perst) fun t => defaults t ∧ t.pads.perstL = (s.pads.perstL && !perst)
        ∧ t.host.held = (s.host.held || perst) ∧ (s.ready = true → warm t)
        ∧ (s.ready = false → s.minimal = false → t.regs = s.regs ∧ t.jobs = s.jobs ∧ t.cores = s.cores))
    ∧ (s.linkUp = true → runs .pfFlr fun t => defaults t ∧ t.pads.perstL = s.pads.perstL ∧ (s.ready = true → warm t))
    ∧ (s.linkUp = false → exec .pfFlr s = .next s ∧ exec .poisonedTlp s = .next s ∧ exec (.vfEnable n) s = .next s)
    ∧ (s.linkUp = true → runs .poisonedTlp fun t => t.get HUB_PCIE_ERR_POIS_CNT = satAdd 16 (s.get HUB_PCIE_ERR_POIS_CNT) 1
        ∧ t.host.aer = s.host.aer ||| 0x1000 ∧ OnlyRegs [HUB_PCIE_ERR] { s with host := t.host } t)
    ∧ (s.linkUp = true → s.minimal = false → s.host.vfEnable = false →
        exec (.vfEnable n) s = .next { s with host := { s.host with vfEnable := true, numVfs := n } })
    ∧ (s.host.vfEnable = true ∨ s.minimal = true → exec (.vfEnable n) s = .next s)
    ∧ (s.host.vfEnable = false → exec .vfEnableClear s = .next s)
    ∧ (s.host.vfEnable = true → s.host.numVfs ≤ 4096 → (∀ e ∈ s.streams, e.2.tenant < s.host.numVfs) →
        (∀ p, p < 128 → ∀ tn, s.ownerOf p ≠ some tn) → s.saved = [] → s.resets = [] → runs .vfEnableClear fun t =>
          t.host = { s.host with vfEnable := false } ∧ t.streams = [] ∧ (∀ tn, t.vfLive tn = false)
          ∧ (∀ tn, tn < s.host.numVfs → t.reg (DB_CLAMP tn) = 0 ∧ lookup t.tokens tn = none
              ∧ bit (t.get (TEN_VF_CAUSE_CAUSE tn)) cResetDone = true)
          ∧ t.jobs = s.jobs ∧ t.cores = s.cores)
    ∧ exec .pfD3hot s = .next { s with host := { s.host with d3hot := true } }
    ∧ exec .pfToD0 s = .next { s with host := { s.host with d3hot := false } }

/-- What an aperture read answers: the bytes, each of them by what it meets, and their poison. -/
def Sys2Proof.Machine.State.answersRead (s t : State) (bs : List PByte) : Prop :=
  t.out = s.out ++ [.readData (bs.map fun b => if b.2 then 0 else b.1) (ppois bs)]

/-- BAR4 apertures: an object's bytes are read and written where it has them, a board peer is asked or written to, raw near memory
lies where its frame lies; what has no target reads zeros, drops writes and is counted. A link that is down answers nothing. -/
def Sys2Proof.Claims.AperturesReachTheirTargets : Prop :=
  ∀ (s : State) (a : Fin 16) (off : Word) (n : Nat) (bytes : List Byte),
    let rd := Instr.apertureRead a off n
    let wr := Instr.apertureWrite a off bytes
    let runs (i : Instr) (P : State → Prop) : Prop := ∃ t, exec i s = .next t ∧ P t
    let kind := s.get (HUB_APT_CTRL_KIND a)
    let tgt := s.get (HUB_APT_TGT_TGT a)
    let h := harborOf tgt
    let o := off.toNat % 65536
    let p := s.get (HUB_APT_PAGE_PAGE a) + off.toNat / 65536
    let dropped (t : State) : Prop := t.get HUB_APT_DROP_COUNT = satAdd 32 (s.get HUB_APT_DROP_COUNT) 1
    let addr := tgt % 2 ^ 20 * 2 ^ 32 + off.toNat
    let nearMem (hb f len : Nat) (t : State) : Prop := (∀ i, i < len → lookupD (t.harbor hb).near (65536 * f + o + i) 0 = bytes.getD i 0)
      ∧ (∀ k, (k < 65536 * f + o ∨ 65536 * f + o + len ≤ k) →
          lookupD (t.harbor hb).near k 0 = lookupD (s.harbor hb).near k 0)
      ∧ (∀ k, k ≠ hb → t.harbor k = s.harbor k) ∧ OnlyRegs [] { s with harbors := t.harbors } t
    (s.linkUp = false ∨ s.host.d3hot = true → exec rd s = .next s ∧ exec wr s = .next s)
    ∧ (s.linkUp = true → s.host.d3hot = false →
      (kind = 0 → exec wr s = .next s ∧ exec rd s = .next { s with out := s.out ++ [.readData (List.replicate n 0) false] })
      ∧ (kind = 1 → s.obj tgt = none ∨ (∃ x, s.obj tgt = some x ∧ x.pages ≤ p) → o + n ≤ 65536 → 0 < n →
          (runs rd fun t => s.answersRead t (List.replicate n (0, false)) ∧ dropped t
            ∧ OnlyRegs [HUB_APT_DROP] { s with out := t.out } t)
          ∧ (0 < bytes.length → o + bytes.length ≤ 65536 → runs wr fun t => dropped t ∧ OnlyRegs [HUB_APT_DROP] s t))
      ∧ (∀ x, kind = 1 → s.obj tgt = some x → p < x.pages → s.harborOn h = true →
        (o + n ≤ 65536 → 0 < n → runs rd fun t => (∃ bs, s.answersRead t bs ∧ bs.length = n ∧ ∀ i, i < n → bs[i]? =
            some ((((s.harbor h).homeBytes (indexOf tgt) p (o + i) 1).bind fun bs => bs[0]?).getD (0, true)))
          ∧ HarborFrame h [] { s with out := t.out } t)
        ∧ (x.sealed = true → 0 < bytes.length → o + bytes.length ≤ 65536 → o / 4096 = (o + bytes.length - 1) / 4096 → runs wr fun t =>
            dropped t ∧ OnlyRegs [HUB_APT_DROP, HBR_OBJ_STATUS h] s t)
        ∧ (∀ f, x.sealed = false → lookup x.near p = some f → lookup x.mid p = none → lookup x.far p = none →
            (s.harbor h).moves = [] → o / 4096 = (o + bytes.length - 1) / 4096 → 0 < bytes.length →
            runs wr (nearMem h f bytes.length)))
      ∧ (∀ e, kind = 2 → s.boardDest addr = some e → runs rd fun t => ∃ u : State,
          u = { s with host := { s.host with boardReads := s.host.boardReads ++ [(e, addr % 64, n)] } }
          ∧ t = u.ravorSend .board { u.newMsg e 6 with offset := (addr % 64 + n + 63) / 64, baddr := addr - addr % 64 })
      ∧ (∀ e, kind = 2 → s.boardDest addr = some e → addr % 64 = 0 → bytes.length % 64 = 0 → runs wr fun t => ∃ gs : List Granule,
          t = s.ravorSend .board { s.newMsg e 5 with baddr := addr, grans := gs } ∧ gs.length = bytes.length / 64
          ∧ ∀ i, i < bytes.length / 64 → (gs[i]?).map (·.data) = some ((bytes.drop (64 * i)).take 64))
      ∧ (kind = 2 → s.boardDest addr = none → (runs rd fun t => s.answersRead t (List.replicate n (0, false)) ∧ dropped t
            ∧ OnlyRegs [HUB_APT_DROP] { s with out := t.out } t)
          ∧ (runs wr fun t => dropped t ∧ OnlyRegs [HUB_APT_DROP] s t))
      ∧ (let hb := s.get (HUB_APT_CTRL_HARBOR a)
        kind = 3 → s.flag HUB_TIDE_STATUS_JOB_LOCK = false → s.ready = true → (s.harbor hb).fenced = false →
          s.flag (HUB_APT_CTRL_TIER a) = false → 4096 ≤ p → p < 3145728 → o / 4096 = (o + bytes.length - 1) / 4096 →
          0 < bytes.length → runs wr (nearMem hb p bytes.length))
      ∧ (kind = 3 → s.flag HUB_TIDE_STATUS_JOB_LOCK = true → s.minimal = false →
          (runs rd fun t => s.answersRead t (List.replicate n (0, false)))
          ∧ (0 < bytes.length → runs wr fun t => dropped t ∧ OnlyRegs [HUB_APT_DROP] s t)))

/-- A tenant loads, pre-empts, resumes, discards and resets through its page what it owns and nothing else; without its function
the page clamps, without EN it refuses. The code stands in DB_CMD_STATUS. -/
def Sys2Proof.Claims.TenantsCommandTheirPartitions : Prop :=
  ∀ (s : State) (tn : Tenant) (pages : List (Option (List Byte × Bool))), s.Inv →
    let cmds := [Instr.dbPreempt tn, .dbResume tn, .dbDiscard tn, .dbReset tn, .dbObjCreate tn, .dbObjCommit tn, .dbObjDelete tn,
      .dbObjStage tn, .dbObjPin tn, .dbObjSetmask tn, .objWrite tn pages, .objRead tn, .dbStrmOpen tn, .dbStrmClose tn]
    let arg (n : Nat) : Nat := s.get (DB_ARG_ARG tn n)
    let answers (i : Instr) (code : Nat) (P : State → Prop) : Prop :=
      ∃ t, exec i s = .next t ∧ t.get (DB_CMD_STATUS_CODE tn) = code ∧ P t
    let refused (i : Instr) : Prop := answers i stRefusedFit fun t => OnlyRegs [DB_CMD_STATUS tn] s t
    let r := loadReqOf (arg 0) (arg 1) (arg 2) (some tn.val)
    let noLoad := answers (.dbLoad tn) stRefusedFit fun t => t.jobs = s.jobs ∧ t.loads = s.loads ∧ t.cores = s.cores
      ∧ t.loadsWaiting = s.loadsWaiting ∧ t.get (DB_ASYNC_LOAD_CODE tn) = stRefusedFit
      ∧ t.get (TEN_VF_ENDED_ENDED tn) = satAdd 32 (s.get (TEN_VF_ENDED_ENDED tn)) 1
    let p := arg 0 % 128
    let q := bitsOf (arg 0) 3 7
    let hs := s.saveSet p (setWords ((List.range 6).map arg))
    let run : MoveRun :=
      { part := p, handles := hs, group := false, tick := nearTick s.tide.now (arg 1), stopped := false, moved := false }
    let mine (x : Nat) : Bool := s.mayCommand (some tn.val) x
    (s.vfLive tn = false → ∀ i ∈ .dbLoad tn :: cmds, ∃ t, exec i s = .next t
        ∧ t.get (DB_CLAMP_COUNT tn) = satAdd 32 (s.get (DB_CLAMP_COUNT tn)) 1
        ∧ t.get TEN_CLAMP_COUNT = satAdd 32 (s.get TEN_CLAMP_COUNT) 1 ∧ OnlyRegs [DB_CLAMP tn, TEN_CLAMP, TEN_CLAMP_LAST] s t)
    ∧ (s.vfLive tn = true → s.flag (TEN_VF_CTRL_EN tn) = false → (∀ i ∈ cmds, refused i) ∧ noLoad)
    ∧ (s.vfLive tn = true → s.flag (TEN_VF_CTRL_EN tn) = true →
      (s.ready = true → s.partState r.part = psIdle → s.mayLoad r = true → s.unserved r.part = false →
        answers (.dbLoad tn) stDone fun t => t.partState r.part = psLoading ∧ t.cores = s.cores
          ∧ (∃ j, lookup t.jobs r.part = some j ∧ j.started = false ∧ j.model = r.model)
          ∧ ∀ k, k ≠ r.part → lookup t.jobs k = lookup s.jobs k)
      ∧ (s.ready = false ∨ s.mayLoad r = false → noLoad)
      ∧ (mine p = false → refused (.dbPreempt tn) ∧ refused (.dbResume tn))
      ∧ (mine p = true → s.minimal = false → bit (arg 0) 7 = false →
        (s.saves = [] → s.saveSetOk p hs = true → s.partState p = psRunning → answers (.dbPreempt tn) stDone fun t =>
          t.partState p = psSaving ∧ t.saves = [run] ∧ t.jobs = s.jobs ∧ t.cores = s.cores)
        ∧ (∀ j, s.partState p = psIdle → s.flag (HUB_RCV_PART_FENCED p) = false → s.setOf p hs = some j → s.imageThere j.job = true →
            answers (.dbResume tn) stDone fun t => t.partState p = psRestoring ∧ lookup t.jobs p = some j.job
              ∧ t.restores = s.restores ++ [run] ∧ t.cores = s.cores ∧ t.saved = s.saved)
        ∧ (s.setOf p hs = none → refused (.dbResume tn)))
      ∧ (∀ j, (s.saved.find? fun j => j.live && j.handles.contains (some (arg 2))) = some j → s.minimal = false →
          (s.restores.any fun r => j.named r) = false → (∀ x ∈ s.saved, ∀ k, x.owner = some k → k < 4096) →
          (j.owner = some tn.val → answers (.dbDiscard tn) stDone fun t => t.jobs = s.jobs ∧ t.cores = s.cores
            ∧ t.saved = (s.saved.filter fun x => !(decide (x.part = j.part) && decide (x.handles = j.handles))))
          ∧ (j.owner ≠ some tn.val → refused (.dbDiscard tn)))
      ∧ (arg 0 % 8 ≠ 2 ∨ mine q = false → refused (.dbReset tn))
      ∧ (∀ j, arg 0 % 8 = 2 → arg 0 < 2 ^ 10 → mine q = true → s.minimal = false → lookup s.jobs q = some j →
          s.partState q = psRunning → s.saved = [] → s.reqs = [] → answers (.dbReset tn) stDone fun t =>
            lookup t.jobs q = none ∧ t.partState q = psResetting ∧ t.get (TEN_PART_STATUS_JOB_CODE q) = stEjectedReset
            ∧ t.flag (HUB_RCV_PART_FENCED q) = s.flag (HUB_RCV_PART_FENCED q)
            ∧ t.resets.getLast? = some { scope := 2, target := q, byFlr := false, fromPF := false, drained := false }
            ∧ ∀ k, k ≠ q → lookup t.jobs k = lookup s.jobs k))

/-- A tenant's object and stream commands: as the physical function's, on its own objects and streams, one at a time, with the
code of the object operation in DB_ASYNC and OBJ_DONE raised when it ends; host pages wait to be moved. -/
def Sys2Proof.Claims.TenantsCommandTheirObjects : Prop :=
  ∀ (s : State) (tn : Tenant) (pages : List (Option (List Byte × Bool))), s.vfLive tn = true →
    s.flag (TEN_VF_CTRL_EN tn) = true →
    let arg (n : Nat) : Nat := s.get (DB_ARG_ARG tn n)
    let h := arg 3 % 4
    let hp := harborOf (arg 0)
    let x := s.harbor h
    let i := indexOf (arg 0)
    let answers (c : Instr) (code : Nat) (P : State → Prop) : Prop :=
      ∃ t, exec c s = .next t ∧ t.get (DB_CMD_STATUS_CODE tn) = code ∧ t.jobs = s.jobs ∧ t.cores = s.cores ∧ P t
    let refused (c : Instr) : Prop := answers c stRefusedFit fun t => OnlyRegs [DB_CMD_STATUS tn] s t
    let ended (c : Instr) (code : Nat) (P : State → Prop) : Prop := answers c stDone fun t => P t
      ∧ t.get (DB_ASYNC_OBJ_CODE tn) = code ∧ t.flag (DB_ASYNC_OBJ_BUSY tn) = false
      ∧ bit (t.get (TEN_VF_CAUSE_CAUSE tn)) cObjDone = true ∧ ∀ k, k ≠ h → t.harbor k = s.harbor k
    let s0 := (s.setFlag (DB_ASYNC_OBJ_BUSY tn) true).setHarbor h { x with runs := [] }
    let run (op : Nat) (d : List (Option (List Byte × Bool))) : ObjRun :=
      { op := op, a0 := arg 0, a1 := arg 1, a2 := arg 2 % 2 ^ 24, host := arg 3 + arg 4 * 2 ^ 32, data := d, via := some tn.val,
        begun := true }
    let moves (c : Instr) (op : Nat) (d : List (Option (List Byte × Bool))) : Prop := answers c stDone fun t =>
      (t.harbor hp).runs = [run op d] ∧ t.flag (DB_ASYNC_OBJ_BUSY tn) = true
        ∧ HarborFrame hp [DB_CMD_STATUS tn, DB_ASYNC tn] s t
    let st := bitsOf (arg 0) 0 14
    (s.flag (DB_ASYNC_OBJ_BUSY tn) = true ∨ s.harborOn h = false → refused (.dbObjCreate tn) ∧ refused (.dbObjCommit tn)
        ∧ refused (.dbObjDelete tn) ∧ refused (.dbObjStage tn) ∧ refused (.dbObjPin tn) ∧ refused (.dbObjSetmask tn))
    ∧ (s.objFor h (arg 0) (some tn.val) = none → refused (.dbObjCommit tn) ∧ refused (.dbObjDelete tn)
        ∧ refused (.dbObjStage tn) ∧ refused (.dbObjPin tn) ∧ refused (.dbObjSetmask tn))
    ∧ (bit (arg 0) 12 = true ∨ bitsOf (arg 0) 0 12 ≠ tn.val → refused (.dbObjCreate tn))
    ∧ (s.flag (DB_ASYNC_OBJ_BUSY tn) = false → s.harborOn h = true → x.runs = [] →
      (bit (arg 0) 12 = false → bitsOf (arg 0) 0 12 = tn.val →
        (∀ s1 n, s0.objCreate h (arg 0) (arg 1) (arg 2) (some tn.val) = some (s1, n) → (s1.harbor h).runs = [] →
          ended (.dbObjCreate tn) stDone fun t => t.get (DB_OBJ_RET_HANDLE tn) = n % 2 ^ 32 ∧ t.harbors = s1.harbors)
        ∧ (s0.objCreate h (arg 0) (arg 1) (arg 2) (some tn.val) = none →
          ended (.dbObjCreate tn) stRefusedFit fun t => t.harbor h = x))
      ∧ (∀ o, s.objFor h (arg 0) (some tn.val) = some o →
        (arg 1 = 0 → arg 2 = 0 →
          (o.cls = 0 → bit o.mask 2 = false → ended (.dbObjCommit tn) stDone fun t =>
            lookup (t.harbor h).objs i = some { o with committed := true })
          ∧ (ended (.dbObjDelete tn) stDone fun t => lookup (t.harbor h).objs i = none
            ∧ ∀ j, j ≠ i → lookup (t.harbor h).objs j = lookup x.objs j))
        ∧ (arg 2 < 2 ^ 25 → o.holds (arg 1) (bitsOf (arg 2) 0 24) = true →
          (bit o.mask 0 = true → o.missing (arg 1) (bitsOf (arg 2) 0 24) = [] →
            ended (.dbObjStage tn) stDone fun t => t.harbor h = x)
          ∧ (ended (.dbObjPin tn) stDone fun t => ∃ ps, lookup (t.harbor h).objs i = some { o with pins := ps }
            ∧ ∀ p, p ∈ ps ↔ (if arg 1 ≤ p ∧ p < arg 1 + bitsOf (arg 2) 0 24 then bit (arg 2) 24 = true else p ∈ o.pins)))
        ∧ (∀ s1, arg 1 % 65536 = 0 → arg 1 < 2 ^ 19 → arg 2 = 0 → s0.objSetMask h (arg 0) o (bitsOf (arg 1) 16 3) = some s1 →
            (s1.harbor h).runs = [] → ended (.dbObjSetmask tn) stDone fun t => t.harbors = s1.harbors)))
    ∧ (∀ o, s.flag (DB_ASYNC_OBJ_BUSY tn) = false → s.harborOn hp = true → (s.harbor hp).runs = [] →
        s.objFor hp (arg 0) (some tn.val) = some o → o.holds (arg 1) (arg 2 % 2 ^ 24) = true → arg 3 % 4096 = 0 →
        moves (.objRead tn) 9 [] ∧ (o.sealed = false → moves (.objWrite tn pages) 8 pages)
          ∧ (o.sealed = true → refused (.objWrite tn pages)))
    ∧ (let v := streamArgs (arg 1) (arg 2) (arg 3) (arg 4) tn (bit (arg 0) 26)
      (∀ w c, v = some (w, c) → lookup s.streams st = none → answers (.dbStrmOpen tn) stDone fun t =>
          lookup t.streams st = some w ∧ w.tenant = tn ∧ w.head = 0 ∧ w.wpos = 0
          ∧ ∀ k, k ≠ st → lookup t.streams k = lookup s.streams k)
      ∧ (v = none ∨ lookup s.streams st ≠ none → refused (.dbStrmOpen tn)))
    ∧ (∀ w, lookup s.streams st = some w → (w.tenant = tn → answers (.dbStrmClose tn) stDone fun t =>
          lookup t.streams st = none ∧ lookup t.reqs st = none ∧ ∀ k, k ≠ st → lookup t.streams k = lookup s.streams k)
        ∧ (w.tenant ≠ tn → refused (.dbStrmClose tn)))
    ∧ (lookup s.streams st = none → refused (.dbStrmClose tn))

/-- What a tenant commands through its page.
Where it rests on a reading or a choice of the model, not on a rule: logs 131 and 139. -/
def Obligations.TenantsCommandThroughTheirPages : Prop :=
  Sys2Proof.Claims.TenantsCommandTheirPartitions ∧
  Sys2Proof.Claims.TenantsCommandTheirObjects

/-- The host link and the apertures.
Where it rests on a reading or a choice of the model, not on a rule: logs 14, 136, 137 and 138. -/
def Obligations.TheHostReachesThePackage : Prop :=
  Sys2Proof.Claims.HostLinkActs ∧
  Sys2Proof.Claims.AperturesReachTheirTargets

/-! ### Register writes -/

/-- The tables of the registers whose write does more than change its own fields or looks at other registers, and of the
clamp registers. -/
def Sys2Proof.Machine.actingRegs : List Nat :=
  [HUB_EXR_CMD, HUB_LDR_CMD, HUB_IMG_CMD, HUB_FSEQ_GO 0, HUB_RCV_FENCE, MGT_MBX_CMD, MGT_BOOT_CMD, MGT_PWR_CTRL, ISL_ARR_INJ 0,
    ISL_CORE_DBG 0 0 0, ISL_CORE_FIFO_TW 0 0 0 0, HBR_OBJ_CMD 0, OPT_REFL_CMD 0, RVR_EP_ALIAS, RVR_PORT_CTRL 0, RVR_EPOCH_CMD,
    RVR_TOPO_CMD, TEN_CMD, TEN_KEY_CMD, SRV_STRM_CMD, MGT_BOOT_CFG, SRV_BUD_LEVEL_LO 0, SRV_BUD_LEVEL_HI 0, SRV_PFX_CTRL,
    ISL_CORE_WCRED 0 0 0 0, TEN_KEY_DATA 0, RVR_EP_ID, TEN_VF_MASK 0, TEN_PF_MASK, TEN_VF_CAUSE 0, TEN_PART_CTRL 0, HBR_ARB_CTRL 0, HUB_CLAMP, HUB_CLAMP_LAST,
    MGT_CLAMP, MGT_CLAMP_LAST, ISL_CLAMP 0, ISL_CLAMP_LAST 0, HBR_CLAMP 0, HBR_CLAMP_LAST 0, OPT_CLAMP 0, OPT_CLAMP_LAST 0,
    RVR_CLAMP, RVR_CLAMP_LAST, TEN_CLAMP, TEN_CLAMP_LAST].map Reg.addr

/-- What a field holds after a legal or clamped write, by its access code and its lock. -/
def Sys2Proof.Machine.State.fieldTakes (s : State) (is : List Nat) (d : FieldD) (old n new : Nat) : Prop :=
  (d.acc = .ro ∨ d.acc = .w1s ∨ d.acc = .wo → new = old)
  ∧ (d.acc = .w1c → ∀ b, bit new b = (bit old b && !bit n b))
  ∧ (d.acc = .rwl → s.locked d.lock is = true → new = old)
  ∧ (d.acc = .rw ∨ d.acc = .rws ∨ d.acc = .rwo ∨ (d.acc = .rwl ∧ s.locked d.lock is = false) →
      (d.clamp = .none → new = n)
      ∧ (∀ lo hi, d.clamp = .range lo hi → lo ≤ hi → lo ≤ new ∧ new ≤ hi ∧ (lo ≤ n → n ≤ hi → new = n))
      ∧ (∀ bound v, d.clamp = .ge bound v → new = if bound ≤ n then v else n))

/-- A whole write of a plain register of BAR0 changes each of its fields by its access code, reserved bits reading 0, and where
nothing of it is clamped nothing else; a clamped one is counted in its block. Partial writes and writes where no register is
change nothing but the clamp counter; two registers written at once are written in turn. -/
def Sys2Proof.Claims.RegisterWritesFollowTheirFields : Prop :=
  ∀ (s : State) (dw : BitVec 26) (v w : Word) (be be2 : BitVec 4) (hi : Option (Word × BitVec 4)) (bar2 : Bool),
    let key := 4 * dw.toNat
    let r : Reg := ⟨key, resetAt key⟩
    let whole := Instr.registerWrite false dw v 15 none
    let runs (i : Instr) (P : State → Prop) : Prop := ∃ t, exec i s = .next t ∧ P t
    let hubClamp (t : State) : Prop := t.get HUB_CLAMP_COUNT = satAdd 32 (s.get HUB_CLAMP_COUNT) 1
      ∧ t.get HUB_CLAMP_LAST_ADDR = key ∧ t.flag HUB_CLAMP_LAST_BAR2 = false ∧ OnlyRegs [HUB_CLAMP, HUB_CLAMP_LAST] s t
    (s.linkUp = false → exec (.registerWrite bar2 dw v be hi) s = .next s)
    ∧ (s.host.d3hot = true → exec (.registerWrite false dw v be hi) s = .next s)
    ∧ (s.linkUp = true → s.host.d3hot = false → (key < 0x7000 ∨ 0x7200 ≤ key) →
      exec (.registerWrite false dw v 0 none) s = .next s
      ∧ (be ≠ 0 → be ≠ 15 → key < 0x100000 → runs (.registerWrite false dw v be none) hubClamp)
      ∧ (regAt key = none → key < 0x100000 → runs whole hubClamp)
      ∧ (∀ f is, regAt key = some (f, is) → s.blockLive key = true → f.addr ∉ actingRegs → runs whole fun t =>
          (∀ d ∈ f.fields, s.fieldTakes is d (fieldGet (s.reg r) d.lo d.width) (fieldGet v d.lo d.width)
            (fieldGet (t.reg r) d.lo d.width))
          ∧ (∀ b, b < 32 → (∀ d ∈ f.fields, b < d.lo ∨ d.lo + d.width ≤ b) →
            bit (s.reg r).toNat b = false → bit (t.reg r).toNat b = false)
          ∧ ((s.takeWord f is (s.reg r) v).2 = false → OnlyRegs [r] s t)
          ∧ ((s.takeWord f is (s.reg r) v).2 = true → key < 0x100000 →
              t.get HUB_CLAMP_COUNT = satAdd 32 (s.get HUB_CLAMP_COUNT) 1 ∧ OnlyRegs [r, HUB_CLAMP, HUB_CLAMP_LAST] s t))
      ∧ (∀ u, key + 4 < 2 ^ 28 → (key + 4 < 0x7000 ∨ 0x7200 ≤ key) → exec (.registerWrite false dw v be none) s = .next u →
          u.linkUp = true → u.host.d3hot = false →
          exec (.registerWrite false dw v be (some (w, be2))) s = exec (.registerWrite false (dw + 1) w be2 none) u))

/-- Doorbell pages: a whole write of a page that exists takes arguments, clears causes, sets the mask, the moderation and the partition
it shows; a page without a tenant, and an offset without a register, clamp. -/
def Sys2Proof.Claims.DoorbellPagesTakeWrites : Prop :=
  ∀ (s : State) (tn : Tenant) (v : Word) (off : Nat), off < 65536 → off % 4 = 0 → s.linkUp = true →
    let wr (o : Nat) : Instr := .registerWrite true (BitVec.ofNat 26 ((65536 * tn.val + o) / 4)) v 15 none
    let runs (o : Nat) (P : State → Prop) : Prop := ∃ t, exec (wr o) s = .next t ∧ P t
    let clamped (t : State) : Prop := t.get (DB_CLAMP_COUNT tn) = satAdd 32 (s.get (DB_CLAMP_COUNT tn)) 1
      ∧ t.get TEN_CLAMP_COUNT = satAdd 32 (s.get TEN_CLAMP_COUNT) 1 ∧ OnlyRegs [DB_CLAMP tn, TEN_CLAMP, TEN_CLAMP_LAST] s t
    (s.vfLive tn = false → runs off clamped)
    ∧ (s.vfLive tn = true →
      (∀ m : Fin 6, runs (0x104 + 4 * m) fun t => t.reg (DB_ARG tn m) = v ∧ OnlyRegs [DB_ARG tn m] s t)
      ∧ (v.toNat < 512 → runs 0x10 fun t => (∀ b, b < 9 → bit (t.get (TEN_VF_CAUSE_CAUSE tn)) b
            = (bit (s.get (TEN_VF_CAUSE_CAUSE tn)) b && !bit v.toNat b))
          ∧ OnlyRegs [TEN_VF_CAUSE tn] { s with tokens := t.tokens } t
          ∧ (bit v.toNat cToken = true → bit (s.get (TEN_VF_CAUSE_CAUSE tn)) cToken = true → ∃ h, lookup t.tokens tn = some h
              ∧ h.waiting = false ∧ h.until_ = s.tide.now + BitVec.ofNat 64 (s.get (TEN_VF_TOKMOD_TOK_MOD_US tn) * 1200)))
      ∧ (v.toNat < 512 → runs 0x14 fun t => t.get (TEN_VF_MASK_MASK tn) = v.toNat ∧ RegsBut [TEN_VF_MASK tn] s t)
      ∧ (v.toNat < 65536 → runs 0x1C fun t => t.get (TEN_VF_TOKMOD_TOK_MOD_US tn) = v.toNat ∧ OnlyRegs [TEN_VF_TOKMOD tn] s t)
      ∧ (v.toNat < 128 → runs 0x40 fun t => t.get (DB_PSEL_PART tn) = v.toNat ∧ OnlyRegs [DB_PSEL tn] s t)
      ∧ (0x400 ≤ off → off < 0x2000 → regAt (0x10000000 + 0x10000 * tn + off) = none → runs off clamped))

/-- POUR_WDOG_LIMIT takes a value within its range, and its nearer end outside it, and nothing else changes. -/
def Sys2Proof.Claims.WatchdogLimitIsHeld : Prop :=
  ∀ (s : State) (i : Island) (v : Word), s.fabricUp i = true →
    (100 ≤ v.toNat → v.toNat ≤ 1000000 → ∃ t, exec (.pourWdogLimitWrite i v) s = .next t
      ∧ t.get (ISL_POUR_WDOG_LIMIT_US i) = v.toNat ∧ OnlyRegs [ISL_POUR_WDOG i] s t)
    ∧ (v.toNat < 2 ^ 20 → v.toNat < 100 ∨ 1000000 < v.toNat → ∃ t, exec (.pourWdogLimitWrite i v) s = .next t
      ∧ t.get (ISL_POUR_WDOG_LIMIT_US i) = (if v.toNat < 100 then 100 else 1000000)
      ∧ t.get (ISL_CLAMP_COUNT i) = satAdd 32 (s.get (ISL_CLAMP_COUNT i)) 1
      ∧ OnlyRegs [ISL_POUR_WDOG i, ISL_CLAMP i, ISL_CLAMP_LAST i] s t)

/-- Register writes, the limit of the pour watchdog among them, and doorbell pages.
Where it rests on a reading or a choice of the model, not on a rule: log 140. -/
def Obligations.RegistersAndPagesTakeWrites : Prop :=
  Sys2Proof.Claims.WatchdogLimitIsHeld ∧
  Sys2Proof.Claims.RegisterWritesFollowTheirFields ∧
  Sys2Proof.Claims.DoorbellPagesTakeWrites

/-! ### The whole block -/

/-- A step runs the command that has waited longest on the state with the rest of the queue; on an empty queue one tick passes, in
which the tide counts where it runs and nothing else happens (the model's choice).
Where it rests on a reading or a choice of the model, not on a rule: logs 1 and 2. -/
def Obligations.StepsRunTheFrontCommand : Prop :=
  ∀ (s : State) (c : Instr) (rest : List Instr),
    (s.pending = c :: rest → step s = exec c { s with pending := rest })
    ∧ (s.pending = [] → s.tide.running = true →
        step s = .next { s with tide := { s.tide with now := s.tide.now + 1 } })
    ∧ (s.pending = [] → s.tide.running = false → step s = .next s)

/-- The state after reset: no command waits, the package is off with nothing enabled, no core, job, stream, object or message
holds anything, and its register file and memories are in their canonical form.
Where it rests on a reading or a choice of the model, not on a rule: logs 10, 11, 12 and 15. -/
def Obligations.ResetStateIsSound : Prop :=
  State.reset.Inv ∧ Memory.wf State.reset = true ∧ State.reset.pending = [] ∧ State.reset.phase = phOff
    ∧ State.reset.tide.now = 0 ∧ State.reset.tide.running = false ∧ State.reset.jobs = [] ∧ State.reset.streams = []
    ∧ State.reset.out = [] ∧ (∀ c, State.reset.core c = coreReset) ∧ (∀ h, State.reset.harbor h = harborReset)
    ∧ State.reset.get MGT_BOOT_STATUS_MIN_HARBOR = 7 ∧ State.reset.get (ISL_GOV_STATUS_STEP 0) = 2
    ∧ State.reset.flag HUB_TIDE_STATUS_JOB_LOCK = false ∧ (∀ p, p < 128 → State.reset.partState p = psFree)

/-- Every step keeps the invariant of the block: the register file in its order and every addressed memory (harbor tiers, tile stores,
those of saved jobs) in its canonical form, so that equal contents are equal data, and the map of the islands sound.
Where it rests on a reading or a choice of the model, not on a rule: logs 2, 12, 15 and 16. -/
def Obligations.StepsKeepTheInvariant : Prop :=
  ∀ s t : State, s.Inv → step s = .next t → t.Inv

/-- No command touches the queue of the commands that wait, and none changes a fuse but the rollback counter, which never falls.
Where it rests on a reading or a choice of the model, not on a rule: log 1. -/
def Obligations.CommandsLeaveQueueAndFuses : Prop :=
  ∀ (i : Instr) (s t : State), exec i s = .next t →
    t.pending = s.pending ∧ t.fuses = { s.fuses with rollback := t.fuses.rollback } ∧ s.fuses.rollback ≤ t.fuses.rollback

/-- Every well-formed command completes in every state. -/
def Sys2Proof.Claims.WellFormedCommandsComplete : Prop :=
  ∀ (i : Instr) (s : State), i.wf = true → ∃ t, exec i s = .next t

/-- Core instructions with a reserved code have no effect: each is refused by name, in every state. -/
def Sys2Proof.Claims.ReservedEncodingsAreRefused : Prop :=
  ∀ (c : LCore) (m : MatF) (v : VecF) (st : StatF) (a : MoveF) (s : State),
    let refused (i : Instr) : Prop := exec i s = .refused .reservedEncoding
    (Machine.matLegal m = false → refused (.mm c m) ∧ refused (.mmac c m))
    ∧ (9 < v.fn.toNat → refused (.vsfu c v))
    ∧ (2 < v.fn.toNat → refused (.vred c v))
    ∧ (10 < v.fn.toNat → refused (.vld c v))
    ∧ (10 < (cvtDfmt v.cvt).toNat → refused (.vst c v))
    ∧ (10 < st.fmt.toNat → refused (.rmax c st) ∧ refused (.rsum c st) ∧ refused (.rmean c st) ∧ refused (.rvar c st)
        ∧ refused (.rminmax c st))
    ∧ (12 < a.fn.toNat → refused (.alu c a) ∧ refused (.alui c a))
    ∧ (2 < a.fn.toNat → refused (.amov c a))
    ∧ (9 < a.imm.toNat % 256 → refused (.get c a))
    ∧ (a.imm.toNat % 256 ≠ 6 → refused (.put c a))

/-- Whatever a tenant commands through its page, no core and no cluster changes at once, and no partition that is not its own
changes: its job, its state, its owner and its floor stay. -/
def Obligations.TenantsReachOnlyTheirPartitions : Prop :=
  ∀ (s t : State) (tn : Tenant) (pages : List (Option (List Byte × Bool))), s.Inv →
    (∀ e ∈ s.streams, e.2.tenant < 4096) → (∀ j ∈ s.saved, ∀ n, j.owner = some n → n < 4096) →
    (∀ h, ∀ r ∈ (s.harbor h).runs, ∀ n, r.via = some n → n < 4096) →
    ∀ i ∈ [Instr.dbLoad tn, .dbPreempt tn, .dbResume tn, .dbDiscard tn, .dbReset tn, .dbObjCreate tn, .dbObjCommit tn,
      .dbObjDelete tn, .dbObjStage tn, .dbObjPin tn, .dbObjSetmask tn, .objWrite tn pages, .objRead tn, .dbStrmOpen tn,
      .dbStrmClose tn], exec i s = .next t →
    t.cores = s.cores ∧ t.clusters = s.clusters ∧ ∀ p, p < 128 → s.ownerOf p ≠ some tn.val →
      lookup t.jobs p = lookup s.jobs p ∧ t.reg (TEN_PART_CTRL p) = s.reg (TEN_PART_CTRL p)

/-- While the package holds a job nothing a command does moves the tide backward: it stands no earlier after the command, or it has
been stopped. The one exception is the end of deskew, which starts it at 0; and at its very end the 64-bit count wraps.
Where it rests on a reading or a choice of the model, not on a rule: logs 3 and 55. -/
def Obligations.TideNeverRunsBackward : Prop :=
  ∀ (i : Instr) (s t : State), exec i s = .next t → s.anyJob = true → i ≠ .deskewDone → s.tide.now.toNat + 2 < 2 ^ 64 →
    t.tide.running = false ∨ s.tide.now.toNat ≤ t.tide.now.toNat

/-- Every well-formed command completes in every state; core instructions with a reserved code are refused by name. -/
def Obligations.WellFormedCommandsCompleteOthersAreRefused : Prop :=
  Sys2Proof.Claims.WellFormedCommandsComplete ∧
  Sys2Proof.Claims.ReservedEncodingsAreRefused
end

