-- ==== Sys2Proof/Laws/Maps.lean ====
section
/-! SUPPORT. Laws of the sparse maps: what is read after an insertion, an erasure or a store, and that every map operation
keeps the canonical form. -/

namespace Sys2Proof.Machine

variable {α β : Type}

/-! ### Reading -/

@[simp] theorem lookup_nil (k : Nat) : lookup ([] : SMap α) k = none := rfl
@[simp] theorem lookupD_nil (k : Nat) (d : α) : lookupD ([] : SMap α) k d = d := rfl

theorem lookup_insert (m : SMap α) (k j : Nat) (v : α) :
    lookup (insert m k v) j = if j = k then some v else lookup m j := by
  induction m with
  | nil => simp [insert, lookup, eq_comm]
  | cons e rest ih =>
    obtain ⟨i, u⟩ := e
    simp only [insert]
    split
    · simp [lookup, eq_comm]
    · split
      · rename_i h; subst h; simp only [lookup]; by_cases hj : j = i <;> simp [hj, eq_comm]
      · rename_i h; simp only [lookup, ih]
        by_cases hj : i = j
        · subst hj; simp [h]
        · simp [hj]

@[simp] theorem lookup_insert_self (m : SMap α) (k : Nat) (v : α) : lookup (insert m k v) k = some v := by
  simp [lookup_insert]
theorem lookup_insert_ne (m : SMap α) {k j : Nat} (v : α) (h : j ≠ k) : lookup (insert m k v) j = lookup m j := by
  simp [lookup_insert, h]

theorem lookup_erase (m : SMap α) (k j : Nat) : lookup (erase m k) j = if j = k then none else lookup m j := by
  induction m with
  | nil => simp [erase]
  | cons e rest ih =>
    obtain ⟨i, u⟩ := e
    simp only [erase]
    split
    · rename_i h; subst h; simp only [ih, lookup]; by_cases hj : j = i
      · simp [hj]
      · simp [hj, Ne.symm hj]
    · rename_i h; simp only [lookup, ih]; by_cases hj : i = j
      · subst hj; simp [h]
      · simp [hj]

theorem lookup_eraseRange (m : SMap α) (lo hi j : Nat) :
    lookup (eraseRange m lo hi) j = if lo ≤ j ∧ j < hi then none else lookup m j := by
  induction m with
  | nil => simp [eraseRange]
  | cons e rest ih =>
    obtain ⟨i, u⟩ := e
    simp only [eraseRange, List.filter] at ih ⊢
    by_cases h : lo ≤ i ∧ i < hi
    · simp only [h.1, h.2, decide_true, Bool.and_self, Bool.not_true, lookup]
      rw [ih]; by_cases hj : i = j
      · subst hj; simp [h]
      · simp [hj]
    · have hb : (!(decide (lo ≤ i) && decide (i < hi))) = true := by
        simp only [Bool.not_eq_true', Bool.and_eq_false_iff, decide_eq_false_iff_not]
        by_cases h1 : lo ≤ i
        · exact Or.inr fun h2 => h ⟨h1, h2⟩
        · exact Or.inl h1
      simp only [hb, lookup]
      rw [ih]; by_cases hj : i = j
      · subst hj; simp [h]
      · simp [hj]

@[simp] theorem lookupD_insert_self (m : SMap α) (k : Nat) (v d : α) : lookupD (insert m k v) k d = v := by
  simp [lookupD]
theorem lookupD_insert_ne (m : SMap α) {k j : Nat} (v d : α) (h : j ≠ k) :
    lookupD (insert m k v) j d = lookupD m j d := by
  simp [lookupD, lookup_insert_ne m v h]

theorem lookupD_store [DecidableEq α] (d : α) (m : SMap α) (k j : Nat) (v : α) :
    lookupD (store d m k v) j d = if j = k then v else lookupD m j d := by
  unfold store lookupD
  split
  · rename_i h; rw [lookup_erase]; split <;> simp [h]
  · rw [lookup_insert]; split <;> simp
@[simp] theorem lookupD_store_self [DecidableEq α] (d : α) (m : SMap α) (k : Nat) (v : α) :
    lookupD (store d m k v) k d = v := by simp [lookupD_store]
theorem lookupD_store_ne [DecidableEq α] (d e : α) (m : SMap α) {k j : Nat} (v : α) (h : j ≠ k) :
    lookupD (store d m k v) j e = lookupD m j e := by
  unfold store lookupD
  split
  · rw [lookup_erase]; simp [h]
  · rw [lookup_insert]; simp [h]

/-- A run of values read back: inside the run its values, outside what was there. -/
theorem lookupD_storeMany [DecidableEq α] (d : α) (m : SMap α) (k : Nat) (vs : List α) (j : Nat) :
    lookupD (storeMany d m k vs) j d = if k ≤ j ∧ j < k + vs.length then vs.getD (j - k) d else lookupD m j d := by
  induction vs generalizing m k with
  | nil => simp [storeMany]
  | cons v rest ih =>
    simp only [storeMany, ih, List.length_cons, lookupD_store]
    by_cases hj : j = k
    · subst hj; simp
    · by_cases h : k + 1 ≤ j ∧ j < k + 1 + rest.length
      · have h2 : k ≤ j ∧ j < k + (rest.length + 1) := by omega
        rw [if_pos h, if_pos h2]
        obtain ⟨n, rfl⟩ : ∃ n, j = k + 1 + n := ⟨j - (k + 1), by omega⟩
        have e1 : k + 1 + n - (k + 1) = n := by omega
        have e2 : k + 1 + n - k = n + 1 := by omega
        rw [e1, e2]; simp
      · have h2 : ¬(k ≤ j ∧ j < k + (rest.length + 1)) := by omega
        rw [if_neg h, if_neg h2, if_neg hj]

/-! ### The canonical form -/

theorem rising_cons {k : Nat} {v : α} {m : SMap α} :
    rising ((k, v) :: m) = true ↔ (∀ e ∈ m, k < e.1) ∧ rising m = true := by
  induction m generalizing k v with
  | nil => simp [rising]
  | cons e rest ih =>
    obtain ⟨j, u⟩ := e
    simp only [rising, Bool.and_eq_true, decide_eq_true_eq, List.mem_cons]
    constructor
    · rintro ⟨h1, h2⟩
      refine ⟨?_, h2⟩
      rintro e (rfl | he)
      · exact h1
      · exact lt_trans h1 ((ih.mp h2).1 e he)
    · rintro ⟨h1, h2⟩
      exact ⟨h1 (j, u) (Or.inl rfl), h2⟩

theorem rising_filter {m : SMap α} (p : Nat × α → Bool) (h : rising m = true) : rising (m.filter p) = true := by
  induction m with
  | nil => simp [rising]
  | cons e rest ih =>
    obtain ⟨j, u⟩ := e
    rw [rising_cons] at h
    by_cases hp : p (j, u) = true
    · rw [List.filter_cons_of_pos hp, rising_cons]
      exact ⟨fun e he => h.1 e (List.mem_of_mem_filter he), ih h.2⟩
    · rw [List.filter_cons_of_neg hp]; exact ih h.2

theorem mem_insert_key {m : SMap α} {k : Nat} {v : α} {e : Nat × α} (h : e ∈ insert m k v) : e = (k, v) ∨ e ∈ m := by
  induction m with
  | nil => simpa [insert] using h
  | cons f rest ih =>
    obtain ⟨j, u⟩ := f
    simp only [insert] at h
    split at h
    · simpa using h
    · split at h
      · rename_i hk; subst hk
        rcases List.mem_cons.mp h with rfl | h
        · exact Or.inl rfl
        · exact Or.inr (List.mem_cons_of_mem _ h)
      · rcases List.mem_cons.mp h with rfl | h
        · exact Or.inr List.mem_cons_self
        · rcases ih h with h | h
          · exact Or.inl h
          · exact Or.inr (List.mem_cons_of_mem _ h)

theorem rising_insert {m : SMap α} (k : Nat) (v : α) (h : rising m = true) : rising (insert m k v) = true := by
  induction m with
  | nil => simp [insert, rising]
  | cons e rest ih =>
    obtain ⟨j, u⟩ := e
    have hc := rising_cons.mp h
    simp only [insert]
    split
    · rename_i hk
      rw [rising_cons]
      refine ⟨?_, h⟩
      intro e he
      rcases List.mem_cons.mp he with rfl | he
      · exact hk
      · exact lt_trans hk (hc.1 e he)
    · split
      · rename_i hk; subst hk; rw [rising_cons]; exact hc
      · rename_i h1 h2
        rw [rising_cons]
        refine ⟨?_, ih hc.2⟩
        intro e he
        rcases mem_insert_key he with rfl | he
        · show j < k; omega
        · exact hc.1 e he

theorem mem_erase_key {m : SMap α} {k : Nat} {e : Nat × α} (h : e ∈ erase m k) : e ∈ m := by
  induction m with
  | nil => simp [erase] at h
  | cons f rest ih =>
    obtain ⟨j, u⟩ := f
    simp only [erase] at h
    split at h
    · exact List.mem_cons_of_mem _ (ih h)
    · rcases List.mem_cons.mp h with rfl | h
      · exact List.mem_cons_self
      · exact List.mem_cons_of_mem _ (ih h)

theorem rising_erase {m : SMap α} (k : Nat) (h : rising m = true) : rising (erase m k) = true := by
  induction m with
  | nil => simp [erase, rising]
  | cons e rest ih =>
    obtain ⟨j, u⟩ := e
    have hc := rising_cons.mp h
    simp only [erase]
    split
    · exact ih hc.2
    · rw [rising_cons]; exact ⟨fun e he => hc.1 e (mem_erase_key he), ih hc.2⟩

theorem rising_store [DecidableEq α] (d : α) {m : SMap α} (k : Nat) (v : α) (h : rising m = true) :
    rising (store d m k v) = true := by
  unfold store; split
  · exact rising_erase k h
  · exact rising_insert k v h

theorem rising_eraseRange {m : SMap α} (lo hi : Nat) (h : rising m = true) : rising (eraseRange m lo hi) = true :=
  rising_filter _ h

theorem canonical_iff [DecidableEq α] (d : α) (m : SMap α) :
    canonical d m = true ↔ rising m = true ∧ ∀ e ∈ m, e.2 ≠ d := by
  simp [canonical, List.all_eq_true]

theorem canonical_store [DecidableEq α] (d : α) {m : SMap α} (k : Nat) (v : α) (h : canonical d m = true) :
    canonical d (store d m k v) = true := by
  rw [canonical_iff] at h ⊢
  refine ⟨rising_store d k v h.1, ?_⟩
  intro e he
  unfold store at he
  split at he
  · exact h.2 e (mem_erase_key he)
  · rename_i hv
    rcases mem_insert_key he with rfl | he
    · exact hv
    · exact h.2 e he

theorem canonical_storeMany [DecidableEq α] (d : α) {m : SMap α} (k : Nat) (vs : List α) (h : canonical d m = true) :
    canonical d (storeMany d m k vs) = true := by
  induction vs generalizing m k with
  | nil => simpa [storeMany] using h
  | cons v rest ih => exact ih (k + 1) (canonical_store d k v h)

theorem canonical_eraseRange [DecidableEq α] (d : α) {m : SMap α} (lo hi : Nat) (h : canonical d m = true) :
    canonical d (eraseRange m lo hi) = true := by
  rw [canonical_iff] at h ⊢
  exact ⟨rising_eraseRange lo hi h.1, fun e he => h.2 e (List.mem_of_mem_filter he)⟩

theorem canonical_filter [DecidableEq α] (d : α) {m : SMap α} (p : Nat × α → Bool) (h : canonical d m = true) :
    canonical d (m.filter p) = true := by
  rw [canonical_iff] at h ⊢
  exact ⟨rising_filter p h.1, fun e he => h.2 e (List.mem_of_mem_filter he)⟩

end Sys2Proof.Machine
end

