-- ==== Sys2Proof/Laws/Registers.lean ====
section
/-! SUPPORT. Laws of registers and fields: what a field reads after a field or a register is written, and that writes keep
the register file in order. -/

namespace Sys2Proof.Machine

/-! ### Words -/

theorem bitsOf_testBit (v lo w i : Nat) : (bitsOf v lo w).testBit i = (decide (i < w) && v.testBit (lo + i)) := by
  simp [bitsOf, Nat.testBit_mod_two_pow, Nat.testBit_shiftRight]

theorem fieldPut_getLsbD (v : Word) (lo w n i : Nat) (hi : i < 32) :
    (fieldPut v lo w n).getLsbD i = if lo ≤ i ∧ i < lo + w then n.testBit (i - lo) else v.getLsbD i := by
  simp only [fieldPut, BitVec.getLsbD_or, BitVec.getLsbD_and, BitVec.getLsbD_not, BitVec.getLsbD_ofNat, hi, decide_true,
    Bool.true_and, Nat.testBit_shiftLeft, Nat.testBit_two_pow_sub_one]
  by_cases h1 : lo ≤ i <;> by_cases h2 : i < lo + w
  · have : i - lo < w := by omega
    simp [h1, h2, this]
  · have : ¬ i - lo < w := by omega
    simp [h1, h2, this]
  · simp [h1]
  · simp [h1]

theorem fieldGet_testBit (v : Word) (lo w i : Nat) :
    (fieldGet v lo w).testBit i = (decide (i < w) && v.getLsbD (lo + i)) := by
  simp [fieldGet, bitsOf_testBit, BitVec.getLsbD]

/-- A field reads the low bits of what was put into it. -/
theorem fieldGet_fieldPut_self (v : Word) (lo w n : Nat) (h : lo + w ≤ 32) :
    fieldGet (fieldPut v lo w n) lo w = n % 2 ^ w := by
  apply Nat.eq_of_testBit_eq
  intro i
  rw [fieldGet_testBit, Nat.testBit_mod_two_pow]
  by_cases hi : i < w
  · rw [fieldPut_getLsbD v lo w n (lo + i) (by omega)]
    have : lo + i < lo + w := by omega
    simp [hi]
  · simp [hi]

/-- A field does not see what was put into a field apart from it. -/
theorem fieldGet_fieldPut_apart (v : Word) (lo w n lo' w' : Nat) (h : lo' + w' ≤ lo ∨ lo + w ≤ lo') :
    fieldGet (fieldPut v lo w n) lo' w' = fieldGet v lo' w' := by
  apply Nat.eq_of_testBit_eq
  intro i
  rw [fieldGet_testBit, fieldGet_testBit]
  by_cases hi : i < w'
  · by_cases h32 : lo' + i < 32
    · rw [fieldPut_getLsbD v lo w n (lo' + i) h32, if_neg (by omega)]
    · rw [BitVec.getLsbD_of_ge _ _ (by omega), BitVec.getLsbD_of_ge _ _ (by omega)]
  · simp [hi]

theorem fieldGet_lt (v : Word) (lo w : Nat) : fieldGet v lo w < 2 ^ w := Nat.mod_lt _ (Nat.two_pow_pos w)

/-! ### Registers -/

@[simp] theorem reg_setReg_self (s : State) (r : Reg) (v : Word) : (s.setReg r v).reg r = v := by
  simp [State.reg, State.setReg]

theorem reg_setReg_ne (s : State) (r q : Reg) (v : Word) (h : q.addr ≠ r.addr) : (s.setReg r v).reg q = s.reg q := by
  simp [State.reg, State.setReg, lookupD_store_ne r.rst q.rst s.regs v h]

theorem get_setReg_self (s : State) (f : RF) (v : Word) : (s.setReg f.reg v).get f = fieldGet v f.lo f.width := by
  simp [State.get]

theorem get_setReg_ne (s : State) (r : Reg) (f : RF) (v : Word) (h : f.reg.addr ≠ r.addr) :
    (s.setReg r v).get f = s.get f := by
  simp [State.get, reg_setReg_ne s r f.reg v h]

/-- A field reads what was put into it, cut to its width. -/
theorem get_put_self (s : State) (f : RF) (n : Nat) (h : f.lo + f.width ≤ 32) : (s.put f n).get f = n % 2 ^ f.width := by
  simp [State.get, State.put, fieldGet_fieldPut_self _ _ _ _ h]

/-- A field of another register does not see it. -/
theorem get_put_ne (s : State) (f g : RF) (n : Nat) (h : g.reg.addr ≠ f.reg.addr) : (s.put f n).get g = s.get g := by
  simp [State.put, get_setReg_ne s f.reg g _ h]

/-- Nor does a field of the same register apart from it. -/
theorem get_put_apart (s : State) (f g : RF) (n : Nat) (hr : g.reg = f.reg)
    (h : g.lo + g.width ≤ f.lo ∨ f.lo + f.width ≤ g.lo) : (s.put f n).get g = s.get g := by
  simp [State.get, State.put, hr, fieldGet_fieldPut_apart _ _ _ _ _ _ h]

theorem flag_setFlag_self (s : State) (f : RF) (b : Bool) (h : f.lo + f.width ≤ 32) (hw : 0 < f.width) :
    (s.setFlag f b).flag f = b := by
  have h2 : 2 ≤ 2 ^ f.width := by
    calc 2 = 2 ^ 1 := rfl
      _ ≤ 2 ^ f.width := Nat.pow_le_pow_right (by omega) hw
  cases b
  · simp [State.flag, State.setFlag, get_put_self _ _ _ h, b2n]
  · have : (1 : Nat) % 2 ^ f.width = 1 := Nat.mod_eq_of_lt (by omega)
    simp [State.flag, State.setFlag, get_put_self _ _ _ h, b2n, this]

theorem flag_setFlag_ne (s : State) (f g : RF) (b : Bool) (h : g.reg.addr ≠ f.reg.addr) :
    (s.setFlag f b).flag g = s.flag g := by
  simp [State.flag, State.setFlag, get_put_ne s f g _ h]

theorem get_lt (s : State) (f : RF) : s.get f < 2 ^ f.width := fieldGet_lt _ _ _

/-- A counter rises by one unless it stands at its largest value (R12). -/
theorem get_inc_self (s : State) (f : RF) (h : f.lo + f.width ≤ 32) : (s.inc f).get f = satAdd f.width (s.get f) 1 := by
  have h1 : satAdd f.width (s.get f) 1 < 2 ^ f.width := by
    unfold satAdd
    have := Nat.two_pow_pos f.width
    split <;> omega
  simp [State.inc, State.bump, get_put_self _ _ _ h, Nat.mod_eq_of_lt h1]

theorem get_inc_ne (s : State) (f g : RF) (h : g.reg.addr ≠ f.reg.addr) : (s.inc f).get g = s.get g :=
  get_put_ne s f g _ h

/-! ### The register file keeps its order -/

theorem rising_setReg (s : State) (r : Reg) (v : Word) (h : rising s.regs = true) : rising (s.setReg r v).regs = true :=
  rising_store _ _ _ h
theorem rising_put (s : State) (f : RF) (n : Nat) (h : rising s.regs = true) : rising (s.put f n).regs = true :=
  rising_setReg _ _ _ h
theorem rising_resetRegs (s : State) (lo hi : Nat) (h : rising s.regs = true) : rising (s.resetRegs lo hi).regs = true :=
  rising_eraseRange _ _ h

end Sys2Proof.Machine
end

