-- ==== Sys2Proof/Laws/State.lean ====
section
/-! SUPPORT. What each named update of the state leaves as it was, field by field. -/

namespace Sys2Proof.Machine

/-! ### setReg -/

@[simp] theorem setReg_pending (s : State) (r : Reg) (v : Word) : (s.setReg r v).pending = s.pending := rfl
@[simp] theorem setReg_free (s : State) (r : Reg) (v : Word) : (s.setReg r v).free = s.free := rfl
@[simp] theorem setReg_nextId (s : State) (r : Reg) (v : Word) : (s.setReg r v).nextId = s.nextId := rfl
@[simp] theorem setReg_out (s : State) (r : Reg) (v : Word) : (s.setReg r v).out = s.out := rfl
@[simp] theorem setReg_fuses (s : State) (r : Reg) (v : Word) : (s.setReg r v).fuses = s.fuses := rfl
@[simp] theorem setReg_pads (s : State) (r : Reg) (v : Word) : (s.setReg r v).pads = s.pads := rfl
@[simp] theorem setReg_tide (s : State) (r : Reg) (v : Word) : (s.setReg r v).tide = s.tide := rfl
@[simp] theorem setReg_boot (s : State) (r : Reg) (v : Word) : (s.setReg r v).boot = s.boot := rfl
@[simp] theorem setReg_exk (s : State) (r : Reg) (v : Word) : (s.setReg r v).exk = s.exk := rfl
@[simp] theorem setReg_islands (s : State) (r : Reg) (v : Word) : (s.setReg r v).islands = s.islands := rfl
@[simp] theorem setReg_cores (s : State) (r : Reg) (v : Word) : (s.setReg r v).cores = s.cores := rfl
@[simp] theorem setReg_clusters (s : State) (r : Reg) (v : Word) : (s.setReg r v).clusters = s.clusters := rfl
@[simp] theorem setReg_jobs (s : State) (r : Reg) (v : Word) : (s.setReg r v).jobs = s.jobs := rfl
@[simp] theorem setReg_recov (s : State) (r : Reg) (v : Word) : (s.setReg r v).recov = s.recov := rfl
@[simp] theorem setReg_spools (s : State) (r : Reg) (v : Word) : (s.setReg r v).spools = s.spools := rfl
@[simp] theorem setReg_resets (s : State) (r : Reg) (v : Word) : (s.setReg r v).resets = s.resets := rfl
@[simp] theorem setReg_keys (s : State) (r : Reg) (v : Word) : (s.setReg r v).keys = s.keys := rfl
@[simp] theorem setReg_msix (s : State) (r : Reg) (v : Word) : (s.setReg r v).msix = s.msix := rfl
@[simp] theorem setReg_tokens (s : State) (r : Reg) (v : Word) : (s.setReg r v).tokens = s.tokens := rfl
@[simp] theorem setReg_levelLo (s : State) (r : Reg) (v : Word) : (s.setReg r v).levelLo = s.levelLo := rfl
@[simp] theorem setReg_harbors (s : State) (r : Reg) (v : Word) : (s.setReg r v).harbors = s.harbors := rfl
@[simp] theorem setReg_registry (s : State) (r : Reg) (v : Word) : (s.setReg r v).registry = s.registry := rfl
@[simp] theorem setReg_models (s : State) (r : Reg) (v : Word) : (s.setReg r v).models = s.models := rfl
@[simp] theorem setReg_saved (s : State) (r : Reg) (v : Word) : (s.setReg r v).saved = s.saved := rfl
@[simp] theorem setReg_saves (s : State) (r : Reg) (v : Word) : (s.setReg r v).saves = s.saves := rfl
@[simp] theorem setReg_restores (s : State) (r : Reg) (v : Word) : (s.setReg r v).restores = s.restores := rfl
@[simp] theorem setReg_loadsWaiting (s : State) (r : Reg) (v : Word) : (s.setReg r v).loadsWaiting = s.loadsWaiting := rfl
@[simp] theorem setReg_loads (s : State) (r : Reg) (v : Word) : (s.setReg r v).loads = s.loads := rfl
@[simp] theorem setReg_lastLoad (s : State) (r : Reg) (v : Word) : (s.setReg r v).lastLoad = s.lastLoad := rfl
@[simp] theorem setReg_streams (s : State) (r : Reg) (v : Word) : (s.setReg r v).streams = s.streams := rfl
@[simp] theorem setReg_reqs (s : State) (r : Reg) (v : Word) : (s.setReg r v).reqs = s.reqs := rfl
@[simp] theorem setReg_binds (s : State) (r : Reg) (v : Word) : (s.setReg r v).binds = s.binds := rfl
@[simp] theorem setReg_pfx (s : State) (r : Reg) (v : Word) : (s.setReg r v).pfx = s.pfx := rfl
@[simp] theorem setReg_ravor (s : State) (r : Reg) (v : Word) : (s.setReg r v).ravor = s.ravor := rfl
@[simp] theorem setReg_host (s : State) (r : Reg) (v : Word) : (s.setReg r v).host = s.host := rfl

/-! ### put -/

@[simp] theorem put_pending (s : State) (f : RF) (n : Nat) : (s.put f n).pending = s.pending := rfl
@[simp] theorem put_free (s : State) (f : RF) (n : Nat) : (s.put f n).free = s.free := rfl
@[simp] theorem put_nextId (s : State) (f : RF) (n : Nat) : (s.put f n).nextId = s.nextId := rfl
@[simp] theorem put_out (s : State) (f : RF) (n : Nat) : (s.put f n).out = s.out := rfl
@[simp] theorem put_fuses (s : State) (f : RF) (n : Nat) : (s.put f n).fuses = s.fuses := rfl
@[simp] theorem put_pads (s : State) (f : RF) (n : Nat) : (s.put f n).pads = s.pads := rfl
@[simp] theorem put_tide (s : State) (f : RF) (n : Nat) : (s.put f n).tide = s.tide := rfl
@[simp] theorem put_boot (s : State) (f : RF) (n : Nat) : (s.put f n).boot = s.boot := rfl
@[simp] theorem put_exk (s : State) (f : RF) (n : Nat) : (s.put f n).exk = s.exk := rfl
@[simp] theorem put_islands (s : State) (f : RF) (n : Nat) : (s.put f n).islands = s.islands := rfl
@[simp] theorem put_cores (s : State) (f : RF) (n : Nat) : (s.put f n).cores = s.cores := rfl
@[simp] theorem put_clusters (s : State) (f : RF) (n : Nat) : (s.put f n).clusters = s.clusters := rfl
@[simp] theorem put_jobs (s : State) (f : RF) (n : Nat) : (s.put f n).jobs = s.jobs := rfl
@[simp] theorem put_recov (s : State) (f : RF) (n : Nat) : (s.put f n).recov = s.recov := rfl
@[simp] theorem put_spools (s : State) (f : RF) (n : Nat) : (s.put f n).spools = s.spools := rfl
@[simp] theorem put_resets (s : State) (f : RF) (n : Nat) : (s.put f n).resets = s.resets := rfl
@[simp] theorem put_keys (s : State) (f : RF) (n : Nat) : (s.put f n).keys = s.keys := rfl
@[simp] theorem put_msix (s : State) (f : RF) (n : Nat) : (s.put f n).msix = s.msix := rfl
@[simp] theorem put_tokens (s : State) (f : RF) (n : Nat) : (s.put f n).tokens = s.tokens := rfl
@[simp] theorem put_levelLo (s : State) (f : RF) (n : Nat) : (s.put f n).levelLo = s.levelLo := rfl
@[simp] theorem put_harbors (s : State) (f : RF) (n : Nat) : (s.put f n).harbors = s.harbors := rfl
@[simp] theorem put_registry (s : State) (f : RF) (n : Nat) : (s.put f n).registry = s.registry := rfl
@[simp] theorem put_models (s : State) (f : RF) (n : Nat) : (s.put f n).models = s.models := rfl
@[simp] theorem put_saved (s : State) (f : RF) (n : Nat) : (s.put f n).saved = s.saved := rfl
@[simp] theorem put_saves (s : State) (f : RF) (n : Nat) : (s.put f n).saves = s.saves := rfl
@[simp] theorem put_restores (s : State) (f : RF) (n : Nat) : (s.put f n).restores = s.restores := rfl
@[simp] theorem put_loadsWaiting (s : State) (f : RF) (n : Nat) : (s.put f n).loadsWaiting = s.loadsWaiting := rfl
@[simp] theorem put_loads (s : State) (f : RF) (n : Nat) : (s.put f n).loads = s.loads := rfl
@[simp] theorem put_lastLoad (s : State) (f : RF) (n : Nat) : (s.put f n).lastLoad = s.lastLoad := rfl
@[simp] theorem put_streams (s : State) (f : RF) (n : Nat) : (s.put f n).streams = s.streams := rfl
@[simp] theorem put_reqs (s : State) (f : RF) (n : Nat) : (s.put f n).reqs = s.reqs := rfl
@[simp] theorem put_binds (s : State) (f : RF) (n : Nat) : (s.put f n).binds = s.binds := rfl
@[simp] theorem put_pfx (s : State) (f : RF) (n : Nat) : (s.put f n).pfx = s.pfx := rfl
@[simp] theorem put_ravor (s : State) (f : RF) (n : Nat) : (s.put f n).ravor = s.ravor := rfl
@[simp] theorem put_host (s : State) (f : RF) (n : Nat) : (s.put f n).host = s.host := rfl

/-! ### setFlag -/

@[simp] theorem setFlag_pending (s : State) (f : RF) (b : Bool) : (s.setFlag f b).pending = s.pending := rfl
@[simp] theorem setFlag_free (s : State) (f : RF) (b : Bool) : (s.setFlag f b).free = s.free := rfl
@[simp] theorem setFlag_nextId (s : State) (f : RF) (b : Bool) : (s.setFlag f b).nextId = s.nextId := rfl
@[simp] theorem setFlag_out (s : State) (f : RF) (b : Bool) : (s.setFlag f b).out = s.out := rfl
@[simp] theorem setFlag_fuses (s : State) (f : RF) (b : Bool) : (s.setFlag f b).fuses = s.fuses := rfl
@[simp] theorem setFlag_pads (s : State) (f : RF) (b : Bool) : (s.setFlag f b).pads = s.pads := rfl
@[simp] theorem setFlag_tide (s : State) (f : RF) (b : Bool) : (s.setFlag f b).tide = s.tide := rfl
@[simp] theorem setFlag_boot (s : State) (f : RF) (b : Bool) : (s.setFlag f b).boot = s.boot := rfl
@[simp] theorem setFlag_exk (s : State) (f : RF) (b : Bool) : (s.setFlag f b).exk = s.exk := rfl
@[simp] theorem setFlag_islands (s : State) (f : RF) (b : Bool) : (s.setFlag f b).islands = s.islands := rfl
@[simp] theorem setFlag_cores (s : State) (f : RF) (b : Bool) : (s.setFlag f b).cores = s.cores := rfl
@[simp] theorem setFlag_clusters (s : State) (f : RF) (b : Bool) : (s.setFlag f b).clusters = s.clusters := rfl
@[simp] theorem setFlag_jobs (s : State) (f : RF) (b : Bool) : (s.setFlag f b).jobs = s.jobs := rfl
@[simp] theorem setFlag_recov (s : State) (f : RF) (b : Bool) : (s.setFlag f b).recov = s.recov := rfl
@[simp] theorem setFlag_spools (s : State) (f : RF) (b : Bool) : (s.setFlag f b).spools = s.spools := rfl
@[simp] theorem setFlag_resets (s : State) (f : RF) (b : Bool) : (s.setFlag f b).resets = s.resets := rfl
@[simp] theorem setFlag_keys (s : State) (f : RF) (b : Bool) : (s.setFlag f b).keys = s.keys := rfl
@[simp] theorem setFlag_msix (s : State) (f : RF) (b : Bool) : (s.setFlag f b).msix = s.msix := rfl
@[simp] theorem setFlag_tokens (s : State) (f : RF) (b : Bool) : (s.setFlag f b).tokens = s.tokens := rfl
@[simp] theorem setFlag_levelLo (s : State) (f : RF) (b : Bool) : (s.setFlag f b).levelLo = s.levelLo := rfl
@[simp] theorem setFlag_harbors (s : State) (f : RF) (b : Bool) : (s.setFlag f b).harbors = s.harbors := rfl
@[simp] theorem setFlag_registry (s : State) (f : RF) (b : Bool) : (s.setFlag f b).registry = s.registry := rfl
@[simp] theorem setFlag_models (s : State) (f : RF) (b : Bool) : (s.setFlag f b).models = s.models := rfl
@[simp] theorem setFlag_saved (s : State) (f : RF) (b : Bool) : (s.setFlag f b).saved = s.saved := rfl
@[simp] theorem setFlag_saves (s : State) (f : RF) (b : Bool) : (s.setFlag f b).saves = s.saves := rfl
@[simp] theorem setFlag_restores (s : State) (f : RF) (b : Bool) : (s.setFlag f b).restores = s.restores := rfl
@[simp] theorem setFlag_loadsWaiting (s : State) (f : RF) (b : Bool) : (s.setFlag f b).loadsWaiting = s.loadsWaiting := rfl
@[simp] theorem setFlag_loads (s : State) (f : RF) (b : Bool) : (s.setFlag f b).loads = s.loads := rfl
@[simp] theorem setFlag_lastLoad (s : State) (f : RF) (b : Bool) : (s.setFlag f b).lastLoad = s.lastLoad := rfl
@[simp] theorem setFlag_streams (s : State) (f : RF) (b : Bool) : (s.setFlag f b).streams = s.streams := rfl
@[simp] theorem setFlag_reqs (s : State) (f : RF) (b : Bool) : (s.setFlag f b).reqs = s.reqs := rfl
@[simp] theorem setFlag_binds (s : State) (f : RF) (b : Bool) : (s.setFlag f b).binds = s.binds := rfl
@[simp] theorem setFlag_pfx (s : State) (f : RF) (b : Bool) : (s.setFlag f b).pfx = s.pfx := rfl
@[simp] theorem setFlag_ravor (s : State) (f : RF) (b : Bool) : (s.setFlag f b).ravor = s.ravor := rfl
@[simp] theorem setFlag_host (s : State) (f : RF) (b : Bool) : (s.setFlag f b).host = s.host := rfl

/-! ### inc -/

@[simp] theorem inc_pending (s : State) (f : RF) : (s.inc f).pending = s.pending := rfl
@[simp] theorem inc_free (s : State) (f : RF) : (s.inc f).free = s.free := rfl
@[simp] theorem inc_nextId (s : State) (f : RF) : (s.inc f).nextId = s.nextId := rfl
@[simp] theorem inc_out (s : State) (f : RF) : (s.inc f).out = s.out := rfl
@[simp] theorem inc_fuses (s : State) (f : RF) : (s.inc f).fuses = s.fuses := rfl
@[simp] theorem inc_pads (s : State) (f : RF) : (s.inc f).pads = s.pads := rfl
@[simp] theorem inc_tide (s : State) (f : RF) : (s.inc f).tide = s.tide := rfl
@[simp] theorem inc_boot (s : State) (f : RF) : (s.inc f).boot = s.boot := rfl
@[simp] theorem inc_exk (s : State) (f : RF) : (s.inc f).exk = s.exk := rfl
@[simp] theorem inc_islands (s : State) (f : RF) : (s.inc f).islands = s.islands := rfl
@[simp] theorem inc_cores (s : State) (f : RF) : (s.inc f).cores = s.cores := rfl
@[simp] theorem inc_clusters (s : State) (f : RF) : (s.inc f).clusters = s.clusters := rfl
@[simp] theorem inc_jobs (s : State) (f : RF) : (s.inc f).jobs = s.jobs := rfl
@[simp] theorem inc_recov (s : State) (f : RF) : (s.inc f).recov = s.recov := rfl
@[simp] theorem inc_spools (s : State) (f : RF) : (s.inc f).spools = s.spools := rfl
@[simp] theorem inc_resets (s : State) (f : RF) : (s.inc f).resets = s.resets := rfl
@[simp] theorem inc_keys (s : State) (f : RF) : (s.inc f).keys = s.keys := rfl
@[simp] theorem inc_msix (s : State) (f : RF) : (s.inc f).msix = s.msix := rfl
@[simp] theorem inc_tokens (s : State) (f : RF) : (s.inc f).tokens = s.tokens := rfl
@[simp] theorem inc_levelLo (s : State) (f : RF) : (s.inc f).levelLo = s.levelLo := rfl
@[simp] theorem inc_harbors (s : State) (f : RF) : (s.inc f).harbors = s.harbors := rfl
@[simp] theorem inc_registry (s : State) (f : RF) : (s.inc f).registry = s.registry := rfl
@[simp] theorem inc_models (s : State) (f : RF) : (s.inc f).models = s.models := rfl
@[simp] theorem inc_saved (s : State) (f : RF) : (s.inc f).saved = s.saved := rfl
@[simp] theorem inc_saves (s : State) (f : RF) : (s.inc f).saves = s.saves := rfl
@[simp] theorem inc_restores (s : State) (f : RF) : (s.inc f).restores = s.restores := rfl
@[simp] theorem inc_loadsWaiting (s : State) (f : RF) : (s.inc f).loadsWaiting = s.loadsWaiting := rfl
@[simp] theorem inc_loads (s : State) (f : RF) : (s.inc f).loads = s.loads := rfl
@[simp] theorem inc_lastLoad (s : State) (f : RF) : (s.inc f).lastLoad = s.lastLoad := rfl
@[simp] theorem inc_streams (s : State) (f : RF) : (s.inc f).streams = s.streams := rfl
@[simp] theorem inc_reqs (s : State) (f : RF) : (s.inc f).reqs = s.reqs := rfl
@[simp] theorem inc_binds (s : State) (f : RF) : (s.inc f).binds = s.binds := rfl
@[simp] theorem inc_pfx (s : State) (f : RF) : (s.inc f).pfx = s.pfx := rfl
@[simp] theorem inc_ravor (s : State) (f : RF) : (s.inc f).ravor = s.ravor := rfl
@[simp] theorem inc_host (s : State) (f : RF) : (s.inc f).host = s.host := rfl

/-! ### bump -/

@[simp] theorem bump_pending (s : State) (f : RF) (k : Nat) : (s.bump f k).pending = s.pending := rfl
@[simp] theorem bump_free (s : State) (f : RF) (k : Nat) : (s.bump f k).free = s.free := rfl
@[simp] theorem bump_nextId (s : State) (f : RF) (k : Nat) : (s.bump f k).nextId = s.nextId := rfl
@[simp] theorem bump_out (s : State) (f : RF) (k : Nat) : (s.bump f k).out = s.out := rfl
@[simp] theorem bump_fuses (s : State) (f : RF) (k : Nat) : (s.bump f k).fuses = s.fuses := rfl
@[simp] theorem bump_pads (s : State) (f : RF) (k : Nat) : (s.bump f k).pads = s.pads := rfl
@[simp] theorem bump_tide (s : State) (f : RF) (k : Nat) : (s.bump f k).tide = s.tide := rfl
@[simp] theorem bump_boot (s : State) (f : RF) (k : Nat) : (s.bump f k).boot = s.boot := rfl
@[simp] theorem bump_exk (s : State) (f : RF) (k : Nat) : (s.bump f k).exk = s.exk := rfl
@[simp] theorem bump_islands (s : State) (f : RF) (k : Nat) : (s.bump f k).islands = s.islands := rfl
@[simp] theorem bump_cores (s : State) (f : RF) (k : Nat) : (s.bump f k).cores = s.cores := rfl
@[simp] theorem bump_clusters (s : State) (f : RF) (k : Nat) : (s.bump f k).clusters = s.clusters := rfl
@[simp] theorem bump_jobs (s : State) (f : RF) (k : Nat) : (s.bump f k).jobs = s.jobs := rfl
@[simp] theorem bump_recov (s : State) (f : RF) (k : Nat) : (s.bump f k).recov = s.recov := rfl
@[simp] theorem bump_spools (s : State) (f : RF) (k : Nat) : (s.bump f k).spools = s.spools := rfl
@[simp] theorem bump_resets (s : State) (f : RF) (k : Nat) : (s.bump f k).resets = s.resets := rfl
@[simp] theorem bump_keys (s : State) (f : RF) (k : Nat) : (s.bump f k).keys = s.keys := rfl
@[simp] theorem bump_msix (s : State) (f : RF) (k : Nat) : (s.bump f k).msix = s.msix := rfl
@[simp] theorem bump_tokens (s : State) (f : RF) (k : Nat) : (s.bump f k).tokens = s.tokens := rfl
@[simp] theorem bump_levelLo (s : State) (f : RF) (k : Nat) : (s.bump f k).levelLo = s.levelLo := rfl
@[simp] theorem bump_harbors (s : State) (f : RF) (k : Nat) : (s.bump f k).harbors = s.harbors := rfl
@[simp] theorem bump_registry (s : State) (f : RF) (k : Nat) : (s.bump f k).registry = s.registry := rfl
@[simp] theorem bump_models (s : State) (f : RF) (k : Nat) : (s.bump f k).models = s.models := rfl
@[simp] theorem bump_saved (s : State) (f : RF) (k : Nat) : (s.bump f k).saved = s.saved := rfl
@[simp] theorem bump_saves (s : State) (f : RF) (k : Nat) : (s.bump f k).saves = s.saves := rfl
@[simp] theorem bump_restores (s : State) (f : RF) (k : Nat) : (s.bump f k).restores = s.restores := rfl
@[simp] theorem bump_loadsWaiting (s : State) (f : RF) (k : Nat) : (s.bump f k).loadsWaiting = s.loadsWaiting := rfl
@[simp] theorem bump_loads (s : State) (f : RF) (k : Nat) : (s.bump f k).loads = s.loads := rfl
@[simp] theorem bump_lastLoad (s : State) (f : RF) (k : Nat) : (s.bump f k).lastLoad = s.lastLoad := rfl
@[simp] theorem bump_streams (s : State) (f : RF) (k : Nat) : (s.bump f k).streams = s.streams := rfl
@[simp] theorem bump_reqs (s : State) (f : RF) (k : Nat) : (s.bump f k).reqs = s.reqs := rfl
@[simp] theorem bump_binds (s : State) (f : RF) (k : Nat) : (s.bump f k).binds = s.binds := rfl
@[simp] theorem bump_pfx (s : State) (f : RF) (k : Nat) : (s.bump f k).pfx = s.pfx := rfl
@[simp] theorem bump_ravor (s : State) (f : RF) (k : Nat) : (s.bump f k).ravor = s.ravor := rfl
@[simp] theorem bump_host (s : State) (f : RF) (k : Nat) : (s.bump f k).host = s.host := rfl

/-! ### resetRegs -/

@[simp] theorem resetRegs_pending (s : State) (lo hi : Nat) : (s.resetRegs lo hi).pending = s.pending := rfl
@[simp] theorem resetRegs_free (s : State) (lo hi : Nat) : (s.resetRegs lo hi).free = s.free := rfl
@[simp] theorem resetRegs_nextId (s : State) (lo hi : Nat) : (s.resetRegs lo hi).nextId = s.nextId := rfl
@[simp] theorem resetRegs_out (s : State) (lo hi : Nat) : (s.resetRegs lo hi).out = s.out := rfl
@[simp] theorem resetRegs_fuses (s : State) (lo hi : Nat) : (s.resetRegs lo hi).fuses = s.fuses := rfl
@[simp] theorem resetRegs_pads (s : State) (lo hi : Nat) : (s.resetRegs lo hi).pads = s.pads := rfl
@[simp] theorem resetRegs_tide (s : State) (lo hi : Nat) : (s.resetRegs lo hi).tide = s.tide := rfl
@[simp] theorem resetRegs_boot (s : State) (lo hi : Nat) : (s.resetRegs lo hi).boot = s.boot := rfl
@[simp] theorem resetRegs_exk (s : State) (lo hi : Nat) : (s.resetRegs lo hi).exk = s.exk := rfl
@[simp] theorem resetRegs_islands (s : State) (lo hi : Nat) : (s.resetRegs lo hi).islands = s.islands := rfl
@[simp] theorem resetRegs_cores (s : State) (lo hi : Nat) : (s.resetRegs lo hi).cores = s.cores := rfl
@[simp] theorem resetRegs_clusters (s : State) (lo hi : Nat) : (s.resetRegs lo hi).clusters = s.clusters := rfl
@[simp] theorem resetRegs_jobs (s : State) (lo hi : Nat) : (s.resetRegs lo hi).jobs = s.jobs := rfl
@[simp] theorem resetRegs_recov (s : State) (lo hi : Nat) : (s.resetRegs lo hi).recov = s.recov := rfl
@[simp] theorem resetRegs_spools (s : State) (lo hi : Nat) : (s.resetRegs lo hi).spools = s.spools := rfl
@[simp] theorem resetRegs_resets (s : State) (lo hi : Nat) : (s.resetRegs lo hi).resets = s.resets := rfl
@[simp] theorem resetRegs_keys (s : State) (lo hi : Nat) : (s.resetRegs lo hi).keys = s.keys := rfl
@[simp] theorem resetRegs_msix (s : State) (lo hi : Nat) : (s.resetRegs lo hi).msix = s.msix := rfl
@[simp] theorem resetRegs_tokens (s : State) (lo hi : Nat) : (s.resetRegs lo hi).tokens = s.tokens := rfl
@[simp] theorem resetRegs_levelLo (s : State) (lo hi : Nat) : (s.resetRegs lo hi).levelLo = s.levelLo := rfl
@[simp] theorem resetRegs_harbors (s : State) (lo hi : Nat) : (s.resetRegs lo hi).harbors = s.harbors := rfl
@[simp] theorem resetRegs_registry (s : State) (lo hi : Nat) : (s.resetRegs lo hi).registry = s.registry := rfl
@[simp] theorem resetRegs_models (s : State) (lo hi : Nat) : (s.resetRegs lo hi).models = s.models := rfl
@[simp] theorem resetRegs_saved (s : State) (lo hi : Nat) : (s.resetRegs lo hi).saved = s.saved := rfl
@[simp] theorem resetRegs_saves (s : State) (lo hi : Nat) : (s.resetRegs lo hi).saves = s.saves := rfl
@[simp] theorem resetRegs_restores (s : State) (lo hi : Nat) : (s.resetRegs lo hi).restores = s.restores := rfl
@[simp] theorem resetRegs_loadsWaiting (s : State) (lo hi : Nat) : (s.resetRegs lo hi).loadsWaiting = s.loadsWaiting := rfl
@[simp] theorem resetRegs_loads (s : State) (lo hi : Nat) : (s.resetRegs lo hi).loads = s.loads := rfl
@[simp] theorem resetRegs_lastLoad (s : State) (lo hi : Nat) : (s.resetRegs lo hi).lastLoad = s.lastLoad := rfl
@[simp] theorem resetRegs_streams (s : State) (lo hi : Nat) : (s.resetRegs lo hi).streams = s.streams := rfl
@[simp] theorem resetRegs_reqs (s : State) (lo hi : Nat) : (s.resetRegs lo hi).reqs = s.reqs := rfl
@[simp] theorem resetRegs_binds (s : State) (lo hi : Nat) : (s.resetRegs lo hi).binds = s.binds := rfl
@[simp] theorem resetRegs_pfx (s : State) (lo hi : Nat) : (s.resetRegs lo hi).pfx = s.pfx := rfl
@[simp] theorem resetRegs_ravor (s : State) (lo hi : Nat) : (s.resetRegs lo hi).ravor = s.ravor := rfl
@[simp] theorem resetRegs_host (s : State) (lo hi : Nat) : (s.resetRegs lo hi).host = s.host := rfl

/-! ### emit -/

@[simp] theorem emit_pending (s : State) (o : Out) : (s.emit o).pending = s.pending := rfl
@[simp] theorem emit_free (s : State) (o : Out) : (s.emit o).free = s.free := rfl
@[simp] theorem emit_nextId (s : State) (o : Out) : (s.emit o).nextId = s.nextId := rfl
@[simp] theorem emit_fuses (s : State) (o : Out) : (s.emit o).fuses = s.fuses := rfl
@[simp] theorem emit_regs (s : State) (o : Out) : (s.emit o).regs = s.regs := rfl
@[simp] theorem emit_pads (s : State) (o : Out) : (s.emit o).pads = s.pads := rfl
@[simp] theorem emit_tide (s : State) (o : Out) : (s.emit o).tide = s.tide := rfl
@[simp] theorem emit_boot (s : State) (o : Out) : (s.emit o).boot = s.boot := rfl
@[simp] theorem emit_exk (s : State) (o : Out) : (s.emit o).exk = s.exk := rfl
@[simp] theorem emit_islands (s : State) (o : Out) : (s.emit o).islands = s.islands := rfl
@[simp] theorem emit_cores (s : State) (o : Out) : (s.emit o).cores = s.cores := rfl
@[simp] theorem emit_clusters (s : State) (o : Out) : (s.emit o).clusters = s.clusters := rfl
@[simp] theorem emit_jobs (s : State) (o : Out) : (s.emit o).jobs = s.jobs := rfl
@[simp] theorem emit_recov (s : State) (o : Out) : (s.emit o).recov = s.recov := rfl
@[simp] theorem emit_spools (s : State) (o : Out) : (s.emit o).spools = s.spools := rfl
@[simp] theorem emit_resets (s : State) (o : Out) : (s.emit o).resets = s.resets := rfl
@[simp] theorem emit_keys (s : State) (o : Out) : (s.emit o).keys = s.keys := rfl
@[simp] theorem emit_msix (s : State) (o : Out) : (s.emit o).msix = s.msix := rfl
@[simp] theorem emit_tokens (s : State) (o : Out) : (s.emit o).tokens = s.tokens := rfl
@[simp] theorem emit_levelLo (s : State) (o : Out) : (s.emit o).levelLo = s.levelLo := rfl
@[simp] theorem emit_harbors (s : State) (o : Out) : (s.emit o).harbors = s.harbors := rfl
@[simp] theorem emit_registry (s : State) (o : Out) : (s.emit o).registry = s.registry := rfl
@[simp] theorem emit_models (s : State) (o : Out) : (s.emit o).models = s.models := rfl
@[simp] theorem emit_saved (s : State) (o : Out) : (s.emit o).saved = s.saved := rfl
@[simp] theorem emit_saves (s : State) (o : Out) : (s.emit o).saves = s.saves := rfl
@[simp] theorem emit_restores (s : State) (o : Out) : (s.emit o).restores = s.restores := rfl
@[simp] theorem emit_loadsWaiting (s : State) (o : Out) : (s.emit o).loadsWaiting = s.loadsWaiting := rfl
@[simp] theorem emit_loads (s : State) (o : Out) : (s.emit o).loads = s.loads := rfl
@[simp] theorem emit_lastLoad (s : State) (o : Out) : (s.emit o).lastLoad = s.lastLoad := rfl
@[simp] theorem emit_streams (s : State) (o : Out) : (s.emit o).streams = s.streams := rfl
@[simp] theorem emit_reqs (s : State) (o : Out) : (s.emit o).reqs = s.reqs := rfl
@[simp] theorem emit_binds (s : State) (o : Out) : (s.emit o).binds = s.binds := rfl
@[simp] theorem emit_pfx (s : State) (o : Out) : (s.emit o).pfx = s.pfx := rfl
@[simp] theorem emit_ravor (s : State) (o : Out) : (s.emit o).ravor = s.ravor := rfl
@[simp] theorem emit_host (s : State) (o : Out) : (s.emit o).host = s.host := rfl

/-! ### setCore -/

@[simp] theorem setCore_pending (s : State) (c : Nat) (x : CoreSt) : (s.setCore c x).pending = s.pending := rfl
@[simp] theorem setCore_free (s : State) (c : Nat) (x : CoreSt) : (s.setCore c x).free = s.free := rfl
@[simp] theorem setCore_nextId (s : State) (c : Nat) (x : CoreSt) : (s.setCore c x).nextId = s.nextId := rfl
@[simp] theorem setCore_out (s : State) (c : Nat) (x : CoreSt) : (s.setCore c x).out = s.out := rfl
@[simp] theorem setCore_fuses (s : State) (c : Nat) (x : CoreSt) : (s.setCore c x).fuses = s.fuses := rfl
@[simp] theorem setCore_regs (s : State) (c : Nat) (x : CoreSt) : (s.setCore c x).regs = s.regs := rfl
@[simp] theorem setCore_pads (s : State) (c : Nat) (x : CoreSt) : (s.setCore c x).pads = s.pads := rfl
@[simp] theorem setCore_tide (s : State) (c : Nat) (x : CoreSt) : (s.setCore c x).tide = s.tide := rfl
@[simp] theorem setCore_boot (s : State) (c : Nat) (x : CoreSt) : (s.setCore c x).boot = s.boot := rfl
@[simp] theorem setCore_exk (s : State) (c : Nat) (x : CoreSt) : (s.setCore c x).exk = s.exk := rfl
@[simp] theorem setCore_islands (s : State) (c : Nat) (x : CoreSt) : (s.setCore c x).islands = s.islands := rfl
@[simp] theorem setCore_clusters (s : State) (c : Nat) (x : CoreSt) : (s.setCore c x).clusters = s.clusters := rfl
@[simp] theorem setCore_jobs (s : State) (c : Nat) (x : CoreSt) : (s.setCore c x).jobs = s.jobs := rfl
@[simp] theorem setCore_recov (s : State) (c : Nat) (x : CoreSt) : (s.setCore c x).recov = s.recov := rfl
@[simp] theorem setCore_spools (s : State) (c : Nat) (x : CoreSt) : (s.setCore c x).spools = s.spools := rfl
@[simp] theorem setCore_resets (s : State) (c : Nat) (x : CoreSt) : (s.setCore c x).resets = s.resets := rfl
@[simp] theorem setCore_keys (s : State) (c : Nat) (x : CoreSt) : (s.setCore c x).keys = s.keys := rfl
@[simp] theorem setCore_msix (s : State) (c : Nat) (x : CoreSt) : (s.setCore c x).msix = s.msix := rfl
@[simp] theorem setCore_tokens (s : State) (c : Nat) (x : CoreSt) : (s.setCore c x).tokens = s.tokens := rfl
@[simp] theorem setCore_levelLo (s : State) (c : Nat) (x : CoreSt) : (s.setCore c x).levelLo = s.levelLo := rfl
@[simp] theorem setCore_harbors (s : State) (c : Nat) (x : CoreSt) : (s.setCore c x).harbors = s.harbors := rfl
@[simp] theorem setCore_registry (s : State) (c : Nat) (x : CoreSt) : (s.setCore c x).registry = s.registry := rfl
@[simp] theorem setCore_models (s : State) (c : Nat) (x : CoreSt) : (s.setCore c x).models = s.models := rfl
@[simp] theorem setCore_saved (s : State) (c : Nat) (x : CoreSt) : (s.setCore c x).saved = s.saved := rfl
@[simp] theorem setCore_saves (s : State) (c : Nat) (x : CoreSt) : (s.setCore c x).saves = s.saves := rfl
@[simp] theorem setCore_restores (s : State) (c : Nat) (x : CoreSt) : (s.setCore c x).restores = s.restores := rfl
@[simp] theorem setCore_loadsWaiting (s : State) (c : Nat) (x : CoreSt) : (s.setCore c x).loadsWaiting = s.loadsWaiting := rfl
@[simp] theorem setCore_loads (s : State) (c : Nat) (x : CoreSt) : (s.setCore c x).loads = s.loads := rfl
@[simp] theorem setCore_lastLoad (s : State) (c : Nat) (x : CoreSt) : (s.setCore c x).lastLoad = s.lastLoad := rfl
@[simp] theorem setCore_streams (s : State) (c : Nat) (x : CoreSt) : (s.setCore c x).streams = s.streams := rfl
@[simp] theorem setCore_reqs (s : State) (c : Nat) (x : CoreSt) : (s.setCore c x).reqs = s.reqs := rfl
@[simp] theorem setCore_binds (s : State) (c : Nat) (x : CoreSt) : (s.setCore c x).binds = s.binds := rfl
@[simp] theorem setCore_pfx (s : State) (c : Nat) (x : CoreSt) : (s.setCore c x).pfx = s.pfx := rfl
@[simp] theorem setCore_ravor (s : State) (c : Nat) (x : CoreSt) : (s.setCore c x).ravor = s.ravor := rfl
@[simp] theorem setCore_host (s : State) (c : Nat) (x : CoreSt) : (s.setCore c x).host = s.host := rfl

/-! ### setIsl -/

@[simp] theorem setIsl_pending (s : State) (i : Nat) (x : IslandSt) : (s.setIsl i x).pending = s.pending := rfl
@[simp] theorem setIsl_free (s : State) (i : Nat) (x : IslandSt) : (s.setIsl i x).free = s.free := rfl
@[simp] theorem setIsl_nextId (s : State) (i : Nat) (x : IslandSt) : (s.setIsl i x).nextId = s.nextId := rfl
@[simp] theorem setIsl_out (s : State) (i : Nat) (x : IslandSt) : (s.setIsl i x).out = s.out := rfl
@[simp] theorem setIsl_fuses (s : State) (i : Nat) (x : IslandSt) : (s.setIsl i x).fuses = s.fuses := rfl
@[simp] theorem setIsl_regs (s : State) (i : Nat) (x : IslandSt) : (s.setIsl i x).regs = s.regs := rfl
@[simp] theorem setIsl_pads (s : State) (i : Nat) (x : IslandSt) : (s.setIsl i x).pads = s.pads := rfl
@[simp] theorem setIsl_tide (s : State) (i : Nat) (x : IslandSt) : (s.setIsl i x).tide = s.tide := rfl
@[simp] theorem setIsl_boot (s : State) (i : Nat) (x : IslandSt) : (s.setIsl i x).boot = s.boot := rfl
@[simp] theorem setIsl_exk (s : State) (i : Nat) (x : IslandSt) : (s.setIsl i x).exk = s.exk := rfl
@[simp] theorem setIsl_cores (s : State) (i : Nat) (x : IslandSt) : (s.setIsl i x).cores = s.cores := rfl
@[simp] theorem setIsl_clusters (s : State) (i : Nat) (x : IslandSt) : (s.setIsl i x).clusters = s.clusters := rfl
@[simp] theorem setIsl_jobs (s : State) (i : Nat) (x : IslandSt) : (s.setIsl i x).jobs = s.jobs := rfl
@[simp] theorem setIsl_recov (s : State) (i : Nat) (x : IslandSt) : (s.setIsl i x).recov = s.recov := rfl
@[simp] theorem setIsl_spools (s : State) (i : Nat) (x : IslandSt) : (s.setIsl i x).spools = s.spools := rfl
@[simp] theorem setIsl_resets (s : State) (i : Nat) (x : IslandSt) : (s.setIsl i x).resets = s.resets := rfl
@[simp] theorem setIsl_keys (s : State) (i : Nat) (x : IslandSt) : (s.setIsl i x).keys = s.keys := rfl
@[simp] theorem setIsl_msix (s : State) (i : Nat) (x : IslandSt) : (s.setIsl i x).msix = s.msix := rfl
@[simp] theorem setIsl_tokens (s : State) (i : Nat) (x : IslandSt) : (s.setIsl i x).tokens = s.tokens := rfl
@[simp] theorem setIsl_levelLo (s : State) (i : Nat) (x : IslandSt) : (s.setIsl i x).levelLo = s.levelLo := rfl
@[simp] theorem setIsl_harbors (s : State) (i : Nat) (x : IslandSt) : (s.setIsl i x).harbors = s.harbors := rfl
@[simp] theorem setIsl_registry (s : State) (i : Nat) (x : IslandSt) : (s.setIsl i x).registry = s.registry := rfl
@[simp] theorem setIsl_models (s : State) (i : Nat) (x : IslandSt) : (s.setIsl i x).models = s.models := rfl
@[simp] theorem setIsl_saved (s : State) (i : Nat) (x : IslandSt) : (s.setIsl i x).saved = s.saved := rfl
@[simp] theorem setIsl_saves (s : State) (i : Nat) (x : IslandSt) : (s.setIsl i x).saves = s.saves := rfl
@[simp] theorem setIsl_restores (s : State) (i : Nat) (x : IslandSt) : (s.setIsl i x).restores = s.restores := rfl
@[simp] theorem setIsl_loadsWaiting (s : State) (i : Nat) (x : IslandSt) : (s.setIsl i x).loadsWaiting = s.loadsWaiting := rfl
@[simp] theorem setIsl_loads (s : State) (i : Nat) (x : IslandSt) : (s.setIsl i x).loads = s.loads := rfl
@[simp] theorem setIsl_lastLoad (s : State) (i : Nat) (x : IslandSt) : (s.setIsl i x).lastLoad = s.lastLoad := rfl
@[simp] theorem setIsl_streams (s : State) (i : Nat) (x : IslandSt) : (s.setIsl i x).streams = s.streams := rfl
@[simp] theorem setIsl_reqs (s : State) (i : Nat) (x : IslandSt) : (s.setIsl i x).reqs = s.reqs := rfl
@[simp] theorem setIsl_binds (s : State) (i : Nat) (x : IslandSt) : (s.setIsl i x).binds = s.binds := rfl
@[simp] theorem setIsl_pfx (s : State) (i : Nat) (x : IslandSt) : (s.setIsl i x).pfx = s.pfx := rfl
@[simp] theorem setIsl_ravor (s : State) (i : Nat) (x : IslandSt) : (s.setIsl i x).ravor = s.ravor := rfl
@[simp] theorem setIsl_host (s : State) (i : Nat) (x : IslandSt) : (s.setIsl i x).host = s.host := rfl

/-! ### setCluster -/

@[simp] theorem setCluster_pending (s : State) (k : Nat) (x : ClusterSt) : (s.setCluster k x).pending = s.pending := rfl
@[simp] theorem setCluster_free (s : State) (k : Nat) (x : ClusterSt) : (s.setCluster k x).free = s.free := rfl
@[simp] theorem setCluster_nextId (s : State) (k : Nat) (x : ClusterSt) : (s.setCluster k x).nextId = s.nextId := rfl
@[simp] theorem setCluster_out (s : State) (k : Nat) (x : ClusterSt) : (s.setCluster k x).out = s.out := rfl
@[simp] theorem setCluster_fuses (s : State) (k : Nat) (x : ClusterSt) : (s.setCluster k x).fuses = s.fuses := rfl
@[simp] theorem setCluster_regs (s : State) (k : Nat) (x : ClusterSt) : (s.setCluster k x).regs = s.regs := rfl
@[simp] theorem setCluster_pads (s : State) (k : Nat) (x : ClusterSt) : (s.setCluster k x).pads = s.pads := rfl
@[simp] theorem setCluster_tide (s : State) (k : Nat) (x : ClusterSt) : (s.setCluster k x).tide = s.tide := rfl
@[simp] theorem setCluster_boot (s : State) (k : Nat) (x : ClusterSt) : (s.setCluster k x).boot = s.boot := rfl
@[simp] theorem setCluster_exk (s : State) (k : Nat) (x : ClusterSt) : (s.setCluster k x).exk = s.exk := rfl
@[simp] theorem setCluster_islands (s : State) (k : Nat) (x : ClusterSt) : (s.setCluster k x).islands = s.islands := rfl
@[simp] theorem setCluster_cores (s : State) (k : Nat) (x : ClusterSt) : (s.setCluster k x).cores = s.cores := rfl
@[simp] theorem setCluster_jobs (s : State) (k : Nat) (x : ClusterSt) : (s.setCluster k x).jobs = s.jobs := rfl
@[simp] theorem setCluster_recov (s : State) (k : Nat) (x : ClusterSt) : (s.setCluster k x).recov = s.recov := rfl
@[simp] theorem setCluster_spools (s : State) (k : Nat) (x : ClusterSt) : (s.setCluster k x).spools = s.spools := rfl
@[simp] theorem setCluster_resets (s : State) (k : Nat) (x : ClusterSt) : (s.setCluster k x).resets = s.resets := rfl
@[simp] theorem setCluster_keys (s : State) (k : Nat) (x : ClusterSt) : (s.setCluster k x).keys = s.keys := rfl
@[simp] theorem setCluster_msix (s : State) (k : Nat) (x : ClusterSt) : (s.setCluster k x).msix = s.msix := rfl
@[simp] theorem setCluster_tokens (s : State) (k : Nat) (x : ClusterSt) : (s.setCluster k x).tokens = s.tokens := rfl
@[simp] theorem setCluster_levelLo (s : State) (k : Nat) (x : ClusterSt) : (s.setCluster k x).levelLo = s.levelLo := rfl
@[simp] theorem setCluster_harbors (s : State) (k : Nat) (x : ClusterSt) : (s.setCluster k x).harbors = s.harbors := rfl
@[simp] theorem setCluster_registry (s : State) (k : Nat) (x : ClusterSt) : (s.setCluster k x).registry = s.registry := rfl
@[simp] theorem setCluster_models (s : State) (k : Nat) (x : ClusterSt) : (s.setCluster k x).models = s.models := rfl
@[simp] theorem setCluster_saved (s : State) (k : Nat) (x : ClusterSt) : (s.setCluster k x).saved = s.saved := rfl
@[simp] theorem setCluster_saves (s : State) (k : Nat) (x : ClusterSt) : (s.setCluster k x).saves = s.saves := rfl
@[simp] theorem setCluster_restores (s : State) (k : Nat) (x : ClusterSt) : (s.setCluster k x).restores = s.restores := rfl
@[simp] theorem setCluster_loadsWaiting (s : State) (k : Nat) (x : ClusterSt) : (s.setCluster k x).loadsWaiting = s.loadsWaiting := rfl
@[simp] theorem setCluster_loads (s : State) (k : Nat) (x : ClusterSt) : (s.setCluster k x).loads = s.loads := rfl
@[simp] theorem setCluster_lastLoad (s : State) (k : Nat) (x : ClusterSt) : (s.setCluster k x).lastLoad = s.lastLoad := rfl
@[simp] theorem setCluster_streams (s : State) (k : Nat) (x : ClusterSt) : (s.setCluster k x).streams = s.streams := rfl
@[simp] theorem setCluster_reqs (s : State) (k : Nat) (x : ClusterSt) : (s.setCluster k x).reqs = s.reqs := rfl
@[simp] theorem setCluster_binds (s : State) (k : Nat) (x : ClusterSt) : (s.setCluster k x).binds = s.binds := rfl
@[simp] theorem setCluster_pfx (s : State) (k : Nat) (x : ClusterSt) : (s.setCluster k x).pfx = s.pfx := rfl
@[simp] theorem setCluster_ravor (s : State) (k : Nat) (x : ClusterSt) : (s.setCluster k x).ravor = s.ravor := rfl
@[simp] theorem setCluster_host (s : State) (k : Nat) (x : ClusterSt) : (s.setCluster k x).host = s.host := rfl

/-! ### setHarbor -/

@[simp] theorem setHarbor_pending (s : State) (h : Nat) (x : HarborSt) : (s.setHarbor h x).pending = s.pending := rfl
@[simp] theorem setHarbor_free (s : State) (h : Nat) (x : HarborSt) : (s.setHarbor h x).free = s.free := rfl
@[simp] theorem setHarbor_nextId (s : State) (h : Nat) (x : HarborSt) : (s.setHarbor h x).nextId = s.nextId := rfl
@[simp] theorem setHarbor_out (s : State) (h : Nat) (x : HarborSt) : (s.setHarbor h x).out = s.out := rfl
@[simp] theorem setHarbor_fuses (s : State) (h : Nat) (x : HarborSt) : (s.setHarbor h x).fuses = s.fuses := rfl
@[simp] theorem setHarbor_regs (s : State) (h : Nat) (x : HarborSt) : (s.setHarbor h x).regs = s.regs := rfl
@[simp] theorem setHarbor_pads (s : State) (h : Nat) (x : HarborSt) : (s.setHarbor h x).pads = s.pads := rfl
@[simp] theorem setHarbor_tide (s : State) (h : Nat) (x : HarborSt) : (s.setHarbor h x).tide = s.tide := rfl
@[simp] theorem setHarbor_boot (s : State) (h : Nat) (x : HarborSt) : (s.setHarbor h x).boot = s.boot := rfl
@[simp] theorem setHarbor_exk (s : State) (h : Nat) (x : HarborSt) : (s.setHarbor h x).exk = s.exk := rfl
@[simp] theorem setHarbor_islands (s : State) (h : Nat) (x : HarborSt) : (s.setHarbor h x).islands = s.islands := rfl
@[simp] theorem setHarbor_cores (s : State) (h : Nat) (x : HarborSt) : (s.setHarbor h x).cores = s.cores := rfl
@[simp] theorem setHarbor_clusters (s : State) (h : Nat) (x : HarborSt) : (s.setHarbor h x).clusters = s.clusters := rfl
@[simp] theorem setHarbor_jobs (s : State) (h : Nat) (x : HarborSt) : (s.setHarbor h x).jobs = s.jobs := rfl
@[simp] theorem setHarbor_recov (s : State) (h : Nat) (x : HarborSt) : (s.setHarbor h x).recov = s.recov := rfl
@[simp] theorem setHarbor_spools (s : State) (h : Nat) (x : HarborSt) : (s.setHarbor h x).spools = s.spools := rfl
@[simp] theorem setHarbor_resets (s : State) (h : Nat) (x : HarborSt) : (s.setHarbor h x).resets = s.resets := rfl
@[simp] theorem setHarbor_keys (s : State) (h : Nat) (x : HarborSt) : (s.setHarbor h x).keys = s.keys := rfl
@[simp] theorem setHarbor_msix (s : State) (h : Nat) (x : HarborSt) : (s.setHarbor h x).msix = s.msix := rfl
@[simp] theorem setHarbor_tokens (s : State) (h : Nat) (x : HarborSt) : (s.setHarbor h x).tokens = s.tokens := rfl
@[simp] theorem setHarbor_levelLo (s : State) (h : Nat) (x : HarborSt) : (s.setHarbor h x).levelLo = s.levelLo := rfl
@[simp] theorem setHarbor_registry (s : State) (h : Nat) (x : HarborSt) : (s.setHarbor h x).registry = s.registry := rfl
@[simp] theorem setHarbor_models (s : State) (h : Nat) (x : HarborSt) : (s.setHarbor h x).models = s.models := rfl
@[simp] theorem setHarbor_saved (s : State) (h : Nat) (x : HarborSt) : (s.setHarbor h x).saved = s.saved := rfl
@[simp] theorem setHarbor_saves (s : State) (h : Nat) (x : HarborSt) : (s.setHarbor h x).saves = s.saves := rfl
@[simp] theorem setHarbor_restores (s : State) (h : Nat) (x : HarborSt) : (s.setHarbor h x).restores = s.restores := rfl
@[simp] theorem setHarbor_loadsWaiting (s : State) (h : Nat) (x : HarborSt) : (s.setHarbor h x).loadsWaiting = s.loadsWaiting := rfl
@[simp] theorem setHarbor_loads (s : State) (h : Nat) (x : HarborSt) : (s.setHarbor h x).loads = s.loads := rfl
@[simp] theorem setHarbor_lastLoad (s : State) (h : Nat) (x : HarborSt) : (s.setHarbor h x).lastLoad = s.lastLoad := rfl
@[simp] theorem setHarbor_streams (s : State) (h : Nat) (x : HarborSt) : (s.setHarbor h x).streams = s.streams := rfl
@[simp] theorem setHarbor_reqs (s : State) (h : Nat) (x : HarborSt) : (s.setHarbor h x).reqs = s.reqs := rfl
@[simp] theorem setHarbor_binds (s : State) (h : Nat) (x : HarborSt) : (s.setHarbor h x).binds = s.binds := rfl
@[simp] theorem setHarbor_pfx (s : State) (h : Nat) (x : HarborSt) : (s.setHarbor h x).pfx = s.pfx := rfl
@[simp] theorem setHarbor_ravor (s : State) (h : Nat) (x : HarborSt) : (s.setHarbor h x).ravor = s.ravor := rfl
@[simp] theorem setHarbor_host (s : State) (h : Nat) (x : HarborSt) : (s.setHarbor h x).host = s.host := rfl

/-! ### setPads -/

@[simp] theorem setPads_pending (s : State) (p : Pads) : (s.setPads p).pending = s.pending := rfl
@[simp] theorem setPads_free (s : State) (p : Pads) : (s.setPads p).free = s.free := rfl
@[simp] theorem setPads_nextId (s : State) (p : Pads) : (s.setPads p).nextId = s.nextId := rfl
@[simp] theorem setPads_out (s : State) (p : Pads) : (s.setPads p).out = s.out := rfl
@[simp] theorem setPads_fuses (s : State) (p : Pads) : (s.setPads p).fuses = s.fuses := rfl
@[simp] theorem setPads_regs (s : State) (p : Pads) : (s.setPads p).regs = s.regs := rfl
@[simp] theorem setPads_tide (s : State) (p : Pads) : (s.setPads p).tide = s.tide := rfl
@[simp] theorem setPads_boot (s : State) (p : Pads) : (s.setPads p).boot = s.boot := rfl
@[simp] theorem setPads_exk (s : State) (p : Pads) : (s.setPads p).exk = s.exk := rfl
@[simp] theorem setPads_islands (s : State) (p : Pads) : (s.setPads p).islands = s.islands := rfl
@[simp] theorem setPads_cores (s : State) (p : Pads) : (s.setPads p).cores = s.cores := rfl
@[simp] theorem setPads_clusters (s : State) (p : Pads) : (s.setPads p).clusters = s.clusters := rfl
@[simp] theorem setPads_jobs (s : State) (p : Pads) : (s.setPads p).jobs = s.jobs := rfl
@[simp] theorem setPads_recov (s : State) (p : Pads) : (s.setPads p).recov = s.recov := rfl
@[simp] theorem setPads_spools (s : State) (p : Pads) : (s.setPads p).spools = s.spools := rfl
@[simp] theorem setPads_resets (s : State) (p : Pads) : (s.setPads p).resets = s.resets := rfl
@[simp] theorem setPads_keys (s : State) (p : Pads) : (s.setPads p).keys = s.keys := rfl
@[simp] theorem setPads_msix (s : State) (p : Pads) : (s.setPads p).msix = s.msix := rfl
@[simp] theorem setPads_tokens (s : State) (p : Pads) : (s.setPads p).tokens = s.tokens := rfl
@[simp] theorem setPads_levelLo (s : State) (p : Pads) : (s.setPads p).levelLo = s.levelLo := rfl
@[simp] theorem setPads_harbors (s : State) (p : Pads) : (s.setPads p).harbors = s.harbors := rfl
@[simp] theorem setPads_registry (s : State) (p : Pads) : (s.setPads p).registry = s.registry := rfl
@[simp] theorem setPads_models (s : State) (p : Pads) : (s.setPads p).models = s.models := rfl
@[simp] theorem setPads_saved (s : State) (p : Pads) : (s.setPads p).saved = s.saved := rfl
@[simp] theorem setPads_saves (s : State) (p : Pads) : (s.setPads p).saves = s.saves := rfl
@[simp] theorem setPads_restores (s : State) (p : Pads) : (s.setPads p).restores = s.restores := rfl
@[simp] theorem setPads_loadsWaiting (s : State) (p : Pads) : (s.setPads p).loadsWaiting = s.loadsWaiting := rfl
@[simp] theorem setPads_loads (s : State) (p : Pads) : (s.setPads p).loads = s.loads := rfl
@[simp] theorem setPads_lastLoad (s : State) (p : Pads) : (s.setPads p).lastLoad = s.lastLoad := rfl
@[simp] theorem setPads_streams (s : State) (p : Pads) : (s.setPads p).streams = s.streams := rfl
@[simp] theorem setPads_reqs (s : State) (p : Pads) : (s.setPads p).reqs = s.reqs := rfl
@[simp] theorem setPads_binds (s : State) (p : Pads) : (s.setPads p).binds = s.binds := rfl
@[simp] theorem setPads_pfx (s : State) (p : Pads) : (s.setPads p).pfx = s.pfx := rfl
@[simp] theorem setPads_ravor (s : State) (p : Pads) : (s.setPads p).ravor = s.ravor := rfl
@[simp] theorem setPads_host (s : State) (p : Pads) : (s.setPads p).host = s.host := rfl

/-! ### setBoot -/

@[simp] theorem setBoot_pending (s : State) (b : BootSt) : (s.setBoot b).pending = s.pending := rfl
@[simp] theorem setBoot_free (s : State) (b : BootSt) : (s.setBoot b).free = s.free := rfl
@[simp] theorem setBoot_nextId (s : State) (b : BootSt) : (s.setBoot b).nextId = s.nextId := rfl
@[simp] theorem setBoot_out (s : State) (b : BootSt) : (s.setBoot b).out = s.out := rfl
@[simp] theorem setBoot_fuses (s : State) (b : BootSt) : (s.setBoot b).fuses = s.fuses := rfl
@[simp] theorem setBoot_regs (s : State) (b : BootSt) : (s.setBoot b).regs = s.regs := rfl
@[simp] theorem setBoot_pads (s : State) (b : BootSt) : (s.setBoot b).pads = s.pads := rfl
@[simp] theorem setBoot_tide (s : State) (b : BootSt) : (s.setBoot b).tide = s.tide := rfl
@[simp] theorem setBoot_exk (s : State) (b : BootSt) : (s.setBoot b).exk = s.exk := rfl
@[simp] theorem setBoot_islands (s : State) (b : BootSt) : (s.setBoot b).islands = s.islands := rfl
@[simp] theorem setBoot_cores (s : State) (b : BootSt) : (s.setBoot b).cores = s.cores := rfl
@[simp] theorem setBoot_clusters (s : State) (b : BootSt) : (s.setBoot b).clusters = s.clusters := rfl
@[simp] theorem setBoot_jobs (s : State) (b : BootSt) : (s.setBoot b).jobs = s.jobs := rfl
@[simp] theorem setBoot_recov (s : State) (b : BootSt) : (s.setBoot b).recov = s.recov := rfl
@[simp] theorem setBoot_spools (s : State) (b : BootSt) : (s.setBoot b).spools = s.spools := rfl
@[simp] theorem setBoot_resets (s : State) (b : BootSt) : (s.setBoot b).resets = s.resets := rfl
@[simp] theorem setBoot_keys (s : State) (b : BootSt) : (s.setBoot b).keys = s.keys := rfl
@[simp] theorem setBoot_msix (s : State) (b : BootSt) : (s.setBoot b).msix = s.msix := rfl
@[simp] theorem setBoot_tokens (s : State) (b : BootSt) : (s.setBoot b).tokens = s.tokens := rfl
@[simp] theorem setBoot_levelLo (s : State) (b : BootSt) : (s.setBoot b).levelLo = s.levelLo := rfl
@[simp] theorem setBoot_harbors (s : State) (b : BootSt) : (s.setBoot b).harbors = s.harbors := rfl
@[simp] theorem setBoot_registry (s : State) (b : BootSt) : (s.setBoot b).registry = s.registry := rfl
@[simp] theorem setBoot_models (s : State) (b : BootSt) : (s.setBoot b).models = s.models := rfl
@[simp] theorem setBoot_saved (s : State) (b : BootSt) : (s.setBoot b).saved = s.saved := rfl
@[simp] theorem setBoot_saves (s : State) (b : BootSt) : (s.setBoot b).saves = s.saves := rfl
@[simp] theorem setBoot_restores (s : State) (b : BootSt) : (s.setBoot b).restores = s.restores := rfl
@[simp] theorem setBoot_loadsWaiting (s : State) (b : BootSt) : (s.setBoot b).loadsWaiting = s.loadsWaiting := rfl
@[simp] theorem setBoot_loads (s : State) (b : BootSt) : (s.setBoot b).loads = s.loads := rfl
@[simp] theorem setBoot_lastLoad (s : State) (b : BootSt) : (s.setBoot b).lastLoad = s.lastLoad := rfl
@[simp] theorem setBoot_streams (s : State) (b : BootSt) : (s.setBoot b).streams = s.streams := rfl
@[simp] theorem setBoot_reqs (s : State) (b : BootSt) : (s.setBoot b).reqs = s.reqs := rfl
@[simp] theorem setBoot_binds (s : State) (b : BootSt) : (s.setBoot b).binds = s.binds := rfl
@[simp] theorem setBoot_pfx (s : State) (b : BootSt) : (s.setBoot b).pfx = s.pfx := rfl
@[simp] theorem setBoot_ravor (s : State) (b : BootSt) : (s.setBoot b).ravor = s.ravor := rfl
@[simp] theorem setBoot_host (s : State) (b : BootSt) : (s.setBoot b).host = s.host := rfl

/-! ### setBind -/

@[simp] theorem setBind_pending (s : State) (b : Nat) (x : BindSt) : (s.setBind b x).pending = s.pending := rfl
@[simp] theorem setBind_free (s : State) (b : Nat) (x : BindSt) : (s.setBind b x).free = s.free := rfl
@[simp] theorem setBind_nextId (s : State) (b : Nat) (x : BindSt) : (s.setBind b x).nextId = s.nextId := rfl
@[simp] theorem setBind_out (s : State) (b : Nat) (x : BindSt) : (s.setBind b x).out = s.out := rfl
@[simp] theorem setBind_fuses (s : State) (b : Nat) (x : BindSt) : (s.setBind b x).fuses = s.fuses := rfl
@[simp] theorem setBind_regs (s : State) (b : Nat) (x : BindSt) : (s.setBind b x).regs = s.regs := rfl
@[simp] theorem setBind_pads (s : State) (b : Nat) (x : BindSt) : (s.setBind b x).pads = s.pads := rfl
@[simp] theorem setBind_tide (s : State) (b : Nat) (x : BindSt) : (s.setBind b x).tide = s.tide := rfl
@[simp] theorem setBind_boot (s : State) (b : Nat) (x : BindSt) : (s.setBind b x).boot = s.boot := rfl
@[simp] theorem setBind_exk (s : State) (b : Nat) (x : BindSt) : (s.setBind b x).exk = s.exk := rfl
@[simp] theorem setBind_islands (s : State) (b : Nat) (x : BindSt) : (s.setBind b x).islands = s.islands := rfl
@[simp] theorem setBind_cores (s : State) (b : Nat) (x : BindSt) : (s.setBind b x).cores = s.cores := rfl
@[simp] theorem setBind_clusters (s : State) (b : Nat) (x : BindSt) : (s.setBind b x).clusters = s.clusters := rfl
@[simp] theorem setBind_jobs (s : State) (b : Nat) (x : BindSt) : (s.setBind b x).jobs = s.jobs := rfl
@[simp] theorem setBind_recov (s : State) (b : Nat) (x : BindSt) : (s.setBind b x).recov = s.recov := rfl
@[simp] theorem setBind_spools (s : State) (b : Nat) (x : BindSt) : (s.setBind b x).spools = s.spools := rfl
@[simp] theorem setBind_resets (s : State) (b : Nat) (x : BindSt) : (s.setBind b x).resets = s.resets := rfl
@[simp] theorem setBind_keys (s : State) (b : Nat) (x : BindSt) : (s.setBind b x).keys = s.keys := rfl
@[simp] theorem setBind_msix (s : State) (b : Nat) (x : BindSt) : (s.setBind b x).msix = s.msix := rfl
@[simp] theorem setBind_tokens (s : State) (b : Nat) (x : BindSt) : (s.setBind b x).tokens = s.tokens := rfl
@[simp] theorem setBind_levelLo (s : State) (b : Nat) (x : BindSt) : (s.setBind b x).levelLo = s.levelLo := rfl
@[simp] theorem setBind_harbors (s : State) (b : Nat) (x : BindSt) : (s.setBind b x).harbors = s.harbors := rfl
@[simp] theorem setBind_registry (s : State) (b : Nat) (x : BindSt) : (s.setBind b x).registry = s.registry := rfl
@[simp] theorem setBind_models (s : State) (b : Nat) (x : BindSt) : (s.setBind b x).models = s.models := rfl
@[simp] theorem setBind_saved (s : State) (b : Nat) (x : BindSt) : (s.setBind b x).saved = s.saved := rfl
@[simp] theorem setBind_saves (s : State) (b : Nat) (x : BindSt) : (s.setBind b x).saves = s.saves := rfl
@[simp] theorem setBind_restores (s : State) (b : Nat) (x : BindSt) : (s.setBind b x).restores = s.restores := rfl
@[simp] theorem setBind_loadsWaiting (s : State) (b : Nat) (x : BindSt) : (s.setBind b x).loadsWaiting = s.loadsWaiting := rfl
@[simp] theorem setBind_loads (s : State) (b : Nat) (x : BindSt) : (s.setBind b x).loads = s.loads := rfl
@[simp] theorem setBind_lastLoad (s : State) (b : Nat) (x : BindSt) : (s.setBind b x).lastLoad = s.lastLoad := rfl
@[simp] theorem setBind_streams (s : State) (b : Nat) (x : BindSt) : (s.setBind b x).streams = s.streams := rfl
@[simp] theorem setBind_reqs (s : State) (b : Nat) (x : BindSt) : (s.setBind b x).reqs = s.reqs := rfl
@[simp] theorem setBind_pfx (s : State) (b : Nat) (x : BindSt) : (s.setBind b x).pfx = s.pfx := rfl
@[simp] theorem setBind_ravor (s : State) (b : Nat) (x : BindSt) : (s.setBind b x).ravor = s.ravor := rfl
@[simp] theorem setBind_host (s : State) (b : Nat) (x : BindSt) : (s.setBind b x).host = s.host := rfl

/-! ### setPort -/

@[simp] theorem setPort_pending (s : State) (p : Nat) (x : PortSt) : (s.setPort p x).pending = s.pending := rfl
@[simp] theorem setPort_free (s : State) (p : Nat) (x : PortSt) : (s.setPort p x).free = s.free := rfl
@[simp] theorem setPort_nextId (s : State) (p : Nat) (x : PortSt) : (s.setPort p x).nextId = s.nextId := rfl
@[simp] theorem setPort_out (s : State) (p : Nat) (x : PortSt) : (s.setPort p x).out = s.out := rfl
@[simp] theorem setPort_fuses (s : State) (p : Nat) (x : PortSt) : (s.setPort p x).fuses = s.fuses := rfl
@[simp] theorem setPort_regs (s : State) (p : Nat) (x : PortSt) : (s.setPort p x).regs = s.regs := rfl
@[simp] theorem setPort_pads (s : State) (p : Nat) (x : PortSt) : (s.setPort p x).pads = s.pads := rfl
@[simp] theorem setPort_tide (s : State) (p : Nat) (x : PortSt) : (s.setPort p x).tide = s.tide := rfl
@[simp] theorem setPort_boot (s : State) (p : Nat) (x : PortSt) : (s.setPort p x).boot = s.boot := rfl
@[simp] theorem setPort_exk (s : State) (p : Nat) (x : PortSt) : (s.setPort p x).exk = s.exk := rfl
@[simp] theorem setPort_islands (s : State) (p : Nat) (x : PortSt) : (s.setPort p x).islands = s.islands := rfl
@[simp] theorem setPort_cores (s : State) (p : Nat) (x : PortSt) : (s.setPort p x).cores = s.cores := rfl
@[simp] theorem setPort_clusters (s : State) (p : Nat) (x : PortSt) : (s.setPort p x).clusters = s.clusters := rfl
@[simp] theorem setPort_jobs (s : State) (p : Nat) (x : PortSt) : (s.setPort p x).jobs = s.jobs := rfl
@[simp] theorem setPort_recov (s : State) (p : Nat) (x : PortSt) : (s.setPort p x).recov = s.recov := rfl
@[simp] theorem setPort_spools (s : State) (p : Nat) (x : PortSt) : (s.setPort p x).spools = s.spools := rfl
@[simp] theorem setPort_resets (s : State) (p : Nat) (x : PortSt) : (s.setPort p x).resets = s.resets := rfl
@[simp] theorem setPort_keys (s : State) (p : Nat) (x : PortSt) : (s.setPort p x).keys = s.keys := rfl
@[simp] theorem setPort_msix (s : State) (p : Nat) (x : PortSt) : (s.setPort p x).msix = s.msix := rfl
@[simp] theorem setPort_tokens (s : State) (p : Nat) (x : PortSt) : (s.setPort p x).tokens = s.tokens := rfl
@[simp] theorem setPort_levelLo (s : State) (p : Nat) (x : PortSt) : (s.setPort p x).levelLo = s.levelLo := rfl
@[simp] theorem setPort_harbors (s : State) (p : Nat) (x : PortSt) : (s.setPort p x).harbors = s.harbors := rfl
@[simp] theorem setPort_registry (s : State) (p : Nat) (x : PortSt) : (s.setPort p x).registry = s.registry := rfl
@[simp] theorem setPort_models (s : State) (p : Nat) (x : PortSt) : (s.setPort p x).models = s.models := rfl
@[simp] theorem setPort_saved (s : State) (p : Nat) (x : PortSt) : (s.setPort p x).saved = s.saved := rfl
@[simp] theorem setPort_saves (s : State) (p : Nat) (x : PortSt) : (s.setPort p x).saves = s.saves := rfl
@[simp] theorem setPort_restores (s : State) (p : Nat) (x : PortSt) : (s.setPort p x).restores = s.restores := rfl
@[simp] theorem setPort_loadsWaiting (s : State) (p : Nat) (x : PortSt) : (s.setPort p x).loadsWaiting = s.loadsWaiting := rfl
@[simp] theorem setPort_loads (s : State) (p : Nat) (x : PortSt) : (s.setPort p x).loads = s.loads := rfl
@[simp] theorem setPort_lastLoad (s : State) (p : Nat) (x : PortSt) : (s.setPort p x).lastLoad = s.lastLoad := rfl
@[simp] theorem setPort_streams (s : State) (p : Nat) (x : PortSt) : (s.setPort p x).streams = s.streams := rfl
@[simp] theorem setPort_reqs (s : State) (p : Nat) (x : PortSt) : (s.setPort p x).reqs = s.reqs := rfl
@[simp] theorem setPort_binds (s : State) (p : Nat) (x : PortSt) : (s.setPort p x).binds = s.binds := rfl
@[simp] theorem setPort_pfx (s : State) (p : Nat) (x : PortSt) : (s.setPort p x).pfx = s.pfx := rfl
@[simp] theorem setPort_host (s : State) (p : Nat) (x : PortSt) : (s.setPort p x).host = s.host := rfl

/-! ### setTopo -/

@[simp] theorem setTopo_pending (s : State) (e : Nat) (t : TopoEntry) : (s.setTopo e t).pending = s.pending := rfl
@[simp] theorem setTopo_free (s : State) (e : Nat) (t : TopoEntry) : (s.setTopo e t).free = s.free := rfl
@[simp] theorem setTopo_nextId (s : State) (e : Nat) (t : TopoEntry) : (s.setTopo e t).nextId = s.nextId := rfl
@[simp] theorem setTopo_out (s : State) (e : Nat) (t : TopoEntry) : (s.setTopo e t).out = s.out := rfl
@[simp] theorem setTopo_fuses (s : State) (e : Nat) (t : TopoEntry) : (s.setTopo e t).fuses = s.fuses := rfl
@[simp] theorem setTopo_regs (s : State) (e : Nat) (t : TopoEntry) : (s.setTopo e t).regs = s.regs := rfl
@[simp] theorem setTopo_pads (s : State) (e : Nat) (t : TopoEntry) : (s.setTopo e t).pads = s.pads := rfl
@[simp] theorem setTopo_tide (s : State) (e : Nat) (t : TopoEntry) : (s.setTopo e t).tide = s.tide := rfl
@[simp] theorem setTopo_boot (s : State) (e : Nat) (t : TopoEntry) : (s.setTopo e t).boot = s.boot := rfl
@[simp] theorem setTopo_exk (s : State) (e : Nat) (t : TopoEntry) : (s.setTopo e t).exk = s.exk := rfl
@[simp] theorem setTopo_islands (s : State) (e : Nat) (t : TopoEntry) : (s.setTopo e t).islands = s.islands := rfl
@[simp] theorem setTopo_cores (s : State) (e : Nat) (t : TopoEntry) : (s.setTopo e t).cores = s.cores := rfl
@[simp] theorem setTopo_clusters (s : State) (e : Nat) (t : TopoEntry) : (s.setTopo e t).clusters = s.clusters := rfl
@[simp] theorem setTopo_jobs (s : State) (e : Nat) (t : TopoEntry) : (s.setTopo e t).jobs = s.jobs := rfl
@[simp] theorem setTopo_recov (s : State) (e : Nat) (t : TopoEntry) : (s.setTopo e t).recov = s.recov := rfl
@[simp] theorem setTopo_spools (s : State) (e : Nat) (t : TopoEntry) : (s.setTopo e t).spools = s.spools := rfl
@[simp] theorem setTopo_resets (s : State) (e : Nat) (t : TopoEntry) : (s.setTopo e t).resets = s.resets := rfl
@[simp] theorem setTopo_keys (s : State) (e : Nat) (t : TopoEntry) : (s.setTopo e t).keys = s.keys := rfl
@[simp] theorem setTopo_msix (s : State) (e : Nat) (t : TopoEntry) : (s.setTopo e t).msix = s.msix := rfl
@[simp] theorem setTopo_tokens (s : State) (e : Nat) (t : TopoEntry) : (s.setTopo e t).tokens = s.tokens := rfl
@[simp] theorem setTopo_levelLo (s : State) (e : Nat) (t : TopoEntry) : (s.setTopo e t).levelLo = s.levelLo := rfl
@[simp] theorem setTopo_harbors (s : State) (e : Nat) (t : TopoEntry) : (s.setTopo e t).harbors = s.harbors := rfl
@[simp] theorem setTopo_registry (s : State) (e : Nat) (t : TopoEntry) : (s.setTopo e t).registry = s.registry := rfl
@[simp] theorem setTopo_models (s : State) (e : Nat) (t : TopoEntry) : (s.setTopo e t).models = s.models := rfl
@[simp] theorem setTopo_saved (s : State) (e : Nat) (t : TopoEntry) : (s.setTopo e t).saved = s.saved := rfl
@[simp] theorem setTopo_saves (s : State) (e : Nat) (t : TopoEntry) : (s.setTopo e t).saves = s.saves := rfl
@[simp] theorem setTopo_restores (s : State) (e : Nat) (t : TopoEntry) : (s.setTopo e t).restores = s.restores := rfl
@[simp] theorem setTopo_loadsWaiting (s : State) (e : Nat) (t : TopoEntry) : (s.setTopo e t).loadsWaiting = s.loadsWaiting := rfl
@[simp] theorem setTopo_loads (s : State) (e : Nat) (t : TopoEntry) : (s.setTopo e t).loads = s.loads := rfl
@[simp] theorem setTopo_lastLoad (s : State) (e : Nat) (t : TopoEntry) : (s.setTopo e t).lastLoad = s.lastLoad := rfl
@[simp] theorem setTopo_streams (s : State) (e : Nat) (t : TopoEntry) : (s.setTopo e t).streams = s.streams := rfl
@[simp] theorem setTopo_reqs (s : State) (e : Nat) (t : TopoEntry) : (s.setTopo e t).reqs = s.reqs := rfl
@[simp] theorem setTopo_binds (s : State) (e : Nat) (t : TopoEntry) : (s.setTopo e t).binds = s.binds := rfl
@[simp] theorem setTopo_pfx (s : State) (e : Nat) (t : TopoEntry) : (s.setTopo e t).pfx = s.pfx := rfl
@[simp] theorem setTopo_host (s : State) (e : Nat) (t : TopoEntry) : (s.setTopo e t).host = s.host := rfl

end Sys2Proof.Machine
end

