-- ==== Sys2Proof/Laws/Frames.lean ====
section
/-! SUPPORT. The frames of claims under the named updates: which registers, which core an update leaves alone. -/

namespace Sys2Proof.Machine

/-! ### Registers -/

theorem RegsBut.refl (rs : List Reg) (s : State) : RegsBut rs s s := fun _ _ => rfl
theorem RegsBut.setReg {rs : List Reg} {s t : State} {r : Reg} {v : Word} (h : RegsBut rs s t) (hr : r ∈ rs) :
    RegsBut rs s (t.setReg r v) := fun q hq => (reg_setReg_ne t r q v (hq r hr)).trans (h q hq)
theorem RegsBut.put {rs : List Reg} {s t : State} {f : RF} {n : Nat} (h : RegsBut rs s t) (hr : f.reg ∈ rs) :
    RegsBut rs s (t.put f n) := h.setReg hr
theorem RegsBut.of_regs {rs : List Reg} {s t u : State} (h : RegsBut rs s t) (e : u.regs = t.regs) : RegsBut rs s u := by
  intro q hq
  rw [← h q hq]
  simp only [State.reg, e]
theorem RegsBut.mono {rs qs : List Reg} {s t : State} (h : RegsBut rs s t) (hs : ∀ r ∈ rs, r ∈ qs) : RegsBut qs s t :=
  fun q hq => h q fun r hr => hq r (hs r hr)
theorem RegsBut.trans {rs : List Reg} {s t u : State} (h : RegsBut rs s t) (g : RegsBut rs t u) : RegsBut rs s u :=
  fun q hq => (g q hq).trans (h q hq)

theorem OnlyRegs.refl (rs : List Reg) (s : State) : OnlyRegs rs s s := ⟨rfl, .refl rs s⟩
theorem OnlyRegs.setReg {rs : List Reg} {s t : State} {r : Reg} {v : Word} (h : OnlyRegs rs s t) (hr : r ∈ rs) :
    OnlyRegs rs s (t.setReg r v) := ⟨by rw [h.1]; rfl, h.2.setReg hr⟩
theorem OnlyRegs.put {rs : List Reg} {s t : State} {f : RF} {n : Nat} (h : OnlyRegs rs s t) (hr : f.reg ∈ rs) :
    OnlyRegs rs s (t.put f n) := h.setReg hr
theorem OnlyRegs.inc {rs : List Reg} {s t : State} {f : RF} (h : OnlyRegs rs s t) (hr : f.reg ∈ rs) :
    OnlyRegs rs s (t.inc f) := h.setReg hr
theorem OnlyRegs.setFlag {rs : List Reg} {s t : State} {f : RF} {b : Bool} (h : OnlyRegs rs s t) (hr : f.reg ∈ rs) :
    OnlyRegs rs s (t.setFlag f b) := h.setReg hr

/-! ### Cores -/

@[simp] theorem core_setCore_self (s : State) (c : Nat) (k : CoreSt) : (s.setCore c k).core c = k := by
  simp [State.core, State.setCore]
theorem core_setCore_ne (s : State) {c d : Nat} (k : CoreSt) (h : d ≠ c) : (s.setCore c k).core d = s.core d := by
  simp [State.core, State.setCore, lookupD_insert_ne _ _ _ h]
@[simp] theorem core_setReg (s : State) (r : Reg) (v : Word) (c : Nat) : (s.setReg r v).core c = s.core c := rfl
@[simp] theorem core_put (s : State) (f : RF) (n c : Nat) : (s.put f n).core c = s.core c := rfl
@[simp] theorem core_inc (s : State) (f : RF) (c : Nat) : (s.inc f).core c = s.core c := rfl
@[simp] theorem core_bump (s : State) (f : RF) (n c : Nat) : (s.bump f n).core c = s.core c := rfl
@[simp] theorem core_setFlag (s : State) (f : RF) (b : Bool) (c : Nat) : (s.setFlag f b).core c = s.core c := rfl
@[simp] theorem core_raiseEvt (s : State) (c : Nat) (f : Nat → Nat → Nat → RF) (d : Nat) :
    (s.raiseEvt c f).core d = s.core d := rfl
@[simp] theorem core_poisonIn (s : State) (c : Nat) (p : Bool) (d : Nat) : (s.poisonIn c p).core d = s.core d := by
  unfold State.poisonIn; split <;> rfl
@[simp] theorem core_outOfRange (s : State) (c : Nat) (p : Bool) (d : Nat) : (s.outOfRange c p).core d = s.core d := by
  unfold State.outOfRange; split <;> rfl
@[simp] theorem core_countNaN (s : State) (c n d : Nat) : (s.countNaN c n).core d = s.core d := rfl
@[simp] theorem core_countFlush (s : State) (c n d : Nat) : (s.countFlush c n).core d = s.core d := rfl

theorem CoreFrame.refl (c : Nat) (rs : List Reg) (s : State) : CoreFrame c rs s s := ⟨rfl, .refl rs s, fun _ _ => rfl⟩
theorem CoreFrame.setCore {c : Nat} {rs : List Reg} {s t : State} {k : CoreSt} (h : CoreFrame c rs s t) :
    CoreFrame c rs s (t.setCore c k) :=
  ⟨by rw [h.1]; rfl, h.2.1.of_regs rfl, fun d hd => (core_setCore_ne t k hd).trans (h.2.2 d hd)⟩
theorem CoreFrame.setReg {c : Nat} {rs : List Reg} {s t : State} {r : Reg} {v : Word} (h : CoreFrame c rs s t)
    (hr : r ∈ rs) : CoreFrame c rs s (t.setReg r v) :=
  ⟨by rw [h.1]; rfl, h.2.1.setReg hr, h.2.2⟩
theorem CoreFrame.fuses {c : Nat} {rs : List Reg} {s t : State} (h : CoreFrame c rs s t) : t.fuses = s.fuses := by
  rw [h.1]
theorem CoreFrame.atCore {c : Nat} {rs : List Reg} {s t : State} (h : CoreFrame c rs s t) {α : Type} (d : Nat)
    (f : Nat → Nat → Nat → α) : t.atCore d f = s.atCore d f := by
  simp only [State.atCore, State.phys, h.fuses]
theorem CoreFrame.put {c : Nat} {rs : List Reg} {s t : State} {f : RF} {n : Nat} (h : CoreFrame c rs s t)
    (hr : f.reg ∈ rs) : CoreFrame c rs s (t.put f n) := h.setReg hr
theorem CoreFrame.raiseEvt {c : Nat} {rs : List Reg} {s t : State} {f : Nat → Nat → Nat → RF} (h : CoreFrame c rs s t)
    (hr : (s.atCore c f).reg ∈ rs) : CoreFrame c rs s (t.raiseEvt c f) := by
  unfold State.raiseEvt
  exact h.put (by rw [h.atCore]; exact hr)
theorem CoreFrame.poisonIn {c : Nat} {rs : List Reg} {s t : State} {p : Bool} (h : CoreFrame c rs s t)
    (hr : s.atCore c ISL_CORE_EVT ∈ rs) : CoreFrame c rs s (t.poisonIn c p) := by
  unfold State.poisonIn; split
  · exact h.raiseEvt hr
  · exact h
theorem CoreFrame.outOfRange {c : Nat} {rs : List Reg} {s t : State} {p : Bool} (h : CoreFrame c rs s t)
    (hr : s.atCore c ISL_CORE_EVT ∈ rs) : CoreFrame c rs s (t.outOfRange c p) := by
  unfold State.outOfRange; split
  · exact h.raiseEvt hr
  · exact h
theorem CoreFrame.countNaN {c : Nat} {rs : List Reg} {s t : State} {n : Nat} (h : CoreFrame c rs s t)
    (hr : s.atCore c ISL_CORE_VEC ∈ rs) : CoreFrame c rs s (t.countNaN c n) :=
  h.put (by rw [h.atCore]; exact hr)
theorem CoreFrame.countFlush {c : Nat} {rs : List Reg} {s t : State} {n : Nat} (h : CoreFrame c rs s t)
    (hr : s.atCore c ISL_CORE_VEC ∈ rs) : CoreFrame c rs s (t.countFlush c n) :=
  h.put (by rw [h.atCore]; exact hr)

/-! ### The end of an instruction -/

theorem core_setSlotDone (s : State) (c : Nat) (x : SlotSt) :
    (s.setSlotDone c x).core c = { (s.core c).setActive x with stepOnce := false } := by
  unfold State.setSlotDone; dsimp only; split <;> simp
theorem CoreFrame.setSlotDone {c : Nat} {rs : List Reg} {s t : State} {x : SlotSt} (h : CoreFrame c rs s t)
    (hr : s.atCore c ISL_CORE_DBG ∈ rs) : CoreFrame c rs s (t.setSlotDone c x) := by
  unfold State.setSlotDone; dsimp only; split
  · exact h.setCore.put (by rw [h.setCore.atCore]; exact hr)
  · exact h.setCore
theorem core_advance (s : State) (c : Nat) : (s.advance c).core c = (s.core c).next := core_setSlotDone ..
theorem core_finish (s : State) (c : Nat) (g : SlotSt → SlotSt) :
    (s.finish c g).core c = { (s.core c).setActive (g (s.core c).slot).advance with stepOnce := false } := core_setSlotDone ..
theorem CoreFrame.advance {c : Nat} {rs : List Reg} {s t : State} (h : CoreFrame c rs s t)
    (hr : s.atCore c ISL_CORE_DBG ∈ rs) : CoreFrame c rs s (t.advance c) := h.setSlotDone hr
theorem CoreFrame.finish {c : Nat} {rs : List Reg} {s t : State} {g : SlotSt → SlotSt} (h : CoreFrame c rs s t)
    (hr : s.atCore c ISL_CORE_DBG ∈ rs) : CoreFrame c rs s (t.finish c g) := h.setSlotDone hr

/-! ### Issue -/

theorem issue_runs {c : Nat} {s : State} (run : State → State) (h : s.canIssue c = true) : issue c run s = .next (run s) := by
  simp [issue, h]
theorem issue_idle {c : Nat} {s : State} (run : State → State) (h : s.canIssue c = false) : issue c run s = .next s := by
  simp [issue, h]
theorem gate_runs {c : Nat} {s : State} {checks : List (Bool × Nat)} (run : State → State) (h : ∀ e ∈ checks, e.1 = true) :
    s.gate c checks run = run s := by
  induction checks with
  | nil => rfl
  | cons e rest ih =>
    obtain ⟨ok, n⟩ := e
    have : ok = true := h _ (List.mem_cons_self ..)
    subst this
    exact ih fun e he => h e (List.mem_cons_of_mem _ he)
theorem gate_holds {c n : Nat} {s : State} {rest : List (Bool × Nat)} (run : State → State) :
    s.gate c ((false, n) :: rest) run = s.hold c n := rfl
theorem control_runs {c : Nat} {s : State} {regs : List Nat} (run : State → State)
    (h : ∀ r ∈ regs, s.spoison c r = false) : s.control c regs run = run s := by
  unfold State.control
  rw [if_neg]
  simpa using h
theorem control_stops {c r : Nat} {s : State} {regs : List Nat} (run : State → State) (hr : r ∈ regs)
    (h : s.spoison c r = true) : s.control c regs run = s.poisonStop c := by
  unfold State.control
  rw [if_pos]
  exact List.any_eq_true.mpr ⟨r, hr, h⟩

end Sys2Proof.Machine
end

