-- ==== Sys2Proof/Laws/CoreResults.lean ====
section
/-! SUPPORT. What the ends of an instruction do to the events of its core, and to the bytes of its tile store. -/

namespace Sys2Proof.Machine

/-! ### Events -/

theorem get_setCore (s : State) (c : Nat) (k : CoreSt) (f : RF) : (s.setCore c k).get f = s.get f := rfl
theorem flag_setCore (s : State) (c : Nat) (k : CoreSt) (f : RF) : (s.setCore c k).flag f = s.flag f := rfl
theorem flag_put_ne (s : State) (f g : RF) (n : Nat) (h : g.reg.addr ≠ f.reg.addr) : (s.put f n).flag g = s.flag g := by
  simp [State.flag, get_put_ne s f g n h]
theorem flag_put_apart (s : State) (f g : RF) (n : Nat) (hr : g.reg = f.reg)
    (h : g.lo + g.width ≤ f.lo ∨ f.lo + f.width ≤ g.lo) : (s.put f n).flag g = s.flag g := by
  simp [State.flag, get_put_apart s f g n hr h]
theorem atCore_setCore (s : State) (c d : Nat) (k : CoreSt) {α : Type} (f : Nat → Nat → Nat → α) :
    (s.setCore d k).atCore c f = s.atCore c f := rfl
theorem atCore_put (s : State) (c : Nat) (g : RF) (n : Nat) {α : Type} (f : Nat → Nat → Nat → α) :
    (s.put g n).atCore c f = s.atCore c f := rfl

theorem evt_ne_dbg (s : State) (c : Nat) : (s.atCore c ISL_CORE_EVT).addr ≠ (s.atCore c ISL_CORE_DBG).addr := by
  simp [State.atCore, ISL_CORE_EVT, ISL_CORE_DBG]
theorem evt_ne_vec (s : State) (c : Nat) : (s.atCore c ISL_CORE_EVT).addr ≠ (s.atCore c ISL_CORE_VEC).addr := by
  simp [State.atCore, ISL_CORE_EVT, ISL_CORE_VEC]
theorem evt_ne_stall (s : State) (c n : Nat) (hn : n < 8) :
    (s.atCore c ISL_CORE_EVT).addr ≠ (s.atCore c fun i k j => ISL_CORE_STALL i k j n).addr := by
  simp [State.atCore, ISL_CORE_EVT, ISL_CORE_STALL]; omega

/-- The end of an instruction is seen in the debug register of its core at most. -/
theorem flag_setSlotDone (s : State) (c : Nat) (x : SlotSt) (g : RF) (h : g.reg.addr ≠ (s.atCore c ISL_CORE_DBG).addr) :
    (s.setSlotDone c x).flag g = s.flag g := by
  unfold State.setSlotDone; dsimp only; split
  · exact (flag_put_ne _ _ _ _ h).trans rfl
  · rfl
theorem flag_advance (s : State) (c : Nat) (g : RF) (h : g.reg.addr ≠ (s.atCore c ISL_CORE_DBG).addr) :
    (s.advance c).flag g = s.flag g := flag_setSlotDone s c _ g h
theorem flag_finish (s : State) (c : Nat) (k : SlotSt → SlotSt) (g : RF) (h : g.reg.addr ≠ (s.atCore c ISL_CORE_DBG).addr) :
    (s.finish c k).flag g = s.flag g := flag_setSlotDone s c _ g h
theorem flag_countNaN (s : State) (c n : Nat) (g : RF) (h : g.reg.addr ≠ (s.atCore c ISL_CORE_VEC).addr) :
    (s.countNaN c n).flag g = s.flag g := flag_put_ne _ _ _ _ h
theorem flag_countFlush (s : State) (c n : Nat) (g : RF) (h : g.reg.addr ≠ (s.atCore c ISL_CORE_VEC).addr) :
    (s.countFlush c n).flag g = s.flag g := flag_put_ne _ _ _ _ h

theorem flag_poisonIn (s : State) (c : Nat) (p : Bool) {g : RF} (hg : s.atCore c ISL_CORE_EVT_POISON_IN = g) :
    (s.poisonIn c p).flag g = (s.flag g || p) := by
  subst hg
  unfold State.poisonIn; cases p
  · simp
  · simp only [State.raiseEvt, if_true, Bool.or_true]
    exact flag_setFlag_self _ _ _ (show 2 + 1 ≤ 32 by decide) (show 0 < 1 by decide)
theorem flag_outOfRange (s : State) (c : Nat) (p : Bool) {g : RF} (hg : s.atCore c ISL_CORE_EVT_ADDR_OOR = g) :
    (s.outOfRange c p).flag g = (s.flag g || p) := by
  subst hg
  unfold State.outOfRange; cases p
  · simp
  · simp only [State.raiseEvt, if_true, Bool.or_true]
    exact flag_setFlag_self _ _ _ (show 1 + 1 ≤ 32 by decide) (show 0 < 1 by decide)
theorem flag_poisonIn_oor (s : State) (c : Nat) (p : Bool) {g : RF} (hg : s.atCore c ISL_CORE_EVT_ADDR_OOR = g) :
    (s.poisonIn c p).flag g = s.flag g := by
  subst hg
  unfold State.poisonIn; split
  · exact flag_put_apart _ _ _ _ rfl (show 1 + 1 ≤ 2 ∨ 2 + 1 ≤ 1 by decide)
  · rfl
theorem flag_outOfRange_pin (s : State) (c : Nat) (p : Bool) {g : RF} (hg : s.atCore c ISL_CORE_EVT_POISON_IN = g) :
    (s.outOfRange c p).flag g = s.flag g := by
  subst hg
  unfold State.outOfRange; split
  · exact flag_put_apart _ _ _ _ rfl (show 2 + 1 ≤ 1 ∨ 1 + 1 ≤ 2 by decide)
  · rfl

@[simp] theorem atCore_poisonIn (s : State) (c d : Nat) (p : Bool) {α : Type} (f : Nat → Nat → Nat → α) :
    (s.poisonIn d p).atCore c f = s.atCore c f := by unfold State.poisonIn; split <;> rfl
@[simp] theorem atCore_outOfRange (s : State) (c d : Nat) (p : Bool) {α : Type} (f : Nat → Nat → Nat → α) :
    (s.outOfRange d p).atCore c f = s.atCore c f := by unfold State.outOfRange; split <;> rfl

/-! ### Bytes of the tile store -/

theorem byte_setBytes_out (t : TileStore) {a b : Nat} (bs : List Byte) (h : b < a ∨ a + bs.length ≤ b) :
    (t.setBytes a bs).byte b = t.byte b := by
  simp only [TileStore.byte, TileStore.setBytes, lookupD_storeMany]
  rw [if_neg]
  omega
theorem byte_setBytes_in (t : TileStore) {a b : Nat} (bs : List Byte) (h : a ≤ b ∧ b < a + bs.length) :
    (t.setBytes a bs).byte b = bs.getD (b - a) 0 := by
  simp only [TileStore.byte, TileStore.setBytes, lookupD_storeMany]
  rw [if_pos h]
@[simp] theorem byte_setWords (t : TileStore) (w b : Nat) (ps : List Bool) : (t.setWords w ps).byte b = t.byte b := rfl
@[simp] theorem byte_setScales (t : TileStore) (w b : Nat) (ps : List Byte) : (t.setScales w ps).byte b = t.byte b := rfl
@[simp] theorem byte_setSpois (t : TileStore) (w b : Nat) (ps : List Bool) : (t.setSpois w ps).byte b = t.byte b := rfl
theorem length_leBytes (n v : Nat) : (leBytes n v).length = n := by
  induction n generalizing v with
  | zero => rfl
  | succ n ih => simp [leBytes, ih]

/-- A granule written touches its own 64 bytes. -/
theorem byte_setGranule_out (t : TileStore) {g b : Nat} (x : Granule) (h : b < 64 * g ∨ 64 * g + 64 ≤ b) :
    (t.setGranule g x).byte b = t.byte b := by
  unfold TileStore.setGranule
  simp only [byte_setSpois, byte_setScales, byte_setWords]
  apply byte_setBytes_out
  simp only [List.length_take]
  omega

theorem byte_setPlain_out (t : TileStore) (c : BitVec 4) {a b : Nat} (codes : List Nat) (ps : List Bool)
    (h : b < a ∨ a + codes.length * (elemBits c / 8) ≤ b) : (t.setPlain c a codes ps).byte b = t.byte b := by
  unfold TileStore.setPlain
  simp only [byte_setWords]
  apply byte_setBytes_out
  have : (codes.flatMap fun k => leBytes (elemBits c / 8) k).length = codes.length * (elemBits c / 8) := by
    simp [List.length_flatMap, length_leBytes]
  rw [this]; exact h

/-- An MX block written touches its own bytes; the second block of a 6-bit granule also its last 16 (R204). -/
theorem byte_setMxBlock_out (t : TileStore) (c : BitVec 4) (gr j scale : Nat) (codes : List Nat) (ps : List Bool) (b : Nat)
    (h : b < 64 * gr + (mxPlace c j).1 ∨ 64 * gr + (mxPlace c j).1 + (mxPlace c j).2 ≤ b)
    (h6 : elemBits c = 6 ∧ j = 1 → b < 64 * gr + 48 ∨ 64 * gr + 64 ≤ b) :
    (t.setMxBlock c gr j scale codes ps).byte b = t.byte b := by
  unfold TileStore.setMxBlock
  dsimp only
  have g (v : Nat) : (t.setBytes (64 * gr + (mxPlace c j).1) (leBytes (mxPlace c j).2 v)).byte b = t.byte b :=
    byte_setBytes_out _ _ (by rw [length_leBytes]; exact h)
  simp only [TileStore.byte, TileStore.setWords] at g ⊢
  split
  · rename_i h2
    have e := byte_setBytes_out (t.setBytes (64 * gr + (mxPlace c j).1) (leBytes (mxPlace c j).2
      ((codes.mapIdx fun i k => k <<< (elemBits c * i)).foldl (· + ·) 0))) (a := 64 * gr + 48) (b := b) (List.replicate 16 0)
      (by simpa using h6 h2)
    simp only [TileStore.byte] at e
    exact e.trans (g _)
  · exact g _

/-- A vector store touches the bytes of its 64 elements, at an address aligned as R108 says. -/
theorem byte_vecStore_out (t : TileStore) (cvt : BitVec 8) (a : Nat) (rm : Nat → Rounding) (vs : List FV) (ps : List Bool)
    (b : Nat) (hv : vs.length ≤ 64) (ha : vecBytes (cvtDfmt cvt) ∣ a) (h : b < a ∨ a + vecBytes (cvtDfmt cvt) ≤ b) :
    (t.vecStore cvt a rm vs ps).byte b = t.byte b := by
  unfold TileStore.vecStore
  generalize cvtDfmt cvt = c at ha h ⊢
  dsimp only
  unfold vecBytes at ha h
  have h8 : elemBits c = 32 ∨ elemBits c = 16 ∨ elemBits c = 8 ∨ elemBits c = 6 ∨ elemBits c = 4 := by
    unfold elemBits; grind
  split
  · rename_i hm
    rw [if_pos hm] at ha h
    have h3 : elemBits c = 8 ∨ elemBits c = 6 ∨ elemBits c = 4 := by
      revert hm; generalize c = n; revert n; decide
    obtain ⟨k, rfl⟩ := ha
    rcases h3 with e | e | e <;> simp only [e, if_true, if_false, Nat.reduceEqDiff] at h ⊢ <;>
    · rw [byte_setMxBlock_out, byte_setMxBlock_out] <;>
        simp only [mxPlace, e, if_true, if_false, Nat.reduceEqDiff, false_and, true_and, IsEmpty.forall_iff] <;> omega
  · rename_i hm
    rw [if_neg hm] at h
    apply byte_setPlain_out
    have : vs.length * (elemBits c / 8) ≤ 8 * elemBits c := by
      rcases h8 with e | e | e | e | e <;> rw [e] <;> omega
    simp only [List.length_mapIdx]
    omega

end Sys2Proof.Machine
end

