-- ==== Sys2Proof/Laws/Memory.lean ====
section
/-! SUPPORT. Every operation on an addressed memory keeps its canonical form: the tile stores of the cores and the tiers of
the harbors. -/

namespace Sys2Proof.Machine

/-! ### Tile stores -/

theorem TileStore.wf_iff (t : TileStore) :
    t.wf = true ↔ canonical 0 t.data = true ∧ canonical 0 t.scales = true ∧ canonical false t.wpois = true
      ∧ canonical false t.spois = true := by
  simp [TileStore.wf, and_assoc]

theorem tileStoreReset_wf : tileStoreReset.wf = true := rfl

theorem TileStore.setBytes_wf {t : TileStore} (a : Nat) (bs : List Byte) (h : t.wf = true) : (t.setBytes a bs).wf = true := by
  rw [TileStore.wf_iff] at h ⊢
  exact ⟨canonical_storeMany 0 a bs h.1, h.2⟩
theorem TileStore.setWords_wf {t : TileStore} (w : Nat) (ps : List Bool) (h : t.wf = true) : (t.setWords w ps).wf = true := by
  rw [TileStore.wf_iff] at h ⊢
  exact ⟨h.1, h.2.1, canonical_storeMany false w ps h.2.2.1, h.2.2.2⟩
theorem TileStore.setScales_wf {t : TileStore} (g : Nat) (ss : List Byte) (h : t.wf = true) : (t.setScales g ss).wf = true := by
  rw [TileStore.wf_iff] at h ⊢
  exact ⟨h.1, canonical_storeMany 0 (4 * g) ss h.2.1, h.2.2⟩
theorem TileStore.setSpois_wf {t : TileStore} (g : Nat) (ps : List Bool) (h : t.wf = true) : (t.setSpois g ps).wf = true := by
  rw [TileStore.wf_iff] at h ⊢
  exact ⟨h.1, h.2.1, h.2.2.1, canonical_storeMany false (4 * g) ps h.2.2.2⟩
theorem TileStore.setGranule_wf {t : TileStore} (g : Nat) (x : Granule) (h : t.wf = true) : (t.setGranule g x).wf = true :=
  setSpois_wf _ _ (setScales_wf _ _ (setWords_wf _ _ (setBytes_wf _ _ h)))
theorem TileStore.setGranules_wf (xs : List Granule) {t : TileStore} (g : Nat) (h : t.wf = true) :
    (t.setGranules g xs).wf = true := by
  induction xs generalizing t g with
  | nil => exact h
  | cons x rest ih => exact ih (g + 1) (setGranule_wf g x h)
theorem TileStore.below_wf {t : TileStore} (e : Nat) (h : t.wf = true) : (t.below e).wf = true := by
  rw [TileStore.wf_iff] at h ⊢
  exact ⟨canonical_eraseRange 0 _ _ h.1, canonical_eraseRange 0 _ _ h.2.1, canonical_eraseRange false _ _ h.2.2.1,
    canonical_eraseRange false _ _ h.2.2.2⟩
theorem TileStore.setMxBlock_wf {t : TileStore} (c : BitVec 4) (g j n : Nat) (codes : List Nat) (ps : List Bool)
    (h : t.wf = true) : (t.setMxBlock c g j n codes ps).wf = true := by
  unfold TileStore.setMxBlock
  extract_lets
  dsimp only
  have k : ∀ {u : TileStore} (a b : Nat) (v : Byte) (p : Bool), u.wf = true →
      ({ u with scales := store 0 u.scales a v, spois := store false u.spois b p } : TileStore).wf = true := by
    intro u a b v p hu
    rw [TileStore.wf_iff] at hu ⊢
    exact ⟨hu.1, canonical_store 0 a v hu.2.1, hu.2.2.1, canonical_store false b p hu.2.2.2⟩
  apply k
  apply setWords_wf
  split
  · exact setBytes_wf _ _ (setBytes_wf _ _ h)
  · exact setBytes_wf _ _ h
theorem TileStore.setPlain_wf {t : TileStore} (c : BitVec 4) (a : Nat) (codes : List Nat) (ps : List Bool) (h : t.wf = true) :
    (t.setPlain c a codes ps).wf = true :=
  setWords_wf _ _ (setBytes_wf _ _ h)
theorem TileStore.vecStore_wf {t : TileStore} (cvt : BitVec 8) (a : Nat) (rm : Nat → Rounding) (vs : List FV) (ps : List Bool)
    (h : t.wf = true) : (t.vecStore cvt a rm vs ps).wf = true := by
  unfold TileStore.vecStore
  extract_lets
  split
  · exact setMxBlock_wf _ _ _ _ _ _ (setMxBlock_wf _ _ _ _ _ _ h)
  · exact setPlain_wf _ _ _ _ h

/-! ### Tiers -/

theorem HarborSt.memWf_iff (x : HarborSt) :
    x.memWf = true ↔ (canonical 0 x.near = true ∧ canonical 0 x.mid = true ∧ canonical 0 x.far = true)
      ∧ canonical false x.npois = true ∧ canonical false x.mpois = true ∧ canonical false x.fpois = true := by
  simp [HarborSt.memWf, and_assoc]

theorem harborReset_memWf : harborReset.memWf = true := rfl

/-- Contents that are in their form, put in place of a harbor's own. -/
theorem HarborSt.memWf_of {x : HarborSt} (h1 : canonical 0 x.near = true) (h2 : canonical 0 x.mid = true)
    (h3 : canonical 0 x.far = true) (h4 : canonical false x.npois = true) (h5 : canonical false x.mpois = true)
    (h6 : canonical false x.fpois = true) : x.memWf = true :=
  (memWf_iff x).mpr ⟨⟨h1, h2, h3⟩, h4, h5, h6⟩

theorem HarborSt.nearPut_memWf {x : HarborSt} (frame g : Nat) (v : Granule) (h : x.memWf = true) :
    (x.nearPut frame g v).memWf = true := by
  obtain ⟨⟨h1, h2, h3⟩, h4, h5, h6⟩ := (memWf_iff x).mp h
  exact memWf_of (canonical_storeMany 0 _ _ h1) h2 h3 (canonical_storeMany false _ _ h4) h5 h6
theorem HarborSt.midPut_memWf {x : HarborSt} (frame g : Nat) (v : Granule) (h : x.memWf = true) :
    (x.midPut frame g v).memWf = true := by
  obtain ⟨⟨h1, h2, h3⟩, h4, h5, h6⟩ := (memWf_iff x).mp h
  unfold HarborSt.midPut
  extract_lets
  split
  · exact h
  · refine memWf_of h1 (canonical_storeMany 0 _ _ h2) h3 h4 ?_ h6
    dsimp only
    split
    · exact canonical_store false _ _ h5
    · exact h5
theorem HarborSt.farPut_memWf {x : HarborSt} (page g : Nat) (v : Granule) (h : x.memWf = true) :
    (x.farPut page g v).memWf = true := by
  obtain ⟨⟨h1, h2, h3⟩, h4, h5, h6⟩ := (memWf_iff x).mp h
  unfold HarborSt.farPut
  extract_lets
  refine memWf_of h1 h2 (canonical_storeMany 0 _ _ h3) h4 h5 ?_
  dsimp only
  split
  · exact canonical_store false _ _ h6
  · exact h6
theorem putAll_memWf {put : HarborSt → Nat → Granule → HarborSt}
    (hp : ∀ x g v, x.memWf = true → (put x g v).memWf = true) (vs : List Granule) {x : HarborSt} (g : Nat)
    (h : x.memWf = true) : (putAll put x g vs).memWf = true := by
  induction vs generalizing x g with
  | nil => exact h
  | cons v rest ih => exact ih (g + 1) (hp x g v h)
theorem HarborSt.clearPieces_memWf {x : HarborSt} (frame g n : Nat) (h : x.memWf = true) :
    (x.clearPieces frame g n).memWf = true := by
  obtain ⟨⟨h1, h2, h3⟩, h4, h5, h6⟩ := (memWf_iff x).mp h
  exact memWf_of h1 h2 h3 h4 (canonical_eraseRange false _ _ h5) h6
theorem HarborSt.clearUnits_memWf {x : HarborSt} (page g n : Nat) (h : x.memWf = true) :
    (x.clearUnits page g n).memWf = true := by
  obtain ⟨⟨h1, h2, h3⟩, h4, h5, h6⟩ := (memWf_iff x).mp h
  exact memWf_of h1 h2 h3 h4 h5 (canonical_eraseRange false _ _ h6)
theorem HarborSt.scrubNear_memWf {x : HarborSt} (frame : Nat) (h : x.memWf = true) : (x.scrubNear frame).memWf = true := by
  obtain ⟨⟨h1, h2, h3⟩, h4, h5, h6⟩ := (memWf_iff x).mp h
  exact memWf_of (canonical_eraseRange 0 _ _ h1) h2 h3 (canonical_eraseRange false _ _ h4) h5 h6
theorem HarborSt.scrubMid_memWf {x : HarborSt} (frame : Nat) (h : x.memWf = true) : (x.scrubMid frame).memWf = true := by
  obtain ⟨⟨h1, h2, h3⟩, h4, h5, h6⟩ := (memWf_iff x).mp h
  exact memWf_of h1 (canonical_eraseRange 0 _ _ h2) h3 h4 (canonical_eraseRange false _ _ h5) h6
theorem HarborSt.copyToMid_memWf {x : HarborSt} (frame dst : Nat) (h : x.memWf = true) :
    (x.copyToMid frame dst).memWf = true :=
  putAll_memWf (fun _ _ _ => midPut_memWf _ _ _) _ _ (clearPieces_memWf _ _ _ h)
theorem HarborSt.pagePut_memWf {x : HarborSt} (index page g : Nat) (vs : List Granule) (h : x.memWf = true) :
    (x.pagePut index page g vs).memWf = true := by
  unfold HarborSt.pagePut
  split
  · exact h
  · rename_i o e
    extract_lets x1 x2
    have h1 : x1.memWf = true := by
      unfold x1
      split
      · exact putAll_memWf (fun _ _ _ => nearPut_memWf _ _ _) _ _ h
      · exact h
    have h2 : x2.memWf = true := by
      unfold x2
      split
      · exact putAll_memWf (fun _ _ _ => midPut_memWf _ _ _) _ _ (clearPieces_memWf _ _ _ h1)
      · exact h1
    split
    · exact putAll_memWf (fun _ _ _ => farPut_memWf _ _ _) _ _ (clearUnits_memWf _ _ _ h2)
    · exact h2

/-- Marks set one after the other. -/
theorem canonical_foldl_store {α β : Type} [DecidableEq α] (d : α) (k : β → Nat) (v : β → α) (l : List β) {m : SMap α}
    (h : canonical d m = true) : canonical d (l.foldl (fun m e => store d m (k e) (v e)) m) = true := by
  induction l generalizing m with
  | nil => exact h
  | cons e rest ih => exact ih (canonical_store d _ _ h)
theorem HarborSt.afterReset_memWf {x : HarborSt} (h : x.memWf = true) : x.afterReset.memWf = true := by
  obtain ⟨⟨_, _, h3⟩, _, _, h6⟩ := (memWf_iff x).mp h
  exact memWf_of rfl rfl h3 rfl rfl h6

/-! ### Good after good: what holds once every memory of `z` is in its form -/

def GoodT (z : State) (t : TileStore) : Prop := Memory.wf z = true → t.wf = true
def GoodC (z : State) (k : CoreSt) : Prop := Memory.wf z = true → k.ts.wf = true
def GoodH (z : State) (x : HarborSt) : Prop := Memory.wf z = true → x.memWf = true

theorem Memory.wf_iff (s : State) :
    Memory.wf s = true ↔ (∀ e ∈ s.harbors, e.2.memWf = true) ∧ (∀ e ∈ s.cores, e.2.ts.wf = true)
      ∧ ∀ j ∈ s.saved, ∀ e ∈ j.cores, e.2.ts.wf = true := by
  simp [Memory.wf, List.all_eq_true, and_assoc]

theorem goodC_mk_iff (z : State) (k : CoreSt) (a b c d e f g h i j l m n o p q r s t u v w x y A B C) :
    GoodC z (CoreSt.mk a b c d e f k.ts g h i j l m n o p q r s t u v w x y A B C) ↔ GoodC z k := Iff.rfl
theorem goodC_ts {z : State} {t : TileStore} (ht : GoodT z t) {a b c d e f g h i j l m n o p q r s t' u v w x y A B C} :
    GoodC z (CoreSt.mk a b c d e f t g h i j l m n o p q r s t' u v w x y A B C) := ht
theorem goodT_ts {z : State} {k : CoreSt} (h : GoodC z k) : GoodT z k.ts := h
theorem goodH_mk_iff (z : State) (x : HarborSt) (a b c d e f g h i j k l m n o p q r s t u) :
    GoodH z (HarborSt.mk a x.near x.npois x.mid x.mpois x.far x.fpois b c d e f g h i j k l m n o p q r s t u) ↔ GoodH z x :=
  Iff.rfl
theorem goodC_of_ts {z : State} {k l : CoreSt} (h : GoodC z k) (e : l.ts = k.ts) : GoodC z l := by
  intro w
  rw [e]
  exact h w
theorem goodH_npois {z : State} {x : HarborSt} (h : GoodH z x) {m : SMap Bool} (hm : canonical false x.npois = true →
    canonical false m = true) {a b c d e f g i j k l n o p q r s t u v y1} :
    GoodH z (HarborSt.mk a x.near m x.mid x.mpois x.far x.fpois b c d e f g i j k l n o p q r s t u v y1) := by
  intro w
  obtain ⟨⟨h1, h2, h3⟩, h4, h5, h6⟩ := (HarborSt.memWf_iff x).mp (h w)
  exact HarborSt.memWf_of h1 h2 h3 (hm h4) h5 h6
theorem goodH_mpois {z : State} {x : HarborSt} (h : GoodH z x) {m : SMap Bool} (hm : canonical false x.mpois = true →
    canonical false m = true) {a b c d e f g i j k l n o p q r s t u v y1} :
    GoodH z (HarborSt.mk a x.near x.npois x.mid m x.far x.fpois b c d e f g i j k l n o p q r s t u v y1) := by
  intro w
  obtain ⟨⟨h1, h2, h3⟩, h4, h5, h6⟩ := (HarborSt.memWf_iff x).mp (h w)
  exact HarborSt.memWf_of h1 h2 h3 h4 (hm h5) h6
theorem goodH_far {z : State} {x : HarborSt} (h : GoodH z x) {y : SMap Byte} {m : SMap Bool}
    (hy : canonical 0 x.far = true → canonical 0 y = true) (hm : canonical false x.fpois = true → canonical false m = true)
    {a b c d e f g i j k l n o p q r s t u v y1} :
    GoodH z (HarborSt.mk a x.near x.npois x.mid x.mpois y m b c d e f g i j k l n o p q r s t u v y1) := by
  intro w
  obtain ⟨⟨h1, h2, h3⟩, h4, h5, h6⟩ := (HarborSt.memWf_iff x).mp (h w)
  exact HarborSt.memWf_of h1 h2 (hy h3) h4 h5 (hm h6)
theorem goodC_ite {z : State} {a b : CoreSt} {c : Prop} [Decidable c] (ha : GoodC z a) (hb : GoodC z b) :
    GoodC z (if c then a else b) := by
  split <;> assumption
theorem goodH_ite {z : State} {a b : HarborSt} {c : Prop} [Decidable c] (ha : GoodH z a) (hb : GoodH z b) :
    GoodH z (if c then a else b) := by
  split <;> assumption
theorem goodT_ite {z : State} {a b : TileStore} {c : Prop} [Decidable c] (ha : GoodT z a) (hb : GoodT z b) :
    GoodT z (if c then a else b) := by
  split <;> assumption
theorem goodC_foldl {α : Type} {z : State} {f : CoreSt → α → CoreSt} (hf : ∀ k x, GoodC z k → GoodC z (f k x)) :
    ∀ (l : List α) (k : CoreSt), GoodC z k → GoodC z (l.foldl f k)
  | [], _, h => h
  | x :: l, k, h => goodC_foldl hf l (f k x) (hf k x h)
theorem goodH_foldl {α : Type} {z : State} {f : HarborSt → α → HarborSt} (hf : ∀ k x, GoodH z k → GoodH z (f k x)) :
    ∀ (l : List α) (k : HarborSt), GoodH z k → GoodH z (l.foldl f k)
  | [], _, h => h
  | x :: l, k, h => goodH_foldl hf l (f k x) (hf k x h)
theorem goodT_foldl {α : Type} {z : State} {f : TileStore → α → TileStore} (hf : ∀ k x, GoodT z k → GoodT z (f k x)) :
    ∀ (l : List α) (k : TileStore), GoodT z k → GoodT z (l.foldl f k)
  | [], _, h => h
  | x :: l, k, h => goodT_foldl hf l (f k x) (hf k x h)

end Sys2Proof.Machine
end

