-- ==== Sys2Proof/Laws/On.lean ====
section
/-! SUPPORT. What every operation of the block leaves in order: the commands that wait, the fuses but for the rollback counter,
the order of the register file, and the canonical form of every memory. -/

namespace Sys2Proof.Machine

/-- The same commands wait, the fuses are those of `z` but for a rollback counter that has not fallen, and the register file is
in order and the memories are in their canonical form if those of `z` are. -/
def Kept (z s : State) : Prop :=
  s.pending = z.pending ∧ { s.fuses with rollback := 0 } = { z.fuses with rollback := 0 }
    ∧ z.fuses.rollback ≤ s.fuses.rollback ∧ (rising z.regs = true → rising s.regs = true)
    ∧ (Memory.wf z = true → Memory.wf s = true)

/-- `s` comes after `z`: what `Kept` says, and the tide stands still, or stands no earlier. -/
def Onward (z s : State) : Prop :=
  s.pending = z.pending ∧ { s.fuses with rollback := 0 } = { z.fuses with rollback := 0 }
    ∧ z.fuses.rollback ≤ s.fuses.rollback ∧ (rising z.regs = true → rising s.regs = true)
    ∧ (s.tide.running = false ∨ z.tide.now.toNat ≤ s.tide.now.toNat) ∧ (Memory.wf z = true → Memory.wf s = true)

theorem Onward.kept {z s : State} (h : Onward z s) : Kept z s := ⟨h.1, h.2.1, h.2.2.1, h.2.2.2.1, h.2.2.2.2.2⟩
theorem Onward.mem {z s : State} (h : Onward z s) : Memory.wf z = true → Memory.wf s = true := h.2.2.2.2.2

def OnwardO (z : State) (o : Option State) : Prop := ∀ t, o = some t → Onward z t
def OnwardF {β : Type} (z : State) (o : Option (State × β)) : Prop := ∀ t, o = some t → Onward z t.1
def OnwardA (z : State) (o : Answer) : Prop := ∀ t, o = Host.Outcome.next t → Onward z t

theorem rising_filterMap {f : Nat × Word → Option (Nat × Word)} (hf : ∀ e b, f e = some b → b.1 = e.1) :
    ∀ {m : SMap Word}, rising m = true → rising (m.filterMap f) = true
  | [], _ => rfl
  | e :: rest, h => by
    have h2 := rising_cons.mp h
    rw [List.filterMap_cons]
    split
    · exact rising_filterMap hf h2.2
    · rename_i b hb
      refine rising_cons.mpr ⟨?_, rising_filterMap hf h2.2⟩
      intro x hx
      obtain ⟨y, hy, hyx⟩ := List.mem_filterMap.mp hx
      rw [hf e b hb, hf y x hyx]
      exact h2.1 y hy
theorem rising_warmRegs {m : SMap Word} (h : rising m = true) : rising (warmRegs m) = true := by
  refine rising_filterMap ?_ h
  intro e b hb
  dsimp only at hb
  split at hb
  · exact nomatch hb
  · cases hb; rfl
theorem rising_insertAll (l : List (Nat × Word)) {m : SMap Word} (h : rising m = true) :
    rising (l.foldl (fun m e => insert m e.1 e.2) m) = true := by
  induction l generalizing m with
  | nil => exact h
  | cons e rest ih => exact ih (rising_insert _ _ h)

theorem on_refl (s : State) : Onward s s := ⟨rfl, rfl, le_refl _, id, .inr (le_refl _), id⟩

theorem on_regs {z s : State} (h : Onward z s) {R} (hr : rising s.regs = true → rising R = true) {a b c d f g i j k l m n o p q r t u v w x y A B C D E F G} :
    Onward z (State.mk s.pending a b c s.fuses R d s.tide f g i s.cores j k l m n o p q r s.harbors t u s.saved v w x y A B C D E F G) :=
  ⟨h.1, h.2.1, h.2.2.1, fun y => hr (h.2.2.2.1 y), h.2.2.2.2⟩
theorem on_mk_iff (z s : State) (a b c d f g i j k l m n o p q r t u v w x y A B C D E F G) :
    Onward z (State.mk s.pending a b c s.fuses s.regs d s.tide f g i s.cores j k l m n o p q r s.harbors t u s.saved v w x y A B C D E F G) ↔
      Onward z s :=
  Iff.rfl

/-! ### Cores, harbors and saved jobs replaced -/

theorem mem_of_lookup {α : Type} {m : SMap α} {k : Nat} {v : α} (h : lookup m k = some v) : (k, v) ∈ m := by
  induction m with
  | nil => exact nomatch h
  | cons e rest ih =>
    obtain ⟨j, w⟩ := e
    unfold lookup at h
    split at h
    · rename_i hj
      cases h
      subst hj
      exact List.mem_cons_self ..
    · exact List.mem_cons_of_mem _ (ih h)
theorem lookupD_or {α : Type} (m : SMap α) (k : Nat) (d : α) : (k, lookupD m k d) ∈ m ∨ lookupD m k d = d := by
  unfold lookupD
  cases e : lookup m k with
  | none => exact .inr rfl
  | some v => exact .inl (mem_of_lookup e)

theorem core_good {z s : State} (c : Nat) (h : Onward z s) : GoodC z (s.core c) := by
  intro w
  have g := ((Memory.wf_iff s).mp (h.mem w)).2.1
  rcases lookupD_or s.cores c coreReset with e | e
  · exact g _ e
  · unfold State.core
    rw [e]
    rfl
theorem harbor_good {z s : State} (k : Nat) (h : Onward z s) : GoodH z (s.harbor k) := by
  intro w
  have g := ((Memory.wf_iff s).mp (h.mem w)).1
  rcases lookupD_or s.harbors k harborReset with e | e
  · exact g _ e
  · unfold State.harbor
    rw [e]
    rfl
theorem on_cores {z s : State} (h : Onward z s) {K : SMap CoreSt} (hk : ∀ e ∈ K, GoodC z e.2) {a b c d f g i j k l m n o p q r t u v w x y A B C D E F G} :
    Onward z (State.mk s.pending a b c s.fuses s.regs d s.tide f g i K j k l m n o p q r s.harbors t u s.saved v w x y A B C D E F G) :=
  ⟨h.1, h.2.1, h.2.2.1, h.2.2.2.1, h.2.2.2.2.1, fun w =>
    have g := (Memory.wf_iff s).mp (h.mem w)
    (Memory.wf_iff _).mpr ⟨g.1, fun e he => hk e he w, g.2.2⟩⟩
theorem on_harbors {z s : State} (h : Onward z s) {K : SMap HarborSt} (hk : ∀ e ∈ K, GoodH z e.2) {a b c d f g i j k l m n o p q r t u v w x y A B C D E F G} :
    Onward z (State.mk s.pending a b c s.fuses s.regs d s.tide f g i s.cores j k l m n o p q r K t u s.saved v w x y A B C D E F G) :=
  ⟨h.1, h.2.1, h.2.2.1, h.2.2.2.1, h.2.2.2.2.1, fun w =>
    have g := (Memory.wf_iff s).mp (h.mem w)
    (Memory.wf_iff _).mpr ⟨fun e he => hk e he w, g.2⟩⟩
theorem on_saved {z s : State} (h : Onward z s) {K : List SavedJob} (hk : ∀ j ∈ K, ∀ e ∈ j.cores, GoodC z e.2) {a b c d f g i j k l m n o p q r t u v w x y A B C D E F G} :
    Onward z (State.mk s.pending a b c s.fuses s.regs d s.tide f g i s.cores j k l m n o p q r s.harbors t u K v w x y A B C D E F G) :=
  ⟨h.1, h.2.1, h.2.2.1, h.2.2.2.1, h.2.2.2.2.1, fun w =>
    have g := (Memory.wf_iff s).mp (h.mem w)
    (Memory.wf_iff _).mpr ⟨g.1, g.2.1, fun j hj e he => hk j hj e he w⟩⟩
theorem cores_good {z s : State} (h : Onward z s) : ∀ e ∈ s.cores, GoodC z e.2 :=
  fun e he w => ((Memory.wf_iff s).mp (h.mem w)).2.1 e he
theorem harbors_good {z s : State} (h : Onward z s) : ∀ e ∈ s.harbors, GoodH z e.2 :=
  fun e he w => ((Memory.wf_iff s).mp (h.mem w)).1 e he
theorem saved_good {z s : State} (h : Onward z s) : ∀ j ∈ s.saved, ∀ e ∈ j.cores, GoodC z e.2 :=
  fun j hj e he w => ((Memory.wf_iff s).mp (h.mem w)).2.2 j hj e he
theorem goodC_insert {z : State} {m : SMap CoreSt} (c : Nat) {k : CoreSt} (hm : ∀ e ∈ m, GoodC z e.2) (hk : GoodC z k) :
    ∀ e ∈ insert m c k, GoodC z e.2 := by
  intro e he
  rcases mem_insert_key he with rfl | he
  · exact hk
  · exact hm e he
theorem goodH_insert {z : State} {m : SMap HarborSt} (c : Nat) {k : HarborSt} (hm : ∀ e ∈ m, GoodH z e.2)
    (hk : GoodH z k) : ∀ e ∈ insert m c k, GoodH z e.2 := by
  intro e he
  rcases mem_insert_key he with rfl | he
  · exact hk
  · exact hm e he
theorem goodC_insertAll {z : State} {f : CoreSt → CoreSt} (l : List (Nat × CoreSt)) (hl : ∀ e ∈ l, GoodC z (f e.2))
    {m : SMap CoreSt} (hm : ∀ e ∈ m, GoodC z e.2) :
    ∀ e ∈ l.foldl (fun m e => insert m e.1 (f e.2)) m, GoodC z e.2 := by
  induction l generalizing m with
  | nil => exact hm
  | cons a rest ih =>
    exact ih (fun e he => hl e (List.mem_cons_of_mem _ he)) (goodC_insert _ hm (hl a (List.mem_cons_self ..)))
theorem goodH_map {z : State} {m : SMap HarborSt} {f : Nat × HarborSt → Nat × HarborSt} (hm : ∀ e ∈ m, GoodH z e.2)
    (hf : ∀ e, GoodH z e.2 → GoodH z (f e).2) : ∀ e ∈ m.map f, GoodH z e.2 := by
  intro e he
  obtain ⟨b, hb, rfl⟩ := List.mem_map.mp he
  exact hf b (hm b hb)
theorem mem_of_harbors {s : State} {K : SMap HarborSt} (w : Memory.wf s = true) (hk : ∀ e ∈ K, e.2.memWf = true) :
    Memory.wf { s with harbors := K } = true :=
  (Memory.wf_iff _).mpr ⟨hk, ((Memory.wf_iff s).mp w).2⟩
theorem on_ite {z a b : State} {c : Prop} [Decidable c] (ha : Onward z a) (hb : Onward z b) : Onward z (if c then a else b) := by
  split <;> assumption
theorem on_fst {β : Type} {z : State} {p : State × β} {a : State} {b : β} (e : p = (a, b)) (h : Onward z p.1) : Onward z a := by
  subst e; exact h
theorem on_snd {β : Type} {z : State} {p : β × State} {a : State} {b : β} (e : p = (b, a)) (h : Onward z p.2) : Onward z a := by
  subst e; exact h
theorem on_some {z a : State} {p : Option State} (e : p = some a) (h : OnwardO z p) : Onward z a := h a e
theorem on_someF {β : Type} {z : State} {a : State × β} {p : Option (State × β)} (e : p = some a) (h : OnwardF z p) : Onward z a.1 := h a e
theorem on_someF' {β : Type} {z a : State} {b : β} {p : Option (State × β)} (e : p = some (a, b)) (h : OnwardF z p) : Onward z a :=
  h (a, b) e
theorem on_next {z a : State} {p : Answer} (e : p = Host.Outcome.next a) (h : OnwardA z p) : Onward z a := h a e

theorem onO_none {z : State} : OnwardO z none := fun _ e => nomatch e
theorem onO_some {z a : State} (h : Onward z a) : OnwardO z (some a) := fun _ e => by cases e; exact h
theorem onF_none {β : Type} {z : State} : OnwardF (β := β) z none := fun _ e => nomatch e
theorem onF_some {β : Type} {z : State} {a : State × β} (h : Onward z a.1) : OnwardF z (some a) := fun _ e => by cases e; exact h
theorem onA_next {z a : State} (h : Onward z a) : OnwardA z (Host.Outcome.next a) := fun _ e => by cases e; exact h
theorem onA_refused {z : State} {r} : OnwardA z (Host.Outcome.refused r) := fun _ e => nomatch e
theorem onO_ite {z : State} {a b : Option State} {c : Prop} [Decidable c] (ha : OnwardO z a) (hb : OnwardO z b) :
    OnwardO z (if c then a else b) := by
  split <;> assumption
theorem onA_ite {z : State} {a b : Answer} {c : Prop} [Decidable c] (ha : OnwardA z a) (hb : OnwardA z b) :
    OnwardA z (if c then a else b) := by
  split <;> assumption
theorem on_getD {z a : State} {o : Option State} (h : OnwardO z o) (ha : Onward z a) : Onward z (o.getD a) := by
  cases o with
  | none => exact ha
  | some t => exact h t rfl
theorem onO_of {z a : State} (h : OnwardO z (some a)) : Onward z a := h a rfl
theorem on_getD_fst {β : Type} {z : State} {a : State × β} {o : Option (State × β)} (h : OnwardF z o) (ha : Onward z a.1) :
    Onward z (o.getD a).1 := by
  cases o with
  | none => exact ha
  | some t => exact h t rfl
theorem onF_mapO {γ : Type} {z : State} {o : Option State} {f : State → State × γ} (h : OnwardO z o)
    (hf : ∀ p, Onward z p → Onward z (f p).1) : OnwardF z (o.map f) := by
  cases o with
  | none => exact onF_none
  | some t => exact onF_some (hf _ (h t rfl))
theorem onF_const {β γ : Type} {z : State} {o : Option β} {f : β → State × γ} (h : ∀ b, Onward z (f b).1) :
    OnwardF z (o.map f) := by
  cases o with
  | none => exact onF_none
  | some t => exact onF_some (h t)
theorem onF_map {β γ : Type} {z : State} {o : Option (State × β)} {f : State × β → State × γ} (h : OnwardF z o)
    (hf : ∀ p, Onward z p.1 → Onward z (f p).1) : OnwardF z (o.map f) := by
  cases o with
  | none => exact onF_none
  | some t => exact onF_some (hf _ (h t rfl))
theorem onO_mapF {β : Type} {z : State} {o : Option (State × β)} {f : State × β → State} (h : OnwardF z o)
    (hf : ∀ p, Onward z p.1 → Onward z (f p)) : OnwardO z (o.map f) := by
  cases o with
  | none => exact onO_none
  | some t => exact onO_some (hf _ (h t rfl))
theorem onO_map {z : State} {o : Option State} {f : State → State} (h : OnwardO z o)
    (hf : ∀ p, Onward z p → Onward z (f p)) : OnwardO z (o.map f) := by
  cases o with
  | none => exact onO_none
  | some t => exact onO_some (hf _ (h t rfl))

theorem on_foldl {α : Type} {z : State} {f : State → α → State} (hf : ∀ s x, Onward z s → Onward z (f s x)) :
    ∀ (l : List α) (s : State), Onward z s → Onward z (l.foldl f s)
  | [], _, h => h
  | x :: l, s, h => on_foldl hf l (f s x) (hf s x h)
theorem on_foldl_fst {α β : Type} {z : State} {f : State × β → α → State × β} (hf : ∀ s x, Onward z s.1 → Onward z (f s x).1) :
    ∀ (l : List α) (s : State × β), Onward z s.1 → Onward z (l.foldl f s).1
  | [], _, h => h
  | x :: l, s, h => on_foldl_fst hf l (f s x) (hf s x h)
theorem on_foldl_snd {α β : Type} {z : State} {f : β × State → α → β × State} (hf : ∀ s x, Onward z s.2 → Onward z (f s x).2) :
    ∀ (l : List α) (s : β × State), Onward z s.2 → Onward z (l.foldl f s).2
  | [], _, h => h
  | x :: l, s, h => on_foldl_snd hf l (f s x) (hf s x h)
theorem onO_foldl {α : Type} {z : State} {f : Option State → α → Option State} (hf : ∀ s x, OnwardO z s → OnwardO z (f s x)) :
    ∀ (l : List α) (s : Option State), OnwardO z s → OnwardO z (l.foldl f s)
  | [], _, h => h
  | x :: l, s, h => onO_foldl hf l (f s x) (hf s x h)
theorem onF_foldl {α β : Type} {z : State} {f : Option (State × β) → α → Option (State × β)}
    (hf : ∀ s x, OnwardF z s → OnwardF z (f s x)) :
    ∀ (l : List α) (s : Option (State × β)), OnwardF z s → OnwardF z (l.foldl f s)
  | [], _, h => h
  | x :: l, s, h => onF_foldl hf l (f s x) (hf s x h)
theorem on_foldr {α : Type} {z : State} {f : α → State → State} (hf : ∀ s x, Onward z s → Onward z (f x s)) :
    ∀ (l : List α) (s : State), Onward z s → Onward z (l.foldr f s)
  | [], _, h => h
  | x :: l, s, h => hf _ x (on_foldr hf l s h)

end Sys2Proof.Machine
end

