-- ==== Sys2Proof/Laws/OnOps.lean ====
section
/-! SUPPORT. What each operation of Machine/Ops.lean leaves in order. -/

namespace Sys2Proof.Machine

theorem State.setReg_on {z : State} (s : State) (r : Reg) (v : Word) (h_s : Onward z (s)) :
    Onward z (State.setReg s r v) := by
  exact on_regs h_s (fun h => rising_setReg s r v h)

theorem State.put_on {z : State} (s : State) (f : RF) (n : Nat) (h_s : Onward z (s)) :
    Onward z (State.put s f n) := by
  unfold State.put
  repeat' first
    | with_reducible intro _
    | with_reducible first
      | assumption | apply State.setReg_on
    | with_reducible apply goodT_ts
    | with_reducible apply goodC_ts
    | dsimp only

theorem State.setFlag_on {z : State} (s : State) (f : RF) (b : Bool) (h_s : Onward z (s)) :
    Onward z (State.setFlag s f b) := by
  unfold State.setFlag
  repeat' first
    | with_reducible intro _
    | with_reducible first
      | assumption | apply State.put_on
    | with_reducible apply goodT_ts
    | with_reducible apply goodC_ts
    | dsimp only

theorem State.bump_on {z : State} (s : State) (f : RF) (k : Nat) (h_s : Onward z (s)) :
    Onward z (State.bump s f k) := by
  unfold State.bump
  repeat' first
    | with_reducible intro _
    | with_reducible first
      | assumption | apply State.put_on
    | with_reducible apply goodT_ts
    | with_reducible apply goodC_ts
    | dsimp only

theorem State.inc_on {z : State} (s : State) (f : RF) (h_s : Onward z (s)) :
    Onward z (State.inc s f) := by
  unfold State.inc
  repeat' first
    | with_reducible intro _
    | with_reducible first
      | assumption | apply State.bump_on
    | with_reducible apply goodT_ts
    | with_reducible apply goodC_ts
    | dsimp only

theorem State.resetRegs_on {z : State} (s : State) (lo hi : Nat) (h_s : Onward z (s)) :
    Onward z (State.resetRegs s lo hi) := by
  exact on_regs h_s (fun h => rising_resetRegs s lo hi h)

theorem State.fresh_on {z : State} (s : State) (w : Nat) (h_s : Onward z (s)) :
    Onward z (State.fresh s w).2 := by
  unfold State.fresh
  repeat' first
    | with_reducible intro _
    | with_reducible first
      | assumption | apply goodC_ite | apply goodT_ite
    | simp only [on_mk_iff, goodC_mk_iff, goodH_mk_iff]
    | with_reducible apply goodT_ts
    | with_reducible apply goodC_ts
    | dsimp only

theorem State.emit_on {z : State} (s : State) (o : Out) (h_s : Onward z (s)) :
    Onward z (State.emit s o) := by
  unfold State.emit
  repeat' first
    | with_reducible intro _
    | with_reducible first
      | assumption | apply goodC_ite | apply goodT_ite
    | simp only [on_mk_iff, goodC_mk_iff, goodH_mk_iff]
    | with_reducible apply goodT_ts
    | with_reducible apply goodC_ts
    | dsimp only

theorem tileStoreReset_on {z : State}   :
    GoodT z (tileStoreReset ) := by
  exact fun _ => rfl

theorem coreReset_on {z : State}   :
    GoodC z (coreReset ) := by
  exact fun _ => rfl

theorem State.setIsl_on {z : State} (s : State) (i : Nat) (x : IslandSt) (h_s : Onward z (s)) :
    Onward z (State.setIsl s i x) := by
  unfold State.setIsl
  repeat' first
    | with_reducible intro _
    | with_reducible first
      | assumption | apply goodC_ite | apply goodT_ite
    | simp only [on_mk_iff, goodC_mk_iff, goodH_mk_iff]
    | with_reducible apply goodT_ts
    | with_reducible apply goodC_ts
    | dsimp only

theorem State.core_on {z : State} (s : State) (c : Nat) (h_s : Onward z (s)) :
    GoodC z (State.core s c) := by
  exact core_good c h_s

theorem State.setCore_on {z : State} (s : State) (c : Nat) (x : CoreSt) (h_s : Onward z (s)) (h_x : GoodC z (x)) :
    Onward z (State.setCore s c x) := by
  exact on_cores h_s (goodC_insert c (cores_good h_s) h_x)

theorem State.setCluster_on {z : State} (s : State) (k : Nat) (x : ClusterSt) (h_s : Onward z (s)) :
    Onward z (State.setCluster s k x) := by
  unfold State.setCluster
  repeat' first
    | with_reducible intro _
    | with_reducible first
      | assumption | apply goodC_ite | apply goodT_ite
    | simp only [on_mk_iff, goodC_mk_iff, goodH_mk_iff]
    | with_reducible apply goodT_ts
    | with_reducible apply goodC_ts
    | dsimp only

theorem CoreSt.setSlot_on {z : State} (k : CoreSt) (i : Nat) (x : SlotSt) (h_k : GoodC z (k)) :
    GoodC z (CoreSt.setSlot k i x) := by
  unfold CoreSt.setSlot
  repeat' first
    | with_reducible intro _
    | with_reducible first
      | assumption | apply goodC_ite | apply goodT_ite
    | simp only [on_mk_iff, goodC_mk_iff, goodH_mk_iff]
    | with_reducible apply goodT_ts
    | with_reducible apply goodC_ts
    | dsimp only

theorem CoreSt.setActive_on {z : State} (k : CoreSt) (x : SlotSt) (h_k : GoodC z (k)) :
    GoodC z (CoreSt.setActive k x) := by
  unfold CoreSt.setActive
  repeat' first
    | with_reducible intro _
    | with_reducible first
      | assumption | apply CoreSt.setSlot_on | apply goodC_ite | apply goodT_ite
    | simp only [on_mk_iff, goodC_mk_iff, goodH_mk_iff]
    | with_reducible apply goodT_ts
    | with_reducible apply goodC_ts
    | dsimp only

theorem State.refreshJobLock_on {z : State} (s : State) (h_s : Onward z (s)) :
    Onward z (State.refreshJobLock s) := by
  unfold State.refreshJobLock
  repeat' first
    | with_reducible intro _
    | with_reducible first
      | assumption | apply on_ite | apply onO_ite | apply State.setFlag_on | apply goodC_ite | apply goodT_ite
    | simp only [on_mk_iff, goodC_mk_iff, goodH_mk_iff]
    | with_reducible apply goodT_ts
    | with_reducible apply goodC_ts
    | dsimp only
    | split

theorem State.raiseEvt_on {z : State} (s : State) (c : Nat) (f : Nat → Nat → Nat → RF) (h_s : Onward z (s)) :
    Onward z (State.raiseEvt s c f) := by
  unfold State.raiseEvt
  repeat' first
    | with_reducible intro _
    | with_reducible first
      | assumption | apply State.setFlag_on | apply goodC_ite | apply goodT_ite
    | with_reducible apply goodT_ts
    | with_reducible apply goodC_ts
    | dsimp only

end Sys2Proof.Machine
end

