-- ==== Sys2Proof/Laws/OnFlags.lean ====
section
/-! SUPPORT. What each operation of Machine/Flags.lean leaves in order. -/

namespace Sys2Proof.Machine

theorem State.message_on {z : State} (s : State) (fn v : Nat) (h_s : Onward z (s)) :
    Onward z (State.message s fn v) := by
  unfold State.message
  repeat' first
    | with_reducible intro _
    | with_reducible first
      | assumption | apply on_ite | apply onO_ite | apply State.emit_on | apply goodC_ite | apply goodT_ite
    | simp only [on_mk_iff, goodC_mk_iff, goodH_mk_iff]
    | with_reducible apply goodT_ts
    | with_reducible apply goodC_ts
    | dsimp only
    | split

theorem State.raiseVF_on {z : State} (s : State) (t c : Nat) (h_s : Onward z (s)) :
    Onward z (State.raiseVF s t c) := by
  unfold State.raiseVF
  repeat' first
    | with_reducible intro _
    | with_reducible first
      | assumption | apply on_ite | apply onO_ite | apply State.message_on | apply State.put_on
    | with_reducible apply goodT_ts
    | with_reducible apply goodC_ts
    | dsimp only
    | split

theorem State.raisePF_on {z : State} (s : State) (c : Nat) (h_s : Onward z (s)) :
    Onward z (State.raisePF s c) := by
  unfold State.raisePF
  repeat' first
    | with_reducible intro _
    | with_reducible first
      | assumption | apply on_ite | apply onO_ite | apply State.message_on | apply State.put_on
    | with_reducible apply goodT_ts
    | with_reducible apply goodC_ts
    | dsimp only
    | split

theorem State.raisePart_on {z : State} (s : State) (p c : Nat) (h_s : Onward z (s)) :
    Onward z (State.raisePart s p c) := by
  unfold State.raisePart
  repeat' first
    | with_reducible intro _
    | with_reducible first
      | assumption | apply onO_some | apply onO_none | apply onF_some | apply onF_none | apply State.raisePF_on
      | apply State.raiseVF_on | apply goodC_ite | apply goodT_ite
    | simp only [on_mk_iff, goodC_mk_iff, goodH_mk_iff]
    | with_reducible apply goodT_ts
    | with_reducible apply goodC_ts
    | dsimp only
    | split
    | (apply on_fst; with_reducible assumption)
    | (apply on_snd; with_reducible assumption)
    | (apply on_someF'; with_reducible assumption)
    | (apply on_some; with_reducible assumption)
    | (apply on_someF; with_reducible assumption)
    | (apply on_next; with_reducible assumption)

theorem State.postMessage_on {z : State} (s : State) (k : Nat) (h_s : Onward z (s)) :
    Onward z (State.postMessage s k) := by
  unfold State.postMessage
  repeat' first
    | with_reducible intro _
    | with_reducible first
      | assumption | apply on_ite | apply onO_ite | apply State.raisePF_on | apply State.setFlag_on
      | apply State.put_on
    | with_reducible apply goodT_ts
    | with_reducible apply goodC_ts
    | dsimp only
    | split

theorem State.refreshLog_on {z : State} (s : State) (h_s : Onward z (s)) :
    Onward z (State.refreshLog s) := by
  unfold State.refreshLog
  repeat' first
    | with_reducible intro _
    | with_reducible first
      | assumption | apply onO_some | apply onO_none | apply onF_some | apply onF_none | apply State.put_on
      | apply goodC_ite | apply goodT_ite
    | simp only [on_mk_iff, goodC_mk_iff, goodH_mk_iff]
    | with_reducible apply goodT_ts
    | with_reducible apply goodC_ts
    | dsimp only
    | split
    | (apply on_fst; with_reducible assumption)
    | (apply on_snd; with_reducible assumption)
    | (apply on_someF'; with_reducible assumption)
    | (apply on_some; with_reducible assumption)
    | (apply on_someF; with_reducible assumption)
    | (apply on_next; with_reducible assumption)

theorem State.logEvent_on {z : State} (s : State) (kind sev source : Nat) (part core : Option Nat) (status : Nat) (payload : List Byte) (h_s : Onward z (s)) :
    Onward z (State.logEvent s kind sev source part core status payload) := by
  unfold State.logEvent
  repeat' first
    | with_reducible intro _
    | with_reducible first
      | assumption | apply on_ite | apply onO_ite | apply State.refreshLog_on | apply State.postMessage_on
      | apply State.inc_on | apply goodC_ite | apply goodT_ite
    | simp only [on_mk_iff, goodC_mk_iff, goodH_mk_iff]
    | with_reducible apply goodT_ts
    | with_reducible apply goodC_ts
    | dsimp only
    | split

theorem State.partFault_on {z : State} (s : State) (p code lcore : Nat) (tick : DWord) (h_s : Onward z (s)) :
    Onward z (State.partFault s p code lcore tick) := by
  unfold State.partFault
  repeat' first
    | with_reducible intro _
    | with_reducible first
      | assumption | apply on_ite | apply onO_ite | apply State.raisePart_on | apply State.inc_on
      | apply State.setFlag_on | apply State.put_on | apply goodC_ite | apply goodT_ite
    | with_reducible apply goodT_ts
    | with_reducible apply goodC_ts
    | dsimp only
    | split

end Sys2Proof.Machine
end

