-- ==== Sys2Proof/Laws/OnJobs.lean ====
section
/-! SUPPORT. What each operation of Machine/Jobs.lean leaves in order. -/

namespace Sys2Proof.Machine

theorem State.acct_on {z : State} (s : State) (t kind : Nat) (up : Bool) (h_s : Onward z (s)) :
    Onward z (State.acct s t kind up) := by
  unfold State.acct
  repeat' first
    | with_reducible intro _
    | with_reducible first
      | assumption | apply on_ite | apply onO_ite | apply State.inc_on | apply State.put_on
    | with_reducible apply goodT_ts
    | with_reducible apply goodC_ts
    | dsimp only
    | split

theorem State.toPart_on {z : State} (s : State) (p st : Nat) (h_s : Onward z (s)) :
    Onward z (State.toPart s p st) := by
  unfold State.toPart
  repeat' first
    | with_reducible intro _
    | with_reducible first
      | assumption | apply onO_some | apply onO_none | apply onF_some | apply onF_none | apply on_ite
      | apply onO_ite | apply State.acct_on | apply State.put_on | apply goodC_ite | apply goodT_ite
    | simp only [on_mk_iff, goodC_mk_iff, goodH_mk_iff]
    | with_reducible apply goodT_ts
    | with_reducible apply goodC_ts
    | dsimp only
    | split
    | (apply on_fst; with_reducible assumption)
    | (apply on_snd; with_reducible assumption)
    | (apply on_someF'; with_reducible assumption)
    | (apply on_some; with_reducible assumption)
    | (apply on_someF; with_reducible assumption)
    | (apply on_next; with_reducible assumption)

theorem State.countEnded_on {z : State} (s : State) (p : Nat) (h_s : Onward z (s)) :
    Onward z (State.countEnded s p) := by
  unfold State.countEnded
  repeat' first
    | with_reducible intro _
    | with_reducible first
      | assumption | apply onO_some | apply onO_none | apply onF_some | apply onF_none | apply State.inc_on
      | apply goodC_ite | apply goodT_ite
    | simp only [on_mk_iff, goodC_mk_iff, goodH_mk_iff]
    | with_reducible apply goodT_ts
    | with_reducible apply goodC_ts
    | dsimp only
    | split
    | (apply on_fst; with_reducible assumption)
    | (apply on_snd; with_reducible assumption)
    | (apply on_someF'; with_reducible assumption)
    | (apply on_some; with_reducible assumption)
    | (apply on_someF; with_reducible assumption)
    | (apply on_next; with_reducible assumption)

theorem State.overCores_on {z : State} (s : State) (p : Nat) (f : State → Nat → State) (h_s : Onward z (s)) (h_f : ∀ x0 x1, Onward z (x0) → Onward z (f x0 x1)) :
    Onward z (State.overCores s p f) := by
  unfold State.overCores
  repeat' first
    | with_reducible intro _
    | with_reducible first
      | assumption | apply h_f | apply goodC_ite | apply goodT_ite | apply goodC_foldl | apply goodH_foldl
      | apply goodT_foldl | apply on_foldl | apply on_foldl_fst | apply on_foldl_snd | apply onO_foldl
      | apply onF_foldl
    | with_reducible apply goodT_ts
    | with_reducible apply goodC_ts
    | dsimp only

theorem State.overClusters_on {z : State} (s : State) (p : Nat) (f : State → Nat → State) (h_s : Onward z (s)) (h_f : ∀ x0 x1, Onward z (x0) → Onward z (f x0 x1)) :
    Onward z (State.overClusters s p f) := by
  unfold State.overClusters
  repeat' first
    | with_reducible intro _
    | with_reducible first
      | assumption | apply h_f | apply goodC_foldl | apply goodH_foldl | apply goodT_foldl | apply on_foldl
      | apply on_foldl_fst | apply on_foldl_snd | apply onO_foldl | apply onF_foldl
    | with_reducible apply goodT_ts
    | with_reducible apply goodC_ts
    | dsimp only

theorem State.dropCredits_on {z : State} (s : State) (c : Nat) (h_s : Onward z (s)) :
    Onward z (State.dropCredits s c) := by
  unfold State.dropCredits
  repeat' first
    | with_reducible intro _
    | with_reducible first
      | assumption | apply State.setFlag_on | apply goodC_ite | apply goodT_ite
    | with_reducible apply goodT_ts
    | with_reducible apply goodC_ts
    | dsimp only

theorem State.toWindow_on {z : State} (s : State) (c : Nat) (h_s : Onward z (s)) :
    Onward z (State.toWindow s c) := by
  unfold State.toWindow
  repeat' first
    | with_reducible intro _
    | with_reducible first
      | assumption | apply State.dropCredits_on | apply State.setFlag_on | apply goodC_ite | apply goodT_ite
    | with_reducible apply goodT_ts
    | with_reducible apply goodC_ts
    | dsimp only

theorem State.toCredit_on {z : State} (s : State) (c : Nat) (h_s : Onward z (s)) :
    Onward z (State.toCredit s c) := by
  unfold State.toCredit
  repeat' first
    | with_reducible intro _
    | with_reducible first
      | assumption | apply State.setFlag_on | apply goodC_ite | apply goodT_ite
    | with_reducible apply goodT_ts
    | with_reducible apply goodC_ts
    | dsimp only

theorem State.creditAll_on {z : State} (s : State) (p : Nat) (h_s : Onward z (s)) :
    Onward z (State.creditAll s p) := by
  unfold State.creditAll
  repeat' first
    | with_reducible intro _
    | with_reducible first
      | assumption | apply State.toCredit_on | apply State.overCores_on | apply goodC_ite | apply goodT_ite
    | with_reducible apply goodT_ts
    | with_reducible apply goodC_ts
    | dsimp only

theorem State.setJobBits_on {z : State} (s : State) (p : Nat) (b : Bool) (h_s : Onward z (s)) :
    Onward z (State.setJobBits s p b) := by
  unfold State.setJobBits
  repeat' first
    | with_reducible intro _
    | with_reducible first
      | assumption | apply State.overClusters_on | apply State.overCores_on | apply State.setFlag_on
      | apply goodC_ite | apply goodT_ite
    | with_reducible apply goodT_ts
    | with_reducible apply goodC_ts
    | dsimp only

theorem CoreSt.coreReset_on {z : State} (k : CoreSt) (h_k : GoodC z (k)) :
    GoodC z (CoreSt.coreReset k) := by
  exact fun _ => rfl

theorem State.coreRegsKept_on {z : State} (s : State) (c : Nat) (h_s : Onward z (s)) :
    Onward z (State.coreRegsKept s c) := by
  unfold State.coreRegsKept
  repeat' first
    | with_reducible intro _
    | with_reducible first
      | assumption | apply State.toCredit_on | apply State.resetRegs_on | apply State.put_on | apply goodC_ite
      | apply goodT_ite | apply goodC_foldl | apply goodH_foldl | apply goodT_foldl | apply on_foldl
      | apply on_foldl_fst | apply on_foldl_snd | apply onO_foldl | apply onF_foldl
    | with_reducible apply goodT_ts
    | with_reducible apply goodC_ts
    | dsimp only

theorem State.coreRegsZero_on {z : State} (s : State) (c : Nat) (h_s : Onward z (s)) :
    Onward z (State.coreRegsZero s c) := by
  unfold State.coreRegsZero
  repeat' first
    | with_reducible intro _
    | with_reducible first
      | assumption | apply State.resetRegs_on | apply State.setFlag_on | apply State.put_on | apply goodC_ite
      | apply goodT_ite
    | with_reducible apply goodT_ts
    | with_reducible apply goodC_ts
    | dsimp only

theorem State.clearCore_on {z : State} (s : State) (c : Nat) (h_s : Onward z (s)) :
    Onward z (State.clearCore s c) := by
  unfold State.clearCore
  repeat' first
    | with_reducible intro _
    | with_reducible first
      | assumption | apply State.coreRegsKept_on | apply CoreSt.coreReset_on | apply State.setCore_on
      | apply State.core_on | apply goodC_ite | apply goodT_ite
    | with_reducible apply goodT_ts
    | with_reducible apply goodC_ts
    | dsimp only

theorem State.wipeCore_on {z : State} (s : State) (c : Nat) (h_s : Onward z (s)) :
    Onward z (State.wipeCore s c) := by
  unfold State.wipeCore
  exact State.coreRegsZero_on _ _ (on_cores h_s fun e he => cores_good h_s e (mem_erase_key he))

theorem State.wipeCluster_on {z : State} (s : State) (k : Nat) (keepRR : Bool) (h_s : Onward z (s)) :
    Onward z (State.wipeCluster s k keepRR) := by
  unfold State.wipeCluster
  repeat' first
    | with_reducible intro _
    | with_reducible first
      | assumption | apply on_ite | apply onO_ite | apply State.resetRegs_on | apply State.setFlag_on
      | apply State.put_on | apply goodC_ite | apply goodT_ite
    | simp only [on_mk_iff, goodC_mk_iff, goodH_mk_iff]
    | with_reducible apply goodT_ts
    | with_reducible apply goodC_ts
    | dsimp only
    | split

theorem State.wipePart_on {z : State} (s : State) (p : Nat) (h_s : Onward z (s)) :
    Onward z (State.wipePart s p) := by
  unfold State.wipePart
  repeat' first
    | with_reducible intro _
    | with_reducible first
      | assumption | apply State.wipeCluster_on | apply State.wipeCore_on | apply State.overClusters_on
      | apply State.overCores_on | apply goodC_ite | apply goodT_ite
    | with_reducible apply goodT_ts
    | with_reducible apply goodC_ts
    | dsimp only

theorem HarborSt.release_on {z : State} (x : HarborSt) (p : Nat) (h_x : GoodH z (x)) :
    GoodH z (HarborSt.release x p) := by
  unfold HarborSt.release
  repeat' first
    | with_reducible intro _
    | with_reducible first
      | assumption | apply goodC_ite | apply goodT_ite | apply goodH_ite
    | simp only [on_mk_iff, goodC_mk_iff, goodH_mk_iff]
    | with_reducible apply goodT_ts
    | with_reducible apply goodC_ts
    | dsimp only

theorem State.releaseHarbors_on {z : State} (s : State) (p : Nat) (h_s : Onward z (s)) :
    Onward z (State.releaseHarbors s p) := by
  refine on_harbors h_s (goodH_map (harbors_good h_s) ?_)
  exact fun _ h => h

theorem State.showLoad_on {z : State} (s : State) (r : LoadReq) (code : Nat) (h_s : Onward z (s)) :
    Onward z (State.showLoad s r code) := by
  unfold State.showLoad
  repeat' first
    | with_reducible intro _
    | with_reducible first
      | assumption | apply onO_some | apply onO_none | apply onF_some | apply onF_none | apply State.put_on
      | apply goodC_ite | apply goodT_ite
    | simp only [on_mk_iff, goodC_mk_iff, goodH_mk_iff]
    | with_reducible apply goodT_ts
    | with_reducible apply goodC_ts
    | dsimp only
    | split
    | (apply on_fst; with_reducible assumption)
    | (apply on_snd; with_reducible assumption)
    | (apply on_someF'; with_reducible assumption)
    | (apply on_some; with_reducible assumption)
    | (apply on_someF; with_reducible assumption)
    | (apply on_next; with_reducible assumption)

theorem State.closeLoad_on {z : State} (s : State) (p code : Nat) (h_s : Onward z (s)) :
    Onward z (State.closeLoad s p code) := by
  unfold State.closeLoad
  repeat' first
    | with_reducible intro _
    | with_reducible first
      | assumption | apply onO_some | apply onO_none | apply onF_some | apply onF_none | apply on_ite
      | apply onO_ite | apply State.showLoad_on | apply State.setFlag_on | apply State.put_on | apply goodC_ite
      | apply goodT_ite | apply goodC_foldl | apply goodH_foldl | apply goodT_foldl | apply on_foldl
      | apply on_foldl_fst | apply on_foldl_snd | apply onO_foldl | apply onF_foldl
    | simp only [on_mk_iff, goodC_mk_iff, goodH_mk_iff]
    | with_reducible apply goodT_ts
    | with_reducible apply goodC_ts
    | dsimp only
    | split
    | (apply on_fst; with_reducible assumption)
    | (apply on_snd; with_reducible assumption)
    | (apply on_someF'; with_reducible assumption)
    | (apply on_some; with_reducible assumption)
    | (apply on_someF; with_reducible assumption)
    | (apply on_next; with_reducible assumption)

theorem State.giveContext_on {z : State} (s : State) (r : LoadReq) (h_s : Onward z (s)) :
    Onward z (State.giveContext s r) := by
  unfold State.giveContext
  repeat' first
    | with_reducible intro _
    | with_reducible first
      | assumption | apply onO_some | apply onO_none | apply onF_some | apply onF_none | apply State.setFlag_on
      | apply State.put_on | apply State.setReg_on | apply goodC_ite | apply goodT_ite
    | simp only [on_mk_iff, goodC_mk_iff, goodH_mk_iff]
    | with_reducible apply goodT_ts
    | with_reducible apply goodC_ts
    | dsimp only
    | split
    | (apply on_fst; with_reducible assumption)
    | (apply on_snd; with_reducible assumption)
    | (apply on_someF'; with_reducible assumption)
    | (apply on_some; with_reducible assumption)
    | (apply on_someF; with_reducible assumption)
    | (apply on_next; with_reducible assumption)

theorem State.nextLoad_on {z : State} (s : State) (h_s : Onward z (s)) :
    Onward z (State.nextLoad s) := by
  unfold State.nextLoad
  repeat' first
    | with_reducible intro _
    | with_reducible first
      | assumption | apply onO_some | apply onO_none | apply onF_some | apply onF_none | apply on_ite
      | apply onO_ite | apply State.giveContext_on | apply goodC_ite | apply goodT_ite
    | simp only [on_mk_iff, goodC_mk_iff, goodH_mk_iff]
    | with_reducible apply goodT_ts
    | with_reducible apply goodC_ts
    | dsimp only
    | split
    | (apply on_fst; with_reducible assumption)
    | (apply on_snd; with_reducible assumption)
    | (apply on_someF'; with_reducible assumption)
    | (apply on_some; with_reducible assumption)
    | (apply on_someF; with_reducible assumption)
    | (apply on_next; with_reducible assumption)

theorem State.refreshFerry_on {z : State} (s : State) (h_s : Onward z (s)) :
    Onward z (State.refreshFerry s) := by
  unfold State.refreshFerry
  repeat' first
    | with_reducible intro _
    | with_reducible first
      | assumption | apply State.setFlag_on | apply goodH_ite | apply goodC_foldl | apply goodH_foldl
      | apply goodT_foldl | apply on_foldl | apply on_foldl_fst | apply on_foldl_snd | apply onO_foldl
      | apply onF_foldl
    | with_reducible apply goodT_ts
    | with_reducible apply goodC_ts
    | dsimp only

theorem State.unsave_on {z : State} (s : State) (p : Nat) (h_s : Onward z (s)) :
    Onward z (State.unsave s p) := by
  unfold State.unsave
  split
  · exact h_s
  · rename_i r e
    have g : Onward z { s with saved := s.saved.map fun j => if j.named r then { j with live := false } else j } := by
      refine on_saved h_s fun j hj e he => ?_
      obtain ⟨b, hb, rfl⟩ := List.mem_map.mp hj
      refine saved_good h_s b hb e ?_
      split at he <;> exact he
    dsimp only
    split
    · exact State.acct_on _ _ _ _ g
    · exact g

theorem State.dropMoves_on {z : State} (s : State) (p : Nat) (h_s : Onward z (s)) :
    Onward z (State.dropMoves s p) := by
  unfold State.dropMoves
  repeat' first
    | with_reducible intro _
    | with_reducible first
      | assumption | apply on_ite | apply onO_ite | apply State.put_on | apply goodC_ite | apply goodT_ite
    | simp only [on_mk_iff, goodC_mk_iff, goodH_mk_iff]
    | with_reducible apply goodT_ts
    | with_reducible apply goodC_ts
    | dsimp only
    | split

theorem State.closeJob_on {z : State} (s0 : State) (p code st : Nat) (h_s0 : Onward z (s0)) :
    Onward z (State.closeJob s0 p code st) := by
  unfold State.closeJob
  repeat' first
    | with_reducible intro _
    | with_reducible first
      | assumption | apply State.dropMoves_on | apply State.unsave_on | apply State.refreshFerry_on
      | apply State.nextLoad_on | apply State.closeLoad_on | apply State.releaseHarbors_on
      | apply State.setJobBits_on | apply State.creditAll_on | apply State.countEnded_on | apply State.toPart_on
      | apply State.raisePart_on | apply State.refreshJobLock_on | apply State.put_on | apply goodC_ite
      | apply goodT_ite | apply goodH_ite
    | simp only [on_mk_iff, goodC_mk_iff, goodH_mk_iff]
    | with_reducible apply goodT_ts
    | with_reducible apply goodC_ts
    | dsimp only

theorem State.endJob_on {z : State} (s : State) (p code : Nat) (h_s : Onward z (s)) :
    Onward z (State.endJob s p code) := by
  unfold State.endJob
  repeat' first
    | with_reducible intro _
    | with_reducible first
      | assumption | apply on_ite | apply onO_ite | apply State.closeJob_on
    | with_reducible apply goodT_ts
    | with_reducible apply goodC_ts
    | dsimp only
    | split

theorem State.faultEnd_on {z : State} (s : State) (p code c : Nat) (tick : DWord) (h_s : Onward z (s)) :
    Onward z (State.faultEnd s p code c tick) := by
  unfold State.faultEnd
  repeat' first
    | with_reducible intro _
    | with_reducible first
      | assumption | apply on_ite | apply onO_ite | apply State.endJob_on | apply State.partFault_on
    | with_reducible apply goodT_ts
    | with_reducible apply goodC_ts
    | dsimp only
    | split

end Sys2Proof.Machine
end

