-- ==== Sys2Proof/Laws/OnOperands.lean ====
section
/-! SUPPORT. What each operation of Machine/Operands.lean leaves in order. -/

namespace Sys2Proof.Machine

theorem TileStore.setBytes_on {z : State} (t : TileStore) (a : Nat) (bs : List Byte) (h_t : GoodT z (t)) :
    GoodT z (TileStore.setBytes t a bs) := by
  exact fun w => TileStore.setBytes_wf a bs (h_t w)

theorem TileStore.setWords_on {z : State} (t : TileStore) (w : Nat) (ps : List Bool) (h_t : GoodT z (t)) :
    GoodT z (TileStore.setWords t w ps) := by
  exact fun k => TileStore.setWords_wf w ps (h_t k)

theorem TileStore.setScales_on {z : State} (t : TileStore) (g : Nat) (ss : List Byte) (h_t : GoodT z (t)) :
    GoodT z (TileStore.setScales t g ss) := by
  exact fun w => TileStore.setScales_wf g ss (h_t w)

theorem TileStore.setSpois_on {z : State} (t : TileStore) (g : Nat) (ps : List Bool) (h_t : GoodT z (t)) :
    GoodT z (TileStore.setSpois t g ps) := by
  exact fun w => TileStore.setSpois_wf g ps (h_t w)

theorem TileStore.setGranule_on {z : State} (t : TileStore) (g : Nat) (x : Granule) (h_t : GoodT z (t)) :
    GoodT z (TileStore.setGranule t g x) := by
  exact fun w => TileStore.setGranule_wf g x (h_t w)

theorem TileStore.setGranules_on {z : State} (t : TileStore) (g : Nat) (xs : List Granule) (h_t : GoodT z (t)) :
    GoodT z (TileStore.setGranules t g xs) := by
  exact fun w => TileStore.setGranules_wf xs g (h_t w)

theorem TileStore.below_on {z : State} (t : TileStore) (e : Nat) (h_t : GoodT z (t)) :
    GoodT z (TileStore.below t e) := by
  exact fun w => TileStore.below_wf e (h_t w)

theorem TileStore.setMxBlock_on {z : State} (t : TileStore) (c : BitVec 4) (g j scale : Nat) (codes : List Nat) (ps : List Bool) (h_t : GoodT z (t)) :
    GoodT z (TileStore.setMxBlock t c g j scale codes ps) := by
  exact fun w => TileStore.setMxBlock_wf c g j scale codes ps (h_t w)

theorem TileStore.setPlain_on {z : State} (t : TileStore) (c : BitVec 4) (a : Nat) (codes : List Nat) (ps : List Bool) (h_t : GoodT z (t)) :
    GoodT z (TileStore.setPlain t c a codes ps) := by
  exact fun w => TileStore.setPlain_wf c a codes ps (h_t w)

theorem TileStore.vecStore_on {z : State} (t : TileStore) (cvt : BitVec 8) (a : Nat) (rm : Nat → Rounding) (vs : List FV) (ps : List Bool) (h_t : GoodT z (t)) :
    GoodT z (TileStore.vecStore t cvt a rm vs ps) := by
  exact fun w => TileStore.vecStore_wf cvt a rm vs ps (h_t w)

end Sys2Proof.Machine
end

