-- ==== Sys2Proof/Laws/OnIssue.lean ====
section
/-! SUPPORT. What each operation of Machine/Issue.lean leaves in order. -/

namespace Sys2Proof.Machine

theorem issue_on {z : State} (c : Nat) (run : State → State) (s : State) (h_run : ∀ x0, Onward z (x0) → Onward z (run x0)) (h_s : Onward z (s)) :
    OnwardA z (issue c run s) := by
  unfold issue
  repeat' first
    | with_reducible intro _
    | with_reducible first
      | assumption | apply onA_next | apply onA_refused | apply onA_ite | apply on_ite | apply onO_ite
      | apply h_run
    | with_reducible apply goodT_ts
    | with_reducible apply goodC_ts
    | dsimp only
    | split

theorem State.hold_on {z : State} (s : State) (c n : Nat) (h_s : Onward z (s)) :
    Onward z (State.hold s c n) := by
  unfold State.hold
  repeat' first
    | with_reducible intro _
    | with_reducible first
      | assumption | apply State.inc_on | apply goodC_ite | apply goodT_ite
    | with_reducible apply goodT_ts
    | with_reducible apply goodC_ts
    | dsimp only

theorem State.gate_on {z : State} (s : State) (c : Nat) (checks : List (Bool × Nat)) (run : State → State) (h_s : Onward z (s)) (h_run : ∀ x0, Onward z (x0) → Onward z (run x0)) :
    Onward z (State.gate s c checks run) := by
  induction checks with
  | nil => exact h_run s h_s
  | cons e rest ih =>
    obtain ⟨ok, n⟩ := e
    unfold State.gate
    exact on_ite ih (State.hold_on _ _ _ h_s)

theorem State.setSlotDone_on {z : State} (s : State) (c : Nat) (x : SlotSt) (h_s : Onward z (s)) :
    Onward z (State.setSlotDone s c x) := by
  unfold State.setSlotDone
  repeat' first
    | with_reducible intro _
    | with_reducible first
      | assumption | apply on_ite | apply onO_ite | apply CoreSt.setActive_on | apply State.setCore_on
      | apply State.core_on | apply State.setFlag_on | apply goodC_ite | apply goodT_ite
    | simp only [on_mk_iff, goodC_mk_iff, goodH_mk_iff]
    | with_reducible apply goodT_ts
    | with_reducible apply goodC_ts
    | dsimp only
    | split

theorem State.advance_on {z : State} (s : State) (c : Nat) (h_s : Onward z (s)) :
    Onward z (State.advance s c) := by
  unfold State.advance
  repeat' first
    | with_reducible intro _
    | with_reducible first
      | assumption | apply State.setSlotDone_on | apply State.core_on | apply goodC_ite | apply goodT_ite
    | with_reducible apply goodT_ts
    | with_reducible apply goodC_ts
    | dsimp only

theorem State.finish_on {z : State} (s : State) (c : Nat) (g : SlotSt → SlotSt) (h_s : Onward z (s)) :
    Onward z (State.finish s c g) := by
  unfold State.finish
  repeat' first
    | with_reducible intro _
    | with_reducible first
      | assumption | apply State.advance_on | apply State.setSlotDone_on | apply State.core_on | apply goodC_ite
      | apply goodT_ite
    | with_reducible apply goodT_ts
    | with_reducible apply goodC_ts
    | dsimp only

theorem State.poisonIn_on {z : State} (s : State) (c : Nat) (p : Bool) (h_s : Onward z (s)) :
    Onward z (State.poisonIn s c p) := by
  unfold State.poisonIn
  repeat' first
    | with_reducible intro _
    | with_reducible first
      | assumption | apply on_ite | apply onO_ite | apply State.raiseEvt_on
    | with_reducible apply goodT_ts
    | with_reducible apply goodC_ts
    | dsimp only
    | split

theorem State.outOfRange_on {z : State} (s : State) (c : Nat) (o : Bool) (h_s : Onward z (s)) :
    Onward z (State.outOfRange s c o) := by
  unfold State.outOfRange
  repeat' first
    | with_reducible intro _
    | with_reducible first
      | assumption | apply on_ite | apply onO_ite | apply State.raiseEvt_on
    | with_reducible apply goodT_ts
    | with_reducible apply goodC_ts
    | dsimp only
    | split

theorem State.poisonStop_on {z : State} (s : State) (c : Nat) (h_s : Onward z (s)) :
    Onward z (State.poisonStop s c) := by
  unfold State.poisonStop
  repeat' first
    | with_reducible intro _
    | with_reducible first
      | assumption | apply onO_some | apply onO_none | apply onF_some | apply onF_none | apply State.faultEnd_on
      | apply State.raiseEvt_on | apply State.setCore_on | apply State.core_on | apply goodC_ite | apply goodT_ite
    | simp only [on_mk_iff, goodC_mk_iff, goodH_mk_iff]
    | with_reducible apply goodT_ts
    | with_reducible apply goodC_ts
    | dsimp only
    | split
    | (apply on_fst; with_reducible assumption)
    | (apply on_snd; with_reducible assumption)
    | (apply on_someF'; with_reducible assumption)
    | (apply on_some; with_reducible assumption)
    | (apply on_someF; with_reducible assumption)
    | (apply on_next; with_reducible assumption)

theorem State.control_on {z : State} (s : State) (c : Nat) (regs : List Nat) (run : State → State) (h_s : Onward z (s)) (h_run : ∀ x0, Onward z (x0) → Onward z (run x0)) :
    Onward z (State.control s c regs run) := by
  unfold State.control
  repeat' first
    | with_reducible intro _
    | with_reducible first
      | assumption | apply on_ite | apply onO_ite | apply h_run | apply State.poisonStop_on
    | with_reducible apply goodT_ts
    | with_reducible apply goodC_ts
    | dsimp only
    | split

theorem State.ts_on {z : State} (s : State) (c : Nat) (h_s : Onward z (s)) :
    GoodT z (State.ts s c) := by
  unfold State.ts
  repeat' first
    | with_reducible intro _
    | with_reducible first
      | assumption | apply State.core_on | apply goodC_ite | apply goodT_ite
    | simp only [on_mk_iff, goodC_mk_iff, goodH_mk_iff]
    | with_reducible apply goodT_ts
    | with_reducible apply goodC_ts
    | dsimp only

theorem State.setTs_on {z : State} (s : State) (c : Nat) (t : TileStore) (h_s : Onward z (s)) (h_t : GoodT z (t)) :
    Onward z (State.setTs s c t) := by
  unfold State.setTs
  repeat' first
    | with_reducible intro _
    | with_reducible first
      | assumption | apply State.setCore_on | apply State.core_on | apply goodC_ite | apply goodT_ite
    | simp only [on_mk_iff, goodC_mk_iff, goodH_mk_iff]
    | with_reducible apply goodT_ts
    | with_reducible apply goodC_ts
    | dsimp only

theorem State.writeGrans_on {z : State} (s : State) (c g : Nat) (xs : List Granule) (h_s : Onward z (s)) :
    Onward z (State.writeGrans s c g xs) := by
  induction xs generalizing s g with
  | nil =>
    unfold State.writeGrans
    repeat' first
      | with_reducible intro _
      | with_reducible first
        | assumption | apply on_ite | apply onO_ite | apply ih | apply State.setTs_on | apply State.ts_on
        | apply TileStore.setGranule_on | apply goodC_ite | apply goodT_ite
      | simp only [on_mk_iff, goodC_mk_iff, goodH_mk_iff]
      | with_reducible apply goodT_ts
      | with_reducible apply goodC_ts
      | dsimp only
      | split
      | (apply on_fst; with_reducible assumption)
      | (apply on_snd; with_reducible assumption)
      | (apply on_someF'; with_reducible assumption)
      | (apply on_some; with_reducible assumption)
      | (apply on_someF; with_reducible assumption)
      | (apply on_next; with_reducible assumption)
  | cons e rest ih =>
    unfold State.writeGrans
    repeat' first
      | with_reducible intro _
      | with_reducible first
        | assumption | apply on_ite | apply onO_ite | apply ih | apply State.setTs_on | apply State.ts_on
        | apply TileStore.setGranule_on | apply goodC_ite | apply goodT_ite
      | simp only [on_mk_iff, goodC_mk_iff, goodH_mk_iff]
      | with_reducible apply goodT_ts
      | with_reducible apply goodC_ts
      | dsimp only
      | split
      | (apply on_fst; with_reducible assumption)
      | (apply on_snd; with_reducible assumption)
      | (apply on_someF'; with_reducible assumption)
      | (apply on_some; with_reducible assumption)
      | (apply on_someF; with_reducible assumption)
      | (apply on_next; with_reducible assumption)

end Sys2Proof.Machine
end

