-- ==== Sys2Proof/Laws/OnArrays.lean ====
section
/-! SUPPORT. What each operation of Machine/Arrays.lean leaves in order. -/

namespace Sys2Proof.Machine

theorem State.putBlock_on {z : State} (s : State) (k : Nat) (cvt : BitVec 8) (p : Nat × Nat) (rm : Nat → Rounding) (vs : List FV) (ps : List Bool) (h_s : Onward z (s)) :
    Onward z (State.putBlock s k cvt p rm vs ps) := by
  unfold State.putBlock
  repeat' first
    | with_reducible intro _
    | with_reducible first
      | assumption | apply on_ite | apply onO_ite | apply State.setTs_on | apply State.ts_on
      | apply State.outOfRange_on | apply TileStore.setPlain_on | apply TileStore.setMxBlock_on | apply goodC_ite
      | apply goodT_ite | apply onF_map | apply onF_mapO | apply onO_mapF | apply onO_map
    | with_reducible apply goodT_ts
    | with_reducible apply goodC_ts
    | dsimp only
    | split
    | (apply on_fst; with_reducible assumption)
    | (apply on_snd; with_reducible assumption)
    | (apply on_someF'; with_reducible assumption)

end Sys2Proof.Machine
end

