-- ==== Sys2Proof/Laws/OnCoreVec.lean ====
section
/-! SUPPORT. What each operation of Machine/CoreVec.lean leaves in order. -/

namespace Sys2Proof.Machine

theorem State.setV_on {z : State} (s : State) (c vd : Nat) (isInt : Bool) (lanes : List Word) (pois : List Bool) (h_s : Onward z (s)) :
    Onward z (State.setV s c vd isInt lanes pois) := by
  unfold State.setV
  repeat' first
    | with_reducible intro _
    | with_reducible first
      | assumption | apply State.setCore_on | apply State.core_on | apply goodC_ite | apply goodT_ite
    | simp only [on_mk_iff, goodC_mk_iff, goodH_mk_iff]
    | with_reducible apply goodT_ts
    | with_reducible apply goodC_ts
    | dsimp only

theorem State.countNaN_on {z : State} (s : State) (c n : Nat) (h_s : Onward z (s)) :
    Onward z (State.countNaN s c n) := by
  unfold State.countNaN
  repeat' first
    | with_reducible intro _
    | with_reducible first
      | assumption | apply State.bump_on | apply goodC_ite | apply goodT_ite
    | with_reducible apply goodT_ts
    | with_reducible apply goodC_ts
    | dsimp only

theorem State.countFlush_on {z : State} (s : State) (c n : Nat) (h_s : Onward z (s)) :
    Onward z (State.countFlush s c n) := by
  unfold State.countFlush
  repeat' first
    | with_reducible intro _
    | with_reducible first
      | assumption | apply State.bump_on | apply goodC_ite | apply goodT_ite
    | with_reducible apply goodT_ts
    | with_reducible apply goodC_ts
    | dsimp only

theorem State.vecDone_on {z : State} (s : State) (c vd : Nat) (isInt : Bool) (ins : List (List Word)) (out : List Word) (pois : List Bool) (h_s : Onward z (s)) :
    Onward z (State.vecDone s c vd isInt ins out pois) := by
  unfold State.vecDone
  repeat' first
    | with_reducible intro _
    | with_reducible first
      | assumption | apply on_ite | apply onO_ite | apply State.countNaN_on | apply State.setV_on
      | apply State.poisonIn_on | apply State.advance_on
    | with_reducible apply goodT_ts
    | with_reducible apply goodC_ts
    | dsimp only
    | split

theorem State.vecArith_on {z : State} (s : State) (c : Nat) (f : VecF) (fi ff : Word → Word → Word) (h_s : Onward z (s)) :
    Onward z (State.vecArith s c f fi ff) := by
  unfold State.vecArith
  repeat' first
    | with_reducible intro _
    | with_reducible first
      | assumption | apply on_ite | apply onO_ite | apply State.vecDone_on | apply State.core_on | apply goodC_ite
      | apply goodT_ite
    | with_reducible apply goodT_ts
    | with_reducible apply goodC_ts
    | dsimp only
    | split

theorem execVadd_on {z : State} (c : LCore) (f : VecF) (s : State) (h_s : Onward z (s)) :
    OnwardA z (execVadd c f s) := by
  unfold execVadd
  repeat' first
    | with_reducible intro _
    | with_reducible first
      | assumption | apply onA_next | apply onA_refused | apply State.vecArith_on | apply issue_on
    | with_reducible apply goodT_ts
    | with_reducible apply goodC_ts
    | dsimp only

theorem execVsub_on {z : State} (c : LCore) (f : VecF) (s : State) (h_s : Onward z (s)) :
    OnwardA z (execVsub c f s) := by
  unfold execVsub
  repeat' first
    | with_reducible intro _
    | with_reducible first
      | assumption | apply onA_next | apply onA_refused | apply State.vecArith_on | apply issue_on
    | with_reducible apply goodT_ts
    | with_reducible apply goodC_ts
    | dsimp only

theorem execVmul_on {z : State} (c : LCore) (f : VecF) (s : State) (h_s : Onward z (s)) :
    OnwardA z (execVmul c f s) := by
  unfold execVmul
  repeat' first
    | with_reducible intro _
    | with_reducible first
      | assumption | apply onA_next | apply onA_refused | apply State.vecArith_on | apply issue_on
    | with_reducible apply goodT_ts
    | with_reducible apply goodC_ts
    | dsimp only

theorem execVmin_on {z : State} (c : LCore) (f : VecF) (s : State) (h_s : Onward z (s)) :
    OnwardA z (execVmin c f s) := by
  unfold execVmin
  repeat' first
    | with_reducible intro _
    | with_reducible first
      | assumption | apply onA_next | apply onA_refused | apply State.vecArith_on | apply issue_on
    | with_reducible apply goodT_ts
    | with_reducible apply goodC_ts
    | dsimp only

theorem execVmax_on {z : State} (c : LCore) (f : VecF) (s : State) (h_s : Onward z (s)) :
    OnwardA z (execVmax c f s) := by
  unfold execVmax
  repeat' first
    | with_reducible intro _
    | with_reducible first
      | assumption | apply onA_next | apply onA_refused | apply State.vecArith_on | apply issue_on
    | with_reducible apply goodT_ts
    | with_reducible apply goodC_ts
    | dsimp only

theorem State.vecDiv_on {z : State} (s : State) (c : Nat) (f : VecF) (h_s : Onward z (s)) :
    Onward z (State.vecDiv s c f) := by
  unfold State.vecDiv
  repeat' first
    | with_reducible intro _
    | with_reducible first
      | assumption | apply State.vecDone_on | apply State.core_on | apply goodC_ite | apply goodT_ite
    | with_reducible apply goodT_ts
    | with_reducible apply goodC_ts
    | dsimp only

theorem execVdiv_on {z : State} (c : LCore) (f : VecF) (s : State) (h_s : Onward z (s)) :
    OnwardA z (execVdiv c f s) := by
  unfold execVdiv
  repeat' first
    | with_reducible intro _
    | with_reducible first
      | assumption | apply onA_next | apply onA_refused | apply State.vecDiv_on | apply issue_on
    | with_reducible apply goodT_ts
    | with_reducible apply goodC_ts
    | dsimp only

theorem State.vecFma_on {z : State} (s : State) (c : Nat) (f : VecF) (h_s : Onward z (s)) :
    Onward z (State.vecFma s c f) := by
  unfold State.vecFma
  repeat' first
    | with_reducible intro _
    | with_reducible first
      | assumption | apply State.vecDone_on | apply State.core_on | apply goodC_ite | apply goodT_ite
    | with_reducible apply goodT_ts
    | with_reducible apply goodC_ts
    | dsimp only

theorem execVfma_on {z : State} (c : LCore) (f : VecF) (s : State) (h_s : Onward z (s)) :
    OnwardA z (execVfma c f s) := by
  unfold execVfma
  repeat' first
    | with_reducible intro _
    | with_reducible first
      | assumption | apply onA_next | apply onA_refused | apply State.vecFma_on | apply issue_on
    | with_reducible apply goodT_ts
    | with_reducible apply goodC_ts
    | dsimp only

theorem State.vecSfu_on {z : State} (s : State) (c : Nat) (f : VecF) (h_s : Onward z (s)) :
    Onward z (State.vecSfu s c f) := by
  unfold State.vecSfu
  repeat' first
    | with_reducible intro _
    | with_reducible first
      | assumption | apply State.vecDone_on | apply State.countFlush_on | apply State.core_on | apply goodC_ite
      | apply goodT_ite | apply on_getD | apply on_getD_fst | apply onF_map | apply onF_mapO | apply onO_mapF
      | apply onO_map
    | with_reducible apply goodT_ts
    | with_reducible apply goodC_ts
    | dsimp only

theorem execVsfu_on {z : State} (c : LCore) (f : VecF) (s : State) (h_s : Onward z (s)) :
    OnwardA z (execVsfu c f s) := by
  unfold execVsfu
  repeat' first
    | with_reducible intro _
    | with_reducible first
      | assumption | apply onA_next | apply onA_refused | apply onA_ite | apply on_ite | apply onO_ite
      | apply State.vecSfu_on | apply issue_on
    | with_reducible apply goodT_ts
    | with_reducible apply goodC_ts
    | dsimp only
    | split

theorem State.vecRed_on {z : State} (s : State) (c : Nat) (f : VecF) (op : Word → Word → Word) (h_s : Onward z (s)) :
    Onward z (State.vecRed s c f op) := by
  unfold State.vecRed
  repeat' first
    | with_reducible intro _
    | with_reducible first
      | assumption | apply on_ite | apply onO_ite | apply State.vecDone_on | apply State.core_on | apply goodC_ite
      | apply goodT_ite
    | with_reducible apply goodT_ts
    | with_reducible apply goodC_ts
    | dsimp only
    | split

theorem execVred_on {z : State} (c : LCore) (f : VecF) (s : State) (h_s : Onward z (s)) :
    OnwardA z (execVred c f s) := by
  unfold execVred
  repeat' first
    | with_reducible intro _
    | with_reducible first
      | assumption | apply onA_next | apply onA_refused | apply onO_some | apply onO_none | apply onF_some
      | apply onF_none | apply State.vecRed_on | apply issue_on | apply State.core_on | apply goodC_ite
      | apply goodT_ite
    | simp only [on_mk_iff, goodC_mk_iff, goodH_mk_iff]
    | with_reducible apply goodT_ts
    | with_reducible apply goodC_ts
    | dsimp only
    | split
    | (apply on_fst; with_reducible assumption)
    | (apply on_snd; with_reducible assumption)
    | (apply on_someF'; with_reducible assumption)
    | (apply on_some; with_reducible assumption)
    | (apply on_someF; with_reducible assumption)
    | (apply on_next; with_reducible assumption)

theorem State.vecBcast_on {z : State} (s : State) (c : Nat) (f : VecF) (h_s : Onward z (s)) :
    Onward z (State.vecBcast s c f) := by
  unfold State.vecBcast
  repeat' first
    | with_reducible intro _
    | with_reducible first
      | assumption | apply State.setV_on | apply State.poisonIn_on | apply State.advance_on | apply State.gate_on
      | apply goodC_ite | apply goodT_ite
    | with_reducible apply goodT_ts
    | with_reducible apply goodC_ts
    | dsimp only

theorem execVbcast_on {z : State} (c : LCore) (f : VecF) (s : State) (h_s : Onward z (s)) :
    OnwardA z (execVbcast c f s) := by
  unfold execVbcast
  repeat' first
    | with_reducible intro _
    | with_reducible first
      | assumption | apply onA_next | apply onA_refused | apply State.vecBcast_on | apply issue_on
    | with_reducible apply goodT_ts
    | with_reducible apply goodC_ts
    | dsimp only

theorem State.vecScale_on {z : State} (s : State) (c : Nat) (f : VecF) (h_s : Onward z (s)) :
    Onward z (State.vecScale s c f) := by
  unfold State.vecScale
  repeat' first
    | with_reducible intro _
    | with_reducible first
      | assumption | apply State.vecDone_on | apply State.gate_on | apply State.core_on | apply goodC_ite
      | apply goodT_ite | apply onF_map | apply onF_mapO | apply onO_mapF | apply onO_map
    | with_reducible apply goodT_ts
    | with_reducible apply goodC_ts
    | dsimp only

theorem execVscale_on {z : State} (c : LCore) (f : VecF) (s : State) (h_s : Onward z (s)) :
    OnwardA z (execVscale c f s) := by
  unfold execVscale
  repeat' first
    | with_reducible intro _
    | with_reducible first
      | assumption | apply onA_next | apply onA_refused | apply State.vecScale_on | apply issue_on
    | with_reducible apply goodT_ts
    | with_reducible apply goodC_ts
    | dsimp only

theorem State.vecLoadAt_on {z : State} (s : State) (c : Nat) (f : VecF) (slot : Option Nat) (h_s : Onward z (s)) :
    Onward z (State.vecLoadAt s c f slot) := by
  unfold State.vecLoadAt
  repeat' first
    | with_reducible intro _
    | with_reducible first
      | assumption | apply on_ite | apply onO_ite | apply State.setV_on | apply State.ts_on
      | apply State.outOfRange_on | apply State.poisonIn_on | apply State.advance_on | apply goodC_ite
      | apply goodT_ite
    | with_reducible apply goodT_ts
    | with_reducible apply goodC_ts
    | dsimp only
    | split
    | (apply on_fst; with_reducible assumption)
    | (apply on_snd; with_reducible assumption)
    | (apply on_someF'; with_reducible assumption)

theorem State.vecVld_on {z : State} (s : State) (c : Nat) (f : VecF) (h_s : Onward z (s)) :
    Onward z (State.vecVld s c f) := by
  unfold State.vecVld
  repeat' first
    | with_reducible intro _
    | with_reducible first
      | assumption | apply onO_some | apply onO_none | apply onF_some | apply onF_none | apply on_ite
      | apply onO_ite | apply State.vecLoadAt_on | apply State.gate_on | apply State.hold_on | apply State.core_on
      | apply goodC_ite | apply goodT_ite
    | simp only [on_mk_iff, goodC_mk_iff, goodH_mk_iff]
    | with_reducible apply goodT_ts
    | with_reducible apply goodC_ts
    | dsimp only
    | split
    | (apply on_fst; with_reducible assumption)
    | (apply on_snd; with_reducible assumption)
    | (apply on_someF'; with_reducible assumption)
    | (apply on_some; with_reducible assumption)
    | (apply on_someF; with_reducible assumption)
    | (apply on_next; with_reducible assumption)

theorem execVld_on {z : State} (c : LCore) (f : VecF) (s : State) (h_s : Onward z (s)) :
    OnwardA z (execVld c f s) := by
  unfold execVld
  repeat' first
    | with_reducible intro _
    | with_reducible first
      | assumption | apply onA_next | apply onA_refused | apply onA_ite | apply on_ite | apply onO_ite
      | apply State.vecVld_on | apply issue_on
    | with_reducible apply goodT_ts
    | with_reducible apply goodC_ts
    | dsimp only
    | split

theorem State.vecStoreAt_on {z : State} (s : State) (c : Nat) (f : VecF) (slot : Option Nat) (h_s : Onward z (s)) :
    Onward z (State.vecStoreAt s c f slot) := by
  unfold State.vecStoreAt
  repeat' first
    | with_reducible intro _
    | with_reducible first
      | assumption | apply on_ite | apply onO_ite | apply State.setTs_on | apply State.ts_on
      | apply State.outOfRange_on | apply State.advance_on | apply TileStore.vecStore_on | apply State.core_on
      | apply goodC_ite | apply goodT_ite | apply onF_map | apply onF_mapO | apply onO_mapF | apply onO_map
    | with_reducible apply goodT_ts
    | with_reducible apply goodC_ts
    | dsimp only
    | split

theorem State.vecVst_on {z : State} (s : State) (c : Nat) (f : VecF) (h_s : Onward z (s)) :
    Onward z (State.vecVst s c f) := by
  unfold State.vecVst
  repeat' first
    | with_reducible intro _
    | with_reducible first
      | assumption | apply onO_some | apply onO_none | apply onF_some | apply onF_none | apply on_ite
      | apply onO_ite | apply State.vecStoreAt_on | apply State.gate_on | apply State.hold_on | apply State.core_on
      | apply goodC_ite | apply goodT_ite
    | simp only [on_mk_iff, goodC_mk_iff, goodH_mk_iff]
    | with_reducible apply goodT_ts
    | with_reducible apply goodC_ts
    | dsimp only
    | split
    | (apply on_fst; with_reducible assumption)
    | (apply on_snd; with_reducible assumption)
    | (apply on_someF'; with_reducible assumption)
    | (apply on_some; with_reducible assumption)
    | (apply on_someF; with_reducible assumption)
    | (apply on_next; with_reducible assumption)

theorem execVst_on {z : State} (c : LCore) (f : VecF) (s : State) (h_s : Onward z (s)) :
    OnwardA z (execVst c f s) := by
  unfold execVst
  repeat' first
    | with_reducible intro _
    | with_reducible first
      | assumption | apply onA_next | apply onA_refused | apply onA_ite | apply on_ite | apply onO_ite
      | apply State.vecVst_on | apply issue_on
    | with_reducible apply goodT_ts
    | with_reducible apply goodC_ts
    | dsimp only
    | split

end Sys2Proof.Machine
end

