-- ==== Sys2Proof/Laws/OnCoreStat.lean ====
section
/-! SUPPORT. What each operation of Machine/CoreStat.lean leaves in order. -/

namespace Sys2Proof.Machine

theorem State.writeWords_on {z : State} (s : State) (c a : Nat) (ws : List Word) (p : Bool) (h_s : Onward z (s)) :
    Onward z (State.writeWords s c a ws p) := by
  induction ws generalizing s a with
  | nil =>
    unfold State.writeWords
    repeat' first
      | with_reducible intro _
      | with_reducible first
        | assumption | apply on_ite | apply onO_ite | apply ih | apply State.setTs_on | apply State.ts_on
        | apply State.outOfRange_on | apply TileStore.setWords_on | apply TileStore.setBytes_on | apply goodC_ite
        | apply goodT_ite
      | simp only [on_mk_iff, goodC_mk_iff, goodH_mk_iff]
      | with_reducible apply goodT_ts
      | with_reducible apply goodC_ts
      | dsimp only
      | split
      | (apply on_fst; with_reducible assumption)
      | (apply on_snd; with_reducible assumption)
      | (apply on_someF'; with_reducible assumption)
      | (apply on_some; with_reducible assumption)
      | (apply on_someF; with_reducible assumption)
      | (apply on_next; with_reducible assumption)
  | cons e rest ih =>
    unfold State.writeWords
    repeat' first
      | with_reducible intro _
      | with_reducible first
        | assumption | apply on_ite | apply onO_ite | apply ih | apply State.setTs_on | apply State.ts_on
        | apply State.outOfRange_on | apply TileStore.setWords_on | apply TileStore.setBytes_on | apply goodC_ite
        | apply goodT_ite
      | simp only [on_mk_iff, goodC_mk_iff, goodH_mk_iff]
      | with_reducible apply goodT_ts
      | with_reducible apply goodC_ts
      | dsimp only
      | split
      | (apply on_fst; with_reducible assumption)
      | (apply on_snd; with_reducible assumption)
      | (apply on_someF'; with_reducible assumption)
      | (apply on_some; with_reducible assumption)
      | (apply on_someF; with_reducible assumption)
      | (apply on_next; with_reducible assumption)

theorem State.statOneRow_on {z : State} (s : State) (c : Nat) (op : StatOp) (fmt : BitVec 4) (src dst len r : Nat) (h_s : Onward z (s)) :
    Onward z (State.statOneRow s c op fmt src dst len r) := by
  unfold State.statOneRow
  repeat' first
    | with_reducible intro _
    | with_reducible first
      | assumption | apply on_ite | apply onO_ite | apply State.writeWords_on | apply State.countNaN_on
      | apply State.ts_on | apply State.outOfRange_on | apply State.poisonIn_on | apply TileStore.below_on
      | apply goodC_ite | apply goodT_ite
    | with_reducible apply goodT_ts
    | with_reducible apply goodC_ts
    | dsimp only
    | split
    | (apply on_fst; with_reducible assumption)
    | (apply on_snd; with_reducible assumption)
    | (apply on_someF'; with_reducible assumption)

theorem State.statRows_on {z : State} (s : State) (c : Nat) (op : StatOp) (fmt : BitVec 4) (src dst len rows : Nat) (h_s : Onward z (s)) :
    Onward z (State.statRows s c op fmt src dst len rows) := by
  unfold State.statRows
  repeat' first
    | with_reducible intro _
    | with_reducible first
      | assumption | apply State.statOneRow_on | apply goodC_foldl | apply goodH_foldl | apply goodT_foldl
      | apply on_foldl | apply on_foldl_fst | apply on_foldl_snd | apply onO_foldl | apply onF_foldl
    | with_reducible apply goodT_ts
    | with_reducible apply goodC_ts
    | dsimp only

theorem State.stat_on {z : State} (s : State) (c : Nat) (f : StatF) (op : StatOp) (h_s : Onward z (s)) :
    Onward z (State.stat s c f op) := by
  unfold State.stat
  repeat' first
    | with_reducible intro _
    | with_reducible first
      | assumption | apply onO_some | apply onO_none | apply onF_some | apply onF_none | apply on_ite
      | apply onO_ite | apply State.statRows_on | apply State.advance_on | apply State.gate_on
      | apply State.hold_on | apply State.core_on | apply goodC_ite | apply goodT_ite
    | simp only [on_mk_iff, goodC_mk_iff, goodH_mk_iff]
    | with_reducible apply goodT_ts
    | with_reducible apply goodC_ts
    | dsimp only
    | split
    | (apply on_fst; with_reducible assumption)
    | (apply on_snd; with_reducible assumption)
    | (apply on_someF'; with_reducible assumption)
    | (apply on_some; with_reducible assumption)
    | (apply on_someF; with_reducible assumption)
    | (apply on_next; with_reducible assumption)

theorem execStat_on {z : State} (op : StatOp) (c : LCore) (f : StatF) (s : State) (h_s : Onward z (s)) :
    OnwardA z (execStat op c f s) := by
  unfold execStat
  repeat' first
    | with_reducible intro _
    | with_reducible first
      | assumption | apply onA_next | apply onA_refused | apply onA_ite | apply on_ite | apply onO_ite
      | apply State.stat_on | apply issue_on
    | with_reducible apply goodT_ts
    | with_reducible apply goodC_ts
    | dsimp only
    | split

theorem execRmax_on {z : State} (c : LCore) (f : StatF) (s : State) (h_s : Onward z (s)) :
    OnwardA z (execRmax c f s) := by
  unfold execRmax
  repeat' first
    | with_reducible intro _
    | with_reducible first
      | assumption | apply onA_next | apply onA_refused | apply execStat_on
    | with_reducible apply goodT_ts
    | with_reducible apply goodC_ts
    | dsimp only

theorem execRsum_on {z : State} (c : LCore) (f : StatF) (s : State) (h_s : Onward z (s)) :
    OnwardA z (execRsum c f s) := by
  unfold execRsum
  repeat' first
    | with_reducible intro _
    | with_reducible first
      | assumption | apply onA_next | apply onA_refused | apply execStat_on
    | with_reducible apply goodT_ts
    | with_reducible apply goodC_ts
    | dsimp only

theorem execRmean_on {z : State} (c : LCore) (f : StatF) (s : State) (h_s : Onward z (s)) :
    OnwardA z (execRmean c f s) := by
  unfold execRmean
  repeat' first
    | with_reducible intro _
    | with_reducible first
      | assumption | apply onA_next | apply onA_refused | apply execStat_on
    | with_reducible apply goodT_ts
    | with_reducible apply goodC_ts
    | dsimp only

theorem execRvar_on {z : State} (c : LCore) (f : StatF) (s : State) (h_s : Onward z (s)) :
    OnwardA z (execRvar c f s) := by
  unfold execRvar
  repeat' first
    | with_reducible intro _
    | with_reducible first
      | assumption | apply onA_next | apply onA_refused | apply execStat_on
    | with_reducible apply goodT_ts
    | with_reducible apply goodC_ts
    | dsimp only

theorem execRminmax_on {z : State} (c : LCore) (f : StatF) (s : State) (h_s : Onward z (s)) :
    OnwardA z (execRminmax c f s) := by
  unfold execRminmax
  repeat' first
    | with_reducible intro _
    | with_reducible first
      | assumption | apply onA_next | apply onA_refused | apply execStat_on
    | with_reducible apply goodT_ts
    | with_reducible apply goodC_ts
    | dsimp only

end Sys2Proof.Machine
end

