-- ==== Sys2Proof/Laws/OnCoreMove.lean ====
section
/-! SUPPORT. What each operation of Machine/CoreMove.lean leaves in order. -/

namespace Sys2Proof.Machine

theorem State.scalarDone_on {z : State} (s : State) (c sd : Nat) (v : Word) (p : Bool) (h_s : Onward z (s)) :
    Onward z (State.scalarDone s c sd v p) := by
  unfold State.scalarDone
  repeat' first
    | with_reducible intro _
    | with_reducible first
      | assumption | apply State.poisonIn_on | apply State.finish_on
    | with_reducible apply goodT_ts
    | with_reducible apply goodC_ts
    | dsimp only

theorem execLi_on {z : State} (c : LCore) (f : MoveF) (s : State) (h_s : Onward z (s)) :
    OnwardA z (execLi c f s) := by
  unfold execLi
  repeat' first
    | with_reducible intro _
    | with_reducible first
      | assumption | apply onA_next | apply onA_refused | apply State.finish_on | apply State.gate_on
      | apply issue_on | apply goodC_ite | apply goodT_ite
    | with_reducible apply goodT_ts
    | with_reducible apply goodC_ts
    | dsimp only

theorem State.aluOp_on {z : State} (s : State) (c : Nat) (f : MoveF) (h_s : Onward z (s)) :
    Onward z (State.aluOp s c f) := by
  unfold State.aluOp
  repeat' first
    | with_reducible intro _
    | with_reducible first
      | assumption | apply State.scalarDone_on | apply State.gate_on | apply goodC_ite | apply goodT_ite
      | apply on_getD | apply on_getD_fst
    | with_reducible apply goodT_ts
    | with_reducible apply goodC_ts
    | dsimp only

theorem execAlu_on {z : State} (c : LCore) (f : MoveF) (s : State) (h_s : Onward z (s)) :
    OnwardA z (execAlu c f s) := by
  unfold execAlu
  repeat' first
    | with_reducible intro _
    | with_reducible first
      | assumption | apply onA_next | apply onA_refused | apply onA_ite | apply on_ite | apply onO_ite
      | apply State.aluOp_on | apply issue_on
    | with_reducible apply goodT_ts
    | with_reducible apply goodC_ts
    | dsimp only
    | split

theorem State.aluiOp_on {z : State} (s : State) (c : Nat) (f : MoveF) (h_s : Onward z (s)) :
    Onward z (State.aluiOp s c f) := by
  unfold State.aluiOp
  repeat' first
    | with_reducible intro _
    | with_reducible first
      | assumption | apply State.scalarDone_on | apply State.gate_on | apply goodC_ite | apply goodT_ite
      | apply on_getD | apply on_getD_fst
    | with_reducible apply goodT_ts
    | with_reducible apply goodC_ts
    | dsimp only

theorem execAlui_on {z : State} (c : LCore) (f : MoveF) (s : State) (h_s : Onward z (s)) :
    OnwardA z (execAlui c f s) := by
  unfold execAlui
  repeat' first
    | with_reducible intro _
    | with_reducible first
      | assumption | apply onA_next | apply onA_refused | apply onA_ite | apply on_ite | apply onO_ite
      | apply State.aluiOp_on | apply issue_on
    | with_reducible apply goodT_ts
    | with_reducible apply goodC_ts
    | dsimp only
    | split

theorem State.ldsOp_on {z : State} (s : State) (c : Nat) (f : MoveF) (h_s : Onward z (s)) :
    Onward z (State.ldsOp s c f) := by
  unfold State.ldsOp
  repeat' first
    | with_reducible intro _
    | with_reducible first
      | assumption | apply on_ite | apply onO_ite | apply State.scalarDone_on | apply State.ts_on
      | apply State.outOfRange_on | apply State.gate_on | apply goodC_ite | apply goodT_ite
    | with_reducible apply goodT_ts
    | with_reducible apply goodC_ts
    | dsimp only
    | split

theorem execLds_on {z : State} (c : LCore) (f : MoveF) (s : State) (h_s : Onward z (s)) :
    OnwardA z (execLds c f s) := by
  unfold execLds
  repeat' first
    | with_reducible intro _
    | with_reducible first
      | assumption | apply onA_next | apply onA_refused | apply State.ldsOp_on | apply issue_on
    | with_reducible apply goodT_ts
    | with_reducible apply goodC_ts
    | dsimp only

theorem State.stsOp_on {z : State} (s : State) (c : Nat) (f : MoveF) (h_s : Onward z (s)) :
    Onward z (State.stsOp s c f) := by
  unfold State.stsOp
  repeat' first
    | with_reducible intro _
    | with_reducible first
      | assumption | apply State.writeWords_on | apply State.advance_on | apply State.gate_on | apply goodC_ite
      | apply goodT_ite
    | with_reducible apply goodT_ts
    | with_reducible apply goodC_ts
    | dsimp only

theorem execSts_on {z : State} (c : LCore) (f : MoveF) (s : State) (h_s : Onward z (s)) :
    OnwardA z (execSts c f s) := by
  unfold execSts
  repeat' first
    | with_reducible intro _
    | with_reducible first
      | assumption | apply onA_next | apply onA_refused | apply State.stsOp_on | apply issue_on
    | with_reducible apply goodT_ts
    | with_reducible apply goodC_ts
    | dsimp only

theorem State.amovOp_on {z : State} (s : State) (c : Nat) (f : MoveF) (h_s : Onward z (s)) :
    Onward z (State.amovOp s c f) := by
  unfold State.amovOp
  repeat' first
    | with_reducible intro _
    | with_reducible first
      | assumption | apply State.control_on | apply State.finish_on | apply State.gate_on | apply goodC_ite
      | apply goodT_ite
    | simp only [on_mk_iff, goodC_mk_iff, goodH_mk_iff]
    | with_reducible apply goodT_ts
    | with_reducible apply goodC_ts
    | dsimp only
    | split
    | (apply on_fst; with_reducible assumption)
    | (apply on_snd; with_reducible assumption)
    | (apply on_someF'; with_reducible assumption)
    | (apply on_some; with_reducible assumption)
    | (apply on_someF; with_reducible assumption)
    | (apply on_next; with_reducible assumption)

theorem execAmov_on {z : State} (c : LCore) (f : MoveF) (s : State) (h_s : Onward z (s)) :
    OnwardA z (execAmov c f s) := by
  unfold execAmov
  repeat' first
    | with_reducible intro _
    | with_reducible first
      | assumption | apply onA_next | apply onA_refused | apply onA_ite | apply on_ite | apply onO_ite
      | apply State.amovOp_on | apply issue_on
    | with_reducible apply goodT_ts
    | with_reducible apply goodC_ts
    | dsimp only
    | split

theorem State.getOp_on {z : State} (s : State) (c : Nat) (f : MoveF) (v : Word) (h_s : Onward z (s)) :
    Onward z (State.getOp s c f v) := by
  unfold State.getOp
  repeat' first
    | with_reducible intro _
    | with_reducible first
      | assumption | apply on_ite | apply onO_ite | apply State.finish_on | apply State.gate_on
      | apply State.setCore_on | apply State.core_on | apply goodC_ite | apply goodT_ite
    | simp only [on_mk_iff, goodC_mk_iff, goodH_mk_iff]
    | with_reducible apply goodT_ts
    | with_reducible apply goodC_ts
    | dsimp only
    | split

theorem execGet_on {z : State} (c : LCore) (f : MoveF) (s : State) (h_s : Onward z (s)) :
    OnwardA z (execGet c f s) := by
  unfold execGet
  repeat' first
    | with_reducible intro _
    | with_reducible first
      | assumption | apply onA_next | apply onA_refused | apply onO_some | apply onO_none | apply onF_some
      | apply onF_none | apply State.getOp_on | apply issue_on | apply goodC_ite | apply goodT_ite
    | simp only [on_mk_iff, goodC_mk_iff, goodH_mk_iff]
    | with_reducible apply goodT_ts
    | with_reducible apply goodC_ts
    | dsimp only
    | split
    | (apply on_fst; with_reducible assumption)
    | (apply on_snd; with_reducible assumption)
    | (apply on_someF'; with_reducible assumption)
    | (apply on_some; with_reducible assumption)
    | (apply on_someF; with_reducible assumption)
    | (apply on_next; with_reducible assumption)

theorem State.putOp_on {z : State} (s : State) (c : Nat) (f : MoveF) (h_s : Onward z (s)) :
    Onward z (State.putOp s c f) := by
  unfold State.putOp
  repeat' first
    | with_reducible intro _
    | with_reducible first
      | assumption | apply State.control_on | apply State.advance_on | apply State.gate_on | apply State.setCore_on
      | apply State.core_on | apply goodC_ite | apply goodT_ite
    | simp only [on_mk_iff, goodC_mk_iff, goodH_mk_iff]
    | with_reducible apply goodT_ts
    | with_reducible apply goodC_ts
    | dsimp only

theorem execPut_on {z : State} (c : LCore) (f : MoveF) (s : State) (h_s : Onward z (s)) :
    OnwardA z (execPut c f s) := by
  unfold execPut
  repeat' first
    | with_reducible intro _
    | with_reducible first
      | assumption | apply onA_next | apply onA_refused | apply onA_ite | apply on_ite | apply onO_ite
      | apply State.putOp_on | apply issue_on
    | with_reducible apply goodT_ts
    | with_reducible apply goodC_ts
    | dsimp only
    | split

theorem State.fillOp_on {z : State} (s : State) (c : Nat) (f : MoveF) (h_s : Onward z (s)) :
    Onward z (State.fillOp s c f) := by
  unfold State.fillOp
  repeat' first
    | with_reducible intro _
    | with_reducible first
      | assumption | apply State.writeGrans_on | apply State.control_on | apply State.outOfRange_on
      | apply State.advance_on | apply State.gate_on | apply goodC_ite | apply goodT_ite
    | with_reducible apply goodT_ts
    | with_reducible apply goodC_ts
    | dsimp only

theorem execFill_on {z : State} (c : LCore) (f : MoveF) (s : State) (h_s : Onward z (s)) :
    OnwardA z (execFill c f s) := by
  unfold execFill
  repeat' first
    | with_reducible intro _
    | with_reducible first
      | assumption | apply onA_next | apply onA_refused | apply State.fillOp_on | apply issue_on
    | with_reducible apply goodT_ts
    | with_reducible apply goodC_ts
    | dsimp only

theorem State.copyGrans_on {z : State} (s : State) (c dst src n : Nat) (h_s : Onward z (s)) :
    Onward z (State.copyGrans s c dst src n) := by
  induction n generalizing s dst src with
  | zero =>
    unfold State.copyGrans
    repeat' first
      | with_reducible intro _
      | with_reducible first
        | assumption | apply ih | apply State.writeGrans_on | apply goodC_ite | apply goodT_ite
      | simp only [on_mk_iff, goodC_mk_iff, goodH_mk_iff]
      | with_reducible apply goodT_ts
      | with_reducible apply goodC_ts
      | dsimp only
      | split
      | (apply on_fst; with_reducible assumption)
      | (apply on_snd; with_reducible assumption)
      | (apply on_someF'; with_reducible assumption)
      | (apply on_some; with_reducible assumption)
      | (apply on_someF; with_reducible assumption)
      | (apply on_next; with_reducible assumption)
  | succ m ih =>
    unfold State.copyGrans
    repeat' first
      | with_reducible intro _
      | with_reducible first
        | assumption | apply ih | apply State.writeGrans_on | apply goodC_ite | apply goodT_ite
      | simp only [on_mk_iff, goodC_mk_iff, goodH_mk_iff]
      | with_reducible apply goodT_ts
      | with_reducible apply goodC_ts
      | dsimp only
      | split
      | (apply on_fst; with_reducible assumption)
      | (apply on_snd; with_reducible assumption)
      | (apply on_someF'; with_reducible assumption)
      | (apply on_some; with_reducible assumption)
      | (apply on_someF; with_reducible assumption)
      | (apply on_next; with_reducible assumption)

theorem State.copyOp_on {z : State} (s : State) (c : Nat) (f : MoveF) (h_s : Onward z (s)) :
    Onward z (State.copyOp s c f) := by
  unfold State.copyOp
  repeat' first
    | with_reducible intro _
    | with_reducible first
      | assumption | apply State.copyGrans_on | apply State.control_on | apply State.outOfRange_on
      | apply State.advance_on | apply State.gate_on | apply goodC_ite | apply goodT_ite
    | with_reducible apply goodT_ts
    | with_reducible apply goodC_ts
    | dsimp only

theorem execCopy_on {z : State} (c : LCore) (f : MoveF) (s : State) (h_s : Onward z (s)) :
    OnwardA z (execCopy c f s) := by
  unfold execCopy
  repeat' first
    | with_reducible intro _
    | with_reducible first
      | assumption | apply onA_next | apply onA_refused | apply State.copyOp_on | apply issue_on
    | with_reducible apply goodT_ts
    | with_reducible apply goodC_ts
    | dsimp only

end Sys2Proof.Machine
end

