-- ==== Sys2Proof/Laws/OnFifo.lean ====
section
/-! SUPPORT. What each operation of Machine/Fifo.lean leaves in order. -/

namespace Sys2Proof.Machine

theorem State.setFifo_on {z : State} (s : State) (c p : Nat) (x : Fifo) (h_s : Onward z (s)) :
    Onward z (State.setFifo s c p x) := by
  unfold State.setFifo
  repeat' first
    | with_reducible intro _
    | with_reducible first
      | assumption | apply State.setCore_on | apply State.core_on | apply State.setFlag_on | apply State.put_on
      | apply goodC_ite | apply goodT_ite
    | simp only [on_mk_iff, goodC_mk_iff, goodH_mk_iff]
    | with_reducible apply goodT_ts
    | with_reducible apply goodC_ts
    | dsimp only

theorem State.returnSendCredit_on {z : State} (s : State) (source route n : Nat) (h_s : Onward z (s)) :
    Onward z (State.returnSendCredit s source route n) := by
  unfold State.returnSendCredit
  repeat' first
    | with_reducible intro _
    | with_reducible first
      | assumption | apply on_ite | apply onO_ite | apply State.setCore_on | apply State.core_on | apply goodC_ite
      | apply goodT_ite
    | simp only [on_mk_iff, goodC_mk_iff, goodH_mk_iff]
    | with_reducible apply goodT_ts
    | with_reducible apply goodC_ts
    | dsimp only
    | split

theorem State.sendDelivered_on {z : State} (s : State) (source : Nat) (h_s : Onward z (s)) :
    Onward z (State.sendDelivered s source) := by
  unfold State.sendDelivered
  repeat' first
    | with_reducible intro _
    | with_reducible first
      | assumption | apply on_ite | apply onO_ite | apply State.setCore_on | apply State.core_on | apply goodC_ite
      | apply goodT_ite
    | simp only [on_mk_iff, goodC_mk_iff, goodH_mk_iff]
    | with_reducible apply goodT_ts
    | with_reducible apply goodC_ts
    | dsimp only
    | split

theorem State.countAbsorb_on {z : State} (s : State) (c : Nat) (h_s : Onward z (s)) :
    Onward z (State.countAbsorb s c) := by
  unfold State.countAbsorb
  repeat' first
    | with_reducible intro _
    | with_reducible first
      | assumption | apply onO_some | apply onO_none | apply onF_some | apply onF_none | apply State.inc_on
      | apply goodC_ite | apply goodT_ite
    | simp only [on_mk_iff, goodC_mk_iff, goodH_mk_iff]
    | with_reducible apply goodT_ts
    | with_reducible apply goodC_ts
    | dsimp only
    | split
    | (apply on_fst; with_reducible assumption)
    | (apply on_snd; with_reducible assumption)
    | (apply on_someF'; with_reducible assumption)
    | (apply on_some; with_reducible assumption)
    | (apply on_someF; with_reducible assumption)
    | (apply on_next; with_reducible assumption)

theorem execPacketFirstWord_on {z : State} (c : LCore) (p : Fin 4) (route source : Nat) (grans : Fin 129) (s : State) (h_s : Onward z (s)) :
    OnwardA z (execPacketFirstWord c p route source grans s) := by
  unfold execPacketFirstWord
  repeat' first
    | with_reducible intro _
    | with_reducible first
      | assumption | apply onA_next | apply onA_refused | apply onA_ite | apply on_ite | apply onO_ite
      | apply State.countAbsorb_on | apply State.sendDelivered_on | apply State.returnSendCredit_on
      | apply State.setFifo_on
    | with_reducible apply goodT_ts
    | with_reducible apply goodC_ts
    | dsimp only
    | split

theorem State.testPacket_on {z : State} (s : State) (c p : Nat) (w : Word) (h_s : Onward z (s)) :
    Onward z (State.testPacket s c p w) := by
  unfold State.testPacket
  repeat' first
    | with_reducible intro _
    | with_reducible first
      | assumption | apply onO_some | apply onO_none | apply onF_some | apply onF_none | apply on_ite
      | apply onO_ite | apply State.setFifo_on | apply State.setFlag_on | apply goodC_ite | apply goodT_ite
    | simp only [on_mk_iff, goodC_mk_iff, goodH_mk_iff]
    | with_reducible apply goodT_ts
    | with_reducible apply goodC_ts
    | dsimp only
    | split
    | (apply on_fst; with_reducible assumption)
    | (apply on_snd; with_reducible assumption)
    | (apply on_someF'; with_reducible assumption)
    | (apply on_some; with_reducible assumption)
    | (apply on_someF; with_reducible assumption)
    | (apply on_next; with_reducible assumption)

theorem State.fifoDone_on {z : State} (s : State) (c p : Nat) (x : Fifo) (h_s : Onward z (s)) :
    Onward z (State.fifoDone s c p x) := by
  unfold State.fifoDone
  repeat' first
    | with_reducible intro _
    | with_reducible first
      | assumption | apply onO_some | apply onO_none | apply onF_some | apply onF_none | apply State.testPacket_on
      | apply State.setFifo_on | apply goodC_ite | apply goodT_ite
    | simp only [on_mk_iff, goodC_mk_iff, goodH_mk_iff]
    | with_reducible apply goodT_ts
    | with_reducible apply goodC_ts
    | dsimp only
    | split
    | (apply on_fst; with_reducible assumption)
    | (apply on_snd; with_reducible assumption)
    | (apply on_someF'; with_reducible assumption)
    | (apply on_some; with_reducible assumption)
    | (apply on_someF; with_reducible assumption)
    | (apply on_next; with_reducible assumption)

theorem execPacketCommit_on {z : State} (c : LCore) (p : Fin 4) (grans : List Granule) (badWords : List Nat) (s : State) (h_s : Onward z (s)) :
    OnwardA z (execPacketCommit c p grans badWords s) := by
  unfold execPacketCommit
  repeat' first
    | with_reducible intro _
    | with_reducible first
      | assumption | apply onA_next | apply onA_refused | apply onO_some | apply onO_none | apply onF_some
      | apply onF_none | apply State.fifoDone_on | apply State.sendDelivered_on | apply goodC_ite | apply goodT_ite
    | simp only [on_mk_iff, goodC_mk_iff, goodH_mk_iff]
    | with_reducible apply goodT_ts
    | with_reducible apply goodC_ts
    | dsimp only
    | split
    | (apply on_fst; with_reducible assumption)
    | (apply on_snd; with_reducible assumption)
    | (apply on_someF'; with_reducible assumption)
    | (apply on_some; with_reducible assumption)
    | (apply on_someF; with_reducible assumption)
    | (apply on_next; with_reducible assumption)

theorem execBadPacketRewind_on {z : State} (c : LCore) (p : Fin 4) (s : State) (h_s : Onward z (s)) :
    OnwardA z (execBadPacketRewind c p s) := by
  unfold execBadPacketRewind
  repeat' first
    | with_reducible intro _
    | with_reducible first
      | assumption | apply onA_next | apply onA_refused | apply onO_some | apply onO_none | apply onF_some
      | apply onF_none | apply State.fifoDone_on | apply State.sendDelivered_on | apply State.returnSendCredit_on
      | apply State.inc_on | apply State.setFlag_on | apply goodC_ite | apply goodT_ite
    | simp only [on_mk_iff, goodC_mk_iff, goodH_mk_iff]
    | with_reducible apply goodT_ts
    | with_reducible apply goodC_ts
    | dsimp only
    | split
    | (apply on_fst; with_reducible assumption)
    | (apply on_snd; with_reducible assumption)
    | (apply on_someF'; with_reducible assumption)
    | (apply on_some; with_reducible assumption)
    | (apply on_someF; with_reducible assumption)
    | (apply on_next; with_reducible assumption)

theorem State.clampAt_on {z : State} (s : State) (count last bar2 : RF) (addr : Nat) (b2 : Bool) (h_s : Onward z (s)) :
    Onward z (State.clampAt s count last bar2 addr b2) := by
  unfold State.clampAt
  repeat' first
    | with_reducible intro _
    | with_reducible first
      | assumption | apply State.inc_on | apply State.setFlag_on | apply State.put_on
    | with_reducible apply goodT_ts
    | with_reducible apply goodC_ts
    | dsimp only

theorem State.clampCore_on {z : State} (s : State) (c : Nat) (r : Reg) (h_s : Onward z (s)) :
    Onward z (State.clampCore s c r) := by
  unfold State.clampCore
  repeat' first
    | with_reducible intro _
    | with_reducible first
      | assumption | apply State.clampAt_on
    | with_reducible apply goodT_ts
    | with_reducible apply goodC_ts
    | dsimp only

theorem execFifoTestWrite_on {z : State} (c : LCore) (p : Fin 4) (word : Word) (s : State) (h_s : Onward z (s)) :
    OnwardA z (execFifoTestWrite c p word s) := by
  unfold execFifoTestWrite
  repeat' first
    | with_reducible intro _
    | with_reducible first
      | assumption | apply onA_next | apply onA_refused | apply onA_ite | apply onO_some | apply onO_none
      | apply onF_some | apply onF_none | apply on_ite | apply onO_ite | apply State.clampCore_on
      | apply State.testPacket_on | apply State.setFifo_on | apply goodC_ite | apply goodT_ite
    | simp only [on_mk_iff, goodC_mk_iff, goodH_mk_iff]
    | with_reducible apply goodT_ts
    | with_reducible apply goodC_ts
    | dsimp only
    | split

end Sys2Proof.Machine
end

