-- ==== Sys2Proof/Laws/OnTierOps.lean ====
section
/-! SUPPORT. What each operation of Machine/TierOps.lean leaves in order. -/

namespace Sys2Proof.Machine

theorem harborReset_on {z : State}   :
    GoodH z (harborReset ) := by
  exact fun _ => rfl

theorem State.harbor_on {z : State} (s : State) (h : Nat) (h_s : Onward z (s)) :
    GoodH z (State.harbor s h) := by
  exact harbor_good h h_s

theorem State.setHarbor_on {z : State} (s : State) (h : Nat) (x : HarborSt) (h_s : Onward z (s)) (h_x : GoodH z (x)) :
    Onward z (State.setHarbor s h x) := by
  exact on_harbors h_s (goodH_insert h (harbors_good h_s) h_x)

theorem HarborSt.setObj_on {z : State} (x : HarborSt) (i : Nat) (o : TierObj) (h_x : GoodH z (x)) :
    GoodH z (HarborSt.setObj x i o) := by
  unfold HarborSt.setObj
  repeat' first
    | with_reducible intro _
    | with_reducible first
      | assumption | apply goodC_ite | apply goodT_ite | apply goodH_ite
    | simp only [on_mk_iff, goodC_mk_iff, goodH_mk_iff]
    | with_reducible apply goodT_ts
    | with_reducible apply goodC_ts
    | dsimp only

theorem HarborSt.nearPut_on {z : State} (x : HarborSt) (frame g : Nat) (v : Granule) (h_x : GoodH z (x)) :
    GoodH z (HarborSt.nearPut x frame g v) := by
  exact fun w => HarborSt.nearPut_memWf frame g v (h_x w)

theorem HarborSt.midPut_on {z : State} (x : HarborSt) (frame g : Nat) (v : Granule) (h_x : GoodH z (x)) :
    GoodH z (HarborSt.midPut x frame g v) := by
  exact fun w => HarborSt.midPut_memWf frame g v (h_x w)

theorem HarborSt.farPut_on {z : State} (x : HarborSt) (page g : Nat) (v : Granule) (h_x : GoodH z (x)) :
    GoodH z (HarborSt.farPut x page g v) := by
  exact fun w => HarborSt.farPut_memWf page g v (h_x w)

theorem putAll_on {z : State} (put : HarborSt → Nat → Granule → HarborSt) (x : HarborSt) (g : Nat) (vs : List Granule) (h_put : ∀ x0 x1 x2, GoodH z (x0) → GoodH z (put x0 x1 x2)) (h_x : GoodH z (x)) :
    GoodH z (putAll put x g vs) := by
  induction vs generalizing x g with
  | nil => exact h_x
  | cons v rest ih => exact ih _ _ (h_put _ _ _ h_x)

theorem HarborSt.clearPieces_on {z : State} (x : HarborSt) (frame g n : Nat) (h_x : GoodH z (x)) :
    GoodH z (HarborSt.clearPieces x frame g n) := by
  exact fun w => HarborSt.clearPieces_memWf frame g n (h_x w)

theorem HarborSt.clearUnits_on {z : State} (x : HarborSt) (page g n : Nat) (h_x : GoodH z (x)) :
    GoodH z (HarborSt.clearUnits x page g n) := by
  exact fun w => HarborSt.clearUnits_memWf page g n (h_x w)

theorem HarborSt.pagePut_on {z : State} (x : HarborSt) (index page g : Nat) (vs : List Granule) (h_x : GoodH z (x)) :
    GoodH z (HarborSt.pagePut x index page g vs) := by
  exact fun w => HarborSt.pagePut_memWf index page g vs (h_x w)

theorem HarborSt.warm_on {z : State} (x : HarborSt) (index page : Nat) (h_x : GoodH z (x)) :
    GoodH z (HarborSt.warm x index page) := by
  unfold HarborSt.warm
  repeat' first
    | with_reducible intro _
    | with_reducible first
      | assumption | apply onO_some | apply onO_none | apply onF_some | apply onF_none | apply on_ite
      | apply onO_ite | apply HarborSt.setObj_on | apply goodC_ite | apply goodT_ite | apply goodH_ite
    | simp only [on_mk_iff, goodC_mk_iff, goodH_mk_iff]
    | with_reducible apply goodT_ts
    | with_reducible apply goodC_ts
    | dsimp only
    | split
    | (apply on_fst; with_reducible assumption)
    | (apply on_snd; with_reducible assumption)
    | (apply on_someF'; with_reducible assumption)
    | (apply on_some; with_reducible assumption)
    | (apply on_someF; with_reducible assumption)
    | (apply on_next; with_reducible assumption)

theorem State.refreshCap_on {z : State} (s : State) (h : Nat) (h_s : Onward z (s)) :
    Onward z (State.refreshCap s h) := by
  unfold State.refreshCap
  repeat' first
    | with_reducible intro _
    | with_reducible first
      | assumption | apply State.harbor_on | apply State.put_on | apply goodH_ite
    | with_reducible apply goodT_ts
    | with_reducible apply goodC_ts
    | dsimp only

theorem HarborSt.copyToMid_on {z : State} (x : HarborSt) (frame dst : Nat) (h_x : GoodH z (x)) :
    GoodH z (HarborSt.copyToMid x frame dst) := by
  exact fun w => HarborSt.copyToMid_memWf frame dst (h_x w)

theorem HarborSt.scrubNear_on {z : State} (x : HarborSt) (frame : Nat) (h_x : GoodH z (x)) :
    GoodH z (HarborSt.scrubNear x frame) := by
  exact fun w => HarborSt.scrubNear_memWf frame (h_x w)

theorem HarborSt.scrubMid_on {z : State} (x : HarborSt) (frame : Nat) (h_x : GoodH z (x)) :
    GoodH z (HarborSt.scrubMid x frame) := by
  exact fun w => HarborSt.scrubMid_memWf frame (h_x w)

theorem State.evict_on {z : State} (s : State) (h : Nat) (v : Victim) (h_s : Onward z (s)) :
    OnwardO z (State.evict s h v) := by
  unfold State.evict
  repeat' first
    | with_reducible intro _
    | with_reducible first
      | assumption | apply onO_some | apply onO_none | apply onF_some | apply onF_none | apply on_ite
      | apply onO_ite | apply HarborSt.scrubNear_on | apply HarborSt.copyToMid_on | apply HarborSt.setObj_on
      | apply State.setHarbor_on | apply State.harbor_on | apply State.inc_on | apply goodC_ite | apply goodT_ite
      | apply goodH_ite
    | simp only [on_mk_iff, goodC_mk_iff, goodH_mk_iff]
    | with_reducible apply goodT_ts
    | with_reducible apply goodC_ts
    | dsimp only
    | split
    | (apply on_fst; with_reducible assumption)
    | (apply on_snd; with_reducible assumption)
    | (apply on_someF'; with_reducible assumption)
    | (apply on_some; with_reducible assumption)
    | (apply on_someF; with_reducible assumption)
    | (apply on_next; with_reducible assumption)

theorem State.evictOne_on {z : State} (s : State) (h : Nat) (h_s : Onward z (s)) :
    OnwardO z (State.evictOne s h) := by
  unfold State.evictOne
  repeat' first
    | with_reducible intro _
    | with_reducible first
      | assumption | apply onO_some | apply onO_none | apply onF_some | apply onF_none | apply State.evict_on
      | apply State.harbor_on | apply goodC_ite | apply goodT_ite | apply goodH_ite
    | simp only [on_mk_iff, goodC_mk_iff, goodH_mk_iff]
    | with_reducible apply goodT_ts
    | with_reducible apply goodC_ts
    | dsimp only
    | split
    | (apply on_fst; with_reducible assumption)
    | (apply on_snd; with_reducible assumption)
    | (apply on_someF'; with_reducible assumption)
    | (apply on_some; with_reducible assumption)
    | (apply on_someF; with_reducible assumption)
    | (apply on_next; with_reducible assumption)

theorem State.placeNear_on {z : State} (s : State) (h s0 page : Nat) (f : Option Nat) (h_s : Onward z (s)) :
    OnwardF z (State.placeNear s h s0 page f) := by
  unfold State.placeNear
  cases f with
  | some f => exact onF_some h_s
  | none =>
    dsimp only
    have g := State.evictOne_on s h h_s
    generalize s.evictOne h = u at g ⊢
    cases u with
    | none => exact onF_none
    | some u =>
      rw [Option.bind_some]
      exact onF_const fun _ => g u rfl

theorem State.takeNear_on {z : State} (s : State) (h index page : Nat) (h_s : Onward z (s)) :
    OnwardF z (State.takeNear s h index page) := by
  unfold State.takeNear
  repeat' first
    | with_reducible intro _
    | with_reducible first
      | assumption | apply onO_some | apply onO_none | apply onF_some | apply onF_none | apply State.placeNear_on
      | apply HarborSt.setObj_on | apply State.setHarbor_on | apply State.harbor_on | apply goodC_ite
      | apply goodT_ite | apply goodH_ite | apply on_getD | apply on_getD_fst
    | simp only [on_mk_iff, goodC_mk_iff, goodH_mk_iff]
    | with_reducible apply goodT_ts
    | with_reducible apply goodC_ts
    | dsimp only
    | split
    | (apply on_fst; with_reducible assumption)
    | (apply on_snd; with_reducible assumption)
    | (apply on_someF'; with_reducible assumption)
    | (apply on_some; with_reducible assumption)
    | (apply on_someF; with_reducible assumption)
    | (apply on_next; with_reducible assumption)

theorem State.writeDropped_on {z : State} (s : State) (h : Nat) (h_s : Onward z (s)) :
    Onward z (State.writeDropped s h) := by
  unfold State.writeDropped
  repeat' first
    | with_reducible intro _
    | with_reducible first
      | assumption | apply State.inc_on
    | with_reducible apply goodT_ts
    | with_reducible apply goodC_ts
    | dsimp only

theorem State.writeMeets_on {z : State} (s : State) (h index page : Nat) (h_s : Onward z (s)) :
    Onward z (State.writeMeets s h index page) := by
  unfold State.writeMeets
  repeat' first
    | with_reducible intro _
    | with_reducible first
      | assumption | apply onO_some | apply onO_none | apply onF_some | apply onF_none | apply on_ite
      | apply onO_ite | apply HarborSt.scrubNear_on | apply HarborSt.setObj_on | apply State.setHarbor_on
      | apply State.harbor_on | apply State.inc_on | apply goodC_ite | apply goodT_ite | apply goodH_ite
      | apply onF_map | apply onF_mapO | apply onO_mapF | apply onO_map
    | simp only [on_mk_iff, goodC_mk_iff, goodH_mk_iff]
    | with_reducible apply goodT_ts
    | with_reducible apply goodC_ts
    | dsimp only
    | split
    | (apply on_fst; with_reducible assumption)
    | (apply on_snd; with_reducible assumption)
    | (apply on_someF'; with_reducible assumption)
    | (apply on_some; with_reducible assumption)
    | (apply on_someF; with_reducible assumption)
    | (apply on_next; with_reducible assumption)

theorem State.writePage_on {z : State} (s : State) (h index page g : Nat) (vs : List Granule) (h_s : Onward z (s)) :
    Onward z (State.writePage s h index page g vs) := by
  unfold State.writePage
  repeat' first
    | with_reducible intro _
    | with_reducible first
      | assumption | apply onO_some | apply onO_none | apply onF_some | apply onF_none | apply on_ite
      | apply onO_ite | apply State.writeMeets_on | apply State.writeDropped_on | apply HarborSt.pagePut_on
      | apply State.setHarbor_on | apply State.harbor_on | apply goodC_ite | apply goodT_ite | apply goodH_ite
    | simp only [on_mk_iff, goodC_mk_iff, goodH_mk_iff]
    | with_reducible apply goodT_ts
    | with_reducible apply goodC_ts
    | dsimp only
    | split
    | (apply on_fst; with_reducible assumption)
    | (apply on_snd; with_reducible assumption)
    | (apply on_someF'; with_reducible assumption)
    | (apply on_some; with_reducible assumption)
    | (apply on_someF; with_reducible assumption)
    | (apply on_next; with_reducible assumption)

theorem HarborSt.objPut_on {z : State} (x : HarborSt) (index g : Nat) (vs : List Granule) (h_x : GoodH z (x)) :
    GoodH z (HarborSt.objPut x index g vs) := by
  unfold HarborSt.objPut
  repeat' first
    | with_reducible intro _
    | with_reducible first
      | assumption | apply on_ite | apply onO_ite | apply HarborSt.pagePut_on | apply goodH_ite | apply goodC_foldl
      | apply goodH_foldl | apply goodT_foldl | apply on_foldl | apply on_foldl_fst | apply on_foldl_snd
      | apply onO_foldl | apply onF_foldl
    | simp only [on_mk_iff, goodC_mk_iff, goodH_mk_iff]
    | with_reducible apply goodT_ts
    | with_reducible apply goodC_ts
    | dsimp only
    | split

theorem State.writeObj_on {z : State} (s : State) (handle off : Nat) (vs : List Granule) (h_s : Onward z (s)) :
    Onward z (State.writeObj s handle off vs) := by
  unfold State.writeObj
  repeat' first
    | with_reducible intro _
    | with_reducible first
      | assumption | apply HarborSt.objPut_on | apply State.writeMeets_on | apply State.setHarbor_on
      | apply State.harbor_on | apply goodH_ite | apply goodC_foldl | apply goodH_foldl | apply goodT_foldl
      | apply on_foldl | apply on_foldl_fst | apply on_foldl_snd | apply onO_foldl | apply onF_foldl
    | with_reducible apply goodT_ts
    | with_reducible apply goodC_ts
    | dsimp only

theorem State.setObjBytes_on {z : State} (s : State) (handle off : Nat) (bs : List Byte) (h_s : Onward z (s)) :
    Onward z (State.setObjBytes s handle off bs) := by
  unfold State.setObjBytes
  repeat' first
    | with_reducible intro _
    | with_reducible first
      | assumption | apply on_ite | apply onO_ite | apply State.writeObj_on | apply on_getD | apply on_getD_fst
      | apply onF_map | apply onF_mapO | apply onO_mapF | apply onO_map
    | with_reducible apply goodT_ts
    | with_reducible apply goodC_ts
    | dsimp only
    | split

end Sys2Proof.Machine
end

