-- ==== Sys2Proof/Laws/OnRavorOps.lean ====
section
/-! SUPPORT. What each operation of Machine/RavorOps.lean leaves in order. -/

namespace Sys2Proof.Machine

theorem State.setPort_on {z : State} (s : State) (p : Nat) (x : PortSt) (h_s : Onward z (s)) :
    Onward z (State.setPort s p x) := by
  unfold State.setPort
  repeat' first
    | with_reducible intro _
    | with_reducible first
      | assumption | apply goodC_ite | apply goodT_ite
    | simp only [on_mk_iff, goodC_mk_iff, goodH_mk_iff]
    | with_reducible apply goodT_ts
    | with_reducible apply goodC_ts
    | dsimp only

theorem State.setTopo_on {z : State} (s : State) (e : Nat) (t : TopoEntry) (h_s : Onward z (s)) :
    Onward z (State.setTopo s e t) := by
  unfold State.setTopo
  repeat' first
    | with_reducible intro _
    | with_reducible first
      | assumption | apply goodC_ite | apply goodT_ite
    | simp only [on_mk_iff, goodC_mk_iff, goodH_mk_iff]
    | with_reducible apply goodT_ts
    | with_reducible apply goodC_ts
    | dsimp only

theorem State.enqueue_on {z : State} (s : State) (m : RMsg) (route : DWord) (h_s : Onward z (s)) :
    Onward z (State.enqueue s m route) := by
  unfold State.enqueue
  repeat' first
    | with_reducible intro _
    | with_reducible first
      | assumption | apply State.setPort_on | apply goodC_ite | apply goodT_ite
    | simp only [on_mk_iff, goodC_mk_iff, goodH_mk_iff]
    | with_reducible apply goodT_ts
    | with_reducible apply goodC_ts
    | dsimp only

theorem State.packetDone_on {z : State} (s : State) (c r n : Nat) (h_s : Onward z (s)) :
    Onward z (State.packetDone s c r n) := by
  unfold State.packetDone
  repeat' first
    | with_reducible intro _
    | with_reducible first
      | assumption | apply State.setCore_on | apply State.core_on | apply goodC_ite | apply goodT_ite
    | simp only [on_mk_iff, goodC_mk_iff, goodH_mk_iff]
    | with_reducible apply goodT_ts
    | with_reducible apply goodC_ts
    | dsimp only

theorem State.closeXfer_on {z : State} (s : State) (c id : Nat) (h_s : Onward z (s)) :
    Onward z (State.closeXfer s c id) := by
  unfold State.closeXfer
  repeat' first
    | with_reducible intro _
    | with_reducible first
      | assumption | apply on_ite | apply onO_ite | apply State.setCore_on | apply State.core_on | apply goodC_ite
      | apply goodT_ite | apply onF_map | apply onF_mapO | apply onO_mapF | apply onO_map
    | simp only [on_mk_iff, goodC_mk_iff, goodH_mk_iff]
    | with_reducible apply goodT_ts
    | with_reducible apply goodC_ts
    | dsimp only
    | split

theorem State.fetchLost_on {z : State} (s : State) (h m x : Nat) (h_s : Onward z (s)) :
    Onward z (State.fetchLost s h m x) := by
  unfold State.fetchLost
  repeat' first
    | with_reducible intro _
    | with_reducible first
      | assumption | apply on_ite | apply onO_ite | apply State.setHarbor_on | apply State.harbor_on
      | apply goodC_ite | apply goodT_ite | apply goodH_ite | apply onF_map | apply onF_mapO | apply onO_mapF
      | apply onO_map
    | simp only [on_mk_iff, goodC_mk_iff, goodH_mk_iff]
    | with_reducible apply goodT_ts
    | with_reducible apply goodC_ts
    | dsimp only
    | split

theorem State.boardClosed_on {z : State} (s : State) (m : RMsg) (h_s : Onward z (s)) :
    Onward z (State.boardClosed s m) := by
  unfold State.boardClosed
  repeat' first
    | with_reducible intro _
    | with_reducible first
      | assumption | apply onO_some | apply onO_none | apply onF_some | apply onF_none | apply on_ite
      | apply onO_ite | apply State.emit_on | apply State.inc_on | apply goodC_ite | apply goodT_ite
    | simp only [on_mk_iff, goodC_mk_iff, goodH_mk_iff]
    | with_reducible apply goodT_ts
    | with_reducible apply goodC_ts
    | dsimp only
    | split
    | (apply on_fst; with_reducible assumption)
    | (apply on_snd; with_reducible assumption)
    | (apply on_someF'; with_reducible assumption)
    | (apply on_some; with_reducible assumption)
    | (apply on_someF; with_reducible assumption)
    | (apply on_next; with_reducible assumption)

theorem State.undelivered_on {z : State} (s : State) (who : RSender) (m : RMsg) (h_s : Onward z (s)) :
    Onward z (State.undelivered s who m) := by
  unfold State.undelivered
  repeat' first
    | with_reducible intro _
    | with_reducible first
      | assumption | apply on_ite | apply onO_ite | apply State.boardClosed_on | apply State.fetchLost_on
      | apply State.closeXfer_on | apply State.packetDone_on | apply State.core_on | apply goodC_ite
      | apply goodT_ite
    | simp only [on_mk_iff, goodC_mk_iff, goodH_mk_iff]
    | with_reducible apply goodT_ts
    | with_reducible apply goodC_ts
    | dsimp only
    | split
    | (apply on_fst; with_reducible assumption)
    | (apply on_snd; with_reducible assumption)
    | (apply on_someF'; with_reducible assumption)
    | (apply on_some; with_reducible assumption)
    | (apply on_someF; with_reducible assumption)
    | (apply on_next; with_reducible assumption)

theorem State.epEvent_on {z : State} (s : State) (e what : Nat) (h_s : Onward z (s)) :
    Onward z (State.epEvent s e what) := by
  unfold State.epEvent
  repeat' first
    | with_reducible intro _
    | with_reducible first
      | assumption | apply onO_some | apply onO_none | apply onF_some | apply onF_none | apply State.logEvent_on
      | apply State.raisePF_on
    | with_reducible apply goodT_ts
    | with_reducible apply goodC_ts
    | dsimp only

theorem State.destinationLost_on {z : State} (s : State) (e : Nat) (h_s : Onward z (s)) :
    Onward z (State.destinationLost s e) := by
  unfold State.destinationLost
  repeat' first
    | with_reducible intro _
    | with_reducible first
      | assumption | apply on_ite | apply onO_ite | apply State.epEvent_on | apply State.undelivered_on
      | apply State.faultEnd_on | apply State.inc_on | apply State.put_on | apply goodC_ite | apply goodT_ite
      | apply goodC_foldl | apply goodH_foldl | apply goodT_foldl | apply on_foldl | apply on_foldl_fst
      | apply on_foldl_snd | apply onO_foldl | apply onF_foldl
    | simp only [on_mk_iff, goodC_mk_iff, goodH_mk_iff]
    | with_reducible apply goodT_ts
    | with_reducible apply goodC_ts
    | dsimp only
    | split

theorem State.sendOn_on {z : State} (s : State) (who : RSender) (m : RMsg) (h_s : Onward z (s)) :
    Onward z (State.sendOn s who m) := by
  unfold State.sendOn
  repeat' first
    | with_reducible intro _
    | with_reducible first
      | assumption | apply onO_some | apply onO_none | apply onF_some | apply onF_none | apply on_ite
      | apply onO_ite | apply State.destinationLost_on | apply State.undelivered_on | apply State.enqueue_on
      | apply State.setTopo_on | apply goodC_ite | apply goodT_ite | apply on_getD | apply on_getD_fst
    | simp only [on_mk_iff, goodC_mk_iff, goodH_mk_iff]
    | with_reducible apply goodT_ts
    | with_reducible apply goodC_ts
    | dsimp only
    | split
    | (apply on_fst; with_reducible assumption)
    | (apply on_snd; with_reducible assumption)
    | (apply on_someF'; with_reducible assumption)
    | (apply on_some; with_reducible assumption)
    | (apply on_someF; with_reducible assumption)
    | (apply on_next; with_reducible assumption)

theorem State.ravorSend_on {z : State} (s : State) (who : RSender) (m : RMsg) (h_s : Onward z (s)) :
    Onward z (State.ravorSend s who m) := by
  unfold State.ravorSend
  repeat' first
    | with_reducible intro _
    | with_reducible first
      | assumption | apply on_ite | apply onO_ite | apply State.sendOn_on | apply goodC_ite | apply goodT_ite
    | simp only [on_mk_iff, goodC_mk_iff, goodH_mk_iff]
    | with_reducible apply goodT_ts
    | with_reducible apply goodC_ts
    | dsimp only
    | split

theorem State.sendEack_on {z : State} (s : State) (dest id status : Nat) (h_s : Onward z (s)) :
    Onward z (State.sendEack s dest id status) := by
  unfold State.sendEack
  repeat' first
    | with_reducible intro _
    | with_reducible first
      | assumption | apply State.ravorSend_on | apply goodC_ite | apply goodT_ite
    | simp only [on_mk_iff, goodC_mk_iff, goodH_mk_iff]
    | with_reducible apply goodT_ts
    | with_reducible apply goodC_ts
    | dsimp only

theorem State.routeSwitch_on {z : State} (s : State) (v : Nat) (h_s : Onward z (s)) :
    Onward z (State.routeSwitch s v) := by
  unfold State.routeSwitch
  repeat' first
    | with_reducible intro _
    | with_reducible first
      | assumption | apply onO_some | apply onO_none | apply onF_some | apply onF_none
      | apply State.destinationLost_on | apply State.enqueue_on | apply State.setTopo_on | apply State.inc_on
      | apply goodC_ite | apply goodT_ite | apply goodC_foldl | apply goodH_foldl | apply goodT_foldl
      | apply on_foldl | apply on_foldl_fst | apply on_foldl_snd | apply onO_foldl | apply onF_foldl
      | apply on_getD | apply on_getD_fst | apply onF_map | apply onF_mapO | apply onO_mapF | apply onO_map
    | simp only [on_mk_iff, goodC_mk_iff, goodH_mk_iff]
    | with_reducible apply goodT_ts
    | with_reducible apply goodC_ts
    | dsimp only
    | split
    | (apply on_fst; with_reducible assumption)
    | (apply on_snd; with_reducible assumption)
    | (apply on_someF'; with_reducible assumption)
    | (apply on_some; with_reducible assumption)
    | (apply on_someF; with_reducible assumption)
    | (apply on_next; with_reducible assumption)

theorem State.markFailed_on {z : State} (s : State) (v n : Nat) (byPort : Bool) (h_s : Onward z (s)) :
    Onward z (State.markFailed s v n byPort) := by
  unfold State.markFailed
  repeat' first
    | with_reducible intro _
    | with_reducible first
      | assumption | apply on_ite | apply onO_ite | apply State.routeSwitch_on | apply State.setTopo_on
      | apply goodC_ite | apply goodT_ite
    | simp only [on_mk_iff, goodC_mk_iff, goodH_mk_iff]
    | with_reducible apply goodT_ts
    | with_reducible apply goodC_ts
    | dsimp only
    | split

theorem State.portLost_on {z : State} (s : State) (p : Nat) (h_s : Onward z (s)) :
    Onward z (State.portLost s p) := by
  unfold State.portLost
  repeat' first
    | with_reducible intro _
    | with_reducible first
      | assumption | apply on_ite | apply onO_ite | apply State.markFailed_on | apply goodC_foldl
      | apply goodH_foldl | apply goodT_foldl | apply on_foldl | apply on_foldl_fst | apply on_foldl_snd
      | apply onO_foldl | apply onF_foldl | apply on_getD | apply on_getD_fst
    | with_reducible apply goodT_ts
    | with_reducible apply goodC_ts
    | dsimp only
    | split

theorem State.portTo_on {z : State} (s : State) (p st reason : Nat) (h_s : Onward z (s)) :
    Onward z (State.portTo s p st reason) := by
  unfold State.portTo
  repeat' first
    | with_reducible intro _
    | with_reducible first
      | assumption | apply onO_some | apply onO_none | apply onF_some | apply onF_none | apply on_ite
      | apply onO_ite | apply State.portLost_on | apply State.setPort_on | apply State.logEvent_on
      | apply State.raisePF_on | apply State.put_on | apply goodC_ite | apply goodT_ite
    | simp only [on_mk_iff, goodC_mk_iff, goodH_mk_iff]
    | with_reducible apply goodT_ts
    | with_reducible apply goodC_ts
    | dsimp only
    | split

end Sys2Proof.Machine
end

