-- ==== Sys2Proof/Laws/OnCoreXfer.lean ====
section
/-! SUPPORT. What each operation of Machine/CoreXfer.lean leaves in order. -/

namespace Sys2Proof.Machine

theorem State.coreSend_on {z : State} (s : State) (c : Nat) (d : Dest) (kind offset : Nat) (gs : List Granule) (h_s : Onward z (s)) :
    Onward z (State.coreSend s c d kind offset gs) := by
  unfold State.coreSend
  repeat' first
    | with_reducible intro _
    | with_reducible first
      | assumption | apply State.emit_on
    | with_reducible apply goodT_ts
    | with_reducible apply goodC_ts
    | dsimp only

theorem nullCount_on {z : State} (s : State) (c : Nat) (h_s : Onward z (s)) :
    Onward z (nullCount s c) := by
  unfold nullCount
  repeat' first
    | with_reducible intro _
    | with_reducible first
      | assumption | apply State.inc_on | apply goodC_ite | apply goodT_ite
    | with_reducible apply goodT_ts
    | with_reducible apply goodC_ts
    | dsimp only

theorem oorCount_on {z : State} (s : State) (c : Nat) (h_s : Onward z (s)) :
    Onward z (oorCount s c) := by
  unfold oorCount
  repeat' first
    | with_reducible intro _
    | with_reducible first
      | assumption | apply State.raiseEvt_on | apply State.inc_on | apply goodC_ite | apply goodT_ite
    | with_reducible apply goodT_ts
    | with_reducible apply goodC_ts
    | dsimp only

theorem State.spendCredit_on {z : State} (s : State) (c route n : Nat) (h_s : Onward z (s)) :
    Onward z (State.spendCredit s c route n) := by
  unfold State.spendCredit
  repeat' first
    | with_reducible intro _
    | with_reducible first
      | assumption | apply State.setCore_on | apply State.core_on | apply goodC_ite | apply goodT_ite
    | simp only [on_mk_iff, goodC_mk_iff, goodH_mk_iff]
    | with_reducible apply goodT_ts
    | with_reducible apply goodC_ts
    | dsimp only

theorem State.sendPacket_on {z : State} (s : State) (c route : Nat) (d : Dest) (gs : List Granule) (h_s : Onward z (s)) :
    Onward z (State.sendPacket s c route d gs) := by
  unfold State.sendPacket
  repeat' first
    | with_reducible intro _
    | with_reducible first
      | assumption | apply State.spendCredit_on | apply State.coreSend_on | apply State.ravorSend_on
      | apply State.setCore_on | apply State.core_on | apply goodC_ite | apply goodT_ite
    | simp only [on_mk_iff, goodC_mk_iff, goodH_mk_iff]
    | with_reducible apply goodT_ts
    | with_reducible apply goodC_ts
    | dsimp only
    | split
    | (apply on_fst; with_reducible assumption)
    | (apply on_snd; with_reducible assumption)
    | (apply on_someF'; with_reducible assumption)
    | (apply on_some; with_reducible assumption)
    | (apply on_someF; with_reducible assumption)
    | (apply on_next; with_reducible assumption)

theorem State.sendOver_on {z : State} (s : State) (c route : Nat) (gs : List Granule) (h_s : Onward z (s)) :
    Onward z (State.sendOver s c route gs) := by
  unfold State.sendOver
  repeat' first
    | with_reducible intro _
    | with_reducible first
      | assumption | apply State.sendPacket_on | apply oorCount_on | apply nullCount_on | apply State.advance_on
      | apply State.gate_on | apply goodC_ite | apply goodT_ite
    | simp only [on_mk_iff, goodC_mk_iff, goodH_mk_iff]
    | with_reducible apply goodT_ts
    | with_reducible apply goodC_ts
    | dsimp only
    | split
    | (apply on_fst; with_reducible assumption)
    | (apply on_snd; with_reducible assumption)
    | (apply on_someF'; with_reducible assumption)
    | (apply on_some; with_reducible assumption)
    | (apply on_someF; with_reducible assumption)
    | (apply on_next; with_reducible assumption)

theorem execSend_on {z : State} (c : LCore) (f : XferF) (s : State) (h_s : Onward z (s)) :
    OnwardA z (execSend c f s) := by
  unfold execSend
  repeat' first
    | with_reducible intro _
    | with_reducible first
      | assumption | apply onA_next | apply onA_refused | apply State.sendOver_on | apply State.outOfRange_on
      | apply issue_on
    | with_reducible apply goodT_ts
    | with_reducible apply goodC_ts
    | dsimp only

theorem execSendi_on {z : State} (c : LCore) (f : XferF) (s : State) (h_s : Onward z (s)) :
    OnwardA z (execSendi c f s) := by
  unfold execSendi
  repeat' first
    | with_reducible intro _
    | with_reducible first
      | assumption | apply onA_next | apply onA_refused | apply State.sendOver_on | apply State.gate_on
      | apply issue_on | apply goodC_ite | apply goodT_ite
    | with_reducible apply goodT_ts
    | with_reducible apply goodC_ts
    | dsimp only

theorem State.recvPacket_on {z : State} (s : State) (c p g n : Nat) (pk : Packet) (x : Fifo) (h_s : Onward z (s)) :
    Onward z (State.recvPacket s c p g n pk x) := by
  unfold State.recvPacket
  repeat' first
    | with_reducible intro _
    | with_reducible first
      | assumption | apply State.returnSendCredit_on | apply State.setFifo_on | apply State.writeGrans_on
      | apply State.outOfRange_on | apply State.advance_on | apply State.bump_on | apply goodC_ite
      | apply goodT_ite | apply onF_map | apply onF_mapO | apply onO_mapF | apply onO_map
    | with_reducible apply goodT_ts
    | with_reducible apply goodC_ts
    | dsimp only

theorem execRecv_on {z : State} (c : LCore) (f : XferF) (s : State) (h_s : Onward z (s)) :
    OnwardA z (execRecv c f s) := by
  unfold execRecv
  repeat' first
    | with_reducible intro _
    | with_reducible first
      | assumption | apply onA_next | apply onA_refused | apply onO_some | apply onO_none | apply onF_some
      | apply onF_none | apply State.recvPacket_on | apply State.hold_on | apply issue_on | apply goodC_ite
      | apply goodT_ite
    | simp only [on_mk_iff, goodC_mk_iff, goodH_mk_iff]
    | with_reducible apply goodT_ts
    | with_reducible apply goodC_ts
    | dsimp only
    | split
    | (apply on_fst; with_reducible assumption)
    | (apply on_snd; with_reducible assumption)
    | (apply on_someF'; with_reducible assumption)
    | (apply on_some; with_reducible assumption)
    | (apply on_someF; with_reducible assumption)
    | (apply on_next; with_reducible assumption)

theorem State.addXfer_on {z : State} (s : State) (c : Nat) (x : Xfer) (h_s : Onward z (s)) :
    Onward z (State.addXfer s c x) := by
  unfold State.addXfer
  repeat' first
    | with_reducible intro _
    | with_reducible first
      | assumption | apply State.setCore_on | apply State.core_on | apply goodC_ite | apply goodT_ite
    | simp only [on_mk_iff, goodC_mk_iff, goodH_mk_iff]
    | with_reducible apply goodT_ts
    | with_reducible apply goodC_ts
    | dsimp only

theorem CoreSt.touch_on {z : State} (k : CoreSt) (l : CLine) (h_k : GoodC z (k)) :
    GoodC z (CoreSt.touch k l) := by
  unfold CoreSt.touch
  repeat' first
    | with_reducible intro _
    | with_reducible first
      | assumption | apply goodC_ite | apply goodT_ite
    | simp only [on_mk_iff, goodC_mk_iff, goodH_mk_iff]
    | with_reducible apply goodT_ts
    | with_reducible apply goodC_ts
    | dsimp only

theorem State.serveOne_on {z : State} (s : State) (c line : Nat) (x : Xfer) (h_s : Onward z (s)) :
    Onward z (State.serveOne s c line x) := by
  unfold State.serveOne
  repeat' first
    | with_reducible intro _
    | with_reducible first
      | assumption | apply onO_some | apply onO_none | apply onF_some | apply onF_none | apply on_ite
      | apply onO_ite | apply State.writeGrans_on | apply State.outOfRange_on | apply State.setCore_on
      | apply State.core_on | apply goodC_ite | apply goodT_ite | apply on_getD | apply on_getD_fst | apply onF_map
      | apply onF_mapO | apply onO_mapF | apply onO_map
    | simp only [on_mk_iff, goodC_mk_iff, goodH_mk_iff]
    | with_reducible apply goodT_ts
    | with_reducible apply goodC_ts
    | dsimp only
    | split
    | (apply on_fst; with_reducible assumption)
    | (apply on_snd; with_reducible assumption)
    | (apply on_someF'; with_reducible assumption)
    | (apply on_some; with_reducible assumption)
    | (apply on_someF; with_reducible assumption)
    | (apply on_next; with_reducible assumption)

theorem State.serveLine_on {z : State} (s : State) (c handle line : Nat) (h_s : Onward z (s)) :
    Onward z (State.serveLine s c handle line) := by
  unfold State.serveLine
  repeat' first
    | with_reducible intro _
    | with_reducible first
      | assumption | apply State.serveOne_on | apply State.core_on | apply goodC_ite | apply goodT_ite
      | apply goodC_foldl | apply goodH_foldl | apply goodT_foldl | apply on_foldl | apply on_foldl_fst
      | apply on_foldl_snd | apply onO_foldl | apply onF_foldl
    | with_reducible apply goodT_ts
    | with_reducible apply goodC_ts
    | dsimp only

theorem State.serveHits_on {z : State} (s : State) (c handle line n : Nat) (h_s : Onward z (s)) :
    Onward z (State.serveHits s c handle line n) := by
  induction n generalizing s line with
  | zero =>
    unfold State.serveHits
    repeat' first
      | with_reducible intro _
      | with_reducible first
        | assumption | apply onO_some | apply onO_none | apply onF_some | apply onF_none | apply ih
        | apply State.serveLine_on | apply CoreSt.touch_on | apply State.setCore_on | apply State.core_on
        | apply State.inc_on | apply goodC_ite | apply goodT_ite
      | simp only [on_mk_iff, goodC_mk_iff, goodH_mk_iff]
      | with_reducible apply goodT_ts
      | with_reducible apply goodC_ts
      | dsimp only
      | split
      | (apply on_fst; with_reducible assumption)
      | (apply on_snd; with_reducible assumption)
      | (apply on_someF'; with_reducible assumption)
      | (apply on_some; with_reducible assumption)
      | (apply on_someF; with_reducible assumption)
      | (apply on_next; with_reducible assumption)
  | succ m ih =>
    unfold State.serveHits
    repeat' first
      | with_reducible intro _
      | with_reducible first
        | assumption | apply onO_some | apply onO_none | apply onF_some | apply onF_none | apply ih
        | apply State.serveLine_on | apply CoreSt.touch_on | apply State.setCore_on | apply State.core_on
        | apply State.inc_on | apply goodC_ite | apply goodT_ite
      | simp only [on_mk_iff, goodC_mk_iff, goodH_mk_iff]
      | with_reducible apply goodT_ts
      | with_reducible apply goodC_ts
      | dsimp only
      | split
      | (apply on_fst; with_reducible assumption)
      | (apply on_snd; with_reducible assumption)
      | (apply on_someF'; with_reducible assumption)
      | (apply on_some; with_reducible assumption)
      | (apply on_someF; with_reducible assumption)
      | (apply on_next; with_reducible assumption)

theorem State.wputOp_on {z : State} (s : State) (c : Nat) (f : XferF) (h_s : Onward z (s)) :
    Onward z (State.wputOp s c f) := by
  unfold State.wputOp
  repeat' first
    | with_reducible intro _
    | with_reducible first
      | assumption | apply onO_some | apply onO_none | apply onF_some | apply onF_none | apply on_ite
      | apply onO_ite | apply State.addXfer_on | apply State.spendCredit_on | apply oorCount_on
      | apply nullCount_on | apply State.coreSend_on | apply State.control_on | apply State.outOfRange_on
      | apply State.advance_on | apply State.gate_on | apply State.ravorSend_on | apply State.core_on
      | apply goodC_ite | apply goodT_ite
    | simp only [on_mk_iff, goodC_mk_iff, goodH_mk_iff]
    | with_reducible apply goodT_ts
    | with_reducible apply goodC_ts
    | dsimp only
    | split
    | (apply on_fst; with_reducible assumption)
    | (apply on_snd; with_reducible assumption)
    | (apply on_someF'; with_reducible assumption)
    | (apply on_some; with_reducible assumption)
    | (apply on_someF; with_reducible assumption)
    | (apply on_next; with_reducible assumption)

theorem execWput_on {z : State} (c : LCore) (f : XferF) (s : State) (h_s : Onward z (s)) :
    OnwardA z (execWput c f s) := by
  unfold execWput
  repeat' first
    | with_reducible intro _
    | with_reducible first
      | assumption | apply onA_next | apply onA_refused | apply State.wputOp_on | apply issue_on
    | with_reducible apply goodT_ts
    | with_reducible apply goodC_ts
    | dsimp only

theorem State.askTier_on {z : State} (s : State) (h cls : Nat) (part : Option Nat) (o : TierObj) (off n : Nat) (job : Nat → TierJob) (h_s : Onward z (s)) :
    Onward z (State.askTier s h cls part o off n job) := by
  unfold State.askTier
  repeat' first
    | with_reducible intro _
    | with_reducible first
      | assumption | apply State.setHarbor_on | apply State.harbor_on | apply goodC_ite | apply goodT_ite
      | apply goodH_ite | apply onF_map | apply onF_mapO | apply onO_mapF | apply onO_map
    | simp only [on_mk_iff, goodC_mk_iff, goodH_mk_iff]
    | with_reducible apply goodT_ts
    | with_reducible apply goodC_ts
    | dsimp only

theorem State.tierOp_on {z : State} (s : State) (c : Nat) (f : XferF) (put : Bool) (h_s : Onward z (s)) :
    Onward z (State.tierOp s c f put) := by
  unfold State.tierOp
  repeat' first
    | with_reducible intro _
    | with_reducible first
      | assumption | apply onO_some | apply onO_none | apply onF_some | apply onF_none | apply on_ite
      | apply onO_ite | apply State.askTier_on | apply State.serveHits_on | apply State.addXfer_on
      | apply State.control_on | apply State.outOfRange_on | apply State.advance_on | apply State.gate_on
      | apply State.writeDropped_on | apply State.core_on | apply goodC_ite | apply goodT_ite | apply goodH_ite
    | simp only [on_mk_iff, goodC_mk_iff, goodH_mk_iff]
    | with_reducible apply goodT_ts
    | with_reducible apply goodC_ts
    | dsimp only
    | split
    | (apply on_fst; with_reducible assumption)
    | (apply on_snd; with_reducible assumption)
    | (apply on_someF'; with_reducible assumption)
    | (apply on_some; with_reducible assumption)
    | (apply on_someF; with_reducible assumption)
    | (apply on_next; with_reducible assumption)

theorem execTget_on {z : State} (c : LCore) (f : XferF) (s : State) (h_s : Onward z (s)) :
    OnwardA z (execTget c f s) := by
  unfold execTget
  repeat' first
    | with_reducible intro _
    | with_reducible first
      | assumption | apply onA_next | apply onA_refused | apply State.tierOp_on | apply issue_on
    | with_reducible apply goodT_ts
    | with_reducible apply goodC_ts
    | dsimp only

theorem execTput_on {z : State} (c : LCore) (f : XferF) (s : State) (h_s : Onward z (s)) :
    OnwardA z (execTput c f s) := by
  unfold execTput
  repeat' first
    | with_reducible intro _
    | with_reducible first
      | assumption | apply onA_next | apply onA_refused | apply State.tierOp_on | apply issue_on
    | with_reducible apply goodT_ts
    | with_reducible apply goodC_ts
    | dsimp only

theorem State.endXfer_on {z : State} (s : State) (c id : Nat) (closed : Bool) (h_s : Onward z (s)) :
    Onward z (State.endXfer s c id closed) := by
  unfold State.endXfer
  repeat' first
    | with_reducible intro _
    | with_reducible first
      | assumption | apply on_ite | apply onO_ite | apply State.raiseEvt_on | apply State.setCore_on
      | apply State.core_on | apply goodC_ite | apply goodT_ite
    | simp only [on_mk_iff, goodC_mk_iff, goodH_mk_iff]
    | with_reducible apply goodT_ts
    | with_reducible apply goodC_ts
    | dsimp only
    | split

theorem State.deliver_on {z : State} (s : State) (c : Nat) (x : Xfer) (closed : Bool) (h_s : Onward z (s)) :
    Onward z (State.deliver s c x closed) := by
  unfold State.deliver
  repeat' first
    | with_reducible intro _
    | with_reducible first
      | assumption | apply on_ite | apply onO_ite | apply State.endXfer_on | apply State.writeGrans_on
      | apply State.outOfRange_on
    | with_reducible apply goodT_ts
    | with_reducible apply goodC_ts
    | dsimp only
    | split

theorem execTransferDelivered_on {z : State} (c : LCore) (index : Nat) (closed : Bool) (s : State) (h_s : Onward z (s)) :
    OnwardA z (execTransferDelivered c index closed s) := by
  unfold execTransferDelivered
  repeat' first
    | with_reducible intro _
    | with_reducible first
      | assumption | apply onA_next | apply onA_refused | apply onA_ite | apply onO_some | apply onO_none
      | apply onF_some | apply onF_none | apply on_ite | apply onO_ite | apply State.deliver_on
      | apply State.core_on | apply goodC_ite | apply goodT_ite
    | simp only [on_mk_iff, goodC_mk_iff, goodH_mk_iff]
    | with_reducible apply goodT_ts
    | with_reducible apply goodC_ts
    | dsimp only
    | split
    | (apply on_fst; with_reducible assumption)
    | (apply on_snd; with_reducible assumption)
    | (apply on_someF'; with_reducible assumption)
    | (apply on_some; with_reducible assumption)
    | (apply on_someF; with_reducible assumption)
    | (apply on_next; with_reducible assumption)

end Sys2Proof.Machine
end

