-- ==== Sys2Proof/Laws/OnCoreFlow.lean ====
section
/-! SUPPORT. What each operation of Machine/CoreFlow.lean leaves in order. -/

namespace Sys2Proof.Machine

theorem State.ringDone_on {z : State} (s : State) (c r : Nat) (v : RingSt) (h_s : Onward z (s)) :
    Onward z (State.ringDone s c r v) := by
  unfold State.ringDone
  repeat' first
    | with_reducible intro _
    | with_reducible first
      | assumption | apply State.finish_on
    | with_reducible apply goodT_ts
    | with_reducible apply goodC_ts
    | dsimp only

theorem State.rpopOp_on {z : State} (s : State) (c : Nat) (f : GateF) (h_s : Onward z (s)) :
    Onward z (State.rpopOp s c f) := by
  unfold State.rpopOp
  repeat' first
    | with_reducible intro _
    | with_reducible first
      | assumption | apply onO_some | apply onO_none | apply onF_some | apply onF_none | apply State.ringDone_on
      | apply State.gate_on | apply State.hold_on | apply State.core_on | apply goodC_ite | apply goodT_ite
    | simp only [on_mk_iff, goodC_mk_iff, goodH_mk_iff]
    | with_reducible apply goodT_ts
    | with_reducible apply goodC_ts
    | dsimp only
    | split
    | (apply on_fst; with_reducible assumption)
    | (apply on_snd; with_reducible assumption)
    | (apply on_someF'; with_reducible assumption)
    | (apply on_some; with_reducible assumption)
    | (apply on_someF; with_reducible assumption)
    | (apply on_next; with_reducible assumption)

theorem execRpop_on {z : State} (c : LCore) (f : GateF) (s : State) (h_s : Onward z (s)) :
    OnwardA z (execRpop c f s) := by
  unfold execRpop
  repeat' first
    | with_reducible intro _
    | with_reducible first
      | assumption | apply onA_next | apply onA_refused | apply State.rpopOp_on | apply issue_on
    | with_reducible apply goodT_ts
    | with_reducible apply goodC_ts
    | dsimp only

theorem State.rpushOp_on {z : State} (s : State) (c : Nat) (f : GateF) (h_s : Onward z (s)) :
    Onward z (State.rpushOp s c f) := by
  unfold State.rpushOp
  repeat' first
    | with_reducible intro _
    | with_reducible first
      | assumption | apply onO_some | apply onO_none | apply onF_some | apply onF_none | apply State.ringDone_on
      | apply State.gate_on | apply State.hold_on | apply State.core_on | apply goodC_ite | apply goodT_ite
    | simp only [on_mk_iff, goodC_mk_iff, goodH_mk_iff]
    | with_reducible apply goodT_ts
    | with_reducible apply goodC_ts
    | dsimp only
    | split
    | (apply on_fst; with_reducible assumption)
    | (apply on_snd; with_reducible assumption)
    | (apply on_someF'; with_reducible assumption)
    | (apply on_some; with_reducible assumption)
    | (apply on_someF; with_reducible assumption)
    | (apply on_next; with_reducible assumption)

theorem execRpush_on {z : State} (c : LCore) (f : GateF) (s : State) (h_s : Onward z (s)) :
    OnwardA z (execRpush c f s) := by
  unfold execRpush
  repeat' first
    | with_reducible intro _
    | with_reducible first
      | assumption | apply onA_next | apply onA_refused | apply State.rpushOp_on | apply issue_on
    | with_reducible apply goodT_ts
    | with_reducible apply goodC_ts
    | dsimp only

theorem State.rwaitOp_on {z : State} (s : State) (c : Nat) (f : GateF) (h_s : Onward z (s)) :
    Onward z (State.rwaitOp s c f) := by
  unfold State.rwaitOp
  repeat' first
    | with_reducible intro _
    | with_reducible first
      | assumption | apply State.advance_on | apply State.gate_on | apply State.core_on | apply goodC_ite
      | apply goodT_ite
    | with_reducible apply goodT_ts
    | with_reducible apply goodC_ts
    | dsimp only

theorem execRwait_on {z : State} (c : LCore) (f : GateF) (s : State) (h_s : Onward z (s)) :
    OnwardA z (execRwait c f s) := by
  unfold execRwait
  repeat' first
    | with_reducible intro _
    | with_reducible first
      | assumption | apply onA_next | apply onA_refused | apply State.rwaitOp_on | apply issue_on
    | with_reducible apply goodT_ts
    | with_reducible apply goodC_ts
    | dsimp only

theorem State.rselOp_on {z : State} (s : State) (c : Nat) (f : GateF) (h_s : Onward z (s)) :
    Onward z (State.rselOp s c f) := by
  unfold State.rselOp
  repeat' first
    | with_reducible intro _
    | with_reducible first
      | assumption | apply onO_some | apply onO_none | apply onF_some | apply onF_none | apply State.control_on
      | apply State.finish_on | apply State.advance_on | apply State.gate_on | apply State.core_on
      | apply goodC_ite | apply goodT_ite
    | simp only [on_mk_iff, goodC_mk_iff, goodH_mk_iff]
    | with_reducible apply goodT_ts
    | with_reducible apply goodC_ts
    | dsimp only
    | split
    | (apply on_fst; with_reducible assumption)
    | (apply on_snd; with_reducible assumption)
    | (apply on_someF'; with_reducible assumption)
    | (apply on_some; with_reducible assumption)
    | (apply on_someF; with_reducible assumption)
    | (apply on_next; with_reducible assumption)

theorem execRsel_on {z : State} (c : LCore) (f : GateF) (s : State) (h_s : Onward z (s)) :
    OnwardA z (execRsel c f s) := by
  unfold execRsel
  repeat' first
    | with_reducible intro _
    | with_reducible first
      | assumption | apply onA_next | apply onA_refused | apply State.rselOp_on | apply issue_on
    | with_reducible apply goodT_ts
    | with_reducible apply goodC_ts
    | dsimp only

theorem State.ctrAsk_on {z : State} (s : State) (c op ctr : Nat) (val : Word) (sd : Nat) (h_s : Onward z (s)) :
    Onward z (State.ctrAsk s c op ctr val sd) := by
  unfold State.ctrAsk
  repeat' first
    | with_reducible intro _
    | with_reducible first
      | assumption | apply State.advance_on | apply State.setCluster_on | apply State.core_on | apply goodC_ite
      | apply goodT_ite
    | simp only [on_mk_iff, goodC_mk_iff, goodH_mk_iff]
    | with_reducible apply goodT_ts
    | with_reducible apply goodC_ts
    | dsimp only

theorem execCtake_on {z : State} (c : LCore) (f : CtrF) (s : State) (h_s : Onward z (s)) :
    OnwardA z (execCtake c f s) := by
  unfold execCtake
  repeat' first
    | with_reducible intro _
    | with_reducible first
      | assumption | apply onA_next | apply onA_refused | apply State.ctrAsk_on | apply State.gate_on
      | apply issue_on | apply goodC_ite | apply goodT_ite
    | with_reducible apply goodT_ts
    | with_reducible apply goodC_ts
    | dsimp only

theorem execCset_on {z : State} (c : LCore) (f : CtrF) (s : State) (h_s : Onward z (s)) :
    OnwardA z (execCset c f s) := by
  unfold execCset
  repeat' first
    | with_reducible intro _
    | with_reducible first
      | assumption | apply onA_next | apply onA_refused | apply State.ctrAsk_on | apply State.control_on
      | apply State.gate_on | apply issue_on | apply goodC_ite | apply goodT_ite
    | with_reducible apply goodT_ts
    | with_reducible apply goodC_ts
    | dsimp only

theorem execCadd_on {z : State} (c : LCore) (f : CtrF) (s : State) (h_s : Onward z (s)) :
    OnwardA z (execCadd c f s) := by
  unfold execCadd
  repeat' first
    | with_reducible intro _
    | with_reducible first
      | assumption | apply onA_next | apply onA_refused | apply State.ctrAsk_on | apply State.control_on
      | apply State.gate_on | apply issue_on | apply goodC_ite | apply goodT_ite
    | with_reducible apply goodT_ts
    | with_reducible apply goodC_ts
    | dsimp only

theorem State.waitFor_on {z : State} (s : State) (c : Nat) (ok : Bool) (h_s : Onward z (s)) :
    Onward z (State.waitFor s c ok) := by
  unfold State.waitFor
  repeat' first
    | with_reducible intro _
    | with_reducible first
      | assumption | apply State.advance_on | apply State.gate_on
    | with_reducible apply goodT_ts
    | with_reducible apply goodC_ts
    | dsimp only

theorem execWaitx_on {z : State} (c : LCore) (f : WaitF) (s : State) (h_s : Onward z (s)) :
    OnwardA z (execWaitx c f s) := by
  unfold execWaitx
  repeat' first
    | with_reducible intro _
    | with_reducible first
      | assumption | apply onA_next | apply onA_refused | apply State.waitFor_on | apply issue_on
    | with_reducible apply goodT_ts
    | with_reducible apply goodC_ts
    | dsimp only

theorem execWaitt_on {z : State} (c : LCore) (f : WaitF) (s : State) (h_s : Onward z (s)) :
    OnwardA z (execWaitt c f s) := by
  unfold execWaitt
  repeat' first
    | with_reducible intro _
    | with_reducible first
      | assumption | apply onA_next | apply onA_refused | apply State.waitFor_on | apply State.gate_on
      | apply issue_on | apply goodC_ite | apply goodT_ite
    | with_reducible apply goodT_ts
    | with_reducible apply goodC_ts
    | dsimp only

theorem execWaitm_on {z : State} (c : LCore) (_f : WaitF) (s : State) (h_s : Onward z (s)) :
    OnwardA z (execWaitm c _f s) := by
  unfold execWaitm
  repeat' first
    | with_reducible intro _
    | with_reducible first
      | assumption | apply onA_next | apply onA_refused | apply State.waitFor_on | apply issue_on
      | apply State.core_on | apply goodC_ite | apply goodT_ite
    | with_reducible apply goodT_ts
    | with_reducible apply goodC_ts
    | dsimp only

theorem State.writeBack_on {z : State} (s : State) (l : CLine) (h_s : Onward z (s)) :
    Onward z (State.writeBack s l) := by
  unfold State.writeBack
  repeat' first
    | with_reducible intro _
    | with_reducible first
      | assumption | apply onO_some | apply onO_none | apply onF_some | apply onF_none | apply on_ite
      | apply onO_ite | apply State.writeObj_on | apply State.writeDropped_on | apply goodC_ite | apply goodT_ite
      | apply goodH_ite
    | simp only [on_mk_iff, goodC_mk_iff, goodH_mk_iff]
    | with_reducible apply goodT_ts
    | with_reducible apply goodC_ts
    | dsimp only
    | split
    | (apply on_fst; with_reducible assumption)
    | (apply on_snd; with_reducible assumption)
    | (apply on_someF'; with_reducible assumption)
    | (apply on_some; with_reducible assumption)
    | (apply on_someF; with_reducible assumption)
    | (apply on_next; with_reducible assumption)

theorem State.cleanCache_on {z : State} (s : State) (c : Nat) (h_s : Onward z (s)) :
    Onward z (State.cleanCache s c) := by
  unfold State.cleanCache
  repeat' first
    | with_reducible intro _
    | with_reducible first
      | assumption | apply onO_some | apply onO_none | apply onF_some | apply onF_none | apply State.writeBack_on
      | apply State.setCluster_on | apply State.setCore_on | apply State.core_on | apply goodC_ite
      | apply goodT_ite | apply goodC_foldl | apply goodH_foldl | apply goodT_foldl | apply on_foldl
      | apply on_foldl_fst | apply on_foldl_snd | apply onO_foldl | apply onF_foldl | apply onF_map
      | apply onF_mapO | apply onO_mapF | apply onO_map
    | simp only [on_mk_iff, goodC_mk_iff, goodH_mk_iff]
    | with_reducible apply goodT_ts
    | with_reducible apply goodC_ts
    | dsimp only

theorem State.fenceOp_on {z : State} (s : State) (c : Nat) (f : WaitF) (h_s : Onward z (s)) :
    Onward z (State.fenceOp s c f) := by
  unfold State.fenceOp
  repeat' first
    | with_reducible intro _
    | with_reducible first
      | assumption | apply onO_some | apply onO_none | apply onF_some | apply onF_none | apply on_ite
      | apply onO_ite | apply State.cleanCache_on | apply State.advance_on | apply State.setCore_on
      | apply State.core_on | apply goodC_ite | apply goodT_ite
    | simp only [on_mk_iff, goodC_mk_iff, goodH_mk_iff]
    | with_reducible apply goodT_ts
    | with_reducible apply goodC_ts
    | dsimp only
    | split

theorem execFence_on {z : State} (c : LCore) (f : WaitF) (s : State) (h_s : Onward z (s)) :
    OnwardA z (execFence c f s) := by
  unfold execFence
  repeat' first
    | with_reducible intro _
    | with_reducible first
      | assumption | apply onA_next | apply onA_refused | apply State.fenceOp_on | apply issue_on
    | with_reducible apply goodT_ts
    | with_reducible apply goodC_ts
    | dsimp only

theorem State.loopOp_on {z : State} (s : State) (c : Nat) (f : FlowF) (h_s : Onward z (s)) :
    Onward z (State.loopOp s c f) := by
  unfold State.loopOp
  repeat' first
    | with_reducible intro _
    | with_reducible first
      | assumption | apply on_ite | apply onO_ite | apply State.control_on | apply State.setSlotDone_on
      | apply State.gate_on | apply State.core_on | apply goodC_ite | apply goodT_ite
    | simp only [on_mk_iff, goodC_mk_iff, goodH_mk_iff]
    | with_reducible apply goodT_ts
    | with_reducible apply goodC_ts
    | dsimp only
    | split
    | (apply on_fst; with_reducible assumption)
    | (apply on_snd; with_reducible assumption)
    | (apply on_someF'; with_reducible assumption)

theorem execLoop_on {z : State} (c : LCore) (f : FlowF) (s : State) (h_s : Onward z (s)) :
    OnwardA z (execLoop c f s) := by
  unfold execLoop
  repeat' first
    | with_reducible intro _
    | with_reducible first
      | assumption | apply onA_next | apply onA_refused | apply State.loopOp_on | apply issue_on
    | with_reducible apply goodT_ts
    | with_reducible apply goodC_ts
    | dsimp only

theorem State.branch_on {z : State} (s : State) (c target : Nat) (taken : Bool) (h_s : Onward z (s)) :
    Onward z (State.branch s c target taken) := by
  unfold State.branch
  repeat' first
    | with_reducible intro _
    | with_reducible first
      | assumption | apply on_ite | apply onO_ite | apply State.advance_on | apply State.setSlotDone_on
      | apply State.core_on | apply goodC_ite | apply goodT_ite
    | with_reducible apply goodT_ts
    | with_reducible apply goodC_ts
    | dsimp only
    | split

theorem execBr_on {z : State} (c : LCore) (f : FlowF) (s : State) (h_s : Onward z (s)) :
    OnwardA z (execBr c f s) := by
  unfold execBr
  repeat' first
    | with_reducible intro _
    | with_reducible first
      | assumption | apply onA_next | apply onA_refused | apply State.branch_on | apply issue_on
    | with_reducible apply goodT_ts
    | with_reducible apply goodC_ts
    | dsimp only

theorem State.condBranch_on {z : State} (s : State) (c : Nat) (f : FlowF) (regs : List Nat) (cond : Word → Word → Bool) (h_s : Onward z (s)) :
    Onward z (State.condBranch s c f regs cond) := by
  unfold State.condBranch
  repeat' first
    | with_reducible intro _
    | with_reducible first
      | assumption | apply State.branch_on | apply State.control_on | apply State.gate_on | apply goodC_ite
      | apply goodT_ite
    | with_reducible apply goodT_ts
    | with_reducible apply goodC_ts
    | dsimp only

theorem execBeqz_on {z : State} (c : LCore) (f : FlowF) (s : State) (h_s : Onward z (s)) :
    OnwardA z (execBeqz c f s) := by
  unfold execBeqz
  repeat' first
    | with_reducible intro _
    | with_reducible first
      | assumption | apply onA_next | apply onA_refused | apply State.condBranch_on | apply issue_on
    | with_reducible apply goodT_ts
    | with_reducible apply goodC_ts
    | dsimp only

theorem execBnez_on {z : State} (c : LCore) (f : FlowF) (s : State) (h_s : Onward z (s)) :
    OnwardA z (execBnez c f s) := by
  unfold execBnez
  repeat' first
    | with_reducible intro _
    | with_reducible first
      | assumption | apply onA_next | apply onA_refused | apply State.condBranch_on | apply issue_on
    | with_reducible apply goodT_ts
    | with_reducible apply goodC_ts
    | dsimp only

theorem execBlt_on {z : State} (c : LCore) (f : FlowF) (s : State) (h_s : Onward z (s)) :
    OnwardA z (execBlt c f s) := by
  unfold execBlt
  repeat' first
    | with_reducible intro _
    | with_reducible first
      | assumption | apply onA_next | apply onA_refused | apply State.condBranch_on | apply issue_on
    | with_reducible apply goodT_ts
    | with_reducible apply goodC_ts
    | dsimp only

theorem execBge_on {z : State} (c : LCore) (f : FlowF) (s : State) (h_s : Onward z (s)) :
    OnwardA z (execBge c f s) := by
  unfold execBge
  repeat' first
    | with_reducible intro _
    | with_reducible first
      | assumption | apply onA_next | apply onA_refused | apply State.condBranch_on | apply issue_on
    | with_reducible apply goodT_ts
    | with_reducible apply goodC_ts
    | dsimp only

theorem execNop_on {z : State} (c : LCore) (s : State) (h_s : Onward z (s)) :
    OnwardA z (execNop c s) := by
  unfold execNop
  repeat' first
    | with_reducible intro _
    | with_reducible first
      | assumption | apply onA_next | apply onA_refused | apply State.advance_on | apply issue_on
    | with_reducible apply goodT_ts
    | with_reducible apply goodC_ts
    | dsimp only

theorem State.haltOp_on {z : State} (s : State) (c : Nat) (h_s : Onward z (s)) :
    Onward z (State.haltOp s c) := by
  unfold State.haltOp
  repeat' first
    | with_reducible intro _
    | with_reducible first
      | assumption | apply onO_some | apply onO_none | apply onF_some | apply onF_none | apply State.setSlotDone_on
      | apply State.setCore_on | apply State.core_on | apply goodC_ite | apply goodT_ite
    | simp only [on_mk_iff, goodC_mk_iff, goodH_mk_iff]
    | with_reducible apply goodT_ts
    | with_reducible apply goodC_ts
    | dsimp only
    | split
    | (apply on_fst; with_reducible assumption)
    | (apply on_snd; with_reducible assumption)
    | (apply on_someF'; with_reducible assumption)
    | (apply on_some; with_reducible assumption)
    | (apply on_someF; with_reducible assumption)
    | (apply on_next; with_reducible assumption)

theorem execHalt_on {z : State} (c : LCore) (s : State) (h_s : Onward z (s)) :
    OnwardA z (execHalt c s) := by
  unfold execHalt
  repeat' first
    | with_reducible intro _
    | with_reducible first
      | assumption | apply onA_next | apply onA_refused | apply onA_ite | apply on_ite | apply onO_ite
      | apply State.haltOp_on
    | with_reducible apply goodT_ts
    | with_reducible apply goodC_ts
    | dsimp only
    | split

theorem State.switchOp_on {z : State} (s : State) (c : Nat) (slot : Nat) (h_s : Onward z (s)) :
    Onward z (State.switchOp s c slot) := by
  unfold State.switchOp
  repeat' first
    | with_reducible intro _
    | with_reducible first
      | assumption | apply onO_some | apply onO_none | apply onF_some | apply onF_none | apply on_ite
      | apply onO_ite | apply State.advance_on | apply State.gate_on | apply State.setCore_on | apply State.core_on
      | apply goodC_ite | apply goodT_ite | apply on_getD | apply on_getD_fst
    | simp only [on_mk_iff, goodC_mk_iff, goodH_mk_iff]
    | with_reducible apply goodT_ts
    | with_reducible apply goodC_ts
    | dsimp only
    | split

theorem execSwitch_on {z : State} (c : LCore) (slot : Slot) (s : State) (h_s : Onward z (s)) :
    OnwardA z (execSwitch c slot s) := by
  unfold execSwitch
  repeat' first
    | with_reducible intro _
    | with_reducible first
      | assumption | apply onA_next | apply onA_refused | apply State.switchOp_on | apply issue_on
    | with_reducible apply goodT_ts
    | with_reducible apply goodC_ts
    | dsimp only

theorem State.yieldOp_on {z : State} (s : State) (c : Nat) (h_s : Onward z (s)) :
    Onward z (State.yieldOp s c) := by
  unfold State.yieldOp
  repeat' first
    | with_reducible intro _
    | with_reducible first
      | assumption | apply onO_some | apply onO_none | apply onF_some | apply onF_none | apply State.advance_on
      | apply State.setCore_on | apply State.core_on | apply goodC_ite | apply goodT_ite
    | simp only [on_mk_iff, goodC_mk_iff, goodH_mk_iff]
    | with_reducible apply goodT_ts
    | with_reducible apply goodC_ts
    | dsimp only
    | split
    | (apply on_fst; with_reducible assumption)
    | (apply on_snd; with_reducible assumption)
    | (apply on_someF'; with_reducible assumption)
    | (apply on_some; with_reducible assumption)
    | (apply on_someF; with_reducible assumption)
    | (apply on_next; with_reducible assumption)

theorem execYield_on {z : State} (c : LCore) (s : State) (h_s : Onward z (s)) :
    OnwardA z (execYield c s) := by
  unfold execYield
  repeat' first
    | with_reducible intro _
    | with_reducible first
      | assumption | apply onA_next | apply onA_refused | apply State.yieldOp_on | apply issue_on
    | with_reducible apply goodT_ts
    | with_reducible apply goodC_ts
    | dsimp only

theorem State.bkptOp_on {z : State} (s : State) (c : Nat) (h_s : Onward z (s)) :
    Onward z (State.bkptOp s c) := by
  unfold State.bkptOp
  repeat' first
    | with_reducible intro _
    | with_reducible first
      | assumption | apply on_ite | apply onO_ite | apply State.advance_on | apply State.setCore_on
      | apply State.core_on | apply goodC_ite | apply goodT_ite
    | simp only [on_mk_iff, goodC_mk_iff, goodH_mk_iff]
    | with_reducible apply goodT_ts
    | with_reducible apply goodC_ts
    | dsimp only
    | split

theorem execBkpt_on {z : State} (c : LCore) (s : State) (h_s : Onward z (s)) :
    OnwardA z (execBkpt c s) := by
  unfold execBkpt
  repeat' first
    | with_reducible intro _
    | with_reducible first
      | assumption | apply onA_next | apply onA_refused | apply State.bkptOp_on | apply issue_on
    | with_reducible apply goodT_ts
    | with_reducible apply goodC_ts
    | dsimp only

theorem CoreSt.switchSlot_on {z : State} (k : CoreSt) (t : Nat) (h_k : GoodC z (k)) :
    GoodC z (CoreSt.switchSlot k t) := by
  unfold CoreSt.switchSlot
  repeat' first
    | with_reducible intro _
    | with_reducible first
      | assumption | apply onO_some | apply onO_none | apply onF_some | apply onF_none | apply on_ite
      | apply onO_ite | apply State.activate_on | apply CoreSt.setActive_on | apply CoreSt.setSlot_on
      | apply goodC_ite | apply goodT_ite | apply on_getD | apply on_getD_fst
    | simp only [on_mk_iff, goodC_mk_iff, goodH_mk_iff]
    | with_reducible apply goodT_ts
    | with_reducible apply goodC_ts
    | dsimp only
    | split

theorem execSlotSwitch_on {z : State} (c : LCore) (s : State) (h_s : Onward z (s)) :
    OnwardA z (execSlotSwitch c s) := by
  unfold execSlotSwitch
  repeat' first
    | with_reducible intro _
    | with_reducible first
      | assumption | apply onA_next | apply onA_refused | apply onA_ite | apply onO_some | apply onO_none
      | apply onF_some | apply onF_none | apply on_ite | apply onO_ite | apply State.preempt_on
      | apply CoreSt.switchSlot_on | apply State.setCore_on | apply State.core_on | apply goodC_ite
      | apply goodT_ite | apply on_getD | apply on_getD_fst
    | simp only [on_mk_iff, goodC_mk_iff, goodH_mk_iff]
    | with_reducible apply goodT_ts
    | with_reducible apply goodC_ts
    | dsimp only
    | split
    | (apply on_fst; with_reducible assumption)
    | (apply on_snd; with_reducible assumption)
    | (apply on_someF'; with_reducible assumption)
    | (apply on_some; with_reducible assumption)
    | (apply on_someF; with_reducible assumption)
    | (apply on_next; with_reducible assumption)

theorem execSwitchRequestArrival_on {z : State} (c : LCore) (slot : Slot) (s : State) (h_s : Onward z (s)) :
    OnwardA z (execSwitchRequestArrival c slot s) := by
  unfold execSwitchRequestArrival
  repeat' first
    | with_reducible intro _
    | with_reducible first
      | assumption | apply onA_next | apply onA_refused | apply onA_ite | apply onO_some | apply onO_none
      | apply onF_some | apply onF_none | apply on_ite | apply onO_ite | apply State.setCore_on
      | apply State.core_on | apply goodC_ite | apply goodT_ite
    | simp only [on_mk_iff, goodC_mk_iff, goodH_mk_iff]
    | with_reducible apply goodT_ts
    | with_reducible apply goodC_ts
    | dsimp only
    | split

theorem execDebugHaltReq_on {z : State} (c : LCore) (halt : Bool) (s : State) (h_s : Onward z (s)) :
    OnwardA z (execDebugHaltReq c halt s) := by
  unfold execDebugHaltReq
  repeat' first
    | with_reducible intro _
    | with_reducible first
      | assumption | apply onA_next | apply onA_refused | apply State.setCore_on | apply State.core_on
      | apply State.setFlag_on | apply goodC_ite | apply goodT_ite
    | simp only [on_mk_iff, goodC_mk_iff, goodH_mk_iff]
    | with_reducible apply goodT_ts
    | with_reducible apply goodC_ts
    | dsimp only

theorem execDebugStep_on {z : State} (c : LCore) (s : State) (h_s : Onward z (s)) :
    OnwardA z (execDebugStep c s) := by
  unfold execDebugStep
  repeat' first
    | with_reducible intro _
    | with_reducible first
      | assumption | apply onA_next | apply onA_refused | apply onA_ite | apply on_ite | apply onO_ite
      | apply State.setCore_on | apply State.core_on | apply State.setFlag_on | apply goodC_ite | apply goodT_ite
    | simp only [on_mk_iff, goodC_mk_iff, goodH_mk_iff]
    | with_reducible apply goodT_ts
    | with_reducible apply goodC_ts
    | dsimp only
    | split

theorem State.preemptCore_on {z : State} (s : State) (c : Nat) (h_s : Onward z (s)) :
    Onward z (State.preemptCore s c) := by
  unfold State.preemptCore
  repeat' first
    | with_reducible intro _
    | with_reducible first
      | assumption | apply State.setCore_on | apply State.core_on | apply goodC_ite | apply goodT_ite
    | simp only [on_mk_iff, goodC_mk_iff, goodH_mk_iff]
    | with_reducible apply goodT_ts
    | with_reducible apply goodC_ts
    | dsimp only

theorem execPreemptRequestAtCore_on {z : State} (c : LCore) (s : State) (h_s : Onward z (s)) :
    OnwardA z (execPreemptRequestAtCore c s) := by
  unfold execPreemptRequestAtCore
  repeat' first
    | with_reducible intro _
    | with_reducible first
      | assumption | apply onA_next | apply onA_refused | apply onA_ite | apply onO_some | apply onO_none
      | apply onF_some | apply onF_none | apply on_ite | apply onO_ite | apply State.preemptCore_on
      | apply goodC_ite | apply goodT_ite
    | simp only [on_mk_iff, goodC_mk_iff, goodH_mk_iff]
    | with_reducible apply goodT_ts
    | with_reducible apply goodC_ts
    | dsimp only
    | split
    | (apply on_fst; with_reducible assumption)
    | (apply on_snd; with_reducible assumption)
    | (apply on_someF'; with_reducible assumption)
    | (apply on_some; with_reducible assumption)
    | (apply on_someF; with_reducible assumption)
    | (apply on_next; with_reducible assumption)

end Sys2Proof.Machine
end

