-- ==== Sys2Proof/Laws/OnLadle.lean ====
section
/-! SUPPORT. What each operation of Machine/Ladle.lean leaves in order. -/

namespace Sys2Proof.Machine

theorem State.syncLadle_on {z : State} (s : State) (c : Nat) (h_s : Onward z (s)) :
    Onward z (State.syncLadle s c) := by
  unfold State.syncLadle
  repeat' first
    | with_reducible intro _
    | with_reducible first
      | assumption | apply on_ite | apply onO_ite | apply State.core_on | apply State.put_on | apply goodC_ite
      | apply goodT_ite
    | simp only [on_mk_iff, goodC_mk_iff, goodH_mk_iff]
    | with_reducible apply goodT_ts
    | with_reducible apply goodC_ts
    | dsimp only
    | split
    | (apply on_fst; with_reducible assumption)
    | (apply on_snd; with_reducible assumption)
    | (apply on_someF'; with_reducible assumption)
    | (apply on_some; with_reducible assumption)
    | (apply on_someF; with_reducible assumption)
    | (apply on_next; with_reducible assumption)

theorem State.refuseShape_on {z : State} (s : State) (c : Nat) (h_s : Onward z (s)) :
    Onward z (State.refuseShape s c) := by
  unfold State.refuseShape
  repeat' first
    | with_reducible intro _
    | with_reducible first
      | assumption | apply onO_some | apply onO_none | apply onF_some | apply onF_none | apply on_ite
      | apply onO_ite | apply State.faultEnd_on | apply State.setCore_on | apply State.core_on
      | apply State.setFlag_on | apply goodC_ite | apply goodT_ite
    | simp only [on_mk_iff, goodC_mk_iff, goodH_mk_iff]
    | with_reducible apply goodT_ts
    | with_reducible apply goodC_ts
    | dsimp only
    | split
    | (apply on_fst; with_reducible assumption)
    | (apply on_snd; with_reducible assumption)
    | (apply on_someF'; with_reducible assumption)
    | (apply on_some; with_reducible assumption)
    | (apply on_someF; with_reducible assumption)
    | (apply on_next; with_reducible assumption)

theorem State.queueMacro_on {z : State} (s : State) (c : Nat) (f : MatF) (acc : Bool) (a o : MatDesc) (h_s : Onward z (s)) :
    Onward z (State.queueMacro s c f acc a o) := by
  unfold State.queueMacro
  repeat' first
    | with_reducible intro _
    | with_reducible first
      | assumption | apply on_ite | apply onO_ite | apply State.refuseShape_on | apply State.syncLadle_on
      | apply State.advance_on | apply State.setCore_on | apply State.core_on | apply goodC_ite | apply goodT_ite
    | simp only [on_mk_iff, goodC_mk_iff, goodH_mk_iff]
    | with_reducible apply goodT_ts
    | with_reducible apply goodC_ts
    | dsimp only
    | split

theorem State.matOp_on {z : State} (s : State) (c : Nat) (f : MatF) (acc : Bool) (h_s : Onward z (s)) :
    Onward z (State.matOp s c f acc) := by
  unfold State.matOp
  repeat' first
    | with_reducible intro _
    | with_reducible first
      | assumption | apply onO_some | apply onO_none | apply onF_some | apply onF_none | apply on_ite
      | apply onO_ite | apply State.queueMacro_on | apply State.control_on | apply State.gate_on
      | apply State.core_on | apply goodC_ite | apply goodT_ite
    | simp only [on_mk_iff, goodC_mk_iff, goodH_mk_iff]
    | with_reducible apply goodT_ts
    | with_reducible apply goodC_ts
    | dsimp only
    | split
    | (apply on_fst; with_reducible assumption)
    | (apply on_snd; with_reducible assumption)
    | (apply on_someF'; with_reducible assumption)
    | (apply on_some; with_reducible assumption)
    | (apply on_someF; with_reducible assumption)
    | (apply on_next; with_reducible assumption)

theorem execMm_on {z : State} (c : LCore) (f : MatF) (s : State) (h_s : Onward z (s)) :
    OnwardA z (execMm c f s) := by
  unfold execMm
  repeat' first
    | with_reducible intro _
    | with_reducible first
      | assumption | apply onA_next | apply onA_refused | apply onA_ite | apply on_ite | apply onO_ite
      | apply State.matOp_on | apply issue_on
    | with_reducible apply goodT_ts
    | with_reducible apply goodC_ts
    | dsimp only
    | split

theorem execMmac_on {z : State} (c : LCore) (f : MatF) (s : State) (h_s : Onward z (s)) :
    OnwardA z (execMmac c f s) := by
  unfold execMmac
  repeat' first
    | with_reducible intro _
    | with_reducible first
      | assumption | apply onA_next | apply onA_refused | apply onA_ite | apply on_ite | apply onO_ite
      | apply State.matOp_on | apply issue_on
    | with_reducible apply goodT_ts
    | with_reducible apply goodC_ts
    | dsimp only
    | split

theorem CoreSt.releaseTile_on {z : State} (k : CoreSt) (m : Macro) (h_k : GoodC z (k)) :
    GoodC z (CoreSt.releaseTile k m) := by
  unfold CoreSt.releaseTile
  extract_lets
  split <;> exact h_k

theorem CoreSt.trim_on {z : State} (k : CoreSt) (h_k : GoodC z (k)) :
    GoodC z (CoreSt.trim k) := by
  unfold CoreSt.trim
  repeat' first
    | with_reducible intro _
    | with_reducible first
      | assumption | apply goodC_ite | apply goodT_ite
    | simp only [on_mk_iff, goodC_mk_iff, goodH_mk_iff]
    | with_reducible apply goodT_ts
    | with_reducible apply goodC_ts
    | dsimp only

theorem State.inject_on {z : State} (s : State) (c : Nat) (f : MatF) (h_s : Onward z (s)) :
    Onward z (State.inject s c f).2 := by
  unfold State.inject
  repeat' first
    | with_reducible intro _
    | with_reducible first
      | assumption | apply onO_some | apply onO_none | apply onF_some | apply onF_none | apply on_ite
      | apply onO_ite | apply State.fresh_on | apply State.setFlag_on
    | with_reducible apply goodT_ts
    | with_reducible apply goodC_ts
    | dsimp only
    | split
    | (apply on_fst; with_reducible assumption)
    | (apply on_snd; with_reducible assumption)
    | (apply on_someF'; with_reducible assumption)
    | (apply on_some; with_reducible assumption)
    | (apply on_someF; with_reducible assumption)
    | (apply on_next; with_reducible assumption)

theorem State.startStep_on {z : State} (s : State) (c : Nat) (m : Macro) (slotGran : Nat) (h_s : Onward z (s)) :
    Onward z (State.startStep s c m slotGran) := by
  unfold State.startStep
  repeat' first
    | with_reducible intro _
    | with_reducible first
      | assumption | apply onO_some | apply onO_none | apply onF_some | apply onF_none | apply on_ite
      | apply onO_ite | apply State.inject_on | apply State.syncLadle_on | apply State.ts_on
      | apply State.outOfRange_on | apply CoreSt.setSlot_on | apply State.setCore_on | apply State.core_on
      | apply State.fresh_on | apply State.setFlag_on | apply goodC_ite | apply goodT_ite | apply on_getD
      | apply on_getD_fst | apply onF_map | apply onF_mapO | apply onO_mapF | apply onO_map
    | simp only [on_mk_iff, goodC_mk_iff, goodH_mk_iff]
    | with_reducible apply goodT_ts
    | with_reducible apply goodC_ts
    | dsimp only
    | split
    | (apply on_fst; with_reducible assumption)
    | (apply on_snd; with_reducible assumption)
    | (apply on_someF'; with_reducible assumption)
    | (apply on_some; with_reducible assumption)
    | (apply on_someF; with_reducible assumption)
    | (apply on_next; with_reducible assumption)

theorem State.ladleStepOp_on {z : State} (s : State) (c : Nat) (h_s : Onward z (s)) :
    Onward z (State.ladleStepOp s c) := by
  unfold State.ladleStepOp
  repeat' first
    | with_reducible intro _
    | with_reducible first
      | assumption | apply onO_some | apply onO_none | apply onF_some | apply onF_none | apply on_ite
      | apply onO_ite | apply State.startStep_on | apply State.hold_on | apply State.core_on | apply State.inc_on
      | apply goodC_ite | apply goodT_ite
    | simp only [on_mk_iff, goodC_mk_iff, goodH_mk_iff]
    | with_reducible apply goodT_ts
    | with_reducible apply goodC_ts
    | dsimp only
    | split
    | (apply on_fst; with_reducible assumption)
    | (apply on_snd; with_reducible assumption)
    | (apply on_someF'; with_reducible assumption)
    | (apply on_some; with_reducible assumption)
    | (apply on_someF; with_reducible assumption)
    | (apply on_next; with_reducible assumption)

theorem execLadleStep_on {z : State} (c : LCore) (s : State) (h_s : Onward z (s)) :
    OnwardA z (execLadleStep c s) := by
  unfold execLadleStep
  repeat' first
    | with_reducible intro _
    | with_reducible first
      | assumption | apply onA_next | apply onA_refused | apply onA_ite | apply on_ite | apply onO_ite
      | apply State.preempt_on | apply State.ladleStepOp_on | apply State.core_on | apply goodC_ite
      | apply goodT_ite
    | with_reducible apply goodT_ts
    | with_reducible apply goodC_ts
    | dsimp only
    | split

theorem State.commitStep_on {z : State} (s : State) (c : Nat) (x : StepRun) (h_s : Onward z (s)) :
    Onward z (State.commitStep s c x) := by
  unfold State.commitStep
  repeat' first
    | with_reducible intro _
    | with_reducible first
      | assumption | apply onO_some | apply onO_none | apply onF_some | apply onF_none | apply on_ite
      | apply onO_ite | apply CoreSt.trim_on | apply CoreSt.releaseTile_on | apply State.syncLadle_on
      | apply State.poisonIn_on | apply State.setCore_on | apply State.core_on | apply State.inc_on
      | apply State.bump_on | apply goodC_ite | apply goodT_ite | apply onF_map | apply onF_mapO | apply onO_mapF
      | apply onO_map
    | simp only [on_mk_iff, goodC_mk_iff, goodH_mk_iff]
    | with_reducible apply goodT_ts
    | with_reducible apply goodC_ts
    | dsimp only
    | split
    | (apply on_fst; with_reducible assumption)
    | (apply on_snd; with_reducible assumption)
    | (apply on_someF'; with_reducible assumption)
    | (apply on_some; with_reducible assumption)
    | (apply on_someF; with_reducible assumption)
    | (apply on_next; with_reducible assumption)

theorem execStepChecksPass_on {z : State} (c : LCore) (s : State) (h_s : Onward z (s)) :
    OnwardA z (execStepChecksPass c s) := by
  unfold execStepChecksPass
  repeat' first
    | with_reducible intro _
    | with_reducible first
      | assumption | apply onA_next | apply onA_refused | apply onA_ite | apply on_ite | apply onO_ite
      | apply State.commitStep_on | apply State.core_on | apply goodC_ite | apply goodT_ite
    | simp only [on_mk_iff, goodC_mk_iff, goodH_mk_iff]
    | with_reducible apply goodT_ts
    | with_reducible apply goodC_ts
    | dsimp only
    | split
    | (apply on_fst; with_reducible assumption)
    | (apply on_snd; with_reducible assumption)
    | (apply on_someF'; with_reducible assumption)
    | (apply on_some; with_reducible assumption)
    | (apply on_someF; with_reducible assumption)
    | (apply on_next; with_reducible assumption)

theorem State.noteMismatch_on {z : State} (s : State) (c : Nat) (m : Mismatch) (h_s : Onward z (s)) :
    Onward z (State.noteMismatch s c m) := by
  unfold State.noteMismatch
  repeat' first
    | with_reducible intro _
    | with_reducible first
      | assumption | apply State.setFlag_on | apply State.put_on | apply goodC_ite | apply goodT_ite
    | with_reducible apply goodT_ts
    | with_reducible apply goodC_ts
    | dsimp only

theorem State.noteRecompute_on {z : State} (s : State) (c : Nat) (m : Mismatch) (h_s : Onward z (s)) :
    Onward z (State.noteRecompute s c m) := by
  unfold State.noteRecompute
  repeat' first
    | with_reducible intro _
    | with_reducible first
      | assumption | apply State.noteMismatch_on | apply State.raiseEvt_on | apply State.inc_on | apply goodC_ite
      | apply goodT_ite
    | with_reducible apply goodT_ts
    | with_reducible apply goodC_ts
    | dsimp only
    | split
    | (apply on_fst; with_reducible assumption)
    | (apply on_snd; with_reducible assumption)
    | (apply on_someF'; with_reducible assumption)
    | (apply on_some; with_reducible assumption)
    | (apply on_someF; with_reducible assumption)
    | (apply on_next; with_reducible assumption)

theorem CoreSt.takeBack_on {z : State} (k : CoreSt) (x : StepRun) (h_k : GoodC z (k)) :
    GoodC z (CoreSt.takeBack k x) := by
  unfold CoreSt.takeBack
  split
  · exact h_k
  · extract_lets k1
    split <;> exact h_k

theorem CoreSt.abandon_on {z : State} (k : CoreSt) (n : Nat) (h_k : GoodC z (k)) :
    GoodC z (CoreSt.abandon k n) := by
  unfold CoreSt.abandon
  repeat' first
    | with_reducible intro _
    | with_reducible first
      | assumption | apply CoreSt.takeBack_on | apply goodC_ite | apply goodT_ite | apply goodC_foldl
      | apply goodH_foldl | apply goodT_foldl | apply on_foldl | apply on_foldl_fst | apply on_foldl_snd
      | apply onO_foldl | apply onF_foldl
    | simp only [on_mk_iff, goodC_mk_iff, goodH_mk_iff]
    | with_reducible apply goodT_ts
    | with_reducible apply goodC_ts
    | dsimp only

theorem execChecksumRecompute_on {z : State} (c : LCore) (row col : Bool) (array : Fin 4) (s : State) (h_s : Onward z (s)) :
    OnwardA z (execChecksumRecompute c row col array s) := by
  unfold execChecksumRecompute
  repeat' first
    | with_reducible intro _
    | with_reducible first
      | assumption | apply onA_next | apply onA_refused | apply onA_ite | apply onO_some | apply onO_none
      | apply onF_some | apply onF_none | apply on_ite | apply onO_ite | apply CoreSt.abandon_on
      | apply State.noteRecompute_on | apply State.syncLadle_on | apply State.setCore_on | apply State.core_on
      | apply goodC_ite | apply goodT_ite
    | simp only [on_mk_iff, goodC_mk_iff, goodH_mk_iff]
    | with_reducible apply goodT_ts
    | with_reducible apply goodC_ts
    | dsimp only
    | split
    | (apply on_fst; with_reducible assumption)
    | (apply on_snd; with_reducible assumption)
    | (apply on_someF'; with_reducible assumption)
    | (apply on_some; with_reducible assumption)
    | (apply on_someF; with_reducible assumption)
    | (apply on_next; with_reducible assumption)

theorem execDuplicateRerun_on {z : State} (c : LCore) (conv : Bool) (array : Fin 4) (s : State) (h_s : Onward z (s)) :
    OnwardA z (execDuplicateRerun c conv array s) := by
  unfold execDuplicateRerun
  repeat' first
    | with_reducible intro _
    | with_reducible first
      | assumption | apply onA_next | apply onA_refused | apply onA_ite | apply onO_some | apply onO_none
      | apply onF_some | apply onF_none | apply on_ite | apply onO_ite | apply State.noteRecompute_on
      | apply State.setCore_on | apply State.core_on | apply goodC_ite | apply goodT_ite
    | simp only [on_mk_iff, goodC_mk_iff, goodH_mk_iff]
    | with_reducible apply goodT_ts
    | with_reducible apply goodC_ts
    | dsimp only
    | split
    | (apply on_fst; with_reducible assumption)
    | (apply on_snd; with_reducible assumption)
    | (apply on_someF'; with_reducible assumption)
    | (apply on_some; with_reducible assumption)
    | (apply on_someF; with_reducible assumption)
    | (apply on_next; with_reducible assumption)

theorem CoreSt.failStep_on {z : State} (k : CoreSt) (dup : Bool) (h_k : GoodC z (k)) :
    GoodC z (CoreSt.failStep k dup) := by
  unfold CoreSt.failStep
  split
  · exact h_k
  · dsimp only
    have g := CoreSt.abandon_on k 0 h_k (z := z)
    generalize k.abandon 0 = k1 at g ⊢
    split
    · split
      · exact CoreSt.releaseTile_on k1 _ g
      · exact g
    · exact g

theorem CoreSt.failTile_on {z : State} (k : CoreSt) (h_k : GoodC z (k)) :
    GoodC z (CoreSt.failTile k) := by
  unfold CoreSt.failTile
  split
  · exact h_k
  · extract_lets k1 undo k2
    have g : GoodC z k2 := by
      refine goodC_foldl (fun k e h => ?_) _ _ (CoreSt.abandon_on k 0 h_k)
      unfold undo
      split <;> exact h
    exact g

theorem State.writeRow_on {z : State} (s : State) (c : Nat) (o : OutTile) (ringGran : Option Nat) (r : Nat) (h_s : Onward z (s)) :
    Onward z (State.writeRow s c o ringGran r) := by
  unfold State.writeRow
  repeat' first
    | with_reducible intro _
    | with_reducible first
      | assumption | apply onO_some | apply onO_none | apply onF_some | apply onF_none | apply on_ite
      | apply onO_ite | apply State.putBlock_on | apply goodC_ite | apply goodT_ite | apply onF_map
      | apply onF_mapO | apply onO_mapF | apply onO_map
    | simp only [on_mk_iff, goodC_mk_iff, goodH_mk_iff]
    | with_reducible apply goodT_ts
    | with_reducible apply goodC_ts
    | dsimp only
    | split
    | (apply on_fst; with_reducible assumption)
    | (apply on_snd; with_reducible assumption)
    | (apply on_someF'; with_reducible assumption)
    | (apply on_some; with_reducible assumption)
    | (apply on_someF; with_reducible assumption)
    | (apply on_next; with_reducible assumption)

theorem State.writeTile_on {z : State} (s : State) (c : Nat) (o : OutTile) (h_s : Onward z (s)) :
    Onward z (State.writeTile s c o) := by
  unfold State.writeTile
  repeat' first
    | with_reducible intro _
    | with_reducible first
      | assumption | apply onO_some | apply onO_none | apply onF_some | apply onF_none | apply on_ite
      | apply onO_ite | apply State.writeRow_on | apply CoreSt.setSlot_on | apply State.setCore_on
      | apply State.core_on | apply goodC_ite | apply goodT_ite | apply goodC_foldl | apply goodH_foldl
      | apply goodT_foldl | apply on_foldl | apply on_foldl_fst | apply on_foldl_snd | apply onO_foldl
      | apply onF_foldl | apply on_getD | apply on_getD_fst
    | simp only [on_mk_iff, goodC_mk_iff, goodH_mk_iff]
    | with_reducible apply goodT_ts
    | with_reducible apply goodC_ts
    | dsimp only
    | split
    | (apply on_fst; with_reducible assumption)
    | (apply on_snd; with_reducible assumption)
    | (apply on_someF'; with_reducible assumption)
    | (apply on_some; with_reducible assumption)
    | (apply on_someF; with_reducible assumption)
    | (apply on_next; with_reducible assumption)

theorem State.endAfterLadle_on {z : State} (s : State) (c : Nat) (h_s : Onward z (s)) :
    Onward z (State.endAfterLadle s c) := by
  unfold State.endAfterLadle
  repeat' first
    | with_reducible intro _
    | with_reducible first
      | assumption | apply onO_some | apply onO_none | apply onF_some | apply onF_none | apply on_ite
      | apply onO_ite | apply State.faultEnd_on | apply State.core_on | apply goodC_ite | apply goodT_ite
    | simp only [on_mk_iff, goodC_mk_iff, goodH_mk_iff]
    | with_reducible apply goodT_ts
    | with_reducible apply goodC_ts
    | dsimp only
    | split
    | (apply on_fst; with_reducible assumption)
    | (apply on_snd; with_reducible assumption)
    | (apply on_someF'; with_reducible assumption)
    | (apply on_some; with_reducible assumption)
    | (apply on_someF; with_reducible assumption)
    | (apply on_next; with_reducible assumption)

theorem execOutputTileWrite_on {z : State} (c : LCore) (s : State) (h_s : Onward z (s)) :
    OnwardA z (execOutputTileWrite c s) := by
  unfold execOutputTileWrite
  repeat' first
    | with_reducible intro _
    | with_reducible first
      | assumption | apply onA_next | apply onA_refused | apply onA_ite | apply on_ite | apply onO_ite
      | apply State.endAfterLadle_on | apply State.writeTile_on | apply State.setCore_on | apply State.core_on
      | apply goodC_ite | apply goodT_ite
    | simp only [on_mk_iff, goodC_mk_iff, goodH_mk_iff]
    | with_reducible apply goodT_ts
    | with_reducible apply goodC_ts
    | dsimp only
    | split
    | (apply on_fst; with_reducible assumption)
    | (apply on_snd; with_reducible assumption)
    | (apply on_someF'; with_reducible assumption)
    | (apply on_some; with_reducible assumption)
    | (apply on_someF; with_reducible assumption)
    | (apply on_next; with_reducible assumption)

theorem State.dropTile_on {z : State} (s : State) (c : Nat) (h_s : Onward z (s)) :
    Onward z (State.dropTile s c) := by
  unfold State.dropTile
  repeat' first
    | with_reducible intro _
    | with_reducible first
      | assumption | apply onO_some | apply onO_none | apply onF_some | apply onF_none | apply on_ite
      | apply onO_ite | apply CoreSt.trim_on | apply CoreSt.releaseTile_on | apply State.setCore_on
      | apply State.core_on | apply State.inc_on | apply goodC_ite | apply goodT_ite | apply onF_map
      | apply onF_mapO | apply onO_mapF | apply onO_map
    | simp only [on_mk_iff, goodC_mk_iff, goodH_mk_iff]
    | with_reducible apply goodT_ts
    | with_reducible apply goodC_ts
    | dsimp only
    | split
    | (apply on_fst; with_reducible assumption)
    | (apply on_snd; with_reducible assumption)
    | (apply on_someF'; with_reducible assumption)
    | (apply on_some; with_reducible assumption)
    | (apply on_someF; with_reducible assumption)
    | (apply on_next; with_reducible assumption)

theorem execLadleTileDrop_on {z : State} (c : LCore) (s : State) (h_s : Onward z (s)) :
    OnwardA z (execLadleTileDrop c s) := by
  unfold execLadleTileDrop
  repeat' first
    | with_reducible intro _
    | with_reducible first
      | assumption | apply onA_next | apply onA_refused | apply onA_ite | apply on_ite | apply onO_ite
      | apply State.dropTile_on
    | with_reducible apply goodT_ts
    | with_reducible apply goodC_ts
    | dsimp only
    | split

theorem execInjectionArm_on {z : State} (i : Island) (s : State) (h_s : Onward z (s)) :
    OnwardA z (execInjectionArm i s) := by
  unfold execInjectionArm
  repeat' first
    | with_reducible intro _
    | with_reducible first
      | assumption | apply onA_next | apply onA_refused | apply State.setFlag_on
    | with_reducible apply goodT_ts
    | with_reducible apply goodC_ts
    | dsimp only

end Sys2Proof.Machine
end

