-- ==== Sys2Proof/Laws/OnRings.lean ====
section
/-! SUPPORT. What each operation of Machine/Rings.lean leaves in order. -/

namespace Sys2Proof.Machine

theorem State.putRing_on {z : State} (s : State) (c i r : Nat) (v : RingSt) (h_s : Onward z (s)) :
    Onward z (State.putRing s c i r v) := by
  unfold State.putRing
  repeat' first
    | with_reducible intro _
    | with_reducible first
      | assumption | apply CoreSt.setSlot_on | apply State.setCore_on | apply State.core_on | apply goodC_ite
      | apply goodT_ite | apply on_getD | apply on_getD_fst
    | with_reducible apply goodT_ts
    | with_reducible apply goodC_ts
    | dsimp only

theorem State.ringFill_on {z : State} (s : State) (c i r first : Nat) (gs : List Granule) (final : Bool) (h_s : Onward z (s)) :
    Onward z (State.ringFill s c i r first gs final) := by
  unfold State.ringFill
  repeat' first
    | with_reducible intro _
    | with_reducible first
      | assumption | apply onO_some | apply onO_none | apply onF_some | apply onF_none | apply on_ite
      | apply onO_ite | apply State.putRing_on | apply State.writeGrans_on | apply State.setCore_on
      | apply State.core_on | apply State.inc_on | apply goodC_ite | apply goodT_ite | apply on_getD
      | apply on_getD_fst
    | simp only [on_mk_iff, goodC_mk_iff, goodH_mk_iff]
    | with_reducible apply goodT_ts
    | with_reducible apply goodC_ts
    | dsimp only
    | split
    | (apply on_fst; with_reducible assumption)
    | (apply on_snd; with_reducible assumption)
    | (apply on_someF'; with_reducible assumption)
    | (apply on_some; with_reducible assumption)
    | (apply on_someF; with_reducible assumption)
    | (apply on_next; with_reducible assumption)

theorem execRingFillArrival_on {z : State} (c : LCore) (slot : Slot) (r : Ring) (first : Fin 256) (grans : List Granule) (final : Bool) (s : State) (h_s : Onward z (s)) :
    OnwardA z (execRingFillArrival c slot r first grans final s) := by
  unfold execRingFillArrival
  repeat' first
    | with_reducible intro _
    | with_reducible first
      | assumption | apply onA_next | apply onA_refused | apply onA_ite | apply on_ite | apply onO_ite
      | apply State.ringFill_on | apply State.countAbsorb_on
    | with_reducible apply goodT_ts
    | with_reducible apply goodC_ts
    | dsimp only
    | split

theorem State.forwardSlot_on {z : State} (s : State) (c i r : Nat) (h_s : Onward z (s)) :
    Onward z (State.forwardSlot s c i r) := by
  unfold State.forwardSlot
  repeat' first
    | with_reducible intro _
    | with_reducible first
      | assumption | apply onO_some | apply onO_none | apply onF_some | apply onF_none | apply on_ite
      | apply onO_ite | apply State.forward_on | apply State.putRing_on | apply State.coreSend_on
      | apply State.ts_on | apply State.core_on | apply goodC_ite | apply goodT_ite | apply on_getD
      | apply on_getD_fst
    | simp only [on_mk_iff, goodC_mk_iff, goodH_mk_iff]
    | with_reducible apply goodT_ts
    | with_reducible apply goodC_ts
    | dsimp only
    | split
    | (apply on_fst; with_reducible assumption)
    | (apply on_snd; with_reducible assumption)
    | (apply on_someF'; with_reducible assumption)
    | (apply on_some; with_reducible assumption)
    | (apply on_someF; with_reducible assumption)
    | (apply on_next; with_reducible assumption)

theorem execRunnerForward_on {z : State} (c : LCore) (slot : Slot) (r : Ring) (s : State) (h_s : Onward z (s)) :
    OnwardA z (execRunnerForward c slot r s) := by
  unfold execRunnerForward
  repeat' first
    | with_reducible intro _
    | with_reducible first
      | assumption | apply onA_next | apply onA_refused | apply onA_ite | apply on_ite | apply onO_ite
      | apply State.forwardSlot_on
    | with_reducible apply goodT_ts
    | with_reducible apply goodC_ts
    | dsimp only
    | split

theorem State.forwardDone_on {z : State} (s : State) (c i r : Nat) (h_s : Onward z (s)) :
    Onward z (State.forwardDone s c i r) := by
  unfold State.forwardDone
  repeat' first
    | with_reducible intro _
    | with_reducible first
      | assumption | apply onO_some | apply onO_none | apply onF_some | apply onF_none | apply on_ite
      | apply onO_ite | apply State.putRing_on | apply State.core_on | apply goodC_ite | apply goodT_ite
      | apply on_getD | apply on_getD_fst
    | simp only [on_mk_iff, goodC_mk_iff, goodH_mk_iff]
    | with_reducible apply goodT_ts
    | with_reducible apply goodC_ts
    | dsimp only
    | split
    | (apply on_fst; with_reducible assumption)
    | (apply on_snd; with_reducible assumption)
    | (apply on_someF'; with_reducible assumption)
    | (apply on_some; with_reducible assumption)
    | (apply on_someF; with_reducible assumption)
    | (apply on_next; with_reducible assumption)

theorem execSlotRelease_on {z : State} (c : LCore) (slot : Slot) (r : Ring) (s : State) (h_s : Onward z (s)) :
    OnwardA z (execSlotRelease c slot r s) := by
  unfold execSlotRelease
  repeat' first
    | with_reducible intro _
    | with_reducible first
      | assumption | apply onA_next | apply onA_refused | apply State.forwardDone_on
    | with_reducible apply goodT_ts
    | with_reducible apply goodC_ts
    | dsimp only

theorem State.streamCredit_on {z : State} (s : State) (h key c : Nat) (h_s : Onward z (s)) :
    Onward z (State.streamCredit s h key c) := by
  unfold State.streamCredit
  repeat' first
    | with_reducible intro _
    | with_reducible first
      | assumption | apply onO_some | apply onO_none | apply onF_some | apply onF_none | apply on_ite
      | apply onO_ite | apply State.setHarbor_on | apply State.harbor_on | apply goodC_ite | apply goodT_ite
      | apply goodH_ite | apply goodC_foldl | apply goodH_foldl | apply goodT_foldl | apply on_foldl
      | apply on_foldl_fst | apply on_foldl_snd | apply onO_foldl | apply onF_foldl
    | simp only [on_mk_iff, goodC_mk_iff, goodH_mk_iff]
    | with_reducible apply goodT_ts
    | with_reducible apply goodC_ts
    | dsimp only
    | split
    | (apply on_fst; with_reducible assumption)
    | (apply on_snd; with_reducible assumption)
    | (apply on_someF'; with_reducible assumption)
    | (apply on_some; with_reducible assumption)
    | (apply on_someF; with_reducible assumption)
    | (apply on_next; with_reducible assumption)

theorem State.creditReturn_on {z : State} (s : State) (c i r : Nat) (up : Option (LCore × Fin 64)) (st : Option (Fin 16 × Fin 64)) (h_s : Onward z (s)) :
    Onward z (State.creditReturn s c i r up st) := by
  unfold State.creditReturn
  repeat' first
    | with_reducible intro _
    | with_reducible first
      | assumption | apply onO_some | apply onO_none | apply onF_some | apply onF_none | apply on_ite
      | apply onO_ite | apply State.streamCredit_on | apply State.putRing_on | apply State.returnSendCredit_on
      | apply State.core_on | apply goodC_ite | apply goodT_ite | apply on_getD | apply on_getD_fst
    | simp only [on_mk_iff, goodC_mk_iff, goodH_mk_iff]
    | with_reducible apply goodT_ts
    | with_reducible apply goodC_ts
    | dsimp only
    | split
    | (apply on_fst; with_reducible assumption)
    | (apply on_snd; with_reducible assumption)
    | (apply on_someF'; with_reducible assumption)
    | (apply on_some; with_reducible assumption)
    | (apply on_someF; with_reducible assumption)
    | (apply on_next; with_reducible assumption)

theorem execSlotCreditReturn_on {z : State} (c : LCore) (slot : Slot) (r : Ring) (upstream : Option (LCore × Fin 64)) (stream : Option (Fin 16 × Fin 64)) (s : State) (h_s : Onward z (s)) :
    OnwardA z (execSlotCreditReturn c slot r upstream stream s) := by
  unfold execSlotCreditReturn
  repeat' first
    | with_reducible intro _
    | with_reducible first
      | assumption | apply onA_next | apply onA_refused | apply State.creditReturn_on
    | with_reducible apply goodT_ts
    | with_reducible apply goodC_ts
    | dsimp only

theorem State.windowWrite_on {z : State} (s : State) (c : Nat) (sender : BitVec 12) (foreign : Bool) (first : Nat) (gs : List Granule) (h_s : Onward z (s)) :
    Onward z (State.windowWrite s c sender foreign first gs) := by
  unfold State.windowWrite
  repeat' first
    | with_reducible intro _
    | with_reducible first
      | assumption | apply on_ite | apply onO_ite | apply State.writeGrans_on | apply State.inc_on
      | apply goodC_ite | apply goodT_ite
    | with_reducible apply goodT_ts
    | with_reducible apply goodC_ts
    | dsimp only
    | split

theorem execRemoteWriteWindow_on {z : State} (c : LCore) (sender : BitVec 12) (foreign : Bool) (first : BitVec 15) (grans : List Granule) (s : State) (h_s : Onward z (s)) :
    OnwardA z (execRemoteWriteWindow c sender foreign first grans s) := by
  unfold execRemoteWriteWindow
  repeat' first
    | with_reducible intro _
    | with_reducible first
      | assumption | apply onA_next | apply onA_refused | apply onA_ite | apply on_ite | apply onO_ite
      | apply State.windowWrite_on | apply State.countAbsorb_on
    | with_reducible apply goodT_ts
    | with_reducible apply goodC_ts
    | dsimp only
    | split

theorem State.creditWrite_on {z : State} (s : State) (c : Nat) (sender : BitVec 12) (first : Nat) (gs : List Granule) (h_s : Onward z (s)) :
    Onward z (State.creditWrite s c sender first gs) := by
  unfold State.creditWrite
  repeat' first
    | with_reducible intro _
    | with_reducible first
      | assumption | apply onO_some | apply onO_none | apply onF_some | apply onF_none | apply on_ite
      | apply onO_ite | apply State.writeGrans_on | apply State.inc_on | apply State.setFlag_on
      | apply State.put_on | apply goodC_ite | apply goodT_ite
    | simp only [on_mk_iff, goodC_mk_iff, goodH_mk_iff]
    | with_reducible apply goodT_ts
    | with_reducible apply goodC_ts
    | dsimp only
    | split
    | (apply on_fst; with_reducible assumption)
    | (apply on_snd; with_reducible assumption)
    | (apply on_someF'; with_reducible assumption)
    | (apply on_some; with_reducible assumption)
    | (apply on_someF; with_reducible assumption)
    | (apply on_next; with_reducible assumption)

theorem execRemoteWriteCredit_on {z : State} (c : LCore) (sender : BitVec 12) (first : BitVec 15) (grans : List Granule) (s : State) (h_s : Onward z (s)) :
    OnwardA z (execRemoteWriteCredit c sender first grans s) := by
  unfold execRemoteWriteCredit
  repeat' first
    | with_reducible intro _
    | with_reducible first
      | assumption | apply onA_next | apply onA_refused | apply onA_ite | apply on_ite | apply onO_ite
      | apply State.creditWrite_on | apply State.countAbsorb_on
    | with_reducible apply goodT_ts
    | with_reducible apply goodC_ts
    | dsimp only
    | split

theorem execCreditGrantWrite_on {z : State} (c : LCore) (n : Fin 4) (base len : BitVec 15) (valid : Bool) (s : State) (h_s : Onward z (s)) :
    OnwardA z (execCreditGrantWrite c n base len valid s) := by
  unfold execCreditGrantWrite
  repeat' first
    | with_reducible intro _
    | with_reducible first
      | assumption | apply onA_next | apply onA_refused | apply onA_ite | apply on_ite | apply onO_ite
      | apply State.clampCore_on | apply State.setFlag_on | apply State.put_on | apply goodC_ite | apply goodT_ite
    | with_reducible apply goodT_ts
    | with_reducible apply goodC_ts
    | dsimp only
    | split
    | (apply on_fst; with_reducible assumption)
    | (apply on_snd; with_reducible assumption)
    | (apply on_someF'; with_reducible assumption)

end Sys2Proof.Machine
end

