-- ==== Sys2Proof/Laws/OnCache.lean ====
section
/-! SUPPORT. What each operation of Machine/Cache.lean leaves in order. -/

namespace Sys2Proof.Machine

theorem CoreSt.setLineReq_on {z : State} (k : CoreSt) (q : LineReq) (h_k : GoodC z (k)) :
    GoodC z (CoreSt.setLineReq k q) := by
  unfold CoreSt.setLineReq
  repeat' first
    | with_reducible intro _
    | with_reducible first
      | assumption | apply on_ite | apply onO_ite | apply goodC_ite | apply goodT_ite | apply onF_map
      | apply onF_mapO | apply onO_mapF | apply onO_map
    | simp only [on_mk_iff, goodC_mk_iff, goodH_mk_iff]
    | with_reducible apply goodT_ts
    | with_reducible apply goodC_ts
    | dsimp only
    | split

theorem CoreSt.dropLine_on {z : State} (k : CoreSt) (handle line : Nat) (h_k : GoodC z (k)) :
    GoodC z (CoreSt.dropLine k handle line) := by
  unfold CoreSt.dropLine
  repeat' first
    | with_reducible intro _
    | with_reducible first
      | assumption | apply goodC_ite | apply goodT_ite
    | simp only [on_mk_iff, goodC_mk_iff, goodH_mk_iff]
    | with_reducible apply goodT_ts
    | with_reducible apply goodC_ts
    | dsimp only

theorem CoreSt.dropHeld_on {z : State} (k : CoreSt) (handle line : Nat) (h_k : GoodC z (k)) :
    GoodC z (CoreSt.dropHeld k handle line) := by
  unfold CoreSt.dropHeld
  repeat' first
    | with_reducible intro _
    | with_reducible first
      | assumption | apply goodC_ite | apply goodT_ite
    | simp only [on_mk_iff, goodC_mk_iff, goodH_mk_iff]
    | with_reducible apply goodT_ts
    | with_reducible apply goodC_ts
    | dsimp only

theorem State.askDir_on {z : State} (s : State) (c kind handle line : Nat) (g : Granule) (same : Bool) (h_s : Onward z (s)) :
    Onward z (State.askDir s c kind handle line g same) := by
  unfold State.askDir
  repeat' first
    | with_reducible intro _
    | with_reducible first
      | assumption | apply on_ite | apply onO_ite | apply State.setCluster_on | apply State.core_on
      | apply State.inc_on | apply goodC_ite | apply goodT_ite
    | simp only [on_mk_iff, goodC_mk_iff, goodH_mk_iff]
    | with_reducible apply goodT_ts
    | with_reducible apply goodC_ts
    | dsimp only
    | split

theorem State.askLine_on {z : State} (s : State) (c handle line : Nat) (write same : Bool) (h_s : Onward z (s)) :
    Onward z (State.askLine s c handle line write same) := by
  unfold State.askLine
  repeat' first
    | with_reducible intro _
    | with_reducible first
      | assumption | apply onO_some | apply onO_none | apply onF_some | apply onF_none | apply on_ite
      | apply onO_ite | apply State.askDir_on | apply State.setCore_on | apply State.core_on | apply State.inc_on
      | apply goodC_ite | apply goodT_ite
    | simp only [on_mk_iff, goodC_mk_iff, goodH_mk_iff]
    | with_reducible apply goodT_ts
    | with_reducible apply goodC_ts
    | dsimp only
    | split
    | (apply on_fst; with_reducible assumption)
    | (apply on_snd; with_reducible assumption)
    | (apply on_someF'; with_reducible assumption)
    | (apply on_some; with_reducible assumption)
    | (apply on_someF; with_reducible assumption)
    | (apply on_next; with_reducible assumption)

theorem execGets_on {z : State} (c : LCore) (handle : Word) (line : Nat) (same : Bool) (s : State) (h_s : Onward z (s)) :
    OnwardA z (execGets c handle line same s) := by
  unfold execGets
  repeat' first
    | with_reducible intro _
    | with_reducible first
      | assumption | apply onA_next | apply onA_refused | apply State.askLine_on
    | with_reducible apply goodT_ts
    | with_reducible apply goodC_ts
    | dsimp only

theorem execGetm_on {z : State} (c : LCore) (handle : Word) (line : Nat) (same : Bool) (s : State) (h_s : Onward z (s)) :
    OnwardA z (execGetm c handle line same s) := by
  unfold execGetm
  repeat' first
    | with_reducible intro _
    | with_reducible first
      | assumption | apply onA_next | apply onA_refused | apply State.askLine_on
    | with_reducible apply goodT_ts
    | with_reducible apply goodC_ts
    | dsimp only

theorem State.evictLine_on {z : State} (s : State) (c handle line : Nat) (modified same : Bool) (h_s : Onward z (s)) :
    Onward z (State.evictLine s c handle line modified same) := by
  unfold State.evictLine
  repeat' first
    | with_reducible intro _
    | with_reducible first
      | assumption | apply onO_some | apply onO_none | apply onF_some | apply onF_none | apply on_ite
      | apply onO_ite | apply State.askDir_on | apply CoreSt.dropLine_on | apply State.setCore_on
      | apply State.core_on | apply goodC_ite | apply goodT_ite
    | simp only [on_mk_iff, goodC_mk_iff, goodH_mk_iff]
    | with_reducible apply goodT_ts
    | with_reducible apply goodC_ts
    | dsimp only
    | split
    | (apply on_fst; with_reducible assumption)
    | (apply on_snd; with_reducible assumption)
    | (apply on_someF'; with_reducible assumption)
    | (apply on_some; with_reducible assumption)
    | (apply on_someF; with_reducible assumption)
    | (apply on_next; with_reducible assumption)

theorem execPuts_on {z : State} (c : LCore) (handle : Word) (line : Nat) (same : Bool) (s : State) (h_s : Onward z (s)) :
    OnwardA z (execPuts c handle line same s) := by
  unfold execPuts
  repeat' first
    | with_reducible intro _
    | with_reducible first
      | assumption | apply onA_next | apply onA_refused | apply State.evictLine_on
    | with_reducible apply goodT_ts
    | with_reducible apply goodC_ts
    | dsimp only

theorem execPutm_on {z : State} (c : LCore) (handle : Word) (line : Nat) (same : Bool) (s : State) (h_s : Onward z (s)) :
    OnwardA z (execPutm c handle line same s) := by
  unfold execPutm
  repeat' first
    | with_reducible intro _
    | with_reducible first
      | assumption | apply onA_next | apply onA_refused | apply State.evictLine_on
    | with_reducible apply goodT_ts
    | with_reducible apply goodC_ts
    | dsimp only

theorem State.drainWb_on {z : State} (s : State) (k : Nat) (h_s : Onward z (s)) :
    Onward z (State.drainWb s k) := by
  unfold State.drainWb
  repeat' first
    | with_reducible intro _
    | with_reducible first
      | assumption | apply State.writeBack_on | apply State.setCluster_on | apply goodC_ite | apply goodT_ite
      | apply goodC_foldl | apply goodH_foldl | apply goodT_foldl | apply on_foldl | apply on_foldl_fst
      | apply on_foldl_snd | apply onO_foldl | apply onF_foldl
    | simp only [on_mk_iff, goodC_mk_iff, goodH_mk_iff]
    | with_reducible apply goodT_ts
    | with_reducible apply goodC_ts
    | dsimp only

theorem State.answer_on {z : State} (s : State) (k : Nat) (r : DirReq) (f : LineReq → LineReq) (h_s : Onward z (s)) :
    Onward z (State.answer s k r f) := by
  unfold State.answer
  repeat' first
    | with_reducible intro _
    | with_reducible first
      | assumption | apply onO_some | apply onO_none | apply onF_some | apply onF_none | apply CoreSt.setLineReq_on
      | apply State.setCore_on | apply State.core_on | apply goodC_ite | apply goodT_ite
    | simp only [on_mk_iff, goodC_mk_iff, goodH_mk_iff]
    | with_reducible apply goodT_ts
    | with_reducible apply goodC_ts
    | dsimp only
    | split
    | (apply on_fst; with_reducible assumption)
    | (apply on_snd; with_reducible assumption)
    | (apply on_someF'; with_reducible assumption)
    | (apply on_some; with_reducible assumption)
    | (apply on_someF; with_reducible assumption)
    | (apply on_next; with_reducible assumption)

theorem State.decideGet_on {z : State} (s : State) (k : Nat) (r : DirReq) (h_s : Onward z (s)) :
    Onward z (State.decideGet s k r) := by
  unfold State.decideGet
  repeat' first
    | with_reducible intro _
    | with_reducible first
      | assumption | apply onO_some | apply onO_none | apply onF_some | apply onF_none | apply State.answer_on
      | apply State.setCluster_on | apply State.core_on | apply State.inc_on | apply State.put_on | apply goodC_ite
      | apply goodT_ite | apply on_getD | apply on_getD_fst | apply onF_map | apply onF_mapO | apply onO_mapF
      | apply onO_map
    | simp only [on_mk_iff, goodC_mk_iff, goodH_mk_iff]
    | with_reducible apply goodT_ts
    | with_reducible apply goodC_ts
    | dsimp only
    | split
    | (apply on_fst; with_reducible assumption)
    | (apply on_snd; with_reducible assumption)
    | (apply on_someF'; with_reducible assumption)
    | (apply on_some; with_reducible assumption)
    | (apply on_someF; with_reducible assumption)
    | (apply on_next; with_reducible assumption)

theorem State.decidePut_on {z : State} (s : State) (k : Nat) (r : DirReq) (h_s : Onward z (s)) :
    Onward z (State.decidePut s k r) := by
  unfold State.decidePut
  repeat' first
    | with_reducible intro _
    | with_reducible first
      | assumption | apply onO_some | apply onO_none | apply onF_some | apply onF_none | apply on_ite
      | apply onO_ite | apply CoreSt.dropHeld_on | apply State.setCluster_on | apply State.setCore_on
      | apply State.core_on | apply goodC_ite | apply goodT_ite
    | simp only [on_mk_iff, goodC_mk_iff, goodH_mk_iff]
    | with_reducible apply goodT_ts
    | with_reducible apply goodC_ts
    | dsimp only
    | split
    | (apply on_fst; with_reducible assumption)
    | (apply on_snd; with_reducible assumption)
    | (apply on_someF'; with_reducible assumption)
    | (apply on_some; with_reducible assumption)
    | (apply on_someF; with_reducible assumption)
    | (apply on_next; with_reducible assumption)

theorem State.dirDecide_on {z : State} (s : State) (k handle line : Nat) (h_s : Onward z (s)) :
    Onward z (State.dirDecide s k handle line) := by
  unfold State.dirDecide
  repeat' first
    | with_reducible intro _
    | with_reducible first
      | assumption | apply onO_some | apply onO_none | apply onF_some | apply onF_none | apply on_ite
      | apply onO_ite | apply State.decidePut_on | apply State.decideGet_on | apply State.drainWb_on
      | apply State.setCluster_on | apply State.put_on | apply goodC_ite | apply goodT_ite
    | simp only [on_mk_iff, goodC_mk_iff, goodH_mk_iff]
    | with_reducible apply goodT_ts
    | with_reducible apply goodC_ts
    | dsimp only
    | split
    | (apply on_fst; with_reducible assumption)
    | (apply on_snd; with_reducible assumption)
    | (apply on_someF'; with_reducible assumption)
    | (apply on_some; with_reducible assumption)
    | (apply on_someF; with_reducible assumption)
    | (apply on_next; with_reducible assumption)

theorem execDirectoryDecision_on {z : State} (k : Cluster) (handle : Word) (line : Nat) (s : State) (h_s : Onward z (s)) :
    OnwardA z (execDirectoryDecision k handle line s) := by
  unfold execDirectoryDecision
  repeat' first
    | with_reducible intro _
    | with_reducible first
      | assumption | apply onA_next | apply onA_refused | apply State.dirDecide_on
    | with_reducible apply goodT_ts
    | with_reducible apply goodC_ts
    | dsimp only

theorem State.invalidate_on {z : State} (s : State) (c handle line req : Nat) (h_s : Onward z (s)) :
    Onward z (State.invalidate s c handle line req) := by
  unfold State.invalidate
  repeat' first
    | with_reducible intro _
    | with_reducible first
      | assumption | apply onO_some | apply onO_none | apply onF_some | apply onF_none | apply on_ite
      | apply onO_ite | apply CoreSt.dropLine_on | apply CoreSt.setLineReq_on | apply State.setCore_on
      | apply State.core_on | apply goodC_ite | apply goodT_ite
    | simp only [on_mk_iff, goodC_mk_iff, goodH_mk_iff]
    | with_reducible apply goodT_ts
    | with_reducible apply goodC_ts
    | dsimp only
    | split
    | (apply on_fst; with_reducible assumption)
    | (apply on_snd; with_reducible assumption)
    | (apply on_someF'; with_reducible assumption)
    | (apply on_some; with_reducible assumption)
    | (apply on_someF; with_reducible assumption)
    | (apply on_next; with_reducible assumption)

theorem execInv_on {z : State} (c : LCore) (handle : Word) (line : Nat) (requester : Fin 16) (s : State) (h_s : Onward z (s)) :
    OnwardA z (execInv c handle line requester s) := by
  unfold execInv
  repeat' first
    | with_reducible intro _
    | with_reducible first
      | assumption | apply onA_next | apply onA_refused | apply State.invalidate_on
    | with_reducible apply goodT_ts
    | with_reducible apply goodC_ts
    | dsimp only

theorem State.forward_on {z : State} (s : State) (c handle line req : Nat) (write : Bool) (h_s : Onward z (s)) :
    Onward z (State.forward s c handle line req write) := by
  unfold State.forward
  repeat' first
    | with_reducible intro _
    | with_reducible first
      | assumption | apply onO_some | apply onO_none | apply onF_some | apply onF_none | apply on_ite
      | apply onO_ite | apply CoreSt.dropLine_on | apply CoreSt.setLineReq_on | apply State.writeBack_on
      | apply State.setCore_on | apply State.core_on | apply goodC_ite | apply goodT_ite | apply onF_map
      | apply onF_mapO | apply onO_mapF | apply onO_map
    | simp only [on_mk_iff, goodC_mk_iff, goodH_mk_iff]
    | with_reducible apply goodT_ts
    | with_reducible apply goodC_ts
    | dsimp only
    | split
    | (apply on_fst; with_reducible assumption)
    | (apply on_snd; with_reducible assumption)
    | (apply on_someF'; with_reducible assumption)
    | (apply on_some; with_reducible assumption)
    | (apply on_someF; with_reducible assumption)
    | (apply on_next; with_reducible assumption)

theorem execFwdGets_on {z : State} (c : LCore) (handle : Word) (line : Nat) (requester : Fin 16) (s : State) (h_s : Onward z (s)) :
    OnwardA z (execFwdGets c handle line requester s) := by
  unfold execFwdGets
  repeat' first
    | with_reducible intro _
    | with_reducible first
      | assumption | apply onA_next | apply onA_refused | apply State.forward_on
    | with_reducible apply goodT_ts
    | with_reducible apply goodC_ts
    | dsimp only

theorem execFwdGetm_on {z : State} (c : LCore) (handle : Word) (line : Nat) (requester : Fin 16) (s : State) (h_s : Onward z (s)) :
    OnwardA z (execFwdGetm c handle line requester s) := by
  unfold execFwdGetm
  repeat' first
    | with_reducible intro _
    | with_reducible first
      | assumption | apply onA_next | apply onA_refused | apply State.forward_on
    | with_reducible apply goodT_ts
    | with_reducible apply goodC_ts
    | dsimp only

theorem State.fillLine_on {z : State} (s : State) (c handle line : Nat) (h_s : Onward z (s)) :
    Onward z (State.fillLine s c handle line) := by
  unfold State.fillLine
  repeat' first
    | with_reducible intro _
    | with_reducible first
      | assumption | apply onO_some | apply onO_none | apply onF_some | apply onF_none | apply on_ite
      | apply onO_ite | apply CoreSt.dropLine_on | apply State.serveLine_on | apply CoreSt.touch_on
      | apply State.setCore_on | apply State.core_on | apply goodC_ite | apply goodT_ite
    | simp only [on_mk_iff, goodC_mk_iff, goodH_mk_iff]
    | with_reducible apply goodT_ts
    | with_reducible apply goodC_ts
    | dsimp only
    | split
    | (apply on_fst; with_reducible assumption)
    | (apply on_snd; with_reducible assumption)
    | (apply on_someF'; with_reducible assumption)
    | (apply on_some; with_reducible assumption)
    | (apply on_someF; with_reducible assumption)
    | (apply on_next; with_reducible assumption)

theorem execData_on {z : State} (c : LCore) (handle : Word) (line : Nat) (s : State) (h_s : Onward z (s)) :
    OnwardA z (execData c handle line s) := by
  unfold execData
  repeat' first
    | with_reducible intro _
    | with_reducible first
      | assumption | apply onA_next | apply onA_refused | apply State.fillLine_on
    | with_reducible apply goodT_ts
    | with_reducible apply goodC_ts
    | dsimp only

theorem State.ackLine_on {z : State} (s : State) (c handle line : Nat) (h_s : Onward z (s)) :
    Onward z (State.ackLine s c handle line) := by
  unfold State.ackLine
  repeat' first
    | with_reducible intro _
    | with_reducible first
      | assumption | apply onO_some | apply onO_none | apply onF_some | apply onF_none | apply CoreSt.setLineReq_on
      | apply State.setCore_on | apply State.core_on | apply goodC_ite | apply goodT_ite
    | simp only [on_mk_iff, goodC_mk_iff, goodH_mk_iff]
    | with_reducible apply goodT_ts
    | with_reducible apply goodC_ts
    | dsimp only
    | split
    | (apply on_fst; with_reducible assumption)
    | (apply on_snd; with_reducible assumption)
    | (apply on_someF'; with_reducible assumption)
    | (apply on_some; with_reducible assumption)
    | (apply on_someF; with_reducible assumption)
    | (apply on_next; with_reducible assumption)

theorem execInvAck_on {z : State} (c : LCore) (handle : Word) (line : Nat) (s : State) (h_s : Onward z (s)) :
    OnwardA z (execInvAck c handle line s) := by
  unfold execInvAck
  repeat' first
    | with_reducible intro _
    | with_reducible first
      | assumption | apply onA_next | apply onA_refused | apply State.ackLine_on
    | with_reducible apply goodT_ts
    | with_reducible apply goodC_ts
    | dsimp only

end Sys2Proof.Machine
end

