-- ==== Sys2Proof/Laws/OnExperts.lean ====
section
/-! SUPPORT. What each operation of Machine/Experts.lean leaves in order. -/

namespace Sys2Proof.Machine

theorem State.applyCtr_on {z : State} (s : State) (k : Nat) (r : CtrReq) (h_s : Onward z (s)) :
    Onward z (State.applyCtr s k r) := by
  unfold State.applyCtr
  repeat' first
    | with_reducible intro _
    | with_reducible first
      | assumption | apply on_ite | apply onO_ite | apply CoreSt.setSlot_on | apply State.setCore_on
      | apply State.core_on | apply State.inc_on | apply State.put_on | apply goodC_ite | apply goodT_ite
      | apply on_getD | apply on_getD_fst
    | with_reducible apply goodT_ts
    | with_reducible apply goodC_ts
    | dsimp only
    | split

theorem State.ctrDecide_on {z : State} (s : State) (k : Nat) (h_s : Onward z (s)) :
    Onward z (State.ctrDecide s k) := by
  unfold State.ctrDecide
  repeat' first
    | with_reducible intro _
    | with_reducible first
      | assumption | apply onO_some | apply onO_none | apply onF_some | apply onF_none | apply on_ite
      | apply onO_ite | apply State.applyCtr_on | apply State.setCluster_on | apply State.core_on
      | apply State.put_on | apply goodC_ite | apply goodT_ite | apply goodC_foldl | apply goodH_foldl
      | apply goodT_foldl | apply on_foldl | apply on_foldl_fst | apply on_foldl_snd | apply onO_foldl
      | apply onF_foldl
    | simp only [on_mk_iff, goodC_mk_iff, goodH_mk_iff]
    | with_reducible apply goodT_ts
    | with_reducible apply goodC_ts
    | dsimp only
    | split
    | (apply on_fst; with_reducible assumption)
    | (apply on_snd; with_reducible assumption)
    | (apply on_someF'; with_reducible assumption)
    | (apply on_some; with_reducible assumption)
    | (apply on_someF; with_reducible assumption)
    | (apply on_next; with_reducible assumption)

theorem execCounterBankDecision_on {z : State} (k : Cluster) (s : State) (h_s : Onward z (s)) :
    OnwardA z (execCounterBankDecision k s) := by
  unfold execCounterBankDecision
  repeat' first
    | with_reducible intro _
    | with_reducible first
      | assumption | apply onA_next | apply onA_refused | apply State.ctrDecide_on
    | with_reducible apply goodT_ts
    | with_reducible apply goodC_ts
    | dsimp only

theorem State.showMembers_on {z : State} (s : State) (k : Nat) (d : RoundDesc) (r : ScoreRound) (h_s : Onward z (s)) :
    Onward z (State.showMembers s k d r) := by
  unfold State.showMembers
  repeat' first
    | with_reducible intro _
    | with_reducible first
      | assumption | apply State.put_on | apply goodC_foldl | apply goodH_foldl | apply goodT_foldl
      | apply on_foldl | apply on_foldl_fst | apply on_foldl_snd | apply onO_foldl | apply onF_foldl
    | with_reducible apply goodT_ts
    | with_reducible apply goodC_ts
    | dsimp only

theorem State.scoreIn_on {z : State} (s : State) (c slot dn first : Nat) (gs : List Granule) (h_s : Onward z (s)) :
    Onward z (State.scoreIn s c slot dn first gs) := by
  unfold State.scoreIn
  repeat' first
    | with_reducible intro _
    | with_reducible first
      | assumption | apply onO_some | apply onO_none | apply onF_some | apply onF_none | apply on_ite
      | apply onO_ite | apply State.showMembers_on | apply State.setCluster_on | apply State.inc_on
      | apply goodC_ite | apply goodT_ite | apply goodC_foldl | apply goodH_foldl | apply goodT_foldl
      | apply on_foldl | apply on_foldl_fst | apply on_foldl_snd | apply onO_foldl | apply onF_foldl
    | simp only [on_mk_iff, goodC_mk_iff, goodH_mk_iff]
    | with_reducible apply goodT_ts
    | with_reducible apply goodC_ts
    | dsimp only
    | split
    | (apply on_fst; with_reducible assumption)
    | (apply on_snd; with_reducible assumption)
    | (apply on_someF'; with_reducible assumption)
    | (apply on_some; with_reducible assumption)
    | (apply on_someF; with_reducible assumption)
    | (apply on_next; with_reducible assumption)

theorem execScoreWrite_on {z : State} (c : LCore) (slot : Slot) (d : Fin 8) (first : Nat) (grans : List Granule) (s : State) (h_s : Onward z (s)) :
    OnwardA z (execScoreWrite c slot d first grans s) := by
  unfold execScoreWrite
  repeat' first
    | with_reducible intro _
    | with_reducible first
      | assumption | apply onA_next | apply onA_refused | apply onA_ite | apply on_ite | apply onO_ite
      | apply State.scoreIn_on | apply State.countAbsorb_on | apply goodC_ite | apply goodT_ite
    | with_reducible apply goodT_ts
    | with_reducible apply goodC_ts
    | dsimp only
    | split

theorem State.fabricWrite_on {z : State} (s : State) (c : Nat) (key : BitVec 12) (a : Nat) (bs : List Byte) (p : Bool) (h_s : Onward z (s)) :
    Onward z (State.fabricWrite s c key a bs p) := by
  unfold State.fabricWrite
  repeat' first
    | with_reducible intro _
    | with_reducible first
      | assumption | apply on_ite | apply onO_ite | apply State.countAbsorb_on | apply State.setTs_on
      | apply State.ts_on | apply TileStore.setWords_on | apply TileStore.setBytes_on | apply State.inc_on
      | apply goodC_ite | apply goodT_ite
    | with_reducible apply goodT_ts
    | with_reducible apply goodC_ts
    | dsimp only
    | split

theorem State.writeReturns_on {z : State} (s : State) (k : Nat) (d : RoundDesc) (rt : RouterSlot) (x : Decided) (e : Nat) (h_s : Onward z (s)) :
    Onward z (State.writeReturns s k d rt x e) := by
  unfold State.writeReturns
  repeat' first
    | with_reducible intro _
    | with_reducible first
      | assumption | apply onO_some | apply onO_none | apply onF_some | apply onF_none | apply State.fabricWrite_on
      | apply goodC_ite | apply goodT_ite | apply goodC_foldl | apply goodH_foldl | apply goodT_foldl
      | apply on_foldl | apply on_foldl_fst | apply on_foldl_snd | apply onO_foldl | apply onF_foldl
      | apply on_getD | apply on_getD_fst
    | simp only [on_mk_iff, goodC_mk_iff, goodH_mk_iff]
    | with_reducible apply goodT_ts
    | with_reducible apply goodC_ts
    | dsimp only
    | split
    | (apply on_fst; with_reducible assumption)
    | (apply on_snd; with_reducible assumption)
    | (apply on_someF'; with_reducible assumption)
    | (apply on_some; with_reducible assumption)
    | (apply on_someF; with_reducible assumption)
    | (apply on_next; with_reducible assumption)

theorem State.ferryReports_on {z : State} (s : State) (k : Nat) (d : RoundDesc) (rt : RouterSlot) (x : Decided) (h_s : Onward z (s)) :
    Onward z (State.ferryReports s k d rt x) := by
  unfold State.ferryReports
  repeat' first
    | with_reducible intro _
    | with_reducible first
      | assumption | apply onO_some | apply onO_none | apply onF_some | apply onF_none | apply on_ite
      | apply onO_ite | apply State.harbor_on | apply State.emit_on | apply goodC_ite | apply goodT_ite
      | apply goodH_ite | apply goodC_foldl | apply goodH_foldl | apply goodT_foldl | apply on_foldl
      | apply on_foldl_fst | apply on_foldl_snd | apply onO_foldl | apply onF_foldl
    | simp only [on_mk_iff, goodC_mk_iff, goodH_mk_iff]
    | with_reducible apply goodT_ts
    | with_reducible apply goodC_ts
    | dsimp only
    | split
    | (apply on_fst; with_reducible assumption)
    | (apply on_snd; with_reducible assumption)
    | (apply on_someF'; with_reducible assumption)
    | (apply on_some; with_reducible assumption)
    | (apply on_someF; with_reducible assumption)
    | (apply on_next; with_reducible assumption)

theorem State.countRound_on {z : State} (s : State) (k dn : Nat) (x : Decided) (weightNaN : Bool) (h_s : Onward z (s)) :
    Onward z (State.countRound s k dn x weightNaN) := by
  unfold State.countRound
  repeat' first
    | with_reducible intro _
    | with_reducible first
      | assumption | apply on_ite | apply onO_ite | apply State.inc_on | apply State.bump_on
      | apply State.setFlag_on | apply State.put_on
    | with_reducible apply goodT_ts
    | with_reducible apply goodC_ts
    | dsimp only
    | split

theorem State.roundDecide_on {z : State} (s : State) (k slot dn : Nat) (h_s : Onward z (s)) :
    Onward z (State.roundDecide s k slot dn) := by
  unfold State.roundDecide
  repeat' first
    | with_reducible intro _
    | with_reducible first
      | assumption | apply onO_some | apply onO_none | apply onF_some | apply onF_none | apply on_ite
      | apply onO_ite | apply State.countRound_on | apply State.ferryReports_on | apply State.writeReturns_on
      | apply State.fabricWrite_on | apply State.showMembers_on | apply State.setCluster_on | apply goodC_ite
      | apply goodT_ite | apply goodC_foldl | apply goodH_foldl | apply goodT_foldl | apply on_foldl
      | apply on_foldl_fst | apply on_foldl_snd | apply onO_foldl | apply onF_foldl | apply on_getD
      | apply on_getD_fst | apply onF_map | apply onF_mapO | apply onO_mapF | apply onO_map
    | simp only [on_mk_iff, goodC_mk_iff, goodH_mk_iff]
    | with_reducible apply goodT_ts
    | with_reducible apply goodC_ts
    | dsimp only
    | split
    | (apply on_fst; with_reducible assumption)
    | (apply on_snd; with_reducible assumption)
    | (apply on_someF'; with_reducible assumption)
    | (apply on_some; with_reducible assumption)
    | (apply on_someF; with_reducible assumption)
    | (apply on_next; with_reducible assumption)

theorem execRoundDecision_on {z : State} (k : Cluster) (slot : Slot) (d : Fin 8) (s : State) (h_s : Onward z (s)) :
    OnwardA z (execRoundDecision k slot d s) := by
  unfold execRoundDecision
  repeat' first
    | with_reducible intro _
    | with_reducible first
      | assumption | apply onA_next | apply onA_refused | apply State.roundDecide_on
    | with_reducible apply goodT_ts
    | with_reducible apply goodC_ts
    | dsimp only

end Sys2Proof.Machine
end

