-- ==== Sys2Proof/Laws/OnServeOps.lean ====
section
/-! SUPPORT. What each operation of Machine/ServeOps.lean leaves in order. -/

namespace Sys2Proof.Machine

theorem State.setLevel_on {z : State} (s : State) (t : Nat) (v : Int) (h_s : Onward z (s)) :
    Onward z (State.setLevel s t v) := by
  unfold State.setLevel
  repeat' first
    | with_reducible intro _
    | with_reducible first
      | assumption | apply on_ite | apply onO_ite | apply State.raiseVF_on | apply State.put_on
    | with_reducible apply goodT_ts
    | with_reducible apply goodC_ts
    | dsimp only
    | split

theorem State.charge_on {z : State} (s : State) (t : Nat) (h_s : Onward z (s)) :
    Onward z (State.charge s t) := by
  unfold State.charge
  repeat' first
    | with_reducible intro _
    | with_reducible first
      | assumption | apply State.setLevel_on
    | with_reducible apply goodT_ts
    | with_reducible apply goodC_ts
    | dsimp only

theorem State.tokenCause_on {z : State} (s : State) (t : Nat) (fin : Bool) (h_s : Onward z (s)) :
    Onward z (State.tokenCause s t fin) := by
  unfold State.tokenCause
  repeat' first
    | with_reducible intro _
    | with_reducible first
      | assumption | apply onO_some | apply onO_none | apply onF_some | apply onF_none | apply on_ite
      | apply onO_ite | apply State.raiseVF_on | apply goodC_ite | apply goodT_ite
    | simp only [on_mk_iff, goodC_mk_iff, goodH_mk_iff]
    | with_reducible apply goodT_ts
    | with_reducible apply goodC_ts
    | dsimp only
    | split
    | (apply on_fst; with_reducible assumption)
    | (apply on_snd; with_reducible assumption)
    | (apply on_someF'; with_reducible assumption)
    | (apply on_some; with_reducible assumption)
    | (apply on_someF; with_reducible assumption)
    | (apply on_next; with_reducible assumption)

theorem State.writeEntry_on {z : State} (s : State) (st : Nat) (x : ReqStream) (e : TokEntry) (h_s : Onward z (s)) :
    Onward z (State.writeEntry s st x e) := by
  unfold State.writeEntry
  repeat' first
    | with_reducible intro _
    | with_reducible first
      | assumption | apply State.hostWrite_on | apply State.tokenCause_on | apply State.emit_on | apply goodC_ite
      | apply goodT_ite
    | simp only [on_mk_iff, goodC_mk_iff, goodH_mk_iff]
    | with_reducible apply goodT_ts
    | with_reducible apply goodC_ts
    | dsimp only

theorem State.appendEntry_on {z : State} (s : State) (st : Nat) (e : TokEntry) (h_s : Onward z (s)) :
    Onward z (State.appendEntry s st e) := by
  unfold State.appendEntry
  repeat' first
    | with_reducible intro _
    | with_reducible first
      | assumption | apply onO_some | apply onO_none | apply onF_some | apply onF_none | apply on_ite
      | apply onO_ite | apply State.writeEntry_on | apply goodC_ite | apply goodT_ite
    | simp only [on_mk_iff, goodC_mk_iff, goodH_mk_iff]
    | with_reducible apply goodT_ts
    | with_reducible apply goodC_ts
    | dsimp only
    | split
    | (apply on_fst; with_reducible assumption)
    | (apply on_snd; with_reducible assumption)
    | (apply on_someF'; with_reducible assumption)
    | (apply on_some; with_reducible assumption)
    | (apply on_someF; with_reducible assumption)
    | (apply on_next; with_reducible assumption)

theorem State.drainHeld_on {z : State} (s : State) (st : Nat) (es : List TokEntry) (h_s : Onward z (s)) :
    Onward z (State.drainHeld s st es) := by
  induction es generalizing s with
  | nil =>
    unfold State.drainHeld
    repeat' first
      | with_reducible intro _
      | with_reducible first
        | assumption | apply onO_some | apply onO_none | apply onF_some | apply onF_none | apply on_ite
        | apply onO_ite | apply ih | apply State.writeEntry_on | apply goodC_ite | apply goodT_ite
      | simp only [on_mk_iff, goodC_mk_iff, goodH_mk_iff]
      | with_reducible apply goodT_ts
      | with_reducible apply goodC_ts
      | dsimp only
      | split
      | (apply on_fst; with_reducible assumption)
      | (apply on_snd; with_reducible assumption)
      | (apply on_someF'; with_reducible assumption)
      | (apply on_some; with_reducible assumption)
      | (apply on_someF; with_reducible assumption)
      | (apply on_next; with_reducible assumption)
  | cons e rest ih =>
    unfold State.drainHeld
    repeat' first
      | with_reducible intro _
      | with_reducible first
        | assumption | apply onO_some | apply onO_none | apply onF_some | apply onF_none | apply on_ite
        | apply onO_ite | apply ih | apply State.writeEntry_on | apply goodC_ite | apply goodT_ite
      | simp only [on_mk_iff, goodC_mk_iff, goodH_mk_iff]
      | with_reducible apply goodT_ts
      | with_reducible apply goodC_ts
      | dsimp only
      | split
      | (apply on_fst; with_reducible assumption)
      | (apply on_snd; with_reducible assumption)
      | (apply on_someF'; with_reducible assumption)
      | (apply on_some; with_reducible assumption)
      | (apply on_someF; with_reducible assumption)
      | (apply on_next; with_reducible assumption)

theorem State.setBind_on {z : State} (s : State) (b : Nat) (x : BindSt) (h_s : Onward z (s)) :
    Onward z (State.setBind s b x) := by
  unfold State.setBind
  repeat' first
    | with_reducible intro _
    | with_reducible first
      | assumption | apply goodC_ite | apply goodT_ite
    | simp only [on_mk_iff, goodC_mk_iff, goodH_mk_iff]
    | with_reducible apply goodT_ts
    | with_reducible apply goodC_ts
    | dsimp only

theorem State.dropRequest_on {z : State} (s : State) (st : Nat) (h_s : Onward z (s)) :
    Onward z (State.dropRequest s st) := by
  unfold State.dropRequest
  repeat' first
    | with_reducible intro _
    | with_reducible first
      | assumption | apply onO_some | apply onO_none | apply onF_some | apply onF_none | apply State.setBind_on
      | apply goodC_ite | apply goodT_ite | apply goodC_foldl | apply goodH_foldl | apply goodT_foldl
      | apply on_foldl | apply on_foldl_fst | apply on_foldl_snd | apply onO_foldl | apply onF_foldl
    | simp only [on_mk_iff, goodC_mk_iff, goodH_mk_iff]
    | with_reducible apply goodT_ts
    | with_reducible apply goodC_ts
    | dsimp only
    | split
    | (apply on_fst; with_reducible assumption)
    | (apply on_snd; with_reducible assumption)
    | (apply on_someF'; with_reducible assumption)
    | (apply on_some; with_reducible assumption)
    | (apply on_someF; with_reducible assumption)
    | (apply on_next; with_reducible assumption)

theorem State.endRequest_on {z : State} (s : State) (st status : Nat) (ack : Bool) (h_s : Onward z (s)) :
    Onward z (State.endRequest s st status ack) := by
  unfold State.endRequest
  repeat' first
    | with_reducible intro _
    | with_reducible first
      | assumption | apply onO_some | apply onO_none | apply onF_some | apply onF_none | apply State.dropRequest_on
      | apply State.appendEntry_on | apply goodC_ite | apply goodT_ite
    | simp only [on_mk_iff, goodC_mk_iff, goodH_mk_iff]
    | with_reducible apply goodT_ts
    | with_reducible apply goodC_ts
    | dsimp only
    | split
    | (apply on_fst; with_reducible assumption)
    | (apply on_snd; with_reducible assumption)
    | (apply on_someF'; with_reducible assumption)
    | (apply on_some; with_reducible assumption)
    | (apply on_someF; with_reducible assumption)
    | (apply on_next; with_reducible assumption)

theorem State.endPartRequests_on {z : State} (s : State) (p status : Nat) (h_s : Onward z (s)) :
    Onward z (State.endPartRequests s p status) := by
  unfold State.endPartRequests
  repeat' first
    | with_reducible intro _
    | with_reducible first
      | assumption | apply State.endRequest_on | apply goodC_foldl | apply goodH_foldl | apply goodT_foldl
      | apply on_foldl | apply on_foldl_fst | apply on_foldl_snd | apply onO_foldl | apply onF_foldl
    | with_reducible apply goodT_ts
    | with_reducible apply goodC_ts
    | dsimp only

theorem State.setReqHead_on {z : State} (s : State) (st : Nat) (t head : Nat) (h_s : Onward z (s)) :
    Onward z (State.setReqHead s st t head) := by
  unfold State.setReqHead
  repeat' first
    | with_reducible intro _
    | with_reducible first
      | assumption | apply on_ite | apply onO_ite | apply State.put_on
    | with_reducible apply goodT_ts
    | with_reducible apply goodC_ts
    | dsimp only
    | split

theorem State.closeStream_on {z : State} (s : State) (st : Nat) (h_s : Onward z (s)) :
    Onward z (State.closeStream s st) := by
  unfold State.closeStream
  repeat' first
    | with_reducible intro _
    | with_reducible first
      | assumption | apply onO_some | apply onO_none | apply onF_some | apply onF_none | apply State.setReqHead_on
      | apply State.dropRequest_on | apply goodC_ite | apply goodT_ite
    | simp only [on_mk_iff, goodC_mk_iff, goodH_mk_iff]
    | with_reducible apply goodT_ts
    | with_reducible apply goodC_ts
    | dsimp only
    | split
    | (apply on_fst; with_reducible assumption)
    | (apply on_snd; with_reducible assumption)
    | (apply on_someF'; with_reducible assumption)
    | (apply on_some; with_reducible assumption)
    | (apply on_someF; with_reducible assumption)
    | (apply on_next; with_reducible assumption)

theorem State.dropPrefixes_on {z : State} (s : State) (b : Nat) (h_s : Onward z (s)) :
    Onward z (State.dropPrefixes s b) := by
  unfold State.dropPrefixes
  repeat' first
    | with_reducible intro _
    | with_reducible first
      | assumption | apply goodC_ite | apply goodT_ite
    | simp only [on_mk_iff, goodC_mk_iff, goodH_mk_iff]
    | with_reducible apply goodT_ts
    | with_reducible apply goodC_ts
    | dsimp only

theorem State.resetBindings_on {z : State} (s : State) (p : Nat) (h_s : Onward z (s)) :
    Onward z (State.resetBindings s p) := by
  unfold State.resetBindings
  repeat' first
    | with_reducible intro _
    | with_reducible first
      | assumption | apply State.dropPrefixes_on | apply State.endPartRequests_on | apply State.setBind_on
      | apply State.setFlag_on | apply goodC_foldl | apply goodH_foldl | apply goodT_foldl | apply on_foldl
      | apply on_foldl_fst | apply on_foldl_snd | apply onO_foldl | apply onF_foldl
    | with_reducible apply goodT_ts
    | with_reducible apply goodC_ts
    | dsimp only

end Sys2Proof.Machine
end

