-- ==== Sys2Proof/Laws/OnPackage.lean ====
section
/-! SUPPORT. What each operation of Machine/Package.lean leaves in order. -/

namespace Sys2Proof.Machine

theorem State.toPhase_on {z : State} (s : State) (p : Nat) (h_s : Onward z (s)) :
    Onward z (State.toPhase s p) := by
  unfold State.toPhase
  repeat' first
    | with_reducible intro _
    | with_reducible first
      | assumption | apply State.put_on
    | with_reducible apply goodT_ts
    | with_reducible apply goodC_ts
    | dsimp only

theorem State.crashSnapshot_on {z : State} (s : State) (cause : Nat) (h_s : Onward z (s)) :
    Onward z (State.crashSnapshot s cause) := by
  unfold State.crashSnapshot
  repeat' first
    | with_reducible intro _
    | with_reducible first
      | assumption | apply on_ite | apply onO_ite | apply goodC_ite | apply goodT_ite
    | simp only [on_mk_iff, goodC_mk_iff, goodH_mk_iff]
    | with_reducible apply goodT_ts
    | with_reducible apply goodC_ts
    | dsimp only
    | split

theorem State.setPresent_on {z : State} (s : State) (i : Nat) (on : Bool) (why : Nat) (h_s : Onward z (s)) :
    Onward z (State.setPresent s i on why) := by
  unfold State.setPresent
  repeat' first
    | with_reducible intro _
    | with_reducible first
      | assumption | apply State.put_on | apply State.setReg_on
    | with_reducible apply goodT_ts
    | with_reducible apply goodC_ts
    | dsimp only

theorem State.coreRailOff_on {z : State} (s : State) (i : Nat) (h_s : Onward z (s)) :
    Onward z (State.coreRailOff s i) := by
  unfold State.coreRailOff
  repeat' first
    | with_reducible intro _
    | with_reducible first
      | assumption | apply State.wipeCore_on | apply State.setIsl_on | apply State.setFlag_on | apply goodC_ite
      | apply goodT_ite | apply goodC_foldl | apply goodH_foldl | apply goodT_foldl | apply on_foldl
      | apply on_foldl_fst | apply on_foldl_snd | apply onO_foldl | apply onF_foldl
    | simp only [on_mk_iff, goodC_mk_iff, goodH_mk_iff]
    | with_reducible apply goodT_ts
    | with_reducible apply goodC_ts
    | dsimp only

theorem State.cleanPart_on {z : State} (s : State) (p : Nat) (h_s : Onward z (s)) :
    Onward z (State.cleanPart s p) := by
  unfold State.cleanPart
  repeat' first
    | with_reducible intro _
    | with_reducible first
      | assumption | apply on_ite | apply onO_ite | apply State.cleanCache_on | apply goodC_ite | apply goodT_ite
      | apply goodC_foldl | apply goodH_foldl | apply goodT_foldl | apply on_foldl | apply on_foldl_fst
      | apply on_foldl_snd | apply onO_foldl | apply onF_foldl
    | with_reducible apply goodT_ts
    | with_reducible apply goodC_ts
    | dsimp only
    | split

theorem State.withdraw_on {z : State} (s : State) (h_s : Onward z (s)) :
    Onward z (State.withdraw s) := by
  unfold State.withdraw
  repeat' first
    | with_reducible intro _
    | with_reducible first
      | assumption | apply onO_some | apply onO_none | apply onF_some | apply onF_none | apply State.portTo_on
      | apply State.logEvent_on | apply State.setFlag_on | apply goodC_foldl | apply goodH_foldl
      | apply goodT_foldl | apply on_foldl | apply on_foldl_fst | apply on_foldl_snd | apply onO_foldl
      | apply onF_foldl
    | with_reducible apply goodT_ts
    | with_reducible apply goodC_ts
    | dsimp only

theorem State.refreshRecov_on {z : State} (s : State) (h_s : Onward z (s)) :
    Onward z (State.refreshRecov s) := by
  unfold State.refreshRecov
  repeat' first
    | with_reducible intro _
    | with_reducible first
      | assumption | apply State.put_on
    | with_reducible apply goodT_ts
    | with_reducible apply goodC_ts
    | dsimp only

theorem State.eject_on {z : State} (s : State) (p status lcore : Nat) (h_s : Onward z (s)) :
    Onward z (State.eject s p status lcore) := by
  unfold State.eject
  repeat' first
    | with_reducible intro _
    | with_reducible first
      | assumption | apply onO_some | apply onO_none | apply onF_some | apply onF_none | apply on_ite
      | apply onO_ite | apply State.refreshRecov_on | apply State.withdraw_on | apply State.cleanPart_on
      | apply State.closeJob_on | apply State.wipePart_on | apply State.endPartRequests_on
      | apply State.partFault_on | apply State.logEvent_on | apply State.inc_on | apply State.put_on
      | apply goodC_ite | apply goodT_ite
    | simp only [on_mk_iff, goodC_mk_iff, goodH_mk_iff]
    | with_reducible apply goodT_ts
    | with_reducible apply goodC_ts
    | dsimp only
    | split
    | (apply on_fst; with_reducible assumption)
    | (apply on_snd; with_reducible assumption)
    | (apply on_someF'; with_reducible assumption)
    | (apply on_some; with_reducible assumption)
    | (apply on_someF; with_reducible assumption)
    | (apply on_next; with_reducible assumption)

theorem State.ejectWhere_on {z : State} (s : State) (status lcore : Nat) (on : Nat → Bool) (h_s : Onward z (s)) :
    Onward z (State.ejectWhere s status lcore on) := by
  unfold State.ejectWhere
  repeat' first
    | with_reducible intro _
    | with_reducible first
      | assumption | apply on_ite | apply onO_ite | apply State.eject_on | apply goodC_ite | apply goodT_ite
      | apply goodC_foldl | apply goodH_foldl | apply goodT_foldl | apply on_foldl | apply on_foldl_fst
      | apply on_foldl_snd | apply onO_foldl | apply onF_foldl
    | with_reducible apply goodT_ts
    | with_reducible apply goodC_ts
    | dsimp only
    | split

theorem HarborSt.afterReset_on {z : State} (x : HarborSt) (h_x : GoodH z (x)) :
    GoodH z (HarborSt.afterReset x) := by
  exact fun w => HarborSt.afterReset_memWf (h_x w)

theorem State.clearPackage_on {z : State} (s : State) (h_s : Onward z (s)) :
    Onward z (State.clearPackage s) := by
  refine ⟨h_s.1, h_s.2.1, h_s.2.2.1, h_s.2.2.2.1, h_s.2.2.2.2.1, fun w => ?_⟩
  refine (Memory.wf_iff _).mpr ⟨fun e he => ?_, ?_, ?_⟩
  · exact goodH_map (f := fun e => (e.1, e.2.afterReset)) (harbors_good h_s) (fun _ h => HarborSt.afterReset_on _ h) e he w
  · exact fun _ he => absurd he List.not_mem_nil
  · exact fun _ he => absurd he List.not_mem_nil

theorem State.endAllJobs_on {z : State} (s : State) (h_s : Onward z (s)) :
    Onward z (State.endAllJobs s) := by
  unfold State.endAllJobs
  have a : Onward z ((List.range 128).foldl (fun s p => s.endJob p stEjectedReset) s) :=
    on_foldl (fun _ _ h => State.endJob_on _ _ _ h) _ _ h_s
  dsimp only
  generalize (List.range 128).foldl (fun s p => s.endJob p stEjectedReset) s = s1 at a ⊢
  refine on_foldl (fun _ _ h => State.endRequest_on _ _ _ _ h) _ _ (on_saved (K := []) ?_ fun _ he => nomatch he)
  refine on_foldl (fun s j h => ?_) _ _ a
  split
  · exact h
  · exact State.inc_on _ _ (State.acct_on _ _ _ _ h)

theorem State.idleParts_on {z : State} (s : State) (h_s : Onward z (s)) :
    Onward z (State.idleParts s) := by
  unfold State.idleParts
  repeat' first
    | with_reducible intro _
    | with_reducible first
      | assumption | apply on_ite | apply onO_ite | apply State.put_on | apply goodC_foldl | apply goodH_foldl
      | apply goodT_foldl | apply on_foldl | apply on_foldl_fst | apply on_foldl_snd | apply onO_foldl
      | apply onF_foldl
    | with_reducible apply goodT_ts
    | with_reducible apply goodC_ts
    | dsimp only
    | split

theorem State.warmWipe_on {z : State} (s : State) (h_s : Onward z (s)) :
    Onward z (State.warmWipe s) := by
  unfold State.warmWipe
  have h : Onward z s.endAllJobs.idleParts := State.idleParts_on _ (State.endAllJobs_on _ h_s)
  generalize s.endAllJobs.idleParts = t at h ⊢
  have g : Onward z (State.clearPackage t) := State.clearPackage_on _ h
  apply State.refreshJobLock_on
  generalize State.clearPackage t = u at g ⊢
  exact ⟨g.1, g.2.1, g.2.2.1, fun r => rising_warmRegs (h.2.2.2.1 r), g.2.2.2.2⟩

theorem State.railsOff_on {z : State} (s : State) (h_s : Onward z (s)) :
    Onward z (State.railsOff s) := by
  have g := State.clearPackage_on _ h_s
  exact ⟨g.1, g.2.1, g.2.2.1, fun r => rising_filter _ (h_s.2.2.2.1 r), .inl rfl, g.2.2.2.2.2⟩

theorem State.exkShow_on {z : State} (s : State) (h_s : Onward z (s)) :
    Onward z (State.exkShow s) := by
  unfold State.exkShow
  repeat' first
    | with_reducible intro _
    | with_reducible first
      | assumption | apply onO_some | apply onO_none | apply onF_some | apply onF_none | apply State.refreshLog_on
      | apply State.setFlag_on | apply State.put_on | apply goodC_ite | apply goodT_ite | apply goodC_foldl
      | apply goodH_foldl | apply goodT_foldl | apply on_foldl | apply on_foldl_fst | apply on_foldl_snd
      | apply onO_foldl | apply onF_foldl
    | simp only [on_mk_iff, goodC_mk_iff, goodH_mk_iff]
    | with_reducible apply goodT_ts
    | with_reducible apply goodC_ts
    | dsimp only
    | split
    | (apply on_fst; with_reducible assumption)
    | (apply on_snd; with_reducible assumption)
    | (apply on_someF'; with_reducible assumption)
    | (apply on_some; with_reducible assumption)
    | (apply on_someF; with_reducible assumption)
    | (apply on_next; with_reducible assumption)

theorem State.untested_on {z : State} (s : State) (h_s : Onward z (s)) :
    Onward z (State.untested s) := by
  unfold State.untested
  repeat' first
    | with_reducible intro _
    | with_reducible first
      | assumption | apply State.put_on
    | with_reducible apply goodT_ts
    | with_reducible apply goodC_ts
    | dsimp only

theorem State.beginAttempt_on {z : State} (s : State) (cold : Bool) (h_s : Onward z (s)) :
    Onward z (State.beginAttempt s cold) := by
  unfold State.beginAttempt
  repeat' first
    | with_reducible intro _
    | with_reducible first
      | assumption | apply on_ite | apply onO_ite | apply State.untested_on | apply State.setFlag_on
      | apply State.put_on | apply goodC_ite | apply goodT_ite
    | simp only [on_mk_iff, goodC_mk_iff, goodH_mk_iff]
    | with_reducible apply goodT_ts
    | with_reducible apply goodC_ts
    | dsimp only
    | split

theorem State.hubEnable_on {z : State} (s : State) (h_s : Onward z (s)) :
    Onward z (State.hubEnable s) := by
  unfold State.hubEnable
  repeat' first
    | with_reducible intro _
    | with_reducible first
      | assumption | apply goodC_ite | apply goodT_ite
    | simp only [on_mk_iff, goodC_mk_iff, goodH_mk_iff]
    | with_reducible apply goodT_ts
    | with_reducible apply goodC_ts
    | dsimp only

theorem State.enterHub_on {z : State} (s : State) (h_s : Onward z (s)) :
    Onward z (State.enterHub s) := by
  unfold State.enterHub
  repeat' first
    | with_reducible intro _
    | with_reducible first
      | assumption | apply State.hubEnable_on | apply State.untested_on | apply State.railsOff_on
      | apply State.toPhase_on | apply State.setFlag_on | apply State.put_on | apply State.setReg_on
      | apply goodC_ite | apply goodT_ite
    | simp only [on_mk_iff, goodC_mk_iff, goodH_mk_iff]
    | with_reducible apply goodT_ts
    | with_reducible apply goodC_ts
    | dsimp only

theorem State.enterMinimal_on {z : State} (s : State) (cause : Nat) (h_s : Onward z (s)) :
    Onward z (State.enterMinimal s cause) := by
  unfold State.enterMinimal
  apply State.toPhase_on
  apply State.put_on
  apply State.setFlag_on
  apply State.setFlag_on
  split
  · exact State.railsOff_on _ h_s
  · refine on_harbors (State.clearPackage_on _ h_s) fun e he => ?_
    obtain ⟨b, hb, rfl⟩ := List.mem_map.mp he
    intro w
    have k := (HarborSt.memWf_iff b.2).mp (harbors_good h_s b hb w)
    have r := HarborSt.afterReset_memWf (harbors_good h_s b hb w)
    dsimp only
    split
    · have q := (HarborSt.memWf_iff _).mp r
      exact HarborSt.memWf_of q.1.1 k.1.2.1 q.1.2.2 q.2.1 k.2.2.1 q.2.2.2
    · exact r

theorem State.failStart_on {z : State} (s : State) (cause : Nat) (h_s : Onward z (s)) :
    Onward z (State.failStart s cause) := by
  unfold State.failStart
  repeat' first
    | with_reducible intro _
    | with_reducible first
      | assumption | apply onO_some | apply onO_none | apply onF_some | apply onF_none | apply on_ite
      | apply onO_ite | apply State.enterMinimal_on | apply State.railsOff_on | apply State.crashSnapshot_on
      | apply State.toPhase_on | apply State.logEvent_on | apply State.put_on | apply goodC_ite | apply goodT_ite
    | simp only [on_mk_iff, goodC_mk_iff, goodH_mk_iff]
    | with_reducible apply goodT_ts
    | with_reducible apply goodC_ts
    | dsimp only
    | split

theorem State.reachReady_on {z : State} (s : State) (h_s : Onward z (s)) :
    Onward z (State.reachReady s) := by
  unfold State.reachReady
  repeat' first
    | with_reducible intro _
    | with_reducible first
      | assumption | apply on_ite | apply onO_ite | apply State.failStart_on | apply State.toPhase_on
      | apply State.postMessage_on | apply State.put_on | apply goodC_ite | apply goodT_ite
    | simp only [on_mk_iff, goodC_mk_iff, goodH_mk_iff]
    | with_reducible apply goodT_ts
    | with_reducible apply goodC_ts
    | dsimp only
    | split

theorem State.hubFault_on {z : State} (s : State) (h_s : Onward z (s)) :
    Onward z (State.hubFault s) := by
  unfold State.hubFault
  repeat' first
    | with_reducible intro _
    | with_reducible first
      | assumption | apply on_ite | apply onO_ite | apply State.enterHub_on | apply State.beginAttempt_on
      | apply State.crashSnapshot_on | apply goodC_ite | apply goodT_ite
    | simp only [on_mk_iff, goodC_mk_iff, goodH_mk_iff]
    | with_reducible apply goodT_ts
    | with_reducible apply goodC_ts
    | dsimp only
    | split

theorem State.warmReset_on {z : State} (s : State) (h_s : Onward z (s)) :
    Onward z (State.warmReset s) := by
  unfold State.warmReset
  repeat' first
    | with_reducible intro _
    | with_reducible first
      | assumption | apply on_ite | apply onO_ite | apply State.beginAttempt_on | apply State.warmWipe_on
      | apply State.toPhase_on | apply goodC_ite | apply goodT_ite | apply goodH_ite
    | simp only [on_mk_iff, goodC_mk_iff, goodH_mk_iff]
    | with_reducible apply goodT_ts
    | with_reducible apply goodC_ts
    | dsimp only
    | split

theorem State.coldReset_on {z : State} (s : State) (h_s : Onward z (s)) :
    Onward z (State.coldReset s) := by
  unfold State.coldReset
  dsimp only
  have g := State.railsOff_on _ h_s
  apply State.toPhase_on
  apply State.exkShow_on
  apply State.beginAttempt_on
  split
  · exact State.setReg_on _ _ _ ⟨g.1, g.2.1, g.2.2.1, fun _ => rfl, g.2.2.2.2⟩
  · exact ⟨g.1, g.2.1, g.2.2.1, fun _ => rfl, g.2.2.2.2⟩

end Sys2Proof.Machine
end

