-- ==== Sys2Proof/Laws/OnClocks.lean ====
section
/-! SUPPORT. What each operation of Machine/Clocks.lean leaves in order. -/

namespace Sys2Proof.Machine

theorem execRootPllLock_on {z : State} (s : State) (h_s : Onward z (s)) :
    OnwardA z (execRootPllLock s) := by
  unfold execRootPllLock
  repeat' first
    | with_reducible intro _
    | with_reducible first
      | assumption | apply onA_next | apply onA_refused | apply onA_ite | apply on_ite | apply onO_ite
      | apply State.setFlag_on
    | with_reducible apply goodT_ts
    | with_reducible apply goodC_ts
    | dsimp only
    | split

theorem execPllLockTimeout_on {z : State} (s : State) (h_s : Onward z (s)) :
    OnwardA z (execPllLockTimeout s) := by
  unfold execPllLockTimeout
  repeat' first
    | with_reducible intro _
    | with_reducible first
      | assumption | apply onA_next | apply onA_refused | apply onA_ite | apply on_ite | apply onO_ite
      | apply State.failStart_on
    | with_reducible apply goodT_ts
    | with_reducible apply goodC_ts
    | dsimp only
    | split

theorem execPllLockLoss_on {z : State} (s : State) (h_s : Onward z (s)) :
    OnwardA z (execPllLockLoss s) := by
  unfold execPllLockLoss
  repeat' first
    | with_reducible intro _
    | with_reducible first
      | assumption | apply onA_next | apply onA_refused | apply onA_ite | apply on_ite | apply onO_ite
      | apply State.hubFault_on | apply State.failStart_on | apply State.setFlag_on
    | with_reducible apply goodT_ts
    | with_reducible apply goodC_ts
    | dsimp only
    | split

theorem State.stepTo_on {z : State} (s : State) (i code : Nat) (h_s : Onward z (s)) :
    Onward z (State.stepTo s i code) := by
  unfold State.stepTo
  repeat' first
    | with_reducible intro _
    | with_reducible first
      | assumption | apply State.setIsl_on | apply State.put_on | apply goodC_ite | apply goodT_ite
    | simp only [on_mk_iff, goodC_mk_iff, goodH_mk_iff]
    | with_reducible apply goodT_ts
    | with_reducible apply goodC_ts
    | dsimp only

theorem State.showHot_on {z : State} (s : State) (i : Nat) (hot : Int) (ix : Nat) (h_s : Onward z (s)) :
    Onward z (State.showHot s i hot ix) := by
  unfold State.showHot
  repeat' first
    | with_reducible intro _
    | with_reducible first
      | assumption | apply State.put_on
    | with_reducible apply goodT_ts
    | with_reducible apply goodC_ts
    | dsimp only

theorem State.runs_on {z : State} (s : State) (i : Nat) (hot : Int) (h_s : Onward z (s)) :
    Onward z (State.runs s i hot) := by
  unfold State.runs
  repeat' first
    | with_reducible intro _
    | with_reducible first
      | assumption | apply onO_some | apply onO_none | apply onF_some | apply onF_none | apply on_ite
      | apply onO_ite | apply HarborSt.release_on | apply State.setIsl_on | apply goodC_ite | apply goodT_ite
    | simp only [on_mk_iff, goodC_mk_iff, goodH_mk_iff]
    | with_reducible apply goodT_ts
    | with_reducible apply goodC_ts
    | dsimp only
    | split
    | (apply on_fst; with_reducible assumption)
    | (apply on_snd; with_reducible assumption)
    | (apply on_someF'; with_reducible assumption)
    | (apply on_some; with_reducible assumption)
    | (apply on_someF; with_reducible assumption)
    | (apply on_next; with_reducible assumption)

theorem State.govern_on {z : State} (s : State) (i : Nat) (hot : Int) (h_s : Onward z (s)) :
    Onward z (State.govern s i hot) := by
  unfold State.govern
  repeat' first
    | with_reducible intro _
    | with_reducible first
      | assumption | apply onO_some | apply onO_none | apply onF_some | apply onF_none | apply on_ite
      | apply onO_ite | apply State.stepTo_on | apply State.logEvent_on | apply State.raisePF_on
      | apply State.setIsl_on | apply State.inc_on | apply State.setFlag_on | apply goodC_ite | apply goodT_ite
    | simp only [on_mk_iff, goodC_mk_iff, goodH_mk_iff]
    | with_reducible apply goodT_ts
    | with_reducible apply goodC_ts
    | dsimp only
    | split

theorem State.slowdown_on {z : State} (s : State) (i : Nat) (hot : Int) (h_s : Onward z (s)) :
    Onward z (State.slowdown s i hot) := by
  unfold State.slowdown
  repeat' first
    | with_reducible intro _
    | with_reducible first
      | assumption | apply on_ite | apply onO_ite | apply State.inc_on | apply State.bump_on | apply goodC_foldl
      | apply goodH_foldl | apply goodT_foldl | apply on_foldl | apply on_foldl_fst | apply on_foldl_snd
      | apply onO_foldl | apply onF_foldl
    | with_reducible apply goodT_ts
    | with_reducible apply goodC_ts
    | dsimp only
    | split

theorem State.load_on {z : State} (s : State) (i amps : Nat) (h_s : Onward z (s)) :
    Onward z (State.load s i amps) := by
  unfold State.load
  repeat' first
    | with_reducible intro _
    | with_reducible first
      | assumption | apply State.setIsl_on | apply State.put_on | apply goodC_ite | apply goodT_ite
      | apply goodC_foldl | apply goodH_foldl | apply goodT_foldl | apply on_foldl | apply on_foldl_fst
      | apply on_foldl_snd | apply onO_foldl | apply onF_foldl
    | simp only [on_mk_iff, goodC_mk_iff, goodH_mk_iff]
    | with_reducible apply goodT_ts
    | with_reducible apply goodC_ts
    | dsimp only

theorem State.refreshAnneal_on {z : State} (s : State) (h_s : Onward z (s)) :
    Onward z (State.refreshAnneal s) := by
  unfold State.refreshAnneal
  repeat' first
    | with_reducible intro _
    | with_reducible first
      | assumption | apply State.put_on | apply goodC_foldl | apply goodH_foldl | apply goodT_foldl
      | apply on_foldl | apply on_foldl_fst | apply on_foldl_snd | apply onO_foldl | apply onF_foldl
      | apply onF_map | apply onF_mapO | apply onO_mapF | apply onO_map
    | with_reducible apply goodT_ts
    | with_reducible apply goodC_ts
    | dsimp only

theorem State.guard_on {z : State} (s : State) (i code : Nat) (h_s : Onward z (s)) :
    Onward z (State.guard s i code) := by
  unfold State.guard
  repeat' first
    | with_reducible intro _
    | with_reducible first
      | assumption | apply State.setIsl_on | apply State.setFlag_on | apply goodC_ite | apply goodT_ite
    | simp only [on_mk_iff, goodC_mk_iff, goodH_mk_iff]
    | with_reducible apply goodT_ts
    | with_reducible apply goodC_ts
    | dsimp only

theorem State.annealTrigger_on {z : State} (s : State) (i : Nat) (hot : Int) (h_s : Onward z (s)) :
    Onward z (State.annealTrigger s i hot) := by
  unfold State.annealTrigger
  repeat' first
    | with_reducible intro _
    | with_reducible first
      | assumption | apply onO_some | apply onO_none | apply onF_some | apply onF_none | apply on_ite
      | apply onO_ite | apply State.guard_on | apply State.refreshAnneal_on | apply State.setIsl_on
      | apply goodC_ite | apply goodT_ite | apply onF_map | apply onF_mapO | apply onO_mapF | apply onO_map
    | simp only [on_mk_iff, goodC_mk_iff, goodH_mk_iff]
    | with_reducible apply goodT_ts
    | with_reducible apply goodC_ts
    | dsimp only
    | split
    | (apply on_fst; with_reducible assumption)
    | (apply on_snd; with_reducible assumption)
    | (apply on_someF'; with_reducible assumption)
    | (apply on_some; with_reducible assumption)
    | (apply on_someF; with_reducible assumption)
    | (apply on_next; with_reducible assumption)

theorem State.evaluate_on {z : State} (s : State) (i : Nat) (temps : List (BitVec 8)) (amps : Nat) (h_s : Onward z (s)) :
    Onward z (State.evaluate s i temps amps) := by
  unfold State.evaluate
  repeat' first
    | with_reducible intro _
    | with_reducible first
      | assumption | apply State.annealTrigger_on | apply State.load_on | apply State.slowdown_on
      | apply State.govern_on | apply State.runs_on | apply State.showHot_on
    | with_reducible apply goodT_ts
    | with_reducible apply goodC_ts
    | dsimp only
    | split
    | (apply on_fst; with_reducible assumption)
    | (apply on_snd; with_reducible assumption)
    | (apply on_someF'; with_reducible assumption)

theorem execGovernorEvaluation_on {z : State} (i : Island) (temps : List (BitVec 8)) (amps : Nat) (s : State) (h_s : Onward z (s)) :
    OnwardA z (execGovernorEvaluation i temps amps s) := by
  unfold execGovernorEvaluation
  repeat' first
    | with_reducible intro _
    | with_reducible first
      | assumption | apply onA_next | apply onA_refused | apply onA_ite | apply on_ite | apply onO_ite
      | apply State.evaluate_on
    | with_reducible apply goodT_ts
    | with_reducible apply goodC_ts
    | dsimp only
    | split

theorem execDroopAlarm_on {z : State} (i : Island) (monitor : Fin 8) (s : State) (h_s : Onward z (s)) :
    OnwardA z (execDroopAlarm i monitor s) := by
  unfold execDroopAlarm
  repeat' first
    | with_reducible intro _
    | with_reducible first
      | assumption | apply onA_next | apply onA_refused | apply onA_ite | apply on_ite | apply onO_ite
      | apply State.setIsl_on | apply State.setFlag_on | apply goodC_ite | apply goodT_ite
    | simp only [on_mk_iff, goodC_mk_iff, goodH_mk_iff]
    | with_reducible apply goodT_ts
    | with_reducible apply goodC_ts
    | dsimp only
    | split

theorem execDroopStepDown_on {z : State} (i : Island) (same : Bool) (s : State) (h_s : Onward z (s)) :
    OnwardA z (execDroopStepDown i same s) := by
  unfold execDroopStepDown
  repeat' first
    | with_reducible intro _
    | with_reducible first
      | assumption | apply onA_next | apply onA_refused | apply onA_ite | apply on_ite | apply onO_ite
      | apply State.stepTo_on | apply State.setIsl_on | apply State.inc_on | apply State.bump_on
      | apply State.setFlag_on | apply goodC_ite | apply goodT_ite
    | simp only [on_mk_iff, goodC_mk_iff, goodH_mk_iff]
    | with_reducible apply goodT_ts
    | with_reducible apply goodC_ts
    | dsimp only
    | split

theorem execDroopAlarmClear_on {z : State} (i : Island) (cycles : Nat) (s : State) (h_s : Onward z (s)) :
    OnwardA z (execDroopAlarmClear i cycles s) := by
  unfold execDroopAlarmClear
  repeat' first
    | with_reducible intro _
    | with_reducible first
      | assumption | apply onA_next | apply onA_refused | apply onA_ite | apply on_ite | apply onO_ite
      | apply State.setIsl_on | apply State.bump_on | apply State.setFlag_on | apply goodC_ite | apply goodT_ite
    | simp only [on_mk_iff, goodC_mk_iff, goodH_mk_iff]
    | with_reducible apply goodT_ts
    | with_reducible apply goodC_ts
    | dsimp only
    | split

theorem execHubTideLoRead_on {z : State} (s : State) (h_s : Onward z (s)) :
    OnwardA z (execHubTideLoRead s) := by
  unfold execHubTideLoRead
  repeat' first
    | with_reducible intro _
    | with_reducible first
      | assumption | apply onA_next | apply onA_refused | apply State.emit_on | apply State.put_on
    | with_reducible apply goodT_ts
    | with_reducible apply goodC_ts
    | dsimp only

theorem execTideSyncEdge_on {z : State} (s : State) (h_s : Onward z (s)) :
    OnwardA z (execTideSyncEdge s) := by
  unfold execTideSyncEdge
  apply onA_next
  split
  · split
    · exact State.setFlag_on _ _ _ (State.setFlag_on _ _ _ h_s)
    · exact h_s
  · exact h_s

theorem State.atTick_on {z : State} (s : State) (t : DWord) (h_s : Onward z (s)) :
    Onward z (State.atTick s t) := by
  unfold State.atTick
  split
  · rename_i h
    refine ⟨h_s.1, h_s.2.1, h_s.2.2.1, h_s.2.2.2.1, ?_, h_s.mem⟩
    rcases h_s.2.2.2.2.1 with g | g
    · exact .inl g
    · exact .inr (le_trans g (Nat.le_of_lt h))
  · exact h_s

theorem execFenceCompletion_on {z : State} (c : LCore) (s : State) (h_s : Onward z (s)) :
    OnwardA z (execFenceCompletion c s) := by
  unfold execFenceCompletion
  repeat' first
    | with_reducible intro _
    | with_reducible first
      | assumption | apply onA_next | apply onA_refused | apply onA_ite | apply onO_some | apply onO_none
      | apply onF_some | apply onF_none | apply on_ite | apply onO_ite | apply State.setCore_on
      | apply State.core_on | apply goodC_ite | apply goodT_ite | apply goodC_foldl | apply goodH_foldl
      | apply goodT_foldl | apply on_foldl | apply on_foldl_fst | apply on_foldl_snd | apply onO_foldl
      | apply onF_foldl
    | simp only [on_mk_iff, goodC_mk_iff, goodH_mk_iff]
    | with_reducible apply goodT_ts
    | with_reducible apply goodC_ts
    | dsimp only
    | split
    | (apply on_fst; with_reducible assumption)
    | (apply on_snd; with_reducible assumption)
    | (apply on_someF'; with_reducible assumption)
    | (apply on_some; with_reducible assumption)
    | (apply on_someF; with_reducible assumption)
    | (apply on_next; with_reducible assumption)

theorem execFenceNoticeArrival_on {z : State} (c : LCore) (s : State) (h_s : Onward z (s)) :
    OnwardA z (execFenceNoticeArrival c s) := by
  unfold execFenceNoticeArrival
  repeat' first
    | with_reducible intro _
    | with_reducible first
      | assumption | apply onA_next | apply onA_refused | apply onO_some | apply onO_none | apply onF_some
      | apply onF_none | apply State.setCore_on | apply State.core_on | apply goodC_ite | apply goodT_ite
    | simp only [on_mk_iff, goodC_mk_iff, goodH_mk_iff]
    | with_reducible apply goodT_ts
    | with_reducible apply goodC_ts
    | dsimp only
    | split
    | (apply on_fst; with_reducible assumption)
    | (apply on_snd; with_reducible assumption)
    | (apply on_someF'; with_reducible assumption)
    | (apply on_some; with_reducible assumption)
    | (apply on_someF; with_reducible assumption)
    | (apply on_next; with_reducible assumption)

end Sys2Proof.Machine
end

