-- ==== Sys2Proof/Laws/OnPorts.lean ====
section
/-! SUPPORT. What each operation of Machine/Ports.lean leaves in order. -/

namespace Sys2Proof.Machine

theorem State.wire_on {z : State} (s : State) (p type seq : Nat) (hdr body : List Byte) (h_s : Onward z (s)) :
    Onward z (State.wire s p type seq hdr body) := by
  unfold State.wire
  repeat' first
    | with_reducible intro _
    | with_reducible first
      | assumption | apply State.emit_on | apply onF_map | apply onF_mapO | apply onO_mapF | apply onO_map
    | with_reducible apply goodT_ts
    | with_reducible apply goodC_ts
    | dsimp only

theorem State.wireData_on {z : State} (s : State) (p : Nat) (x : PortSt) (f : Flit) (h_s : Onward z (s)) :
    Onward z (State.wireData s p x f) := by
  unfold State.wireData
  repeat' first
    | with_reducible intro _
    | with_reducible first
      | assumption | apply State.wire_on
    | with_reducible apply goodT_ts
    | with_reducible apply goodC_ts
    | dsimp only

theorem State.toTrain_on {z : State} (s : State) (p : Nat) (h_s : Onward z (s)) :
    Onward z (State.toTrain s p) := by
  unfold State.toTrain
  repeat' first
    | with_reducible intro _
    | with_reducible first
      | assumption | apply State.portTo_on | apply State.setPort_on | apply goodC_ite | apply goodT_ite
    | simp only [on_mk_iff, goodC_mk_iff, goodH_mk_iff]
    | with_reducible apply goodT_ts
    | with_reducible apply goodC_ts
    | dsimp only

theorem execTrain_on {z : State} (p : Port) (ep : Endpoint) (nport : Port) (width : Fin 4) (epoch : BitVec 16) (alias_ : Option Endpoint) (refusal : Bool) (reason : Fin 64) (s : State) (h_s : Onward z (s)) :
    OnwardA z (execTrain p ep nport width epoch alias_ refusal reason s) := by
  unfold execTrain
  repeat' first
    | with_reducible intro _
    | with_reducible first
      | assumption | apply onA_next | apply onA_refused | apply onA_ite | apply onO_some | apply onO_none
      | apply onF_some | apply onF_none | apply on_ite | apply onO_ite | apply State.setPort_on | apply goodC_ite
      | apply goodT_ite | apply onF_map | apply onF_mapO | apply onO_mapF | apply onO_map
    | simp only [on_mk_iff, goodC_mk_iff, goodH_mk_iff]
    | with_reducible apply goodT_ts
    | with_reducible apply goodC_ts
    | dsimp only
    | split

theorem State.relax_on {z : State} (s : State) (v : Nat) (h_s : Onward z (s)) :
    Onward z (State.relax s v) := by
  unfold State.relax
  repeat' first
    | with_reducible intro _
    | with_reducible first
      | assumption | apply onO_some | apply onO_none | apply onF_some | apply onF_none | apply on_ite
      | apply onO_ite | apply State.setTopo_on | apply goodC_ite | apply goodT_ite
    | simp only [on_mk_iff, goodC_mk_iff, goodH_mk_iff]
    | with_reducible apply goodT_ts
    | with_reducible apply goodC_ts
    | dsimp only
    | split
    | (apply on_fst; with_reducible assumption)
    | (apply on_snd; with_reducible assumption)
    | (apply on_someF'; with_reducible assumption)
    | (apply on_some; with_reducible assumption)
    | (apply on_someF; with_reducible assumption)
    | (apply on_next; with_reducible assumption)

theorem State.portBack_on {z : State} (s : State) (p : Nat) (h_s : Onward z (s)) :
    Onward z (State.portBack s p) := by
  unfold State.portBack
  repeat' first
    | with_reducible intro _
    | with_reducible first
      | assumption | apply on_ite | apply onO_ite | apply State.relax_on | apply State.setTopo_on | apply goodC_ite
      | apply goodT_ite | apply goodC_foldl | apply goodH_foldl | apply goodT_foldl | apply on_foldl
      | apply on_foldl_fst | apply on_foldl_snd | apply onO_foldl | apply onF_foldl | apply on_getD
      | apply on_getD_fst
    | simp only [on_mk_iff, goodC_mk_iff, goodH_mk_iff]
    | with_reducible apply goodT_ts
    | with_reducible apply goodC_ts
    | dsimp only
    | split

theorem State.trained_on {z : State} (s : State) (p width rtt : Nat) (r : TrainRec) (h_s : Onward z (s)) :
    Onward z (State.trained s p width rtt r) := by
  unfold State.trained
  repeat' first
    | with_reducible intro _
    | with_reducible first
      | assumption | apply State.portBack_on | apply State.portTo_on | apply State.setPort_on
      | apply State.setFlag_on | apply State.put_on | apply goodC_ite | apply goodT_ite
    | simp only [on_mk_iff, goodC_mk_iff, goodH_mk_iff]
    | with_reducible apply goodT_ts
    | with_reducible apply goodC_ts
    | dsimp only

theorem State.trainFailed_on {z : State} (s : State) (p reason : Nat) (h_s : Onward z (s)) :
    Onward z (State.trainFailed s p reason) := by
  unfold State.trainFailed
  repeat' first
    | with_reducible intro _
    | with_reducible first
      | assumption | apply onO_some | apply onO_none | apply onF_some | apply onF_none | apply on_ite
      | apply onO_ite | apply State.portTo_on | apply State.setPort_on | apply State.setFlag_on | apply goodC_ite
      | apply goodT_ite
    | simp only [on_mk_iff, goodC_mk_iff, goodH_mk_iff]
    | with_reducible apply goodT_ts
    | with_reducible apply goodC_ts
    | dsimp only
    | split
    | (apply on_fst; with_reducible assumption)
    | (apply on_snd; with_reducible assumption)
    | (apply on_someF'; with_reducible assumption)
    | (apply on_some; with_reducible assumption)
    | (apply on_someF; with_reducible assumption)
    | (apply on_next; with_reducible assumption)

theorem execPortTrainingComplete_on {z : State} (p : Port) (signal : Bool) (width : Fin 4) (rtt ms : Nat) (s : State) (h_s : Onward z (s)) :
    OnwardA z (execPortTrainingComplete p signal width rtt ms s) := by
  unfold execPortTrainingComplete
  repeat' first
    | with_reducible intro _
    | with_reducible first
      | assumption | apply onA_next | apply onA_refused | apply onA_ite | apply onO_some | apply onO_none
      | apply onF_some | apply onF_none | apply on_ite | apply onO_ite | apply State.trainFailed_on
      | apply State.trained_on | apply State.put_on | apply goodC_ite | apply goodT_ite
    | simp only [on_mk_iff, goodC_mk_iff, goodH_mk_iff]
    | with_reducible apply goodT_ts
    | with_reducible apply goodC_ts
    | dsimp only
    | split
    | (apply on_fst; with_reducible assumption)
    | (apply on_snd; with_reducible assumption)
    | (apply on_someF'; with_reducible assumption)
    | (apply on_some; with_reducible assumption)
    | (apply on_someF; with_reducible assumption)
    | (apply on_next; with_reducible assumption)

theorem execTrainRetry_on {z : State} (p : Port) (s : State) (h_s : Onward z (s)) :
    OnwardA z (execTrainRetry p s) := by
  unfold execTrainRetry
  repeat' first
    | with_reducible intro _
    | with_reducible first
      | assumption | apply onA_next | apply onA_refused | apply onA_ite | apply on_ite | apply onO_ite
      | apply State.toTrain_on
    | with_reducible apply goodT_ts
    | with_reducible apply goodC_ts
    | dsimp only
    | split

theorem State.retrain_on {z : State} (s : State) (p : Nat) (h_s : Onward z (s)) :
    Onward z (State.retrain s p) := by
  unfold State.retrain
  repeat' first
    | with_reducible intro _
    | with_reducible first
      | assumption | apply State.toTrain_on | apply State.portTo_on | apply State.inc_on
    | with_reducible apply goodT_ts
    | with_reducible apply goodC_ts
    | dsimp only

theorem execPortRetrain_on {z : State} (p : Port) (cause : Fin 3) (s : State) (h_s : Onward z (s)) :
    OnwardA z (execPortRetrain p cause s) := by
  unfold execPortRetrain
  repeat' first
    | with_reducible intro _
    | with_reducible first
      | assumption | apply onA_next | apply onA_refused | apply onA_ite | apply on_ite | apply onO_ite
      | apply State.retrain_on
    | with_reducible apply goodT_ts
    | with_reducible apply goodC_ts
    | dsimp only
    | split

theorem execFullTrain_on {z : State} (p : Port) (s : State) (h_s : Onward z (s)) :
    OnwardA z (execFullTrain p s) := by
  unfold execFullTrain
  repeat' first
    | with_reducible intro _
    | with_reducible first
      | assumption | apply onA_next | apply onA_refused | apply State.setFlag_on
    | with_reducible apply goodT_ts
    | with_reducible apply goodC_ts
    | dsimp only

theorem State.unfence_on {z : State} (s : State) (p : Nat) (h_s : Onward z (s)) :
    Onward z (State.unfence s p) := by
  unfold State.unfence
  repeat' first
    | with_reducible intro _
    | with_reducible first
      | assumption | apply on_ite | apply onO_ite | apply State.toTrain_on | apply State.portTo_on
      | apply State.setPort_on
    | with_reducible apply goodT_ts
    | with_reducible apply goodC_ts
    | dsimp only
    | split

theorem execClrFence_on {z : State} (p : Port) (s : State) (h_s : Onward z (s)) :
    OnwardA z (execClrFence p s) := by
  unfold execClrFence
  repeat' first
    | with_reducible intro _
    | with_reducible first
      | assumption | apply onA_next | apply onA_refused | apply State.unfence_on
    | with_reducible apply goodT_ts
    | with_reducible apply goodC_ts
    | dsimp only

theorem State.enablePort_on {z : State} (s : State) (p : Nat) (on : Bool) (h_s : Onward z (s)) :
    Onward z (State.enablePort s p on) := by
  unfold State.enablePort
  repeat' first
    | with_reducible intro _
    | with_reducible first
      | assumption | apply on_ite | apply onO_ite | apply State.toTrain_on | apply State.portTo_on
      | apply State.setPort_on | apply State.setFlag_on
    | with_reducible apply goodT_ts
    | with_reducible apply goodC_ts
    | dsimp only
    | split

theorem execPortEnable_on {z : State} (p : Port) (on : Bool) (s : State) (h_s : Onward z (s)) :
    OnwardA z (execPortEnable p on s) := by
  unfold execPortEnable
  repeat' first
    | with_reducible intro _
    | with_reducible first
      | assumption | apply onA_next | apply onA_refused | apply State.enablePort_on
    | with_reducible apply goodT_ts
    | with_reducible apply goodC_ts
    | dsimp only

theorem execIdleFlit_on {z : State} (p : Port) (ack : BitVec 12) (s : State) (h_s : Onward z (s)) :
    OnwardA z (execIdleFlit p ack s) := by
  unfold execIdleFlit
  repeat' first
    | with_reducible intro _
    | with_reducible first
      | assumption | apply onA_next | apply onA_refused | apply onA_ite | apply on_ite | apply onO_ite
      | apply State.setPort_on
    | with_reducible apply goodT_ts
    | with_reducible apply goodC_ts
    | dsimp only
    | split

theorem execNak_on {z : State} (p : Port) (seq ack : BitVec 12) (s : State) (h_s : Onward z (s)) :
    OnwardA z (execNak p seq ack s) := by
  unfold execNak
  repeat' first
    | with_reducible intro _
    | with_reducible first
      | assumption | apply onA_next | apply onA_refused | apply onA_ite | apply on_ite | apply onO_ite
      | apply State.setPort_on | apply State.inc_on
    | with_reducible apply goodT_ts
    | with_reducible apply goodC_ts
    | dsimp only
    | split

theorem execReplayTimeout_on {z : State} (p : Port) (same : Bool) (s : State) (h_s : Onward z (s)) :
    OnwardA z (execReplayTimeout p same s) := by
  unfold execReplayTimeout
  repeat' first
    | with_reducible intro _
    | with_reducible first
      | assumption | apply onA_next | apply onA_refused | apply onA_ite | apply on_ite | apply onO_ite
      | apply State.setPort_on | apply State.inc_on | apply goodC_ite | apply goodT_ite
    | simp only [on_mk_iff, goodC_mk_iff, goodH_mk_iff]
    | with_reducible apply goodT_ts
    | with_reducible apply goodC_ts
    | dsimp only
    | split
    | (apply on_fst; with_reducible assumption)
    | (apply on_snd; with_reducible assumption)
    | (apply on_someF'; with_reducible assumption)
    | (apply on_some; with_reducible assumption)
    | (apply on_someF; with_reducible assumption)
    | (apply on_next; with_reducible assumption)

theorem execCredit_on {z : State} (p : Port) (vc : Fin 3) (cls : Bool) (n : BitVec 16) (ack : BitVec 12) (s : State) (h_s : Onward z (s)) :
    OnwardA z (execCredit p vc cls n ack s) := by
  unfold execCredit
  repeat' first
    | with_reducible intro _
    | with_reducible first
      | assumption | apply onA_next | apply onA_refused | apply onA_ite | apply on_ite | apply onO_ite
      | apply State.setPort_on | apply goodC_ite | apply goodT_ite
    | simp only [on_mk_iff, goodC_mk_iff, goodH_mk_iff]
    | with_reducible apply goodT_ts
    | with_reducible apply goodC_ts
    | dsimp only
    | split

theorem execDataFlitReceive_on {z : State} (p : Port) (seq ack : BitVec 12) (vc : Fin 3) (dl : Bool) (s : State) (h_s : Onward z (s)) :
    OnwardA z (execDataFlitReceive p seq ack vc dl s) := by
  unfold execDataFlitReceive
  repeat' first
    | with_reducible intro _
    | with_reducible first
      | assumption | apply onA_next | apply onA_refused | apply onA_ite | apply onO_some | apply onO_none
      | apply onF_some | apply onF_none | apply on_ite | apply onO_ite | apply State.setPort_on
      | apply State.inc_on | apply goodC_ite | apply goodT_ite
    | simp only [on_mk_iff, goodC_mk_iff, goodH_mk_iff]
    | with_reducible apply goodT_ts
    | with_reducible apply goodC_ts
    | dsimp only
    | split

theorem execBadFlit_on {z : State} (p : Port) (s : State) (h_s : Onward z (s)) :
    OnwardA z (execBadFlit p s) := by
  unfold execBadFlit
  repeat' first
    | with_reducible intro _
    | with_reducible first
      | assumption | apply onA_next | apply onA_refused | apply onA_ite | apply on_ite | apply onO_ite
      | apply State.setPort_on | apply State.inc_on
    | with_reducible apply goodT_ts
    | with_reducible apply goodC_ts
    | dsimp only
    | split

theorem execNakRepeat_on {z : State} (p : Port) (s : State) (h_s : Onward z (s)) :
    OnwardA z (execNakRepeat p s) := by
  unfold execNakRepeat
  repeat' first
    | with_reducible intro _
    | with_reducible first
      | assumption | apply onA_next | apply onA_refused | apply onA_ite | apply onO_some | apply onO_none
      | apply onF_some | apply onF_none | apply on_ite | apply onO_ite | apply State.setPort_on
    | with_reducible apply goodT_ts
    | with_reducible apply goodC_ts
    | dsimp only
    | split

theorem State.sendNew_on {z : State} (s : State) (p : Nat) (x : PortSt) (i : Nat) (h_s : Onward z (s)) :
    Onward z (State.sendNew s p x i) := by
  unfold State.sendNew
  repeat' first
    | with_reducible intro _
    | with_reducible first
      | assumption | apply onO_some | apply onO_none | apply onF_some | apply onF_none | apply State.wireData_on
      | apply State.setPort_on | apply goodC_ite | apply goodT_ite
    | simp only [on_mk_iff, goodC_mk_iff, goodH_mk_iff]
    | with_reducible apply goodT_ts
    | with_reducible apply goodC_ts
    | dsimp only
    | split
    | (apply on_fst; with_reducible assumption)
    | (apply on_snd; with_reducible assumption)
    | (apply on_someF'; with_reducible assumption)
    | (apply on_some; with_reducible assumption)
    | (apply on_someF; with_reducible assumption)
    | (apply on_next; with_reducible assumption)

theorem State.flitSlot_on {z : State} (s : State) (p : Nat) (h_s : Onward z (s)) :
    Onward z (State.flitSlot s p) := by
  unfold State.flitSlot
  repeat' first
    | with_reducible intro _
    | with_reducible first
      | assumption | apply onO_some | apply onO_none | apply onF_some | apply onF_none | apply on_ite
      | apply onO_ite | apply State.replay_on | apply State.sendNew_on | apply State.wireData_on
      | apply State.wire_on | apply State.setPort_on | apply goodC_ite | apply goodT_ite | apply onF_map
      | apply onF_mapO | apply onO_mapF | apply onO_map
    | simp only [on_mk_iff, goodC_mk_iff, goodH_mk_iff]
    | with_reducible apply goodT_ts
    | with_reducible apply goodC_ts
    | dsimp only
    | split
    | (apply on_fst; with_reducible assumption)
    | (apply on_snd; with_reducible assumption)
    | (apply on_someF'; with_reducible assumption)
    | (apply on_some; with_reducible assumption)
    | (apply on_someF; with_reducible assumption)
    | (apply on_next; with_reducible assumption)

theorem execFlitSend_on {z : State} (p : Port) (s : State) (h_s : Onward z (s)) :
    OnwardA z (execFlitSend p s) := by
  unfold execFlitSend
  repeat' first
    | with_reducible intro _
    | with_reducible first
      | assumption | apply onA_next | apply onA_refused | apply State.flitSlot_on
    | with_reducible apply goodT_ts
    | with_reducible apply goodC_ts
    | dsimp only

theorem execTimeExchange_on {z : State} (t1 : Word) (s : State) (h_s : Onward z (s)) :
    OnwardA z (execTimeExchange t1 s) := by
  unfold execTimeExchange
  repeat' first
    | with_reducible intro _
    | with_reducible first
      | assumption | apply onA_next | apply onA_refused | apply onA_ite | apply on_ite | apply onO_ite
      | apply State.setPort_on
    | with_reducible apply goodT_ts
    | with_reducible apply goodC_ts
    | dsimp only
    | split

theorem execTimeReq_on {z : State} (p : Port) (t1 t2 t3 : Word) (s : State) (h_s : Onward z (s)) :
    OnwardA z (execTimeReq p t1 t2 t3 s) := by
  unfold execTimeReq
  repeat' first
    | with_reducible intro _
    | with_reducible first
      | assumption | apply onA_next | apply onA_refused | apply onA_ite | apply on_ite | apply onO_ite
      | apply State.setPort_on
    | with_reducible apply goodT_ts
    | with_reducible apply goodC_ts
    | dsimp only
    | split

theorem State.offsetTo_on {z : State} (s : State) (v : Int) (d : Nat) (h_s : Onward z (s)) :
    Onward z (State.offsetTo s v d) := by
  have e (x : State) (n : Nat) (h : Onward z x) :
      Onward z { x.put RVR_TIME_STATUS_DEPTH n with tide := { x.tide with toGo := v } } := by
    have g := State.put_on x RVR_TIME_STATUS_DEPTH n h
    exact ⟨g.1, g.2.1, g.2.2.1, g.2.2.2.1, h.2.2.2.2⟩
  unfold State.offsetTo
  exact e _ _ (State.setFlag_on _ _ _ (State.setFlag_on _ _ _ (State.setFlag_on _ _ _ (State.setFlag_on _ _ _
    (State.put_on _ _ _ h_s)))))

theorem execTimeRsp_on {z : State} (p : Port) (depth : BitVec 8) (t1 t2 t3 t4 : Word) (offset : BitVec 16) (s : State) (h_s : Onward z (s)) :
    OnwardA z (execTimeRsp p depth t1 t2 t3 t4 offset s) := by
  unfold execTimeRsp
  repeat' first
    | with_reducible intro _
    | with_reducible first
      | assumption | apply onA_next | apply onA_refused | apply onA_ite | apply on_ite | apply onO_ite
      | apply State.offsetTo_on | apply goodC_ite | apply goodT_ite | apply goodC_foldl | apply goodH_foldl
      | apply goodT_foldl | apply on_foldl | apply on_foldl_fst | apply on_foldl_snd | apply onO_foldl
      | apply onF_foldl
    | simp only [on_mk_iff, goodC_mk_iff, goodH_mk_iff]
    | with_reducible apply goodT_ts
    | with_reducible apply goodC_ts
    | dsimp only
    | split

end Sys2Proof.Machine
end

