-- ==== Sys2Proof/Laws/OnFabric.lean ====
section
/-! SUPPORT. What each operation of Machine/Fabric.lean leaves in order. -/

namespace Sys2Proof.Machine

theorem State.absorbed_on {z : State} (s : State) (h_s : Onward z (s)) :
    Onward z (State.absorbed s) := by
  unfold State.absorbed
  repeat' first
    | with_reducible intro _
    | with_reducible first
      | assumption | apply State.inc_on
    | with_reducible apply goodT_ts
    | with_reducible apply goodC_ts
    | dsimp only

theorem State.arrive_on {z : State} (s : State) (src vc id : Nat) (run : State → State × Option Nat) (h_s : Onward z (s)) (h_run : ∀ x0, Onward z (x0) → Onward z (run x0).1) :
    Onward z (State.arrive s src vc id run) := by
  unfold State.arrive
  repeat' first
    | with_reducible intro _
    | with_reducible first
      | assumption | apply onO_some | apply onO_none | apply onF_some | apply onF_none | apply on_ite
      | apply onO_ite | apply h_run | apply State.absorbed_on | apply State.sendEack_on | apply State.inc_on
      | apply goodC_ite | apply goodT_ite | apply onF_map | apply onF_mapO | apply onO_mapF | apply onO_map
    | simp only [on_mk_iff, goodC_mk_iff, goodH_mk_iff]
    | with_reducible apply goodT_ts
    | with_reducible apply goodC_ts
    | dsimp only
    | split
    | (apply on_fst; with_reducible assumption)
    | (apply on_snd; with_reducible assumption)
    | (apply on_someF'; with_reducible assumption)
    | (apply on_some; with_reducible assumption)
    | (apply on_someF; with_reducible assumption)
    | (apply on_next; with_reducible assumption)

theorem State.landLeaf_on {z : State} (s : State) (leaf : Nat) (key : BitVec 12) (off : Nat) (sink : Option (Nat × Nat)) (gs : List Granule) (h_s : Onward z (s)) :
    Onward z (State.landLeaf s leaf key off sink gs).1 := by
  unfold State.landLeaf
  repeat' first
    | with_reducible intro _
    | with_reducible first
      | assumption | apply onO_some | apply onO_none | apply onF_some | apply onF_none | apply on_ite
      | apply onO_ite | apply State.creditWrite_on | apply State.windowWrite_on | apply State.ringFill_on
      | apply State.countAbsorb_on | apply State.core_on | apply goodC_ite | apply goodT_ite | apply on_getD
      | apply on_getD_fst
    | simp only [on_mk_iff, goodC_mk_iff, goodH_mk_iff]
    | with_reducible apply goodT_ts
    | with_reducible apply goodC_ts
    | dsimp only
    | split
    | (apply on_fst; with_reducible assumption)
    | (apply on_snd; with_reducible assumption)
    | (apply on_someF'; with_reducible assumption)
    | (apply on_some; with_reducible assumption)
    | (apply on_someF; with_reducible assumption)
    | (apply on_next; with_reducible assumption)

theorem State.landWrite_on {z : State} (s : State) (leaves : List Nat) (key : BitVec 12) (off : Nat) (sink : Option (Nat × Nat)) (gs : List Granule) (h_s : Onward z (s)) :
    Onward z (State.landWrite s leaves key off sink gs).1 := by
  unfold State.landWrite
  repeat' first
    | with_reducible intro _
    | with_reducible first
      | assumption | apply State.landLeaf_on | apply goodC_foldl | apply goodH_foldl | apply goodT_foldl
      | apply on_foldl | apply on_foldl_fst | apply on_foldl_snd | apply onO_foldl | apply onF_foldl
    | with_reducible apply goodT_ts
    | with_reducible apply goodC_ts
    | dsimp only
    | split
    | (apply on_fst; with_reducible assumption)
    | (apply on_snd; with_reducible assumption)
    | (apply on_someF'; with_reducible assumption)

theorem State.landPacket_on {z : State} (s : State) (leaves : List Nat) (src v : Nat) (gs : List Granule) (h_s : Onward z (s)) :
    OnwardF z (State.landPacket s leaves src v gs) := by
  unfold State.landPacket
  repeat' first
    | with_reducible intro _
    | with_reducible first
      | assumption | apply onO_some | apply onO_none | apply onF_some | apply onF_none | apply on_ite
      | apply onO_ite | apply State.fifoDone_on | apply State.countAbsorb_on | apply goodC_ite | apply goodT_ite
      | apply goodC_foldl | apply goodH_foldl | apply goodT_foldl | apply on_foldl | apply on_foldl_fst
      | apply on_foldl_snd | apply onO_foldl | apply onF_foldl
    | simp only [on_mk_iff, goodC_mk_iff, goodH_mk_iff]
    | with_reducible apply goodT_ts
    | with_reducible apply goodC_ts
    | dsimp only
    | split

theorem State.holdPacket_on {z : State} (s : State) (leaves : List Nat) (src v n : Nat) (h_s : Onward z (s)) :
    Onward z (State.holdPacket s leaves src v n) := by
  unfold State.holdPacket
  repeat' first
    | with_reducible intro _
    | with_reducible first
      | assumption | apply on_ite | apply onO_ite | apply State.setFifo_on | apply goodC_foldl | apply goodH_foldl
      | apply goodT_foldl | apply on_foldl | apply on_foldl_fst | apply on_foldl_snd | apply onO_foldl
      | apply onF_foldl
    | with_reducible apply goodT_ts
    | with_reducible apply goodC_ts
    | dsimp only
    | split

theorem State.spool_on {z : State} (s : State) (p : Nat) (m : Spooled) (h_s : Onward z (s)) :
    Onward z (State.spool s p m).1 := by
  unfold State.spool
  repeat' first
    | with_reducible intro _
    | with_reducible first
      | assumption | apply onO_some | apply onO_none | apply onF_some | apply onF_none | apply on_ite
      | apply onO_ite | apply State.absorbed_on | apply State.inc_on | apply goodC_ite | apply goodT_ite
      | apply goodC_foldl | apply goodH_foldl | apply goodT_foldl | apply on_foldl | apply on_foldl_fst
      | apply on_foldl_snd | apply onO_foldl | apply onF_foldl | apply onF_map | apply onF_mapO | apply onO_mapF
      | apply onO_map
    | simp only [on_mk_iff, goodC_mk_iff, goodH_mk_iff]
    | with_reducible apply goodT_ts
    | with_reducible apply goodC_ts
    | dsimp only
    | split
    | (apply on_fst; with_reducible assumption)
    | (apply on_snd; with_reducible assumption)
    | (apply on_someF'; with_reducible assumption)
    | (apply on_some; with_reducible assumption)
    | (apply on_someF; with_reducible assumption)
    | (apply on_next; with_reducible assumption)

theorem State.writeIn_on {z : State} (s : State) (src : Nat) (key : BitVec 12) (v id off : Nat) (sink : Option (Nat × Nat)) (gs : List Granule) (h_s : Onward z (s)) :
    Onward z (State.writeIn s src key v id off sink gs).1 := by
  unfold State.writeIn
  repeat' first
    | with_reducible intro _
    | with_reducible first
      | assumption | apply onO_some | apply onO_none | apply onF_some | apply onF_none | apply on_ite
      | apply onO_ite | apply State.spool_on | apply State.landWrite_on | apply State.absorbed_on
      | apply State.writeObj_on | apply goodC_ite | apply goodT_ite
    | simp only [on_mk_iff, goodC_mk_iff, goodH_mk_iff]
    | with_reducible apply goodT_ts
    | with_reducible apply goodC_ts
    | dsimp only
    | split
    | (apply on_fst; with_reducible assumption)
    | (apply on_snd; with_reducible assumption)
    | (apply on_someF'; with_reducible assumption)
    | (apply on_some; with_reducible assumption)
    | (apply on_someF; with_reducible assumption)
    | (apply on_next; with_reducible assumption)

theorem execWrite_on {z : State} (src : Endpoint) (key vroute : BitVec 12) (id : BitVec 16) (offset : Word) (sink : Option (Slot × Ring)) (grans : List Granule) (s : State) (h_s : Onward z (s)) :
    OnwardA z (execWrite src key vroute id offset sink grans s) := by
  unfold execWrite
  repeat' first
    | with_reducible intro _
    | with_reducible first
      | assumption | apply onA_next | apply onA_refused | apply onO_some | apply onO_none | apply onF_some
      | apply onF_none | apply State.writeIn_on | apply State.arrive_on | apply onF_map | apply onF_mapO
      | apply onO_mapF | apply onO_map
    | with_reducible apply goodT_ts
    | with_reducible apply goodC_ts
    | dsimp only
    | split
    | (apply on_fst; with_reducible assumption)
    | (apply on_snd; with_reducible assumption)
    | (apply on_someF'; with_reducible assumption)

theorem State.packetIn_on {z : State} (s : State) (src : Nat) (key : BitVec 12) (v id : Nat) (gs : List Granule) (h_s : Onward z (s)) :
    Onward z (State.packetIn s src key v id gs).1 := by
  unfold State.packetIn
  repeat' first
    | with_reducible intro _
    | with_reducible first
      | assumption | apply onO_some | apply onO_none | apply onF_some | apply onF_none | apply on_ite
      | apply onO_ite | apply State.spool_on | apply State.holdPacket_on | apply State.landPacket_on
      | apply State.absorbed_on | apply goodC_ite | apply goodT_ite
    | simp only [on_mk_iff, goodC_mk_iff, goodH_mk_iff]
    | with_reducible apply goodT_ts
    | with_reducible apply goodC_ts
    | dsimp only
    | split
    | (apply on_fst; with_reducible assumption)
    | (apply on_snd; with_reducible assumption)
    | (apply on_someF'; with_reducible assumption)
    | (apply on_some; with_reducible assumption)
    | (apply on_someF; with_reducible assumption)
    | (apply on_next; with_reducible assumption)

theorem execPacket_on {z : State} (src : Endpoint) (key vroute : BitVec 12) (id : BitVec 16) (grans : List Granule) (s : State) (h_s : Onward z (s)) :
    OnwardA z (execPacket src key vroute id grans s) := by
  unfold execPacket
  repeat' first
    | with_reducible intro _
    | with_reducible first
      | assumption | apply onA_next | apply onA_refused | apply State.packetIn_on | apply State.arrive_on
    | with_reducible apply goodT_ts
    | with_reducible apply goodC_ts
    | dsimp only

theorem State.drained_on {z : State} (s : State) (h_s : Onward z (s)) :
    Onward z (State.drained s) := by
  unfold State.drained
  repeat' first
    | with_reducible intro _
    | with_reducible first
      | assumption | apply on_ite | apply onO_ite | apply State.put_on
    | with_reducible apply goodT_ts
    | with_reducible apply goodC_ts
    | dsimp only
    | split

theorem State.settleSent_on {z : State} (s : State) (who : RSender) (m : RMsg) (done : Bool) (h_s : Onward z (s)) :
    Onward z (State.settleSent s who m done) := by
  unfold State.settleSent
  repeat' first
    | with_reducible intro _
    | with_reducible first
      | assumption | apply on_ite | apply onO_ite | apply State.endXfer_on | apply State.undelivered_on
      | apply State.fetchLost_on | apply State.packetDone_on | apply State.core_on | apply goodC_ite
      | apply goodT_ite
    | simp only [on_mk_iff, goodC_mk_iff, goodH_mk_iff]
    | with_reducible apply goodT_ts
    | with_reducible apply goodC_ts
    | dsimp only
    | split
    | (apply on_fst; with_reducible assumption)
    | (apply on_snd; with_reducible assumption)
    | (apply on_someF'; with_reducible assumption)
    | (apply on_some; with_reducible assumption)
    | (apply on_someF; with_reducible assumption)
    | (apply on_next; with_reducible assumption)

theorem execEack_on {z : State} (src : Endpoint) (vc : Fin 3) (id : BitVec 16) (done : Bool) (s : State) (h_s : Onward z (s)) :
    OnwardA z (execEack src vc id done s) := by
  unfold execEack
  repeat' first
    | with_reducible intro _
    | with_reducible first
      | assumption | apply onA_next | apply onA_refused | apply onO_some | apply onO_none | apply onF_some
      | apply onF_none | apply State.settleSent_on | apply State.drained_on | apply State.relax_on
      | apply goodC_ite | apply goodT_ite
    | simp only [on_mk_iff, goodC_mk_iff, goodH_mk_iff]
    | with_reducible apply goodT_ts
    | with_reducible apply goodC_ts
    | dsimp only
    | split
    | (apply on_fst; with_reducible assumption)
    | (apply on_snd; with_reducible assumption)
    | (apply on_someF'; with_reducible assumption)
    | (apply on_some; with_reducible assumption)
    | (apply on_someF; with_reducible assumption)
    | (apply on_next; with_reducible assumption)

theorem execEackTimeout_on {z : State} (dest : Endpoint) (vc : Fin 3) (id : BitVec 16) (s : State) (h_s : Onward z (s)) :
    OnwardA z (execEackTimeout dest vc id s) := by
  unfold execEackTimeout
  repeat' first
    | with_reducible intro _
    | with_reducible first
      | assumption | apply onA_next | apply onA_refused | apply onA_ite | apply on_ite | apply onO_ite
      | apply State.markFailed_on
    | with_reducible apply goodT_ts
    | with_reducible apply goodC_ts
    | dsimp only
    | split

theorem execRouteFail_on {z : State} (route : DWord) (_hop : Fin 16) (s : State) (h_s : Onward z (s)) :
    OnwardA z (execRouteFail route _hop s) := by
  unfold execRouteFail
  repeat' first
    | with_reducible intro _
    | with_reducible first
      | assumption | apply onA_next | apply onA_refused | apply onA_ite | apply on_ite | apply onO_ite
      | apply State.markFailed_on | apply goodC_foldl | apply goodH_foldl | apply goodT_foldl | apply on_foldl
      | apply on_foldl_fst | apply on_foldl_snd | apply onO_foldl | apply onF_foldl | apply on_getD
      | apply on_getD_fst
    | with_reducible apply goodT_ts
    | with_reducible apply goodC_ts
    | dsimp only
    | split

theorem State.sendMgt_on {z : State} (s : State) (dest subtype : Nat) (bytes : List Byte) (h_s : Onward z (s)) :
    Onward z (State.sendMgt s dest subtype bytes) := by
  unfold State.sendMgt
  repeat' first
    | with_reducible intro _
    | with_reducible first
      | assumption | apply on_ite | apply onO_ite | apply State.ravorSend_on | apply goodC_ite | apply goodT_ite
    | simp only [on_mk_iff, goodC_mk_iff, goodH_mk_iff]
    | with_reducible apply goodT_ts
    | with_reducible apply goodC_ts
    | dsimp only
    | split

theorem execTransitForward_on {z : State} (dest src : Endpoint) (key : BitVec 12) (kind : Fin 9) (vroute : BitVec 12) (tick : DWord) (offset : Word) (resend : Bool) (id : BitVec 16) (route : DWord) (hop : Fin 16) (dl : Bool) (grans : List Granule) (s : State) (h_s : Onward z (s)) :
    OnwardA z (execTransitForward dest src key kind vroute tick offset resend id route hop dl grans s) := by
  unfold execTransitForward
  repeat' first
    | with_reducible intro _
    | with_reducible first
      | assumption | apply onA_next | apply onA_refused | apply onA_ite | apply on_ite | apply onO_ite
      | apply State.sendMgt_on | apply State.setPort_on | apply goodC_ite | apply goodT_ite
    | simp only [on_mk_iff, goodC_mk_iff, goodH_mk_iff]
    | with_reducible apply goodT_ts
    | with_reducible apply goodC_ts
    | dsimp only
    | split

theorem execHeartbeatSend_on {z : State} (s : State) (h_s : Onward z (s)) :
    OnwardA z (execHeartbeatSend s) := by
  unfold execHeartbeatSend
  repeat' first
    | with_reducible intro _
    | with_reducible first
      | assumption | apply onA_next | apply onA_refused | apply onA_ite | apply on_ite | apply onO_ite
      | apply State.sendMgt_on | apply goodC_foldl | apply goodH_foldl | apply goodT_foldl | apply on_foldl
      | apply on_foldl_fst | apply on_foldl_snd | apply onO_foldl | apply onF_foldl
    | with_reducible apply goodT_ts
    | with_reducible apply goodC_ts
    | dsimp only
    | split

theorem execHeartbeat_on {z : State} (src : Endpoint) (s : State) (h_s : Onward z (s)) :
    OnwardA z (execHeartbeat src s) := by
  unfold execHeartbeat
  repeat' first
    | with_reducible intro _
    | with_reducible first
      | assumption | apply onA_next | apply onA_refused | apply onA_ite | apply on_ite | apply onO_ite
      | apply goodC_ite | apply goodT_ite | apply goodC_foldl | apply goodH_foldl | apply goodT_foldl
      | apply on_foldl | apply on_foldl_fst | apply on_foldl_snd | apply onO_foldl | apply onF_foldl
    | simp only [on_mk_iff, goodC_mk_iff, goodH_mk_iff]
    | with_reducible apply goodT_ts
    | with_reducible apply goodC_ts
    | dsimp only
    | split

theorem State.takeOver_on {z : State} (s : State) (e : Nat) (h_s : Onward z (s)) :
    Onward z (State.takeOver s e) := by
  unfold State.takeOver
  repeat' first
    | with_reducible intro _
    | with_reducible first
      | assumption | apply on_ite | apply onO_ite | apply State.sendMgt_on | apply State.epEvent_on
      | apply State.setFlag_on | apply State.put_on | apply goodC_foldl | apply goodH_foldl | apply goodT_foldl
      | apply on_foldl | apply on_foldl_fst | apply on_foldl_snd | apply onO_foldl | apply onF_foldl
    | with_reducible apply goodT_ts
    | with_reducible apply goodC_ts
    | dsimp only
    | split

theorem execHeartbeatMiss_on {z : State} (n : Fin 4) (s : State) (h_s : Onward z (s)) :
    OnwardA z (execHeartbeatMiss n s) := by
  unfold execHeartbeatMiss
  repeat' first
    | with_reducible intro _
    | with_reducible first
      | assumption | apply onA_next | apply onA_refused | apply onA_ite | apply on_ite | apply onO_ite
      | apply State.takeOver_on | apply State.epEvent_on | apply State.setFlag_on | apply goodC_ite
      | apply goodT_ite
    | simp only [on_mk_iff, goodC_mk_iff, goodH_mk_iff]
    | with_reducible apply goodT_ts
    | with_reducible apply goodC_ts
    | dsimp only
    | split

theorem execAliasTake_on {z : State} (s : State) (h_s : Onward z (s)) :
    OnwardA z (execAliasTake s) := by
  unfold execAliasTake
  repeat' first
    | with_reducible intro _
    | with_reducible first
      | assumption | apply onA_next | apply onA_refused | apply onA_ite | apply on_ite | apply onO_ite
      | apply State.takeOver_on
    | with_reducible apply goodT_ts
    | with_reducible apply goodC_ts
    | dsimp only
    | split

theorem State.reroute_on {z : State} (s : State) (e : Nat) (h_s : Onward z (s)) :
    Onward z (State.reroute s e) := by
  unfold State.reroute
  repeat' first
    | with_reducible intro _
    | with_reducible first
      | assumption | apply onO_some | apply onO_none | apply onF_some | apply onF_none | apply on_ite
      | apply onO_ite | apply State.enqueue_on | apply State.setTopo_on | apply State.inc_on | apply goodC_ite
      | apply goodT_ite | apply goodC_foldl | apply goodH_foldl | apply goodT_foldl | apply on_foldl
      | apply on_foldl_fst | apply on_foldl_snd | apply onO_foldl | apply onF_foldl | apply on_getD
      | apply on_getD_fst
    | simp only [on_mk_iff, goodC_mk_iff, goodH_mk_iff]
    | with_reducible apply goodT_ts
    | with_reducible apply goodC_ts
    | dsimp only
    | split
    | (apply on_fst; with_reducible assumption)
    | (apply on_snd; with_reducible assumption)
    | (apply on_someF'; with_reducible assumption)
    | (apply on_some; with_reducible assumption)
    | (apply on_someF; with_reducible assumption)
    | (apply on_next; with_reducible assumption)

theorem State.bothBanks_on {z : State} (s : State) (e : Nat) (f : TopoEntry → TopoEntry) (h_s : Onward z (s)) :
    Onward z (State.bothBanks s e f) := by
  unfold State.bothBanks
  repeat' first
    | with_reducible intro _
    | with_reducible first
      | assumption | apply goodC_ite | apply goodT_ite
    | simp only [on_mk_iff, goodC_mk_iff, goodH_mk_iff]
    | with_reducible apply goodT_ts
    | with_reducible apply goodC_ts
    | dsimp only

theorem State.giveUp_on {z : State} (s : State) (e : Nat) (h_s : Onward z (s)) :
    Onward z (State.giveUp s e) := by
  unfold State.giveUp
  repeat' first
    | with_reducible intro _
    | with_reducible first
      | assumption | apply on_ite | apply onO_ite | apply State.sendMgt_on | apply State.setFlag_on
      | apply goodC_foldl | apply goodH_foldl | apply goodT_foldl | apply on_foldl | apply on_foldl_fst
      | apply on_foldl_snd | apply onO_foldl | apply onF_foldl
    | with_reducible apply goodT_ts
    | with_reducible apply goodC_ts
    | dsimp only
    | split

theorem execTakeover_on {z : State} (src ep : Endpoint) (s : State) (h_s : Onward z (s)) :
    OnwardA z (execTakeover src ep s) := by
  unfold execTakeover
  repeat' first
    | with_reducible intro _
    | with_reducible first
      | assumption | apply onA_next | apply onA_refused | apply onA_ite | apply on_ite | apply onO_ite
      | apply State.giveUp_on | apply State.bothBanks_on | apply State.reroute_on | apply State.epEvent_on
      | apply goodC_ite | apply goodT_ite
    | simp only [on_mk_iff, goodC_mk_iff, goodH_mk_iff]
    | with_reducible apply goodT_ts
    | with_reducible apply goodC_ts
    | dsimp only
    | split

theorem execWithdraw_on {z : State} (src ep : Endpoint) (s : State) (h_s : Onward z (s)) :
    OnwardA z (execWithdraw src ep s) := by
  unfold execWithdraw
  repeat' first
    | with_reducible intro _
    | with_reducible first
      | assumption | apply onA_next | apply onA_refused | apply onA_ite | apply on_ite | apply onO_ite
      | apply State.bothBanks_on | apply State.reroute_on | apply goodC_ite | apply goodT_ite
    | simp only [on_mk_iff, goodC_mk_iff, goodH_mk_iff]
    | with_reducible apply goodT_ts
    | with_reducible apply goodC_ts
    | dsimp only
    | split

theorem State.clampRvr_on {z : State} (s : State) (r : Reg) (h_s : Onward z (s)) :
    Onward z (State.clampRvr s r) := by
  unfold State.clampRvr
  repeat' first
    | with_reducible intro _
    | with_reducible first
      | assumption | apply State.clampAt_on
    | with_reducible apply goodT_ts
    | with_reducible apply goodC_ts
    | dsimp only

theorem State.epochStep_on {z : State} (s : State) (inOrder : Bool) (run : State → State) (h_s : Onward z (s)) (h_run : ∀ x0, Onward z (x0) → Onward z (run x0)) :
    OnwardA z (State.epochStep s inOrder run) := by
  unfold State.epochStep
  repeat' first
    | with_reducible intro _
    | with_reducible first
      | assumption | apply onA_next | apply onA_refused | apply onA_ite | apply on_ite | apply onO_ite
      | apply h_run | apply State.clampRvr_on
    | with_reducible apply goodT_ts
    | with_reducible apply goodC_ts
    | dsimp only
    | split

theorem execEpochDrain_on {z : State} (s : State) (h_s : Onward z (s)) :
    OnwardA z (execEpochDrain s) := by
  unfold execEpochDrain
  repeat' first
    | with_reducible intro _
    | with_reducible first
      | assumption | apply onA_next | apply onA_refused | apply State.epochStep_on | apply State.drained_on
      | apply State.put_on
    | with_reducible apply goodT_ts
    | with_reducible apply goodC_ts
    | dsimp only

theorem execEpochDrainTimeout_on {z : State} (s : State) (h_s : Onward z (s)) :
    OnwardA z (execEpochDrainTimeout s) := by
  unfold execEpochDrainTimeout
  repeat' first
    | with_reducible intro _
    | with_reducible first
      | assumption | apply onA_next | apply onA_refused | apply onA_ite | apply on_ite | apply onO_ite
      | apply State.setFlag_on | apply State.put_on
    | with_reducible apply goodT_ts
    | with_reducible apply goodC_ts
    | dsimp only
    | split

theorem execEpochRetrain_on {z : State} (s : State) (h_s : Onward z (s)) :
    OnwardA z (execEpochRetrain s) := by
  unfold execEpochRetrain
  repeat' first
    | with_reducible intro _
    | with_reducible first
      | assumption | apply onA_next | apply onA_refused | apply onA_ite | apply on_ite | apply onO_ite
      | apply State.epochStep_on | apply State.toTrain_on | apply State.put_on | apply goodC_foldl
      | apply goodH_foldl | apply goodT_foldl | apply on_foldl | apply on_foldl_fst | apply on_foldl_snd
      | apply onO_foldl | apply onF_foldl
    | with_reducible apply goodT_ts
    | with_reducible apply goodC_ts
    | dsimp only
    | split

theorem execEpochCommit_on {z : State} (s : State) (h_s : Onward z (s)) :
    OnwardA z (execEpochCommit s) := by
  unfold execEpochCommit
  repeat' first
    | with_reducible intro _
    | with_reducible first
      | assumption | apply onA_next | apply onA_refused | apply onA_ite | apply on_ite | apply onO_ite
      | apply State.epochStep_on | apply State.unfence_on | apply State.destinationLost_on | apply State.setPort_on
      | apply State.put_on | apply goodC_ite | apply goodT_ite | apply goodC_foldl | apply goodH_foldl
      | apply goodT_foldl | apply on_foldl | apply on_foldl_fst | apply on_foldl_snd | apply onO_foldl
      | apply onF_foldl | apply onF_map | apply onF_mapO | apply onO_mapF | apply onO_map
    | simp only [on_mk_iff, goodC_mk_iff, goodH_mk_iff]
    | with_reducible apply goodT_ts
    | with_reducible apply goodC_ts
    | dsimp only
    | split

theorem execEpochResume_on {z : State} (s : State) (h_s : Onward z (s)) :
    OnwardA z (execEpochResume s) := by
  unfold execEpochResume
  repeat' first
    | with_reducible intro _
    | with_reducible first
      | assumption | apply onA_next | apply onA_refused | apply onA_ite | apply onO_some | apply onO_none
      | apply onF_some | apply onF_none | apply on_ite | apply onO_ite | apply State.epochStep_on
      | apply State.sendOn_on | apply State.inc_on | apply State.put_on | apply goodC_ite | apply goodT_ite
      | apply goodC_foldl | apply goodH_foldl | apply goodT_foldl | apply on_foldl | apply on_foldl_fst
      | apply on_foldl_snd | apply onO_foldl | apply onF_foldl
    | simp only [on_mk_iff, goodC_mk_iff, goodH_mk_iff]
    | with_reducible apply goodT_ts
    | with_reducible apply goodC_ts
    | dsimp only
    | split

theorem execTopoRead_on {z : State} (s : State) (h_s : Onward z (s)) :
    OnwardA z (execTopoRead s) := by
  unfold execTopoRead
  repeat' first
    | with_reducible intro _
    | with_reducible first
      | assumption | apply onA_next | apply onA_refused | apply State.setFlag_on | apply State.put_on
      | apply goodC_foldl | apply goodH_foldl | apply goodT_foldl | apply on_foldl | apply on_foldl_fst
      | apply on_foldl_snd | apply onO_foldl | apply onF_foldl | apply on_getD | apply on_getD_fst
    | with_reducible apply goodT_ts
    | with_reducible apply goodC_ts
    | dsimp only

theorem execTopoWrite_on {z : State} (s : State) (h_s : Onward z (s)) :
    OnwardA z (execTopoWrite s) := by
  unfold execTopoWrite
  repeat' first
    | with_reducible intro _
    | with_reducible first
      | assumption | apply onA_next | apply onA_refused | apply onA_ite | apply on_ite | apply onO_ite
      | apply State.clampRvr_on | apply goodC_ite | apply goodT_ite
    | simp only [on_mk_iff, goodC_mk_iff, goodH_mk_iff]
    | with_reducible apply goodT_ts
    | with_reducible apply goodC_ts
    | dsimp only
    | split

theorem execBoardWr_on {z : State} (src : Endpoint) (id : BitVec 16) (tenant : Tenant) (baddr : DWord) (grans : List Granule) (s : State) (h_s : Onward z (s)) :
    OnwardA z (execBoardWr src id tenant baddr grans s) := by
  unfold execBoardWr
  repeat' first
    | with_reducible intro _
    | with_reducible first
      | assumption | apply onA_next | apply onA_refused | apply onO_some | apply onO_none | apply onF_some
      | apply onF_none | apply State.arrive_on | apply State.writePage_on | apply goodC_ite | apply goodT_ite
      | apply goodC_foldl | apply goodH_foldl | apply goodT_foldl | apply on_foldl | apply on_foldl_fst
      | apply on_foldl_snd | apply onO_foldl | apply onF_foldl
    | simp only [on_mk_iff, goodC_mk_iff, goodH_mk_iff]
    | with_reducible apply goodT_ts
    | with_reducible apply goodC_ts
    | dsimp only
    | split
    | (apply on_fst; with_reducible assumption)
    | (apply on_snd; with_reducible assumption)
    | (apply on_someF'; with_reducible assumption)
    | (apply on_some; with_reducible assumption)
    | (apply on_someF; with_reducible assumption)
    | (apply on_next; with_reducible assumption)

theorem execBoardRd_on {z : State} (src : Endpoint) (id : BitVec 16) (tenant : Tenant) (baddr : DWord) (grans : Nat) (s : State) (h_s : Onward z (s)) :
    OnwardA z (execBoardRd src id tenant baddr grans s) := by
  unfold execBoardRd
  repeat' first
    | with_reducible intro _
    | with_reducible first
      | assumption | apply onA_next | apply onA_refused | apply onO_some | apply onO_none | apply onF_some
      | apply onF_none | apply State.arrive_on | apply State.ravorSend_on | apply State.harbor_on | apply goodC_ite
      | apply goodT_ite | apply goodH_ite | apply onF_map | apply onF_mapO | apply onO_mapF | apply onO_map
    | simp only [on_mk_iff, goodC_mk_iff, goodH_mk_iff]
    | with_reducible apply goodT_ts
    | with_reducible apply goodC_ts
    | dsimp only
    | split
    | (apply on_fst; with_reducible assumption)
    | (apply on_snd; with_reducible assumption)
    | (apply on_someF'; with_reducible assumption)
    | (apply on_some; with_reducible assumption)
    | (apply on_someF; with_reducible assumption)
    | (apply on_next; with_reducible assumption)

theorem execBoardData_on {z : State} (src : Endpoint) (id : BitVec 16) (grans : List Granule) (s : State) (h_s : Onward z (s)) :
    OnwardA z (execBoardData src id grans s) := by
  unfold execBoardData
  repeat' first
    | with_reducible intro _
    | with_reducible first
      | assumption | apply onA_next | apply onA_refused | apply onO_some | apply onO_none | apply onF_some
      | apply onF_none | apply State.arrive_on | apply State.absorbed_on | apply State.emit_on | apply goodC_ite
      | apply goodT_ite
    | simp only [on_mk_iff, goodC_mk_iff, goodH_mk_iff]
    | with_reducible apply goodT_ts
    | with_reducible apply goodC_ts
    | dsimp only
    | split
    | (apply on_fst; with_reducible assumption)
    | (apply on_snd; with_reducible assumption)
    | (apply on_someF'; with_reducible assumption)
    | (apply on_some; with_reducible assumption)
    | (apply on_someF; with_reducible assumption)
    | (apply on_next; with_reducible assumption)

theorem execReflStart_on {z : State} (n : OE) (s : State) (h_s : Onward z (s)) :
    OnwardA z (execReflStart n s) := by
  unfold execReflStart
  repeat' first
    | with_reducible intro _
    | with_reducible first
      | assumption | apply onA_next | apply onA_refused | apply onA_ite | apply on_ite | apply onO_ite
      | apply State.portTo_on | apply State.setFlag_on
    | with_reducible apply goodT_ts
    | with_reducible apply goodC_ts
    | dsimp only
    | split

theorem execReflComplete_on {z : State} (n : OE) (events : List (BitVec 15 × BitVec 8 × BitVec 8)) (s : State) (h_s : Onward z (s)) :
    OnwardA z (execReflComplete n events s) := by
  unfold execReflComplete
  repeat' first
    | with_reducible intro _
    | with_reducible first
      | assumption | apply onA_next | apply onA_refused | apply onA_ite | apply onO_some | apply onO_none
      | apply onF_some | apply onF_none | apply on_ite | apply onO_ite | apply State.setFlag_on
      | apply State.put_on | apply State.setReg_on | apply goodC_ite | apply goodT_ite | apply goodC_foldl
      | apply goodH_foldl | apply goodT_foldl | apply on_foldl | apply on_foldl_fst | apply on_foldl_snd
      | apply onO_foldl | apply onF_foldl
    | simp only [on_mk_iff, goodC_mk_iff, goodH_mk_iff]
    | with_reducible apply goodT_ts
    | with_reducible apply goodC_ts
    | dsimp only
    | split
    | (apply on_fst; with_reducible assumption)
    | (apply on_snd; with_reducible assumption)
    | (apply on_someF'; with_reducible assumption)
    | (apply on_some; with_reducible assumption)
    | (apply on_someF; with_reducible assumption)
    | (apply on_next; with_reducible assumption)

end Sys2Proof.Machine
end

