-- ==== Sys2Proof/Laws/OnLoader.lean ====
section
/-! SUPPORT. What each operation of Machine/Loader.lean leaves in order. -/

namespace Sys2Proof.Machine

theorem State.refuseLoad_on {z : State} (s : State) (r : LoadReq) (h_s : Onward z (s)) :
    Onward z (State.refuseLoad s r) := by
  unfold State.refuseLoad
  repeat' first
    | with_reducible intro _
    | with_reducible first
      | assumption | apply onO_some | apply onO_none | apply onF_some | apply onF_none | apply State.showLoad_on
      | apply State.raisePF_on | apply State.raiseVF_on | apply State.inc_on | apply State.put_on | apply goodC_ite
      | apply goodT_ite
    | simp only [on_mk_iff, goodC_mk_iff, goodH_mk_iff]
    | with_reducible apply goodT_ts
    | with_reducible apply goodC_ts
    | dsimp only
    | split
    | (apply on_fst; with_reducible assumption)
    | (apply on_snd; with_reducible assumption)
    | (apply on_someF'; with_reducible assumption)
    | (apply on_some; with_reducible assumption)
    | (apply on_someF; with_reducible assumption)
    | (apply on_next; with_reducible assumption)

theorem State.loadCmd_on {z : State} (s : State) (r : LoadReq) (h_s : Onward z (s)) :
    Onward z (State.loadCmd s r) := by
  unfold State.loadCmd
  repeat' first
    | with_reducible intro _
    | with_reducible first
      | assumption | apply onO_some | apply onO_none | apply onF_some | apply onF_none | apply on_ite
      | apply onO_ite | apply State.refuseLoad_on | apply State.giveContext_on | apply State.toPart_on
      | apply State.refreshJobLock_on | apply goodC_ite | apply goodT_ite
    | simp only [on_mk_iff, goodC_mk_iff, goodH_mk_iff]
    | with_reducible apply goodT_ts
    | with_reducible apply goodC_ts
    | dsimp only
    | split
    | (apply on_fst; with_reducible assumption)
    | (apply on_snd; with_reducible assumption)
    | (apply on_someF'; with_reducible assumption)
    | (apply on_some; with_reducible assumption)
    | (apply on_someF; with_reducible assumption)
    | (apply on_next; with_reducible assumption)

theorem State.afterReset_on {z : State} (s : State) (p : Nat) (h_s : Onward z (s)) :
    Onward z (State.afterReset s p) := by
  unfold State.afterReset
  repeat' first
    | with_reducible intro _
    | with_reducible first
      | assumption | apply State.loadCmd_on | apply goodC_ite | apply goodT_ite | apply goodC_foldl
      | apply goodH_foldl | apply goodT_foldl | apply on_foldl | apply on_foldl_fst | apply on_foldl_snd
      | apply onO_foldl | apply onF_foldl
    | simp only [on_mk_iff, goodC_mk_iff, goodH_mk_iff]
    | with_reducible apply goodT_ts
    | with_reducible apply goodC_ts
    | dsimp only

theorem execLdrLoad_on {z : State} (s : State) (h_s : Onward z (s)) :
    OnwardA z (execLdrLoad s) := by
  unfold execLdrLoad
  repeat' first
    | with_reducible intro _
    | with_reducible first
      | assumption | apply onA_next | apply onA_refused | apply onO_some | apply onO_none | apply onF_some
      | apply onF_none | apply State.loadCmd_on
    | with_reducible apply goodT_ts
    | with_reducible apply goodC_ts
    | dsimp only

theorem State.emptyCache_on {z : State} (s : State) (c : Nat) (h_s : Onward z (s)) :
    Onward z (State.emptyCache s c) := by
  unfold State.emptyCache
  repeat' first
    | with_reducible intro _
    | with_reducible first
      | assumption | apply State.cleanCache_on | apply State.setCluster_on | apply State.setCore_on
      | apply State.core_on | apply goodC_ite | apply goodT_ite
    | simp only [on_mk_iff, goodC_mk_iff, goodH_mk_iff]
    | with_reducible apply goodT_ts
    | with_reducible apply goodC_ts
    | dsimp only

theorem State.writeSplit_on {z : State} (s0 : State) (g : Image) (c : Nat) (h_s0 : Onward z (s0)) :
    Onward z (State.writeSplit s0 g c) := by
  unfold State.writeSplit
  repeat' first
    | with_reducible intro _
    | with_reducible first
      | assumption | apply onO_some | apply onO_none | apply onF_some | apply onF_none | apply State.emptyCache_on
      | apply State.writeGrans_on | apply State.setCore_on | apply State.core_on | apply State.put_on
      | apply goodC_ite | apply goodT_ite | apply goodC_foldl | apply goodH_foldl | apply goodT_foldl
      | apply on_foldl | apply on_foldl_fst | apply on_foldl_snd | apply onO_foldl | apply onF_foldl
      | apply onF_map | apply onF_mapO | apply onO_mapF | apply onO_map
    | simp only [on_mk_iff, goodC_mk_iff, goodH_mk_iff]
    | with_reducible apply goodT_ts
    | with_reducible apply goodC_ts
    | dsimp only

theorem State.writeSlot_on {z : State} (s : State) (progs : Bool) (j : JobSt) (slot flask c : Nat) (h_s : Onward z (s)) :
    Onward z (State.writeSlot s progs j slot flask c) := by
  unfold State.writeSlot
  repeat' first
    | with_reducible intro _
    | with_reducible first
      | assumption | apply onO_some | apply onO_none | apply onF_some | apply onF_none | apply on_ite
      | apply onO_ite | apply State.forward_on | apply CoreSt.setSlot_on | apply State.setCore_on
      | apply State.core_on | apply goodC_ite | apply goodT_ite | apply goodC_foldl | apply goodH_foldl
      | apply goodT_foldl | apply on_foldl | apply on_foldl_fst | apply on_foldl_snd | apply onO_foldl
      | apply onF_foldl | apply onF_map | apply onF_mapO | apply onO_mapF | apply onO_map
    | simp only [on_mk_iff, goodC_mk_iff, goodH_mk_iff]
    | with_reducible apply goodT_ts
    | with_reducible apply goodC_ts
    | dsimp only
    | split
    | (apply on_fst; with_reducible assumption)
    | (apply on_snd; with_reducible assumption)
    | (apply on_someF'; with_reducible assumption)
    | (apply on_some; with_reducible assumption)
    | (apply on_someF; with_reducible assumption)
    | (apply on_next; with_reducible assumption)

theorem State.writeRouter_on {z : State} (s : State) (j : JobSt) (slot flask k : Nat) (h_s : Onward z (s)) :
    Onward z (State.writeRouter s j slot flask k) := by
  unfold State.writeRouter
  repeat' first
    | with_reducible intro _
    | with_reducible first
      | assumption | apply onO_some | apply onO_none | apply onF_some | apply onF_none | apply State.setCluster_on
      | apply goodC_ite | apply goodT_ite | apply goodC_foldl | apply goodH_foldl | apply goodT_foldl
      | apply on_foldl | apply on_foldl_fst | apply on_foldl_snd | apply onO_foldl | apply onF_foldl
      | apply on_getD | apply on_getD_fst | apply onF_map | apply onF_mapO | apply onO_mapF | apply onO_map
    | simp only [on_mk_iff, goodC_mk_iff, goodH_mk_iff]
    | with_reducible apply goodT_ts
    | with_reducible apply goodC_ts
    | dsimp only
    | split
    | (apply on_fst; with_reducible assumption)
    | (apply on_snd; with_reducible assumption)
    | (apply on_someF'; with_reducible assumption)
    | (apply on_some; with_reducible assumption)
    | (apply on_someF; with_reducible assumption)
    | (apply on_next; with_reducible assumption)

theorem State.writeCounter_on {z : State} (s : State) (r : CounterRec) (h_s : Onward z (s)) :
    Onward z (State.writeCounter s r) := by
  unfold State.writeCounter
  repeat' first
    | with_reducible intro _
    | with_reducible first
      | assumption | apply State.setFlag_on | apply State.put_on | apply on_getD | apply on_getD_fst
    | with_reducible apply goodT_ts
    | with_reducible apply goodC_ts
    | dsimp only

theorem State.markReady_on {z : State} (s : State) (c slot : Nat) (h_s : Onward z (s)) :
    Onward z (State.markReady s c slot) := by
  unfold State.markReady
  repeat' first
    | with_reducible intro _
    | with_reducible first
      | assumption | apply CoreSt.setSlot_on | apply State.setCore_on | apply State.core_on | apply goodC_ite
      | apply goodT_ite | apply on_getD | apply on_getD_fst
    | simp only [on_mk_iff, goodC_mk_iff, goodH_mk_iff]
    | with_reducible apply goodT_ts
    | with_reducible apply goodC_ts
    | dsimp only

theorem State.coreStages_on {z : State} (s : State) (j : JobSt) (c stage : Nat) (h_s : Onward z (s)) :
    Onward z (State.coreStages s j c stage) := by
  unfold State.coreStages
  repeat' first
    | with_reducible intro _
    | with_reducible first
      | assumption | apply on_ite | apply onO_ite | apply State.markReady_on | apply State.writeSlot_on
      | apply State.writeSplit_on | apply goodC_foldl | apply goodH_foldl | apply goodT_foldl | apply on_foldl
      | apply on_foldl_fst | apply on_foldl_snd | apply onO_foldl | apply onF_foldl
    | with_reducible apply goodT_ts
    | with_reducible apply goodC_ts
    | dsimp only
    | split

theorem State.startStream_on {z : State} (s : State) (p flask : Nat) (j : JobSt) (d : PourRec) (h_s : Onward z (s)) :
    Onward z (State.startStream s p flask j d) := by
  unfold State.startStream
  repeat' first
    | with_reducible intro _
    | with_reducible first
      | assumption | apply onO_some | apply onO_none | apply onF_some | apply onF_none | apply on_ite
      | apply onO_ite | apply State.setHarbor_on | apply State.harbor_on | apply goodC_ite | apply goodT_ite
      | apply goodH_ite | apply on_getD | apply on_getD_fst
    | simp only [on_mk_iff, goodC_mk_iff, goodH_mk_iff]
    | with_reducible apply goodT_ts
    | with_reducible apply goodC_ts
    | dsimp only
    | split
    | (apply on_fst; with_reducible assumption)
    | (apply on_snd; with_reducible assumption)
    | (apply on_someF'; with_reducible assumption)
    | (apply on_some; with_reducible assumption)
    | (apply on_someF; with_reducible assumption)
    | (apply on_next; with_reducible assumption)

theorem State.startStreams_on {z : State} (s : State) (p flask : Nat) (j : JobSt) (ok : PourRec → Bool) (h_s : Onward z (s)) :
    Onward z (State.startStreams s p flask j ok) := by
  unfold State.startStreams
  repeat' first
    | with_reducible intro _
    | with_reducible first
      | assumption | apply onO_some | apply onO_none | apply onF_some | apply onF_none | apply State.startStream_on
      | apply goodC_ite | apply goodT_ite | apply goodC_foldl | apply goodH_foldl | apply goodT_foldl
      | apply on_foldl | apply on_foldl_fst | apply on_foldl_snd | apply onO_foldl | apply onF_foldl
    | simp only [on_mk_iff, goodC_mk_iff, goodH_mk_iff]
    | with_reducible apply goodT_ts
    | with_reducible apply goodC_ts
    | dsimp only
    | split
    | (apply on_fst; with_reducible assumption)
    | (apply on_snd; with_reducible assumption)
    | (apply on_someF'; with_reducible assumption)
    | (apply on_some; with_reducible assumption)
    | (apply on_someF; with_reducible assumption)
    | (apply on_next; with_reducible assumption)

theorem State.stopStreams_on {z : State} (s : State) (p flask : Nat) (h_s : Onward z (s)) :
    Onward z (State.stopStreams s p flask) := by
  refine on_harbors h_s (goodH_map (harbors_good h_s) ?_)
  exact fun _ h => h

theorem State.earlyStreams_on {z : State} (s : State) (p : Nat) (j : JobSt) (e : SeqEntry) (h_s : Onward z (s)) :
    Onward z (State.earlyStreams s p j e) := by
  unfold State.earlyStreams
  repeat' first
    | with_reducible intro _
    | with_reducible first
      | assumption | apply onO_some | apply onO_none | apply onF_some | apply onF_none | apply on_ite
      | apply onO_ite | apply State.startStreams_on | apply goodC_ite | apply goodT_ite | apply on_getD
      | apply on_getD_fst
    | simp only [on_mk_iff, goodC_mk_iff, goodH_mk_iff]
    | with_reducible apply goodT_ts
    | with_reducible apply goodC_ts
    | dsimp only
    | split
    | (apply on_fst; with_reducible assumption)
    | (apply on_snd; with_reducible assumption)
    | (apply on_someF'; with_reducible assumption)
    | (apply on_some; with_reducible assumption)
    | (apply on_someF; with_reducible assumption)
    | (apply on_next; with_reducible assumption)

theorem State.setJob_on {z : State} (s : State) (p : Nat) (j : JobSt) (h_s : Onward z (s)) :
    Onward z (State.setJob s p j) := by
  unfold State.setJob
  repeat' first
    | with_reducible intro _
    | with_reducible first
      | assumption | apply goodC_ite | apply goodT_ite
    | simp only [on_mk_iff, goodC_mk_iff, goodH_mk_iff]
    | with_reducible apply goodT_ts
    | with_reducible apply goodC_ts
    | dsimp only

theorem State.openStations_on {z : State} (s : State) (p : Nat) (g : Image) (h_s : Onward z (s)) :
    Onward z (State.openStations s p g) := by
  unfold State.openStations
  repeat' first
    | with_reducible intro _
    | with_reducible first
      | assumption | apply on_ite | apply onO_ite | apply State.setHarbor_on | apply State.harbor_on
      | apply State.refreshFerry_on | apply goodC_ite | apply goodT_ite | apply goodH_ite | apply goodC_foldl
      | apply goodH_foldl | apply goodT_foldl | apply on_foldl | apply on_foldl_fst | apply on_foldl_snd
      | apply onO_foldl | apply onF_foldl
    | simp only [on_mk_iff, goodC_mk_iff, goodH_mk_iff]
    | with_reducible apply goodT_ts
    | with_reducible apply goodC_ts
    | dsimp only
    | split

theorem State.loadRefused_on {z : State} (s : State) (n p : Nat) (e : LoadFault) (h_s : Onward z (s)) :
    Onward z (State.loadRefused s n p e) := by
  unfold State.loadRefused
  repeat' first
    | with_reducible intro _
    | with_reducible first
      | assumption | apply State.record__on | apply State.closeJob_on | apply State.raisePart_on
      | apply State.put_on
    | with_reducible apply goodT_ts
    | with_reducible apply goodC_ts
    | dsimp only

theorem State.stageWork_on {z : State} (s : State) (p stage : Nat) (j : JobSt) (h_s : Onward z (s)) :
    Onward z (State.stageWork s p stage j) := by
  unfold State.stageWork
  repeat' first
    | with_reducible intro _
    | with_reducible first
      | assumption | apply onO_some | apply onO_none | apply onF_some | apply onF_none
      | apply State.openStations_on | apply State.startStreams_on | apply State.markReady_on
      | apply State.writeCounter_on | apply State.writeRouter_on | apply State.writeSlot_on
      | apply State.writeSplit_on | apply State.overClusters_on | apply State.overCores_on | apply goodC_ite
      | apply goodT_ite | apply goodC_foldl | apply goodH_foldl | apply goodT_foldl | apply on_foldl
      | apply on_foldl_fst | apply on_foldl_snd | apply onO_foldl | apply onF_foldl
    | simp only [on_mk_iff, goodC_mk_iff, goodH_mk_iff]
    | with_reducible apply goodT_ts
    | with_reducible apply goodC_ts
    | dsimp only
    | split
    | (apply on_fst; with_reducible assumption)
    | (apply on_snd; with_reducible assumption)
    | (apply on_someF'; with_reducible assumption)
    | (apply on_some; with_reducible assumption)
    | (apply on_someF; with_reducible assumption)
    | (apply on_next; with_reducible assumption)

theorem State.stageDone_on {z : State} (s : State) (n p stage : Nat) (j : JobSt) (h_s : Onward z (s)) :
    Onward z (State.stageDone s n p stage j) := by
  unfold State.stageDone
  repeat' first
    | with_reducible intro _
    | with_reducible first
      | assumption | apply onO_some | apply onO_none | apply onF_some | apply onF_none | apply on_ite
      | apply onO_ite | apply State.stageWork_on | apply State.setJob_on | apply State.put_on | apply goodC_ite
      | apply goodT_ite | apply onF_map | apply onF_mapO | apply onO_mapF | apply onO_map
    | simp only [on_mk_iff, goodC_mk_iff, goodH_mk_iff]
    | with_reducible apply goodT_ts
    | with_reducible apply goodC_ts
    | dsimp only
    | split
    | (apply on_fst; with_reducible assumption)
    | (apply on_snd; with_reducible assumption)
    | (apply on_someF'; with_reducible assumption)
    | (apply on_some; with_reducible assumption)
    | (apply on_someF; with_reducible assumption)
    | (apply on_next; with_reducible assumption)

theorem execLoadStageComplete_on {z : State} (ctx : Fin 4) (s : State) (h_s : Onward z (s)) :
    OnwardA z (execLoadStageComplete ctx s) := by
  unfold execLoadStageComplete
  repeat' first
    | with_reducible intro _
    | with_reducible first
      | assumption | apply onA_next | apply onA_refused | apply onA_ite | apply onO_some | apply onO_none
      | apply onF_some | apply onF_none | apply on_ite | apply onO_ite | apply State.stageDone_on
      | apply State.loadRefused_on | apply goodC_ite | apply goodT_ite
    | simp only [on_mk_iff, goodC_mk_iff, goodH_mk_iff]
    | with_reducible apply goodT_ts
    | with_reducible apply goodC_ts
    | dsimp only
    | split
    | (apply on_fst; with_reducible assumption)
    | (apply on_snd; with_reducible assumption)
    | (apply on_someF'; with_reducible assumption)
    | (apply on_some; with_reducible assumption)
    | (apply on_someF; with_reducible assumption)
    | (apply on_next; with_reducible assumption)

theorem State.applyHeld_on {z : State} (s : State) (p : Nat) (h_s : Onward z (s)) :
    Onward z (State.applyHeld s p) := by
  unfold State.applyHeld
  repeat' first
    | with_reducible intro _
    | with_reducible first
      | assumption | apply onO_some | apply onO_none | apply onF_some | apply onF_none | apply on_ite
      | apply onO_ite | apply State.toPart_on | apply State.put_on | apply goodC_ite | apply goodT_ite
    | simp only [on_mk_iff, goodC_mk_iff, goodH_mk_iff]
    | with_reducible apply goodT_ts
    | with_reducible apply goodC_ts
    | dsimp only
    | split
    | (apply on_fst; with_reducible assumption)
    | (apply on_snd; with_reducible assumption)
    | (apply on_someF'; with_reducible assumption)
    | (apply on_some; with_reducible assumption)
    | (apply on_someF; with_reducible assumption)
    | (apply on_next; with_reducible assumption)

theorem State.showEntry_on {z : State} (s : State) (p : Nat) (j : JobSt) (e : SeqEntry) (h_s : Onward z (s)) :
    Onward z (State.showEntry s p j e) := by
  unfold State.showEntry
  repeat' first
    | with_reducible intro _
    | with_reducible first
      | assumption | apply State.runs_on | apply State.put_on
    | with_reducible apply goodT_ts
    | with_reducible apply goodC_ts
    | dsimp only

theorem State.enterSlot_on {z : State} (s : State) (c t : Nat) (h_s : Onward z (s)) :
    Onward z (State.enterSlot s c t) := by
  unfold State.enterSlot
  repeat' first
    | with_reducible intro _
    | with_reducible first
      | assumption | apply CoreSt.switchSlot_on | apply State.setCore_on | apply State.core_on | apply goodC_ite
      | apply goodT_ite
    | with_reducible apply goodT_ts
    | with_reducible apply goodC_ts
    | dsimp only

theorem State.jobStart_on {z : State} (s : State) (p : Nat) (h_s : Onward z (s)) :
    Onward z (State.jobStart s p) := by
  unfold State.jobStart
  repeat' first
    | with_reducible intro _
    | with_reducible first
      | assumption | apply onO_some | apply onO_none | apply onF_some | apply onF_none | apply on_ite
      | apply onO_ite | apply State.enterSlot_on | apply State.showEntry_on | apply State.applyHeld_on
      | apply State.setJob_on | apply State.earlyStreams_on | apply State.atTick_on | apply State.nextLoad_on
      | apply State.closeLoad_on | apply State.setJobBits_on | apply State.toWindow_on | apply State.overCores_on
      | apply State.toPart_on | apply State.raisePart_on | apply goodC_ite | apply goodT_ite
    | simp only [on_mk_iff, goodC_mk_iff, goodH_mk_iff]
    | with_reducible apply goodT_ts
    | with_reducible apply goodC_ts
    | dsimp only
    | split
    | (apply on_fst; with_reducible assumption)
    | (apply on_snd; with_reducible assumption)
    | (apply on_someF'; with_reducible assumption)
    | (apply on_some; with_reducible assumption)
    | (apply on_someF; with_reducible assumption)
    | (apply on_next; with_reducible assumption)

theorem execJobStart_on {z : State} (p : Part) (s : State) (h_s : Onward z (s)) :
    OnwardA z (execJobStart p s) := by
  unfold execJobStart
  repeat' first
    | with_reducible intro _
    | with_reducible first
      | assumption | apply onA_next | apply onA_refused | apply State.jobStart_on
    | with_reducible apply goodT_ts
    | with_reducible apply goodC_ts
    | dsimp only

theorem State.entryBegin_on {z : State} (s : State) (p : Nat) (h_s : Onward z (s)) :
    Onward z (State.entryBegin s p) := by
  unfold State.entryBegin
  repeat' first
    | with_reducible intro _
    | with_reducible first
      | assumption | apply onO_some | apply onO_none | apply onF_some | apply onF_none | apply on_ite
      | apply onO_ite | apply State.showEntry_on | apply State.setJob_on | apply State.earlyStreams_on
      | apply State.startStreams_on | apply State.overCores_on | apply CoreSt.setSlot_on | apply State.setCore_on
      | apply State.core_on | apply State.inc_on | apply goodC_ite | apply goodT_ite | apply on_getD
      | apply on_getD_fst
    | simp only [on_mk_iff, goodC_mk_iff, goodH_mk_iff]
    | with_reducible apply goodT_ts
    | with_reducible apply goodC_ts
    | dsimp only
    | split
    | (apply on_fst; with_reducible assumption)
    | (apply on_snd; with_reducible assumption)
    | (apply on_someF'; with_reducible assumption)
    | (apply on_some; with_reducible assumption)
    | (apply on_someF; with_reducible assumption)
    | (apply on_next; with_reducible assumption)

theorem execEntryBegin_on {z : State} (p : Part) (s : State) (h_s : Onward z (s)) :
    OnwardA z (execEntryBegin p s) := by
  unfold execEntryBegin
  repeat' first
    | with_reducible intro _
    | with_reducible first
      | assumption | apply onA_next | apply onA_refused | apply State.entryBegin_on
    | with_reducible apply goodT_ts
    | with_reducible apply goodC_ts
    | dsimp only

theorem State.entryEnd_on {z : State} (s : State) (p : Nat) (h_s : Onward z (s)) :
    Onward z (State.entryEnd s p) := by
  unfold State.entryEnd
  repeat' first
    | with_reducible intro _
    | with_reducible first
      | assumption | apply onO_some | apply onO_none | apply onF_some | apply onF_none | apply on_ite
      | apply onO_ite | apply State.setJob_on | apply State.stopStreams_on | apply State.runs_on
      | apply State.closeJob_on | apply State.core_on | apply State.setFlag_on | apply State.put_on
      | apply goodC_ite | apply goodT_ite
    | simp only [on_mk_iff, goodC_mk_iff, goodH_mk_iff]
    | with_reducible apply goodT_ts
    | with_reducible apply goodC_ts
    | dsimp only
    | split
    | (apply on_fst; with_reducible assumption)
    | (apply on_snd; with_reducible assumption)
    | (apply on_someF'; with_reducible assumption)
    | (apply on_some; with_reducible assumption)
    | (apply on_someF; with_reducible assumption)
    | (apply on_next; with_reducible assumption)

theorem execEntryEnd_on {z : State} (p : Part) (s : State) (h_s : Onward z (s)) :
    OnwardA z (execEntryEnd p s) := by
  unfold execEntryEnd
  repeat' first
    | with_reducible intro _
    | with_reducible first
      | assumption | apply onA_next | apply onA_refused | apply State.entryEnd_on
    | with_reducible apply goodT_ts
    | with_reducible apply goodC_ts
    | dsimp only

theorem execFseqGo_on {z : State} (p : Part) (s : State) (h_s : Onward z (s)) :
    OnwardA z (execFseqGo p s) := by
  unfold execFseqGo
  repeat' first
    | with_reducible intro _
    | with_reducible first
      | assumption | apply onA_next | apply onA_refused | apply State.setFlag_on
    | with_reducible apply goodT_ts
    | with_reducible apply goodC_ts
    | dsimp only

theorem State.slotRewrite_on {z : State} (s : State) (p slot : Nat) (h_s : Onward z (s)) :
    Onward z (State.slotRewrite s p slot) := by
  unfold State.slotRewrite
  repeat' first
    | with_reducible intro _
    | with_reducible first
      | assumption | apply onO_some | apply onO_none | apply onF_some | apply onF_none | apply on_ite
      | apply onO_ite | apply State.setJob_on | apply State.markReady_on | apply State.writeRouter_on
      | apply State.writeSlot_on | apply State.overClusters_on | apply State.overCores_on | apply goodC_ite
      | apply goodT_ite | apply on_getD | apply on_getD_fst
    | simp only [on_mk_iff, goodC_mk_iff, goodH_mk_iff]
    | with_reducible apply goodT_ts
    | with_reducible apply goodC_ts
    | dsimp only
    | split
    | (apply on_fst; with_reducible assumption)
    | (apply on_snd; with_reducible assumption)
    | (apply on_someF'; with_reducible assumption)
    | (apply on_some; with_reducible assumption)
    | (apply on_someF; with_reducible assumption)
    | (apply on_next; with_reducible assumption)

theorem execSlotRewrite_on {z : State} (p : Part) (slot : Slot) (s : State) (h_s : Onward z (s)) :
    OnwardA z (execSlotRewrite p slot s) := by
  unfold execSlotRewrite
  repeat' first
    | with_reducible intro _
    | with_reducible first
      | assumption | apply onA_next | apply onA_refused | apply State.slotRewrite_on
    | with_reducible apply goodT_ts
    | with_reducible apply goodC_ts
    | dsimp only

theorem State.imgDone_on {z : State} (s : State) (code check : Nat) (h_s : Onward z (s)) :
    Onward z (State.imgDone s code check) := by
  unfold State.imgDone
  repeat' first
    | with_reducible intro _
    | with_reducible first
      | assumption | apply State.put_on
    | with_reducible apply goodT_ts
    | with_reducible apply goodC_ts
    | dsimp only

theorem State.register_on {z : State} (s : State) (m : Nat) (tenant : Option Nat) (handle bind : Nat) (h_s : Onward z (s)) :
    Onward z (State.register s m tenant handle bind) := by
  unfold State.register
  repeat' first
    | with_reducible intro _
    | with_reducible first
      | assumption | apply onO_some | apply onO_none | apply onF_some | apply onF_none | apply on_ite
      | apply onO_ite | apply State.imgDone_on | apply State.put_on | apply goodC_ite | apply goodT_ite
      | apply goodC_foldl | apply goodH_foldl | apply goodT_foldl | apply on_foldl | apply on_foldl_fst
      | apply on_foldl_snd | apply onO_foldl | apply onF_foldl | apply on_getD | apply on_getD_fst
    | simp only [on_mk_iff, goodC_mk_iff, goodH_mk_iff]
    | with_reducible apply goodT_ts
    | with_reducible apply goodC_ts
    | dsimp only
    | split
    | (apply on_fst; with_reducible assumption)
    | (apply on_snd; with_reducible assumption)
    | (apply on_someF'; with_reducible assumption)
    | (apply on_some; with_reducible assumption)
    | (apply on_someF; with_reducible assumption)
    | (apply on_next; with_reducible assumption)

theorem execImgRegister_on {z : State} (s : State) (h_s : Onward z (s)) :
    OnwardA z (execImgRegister s) := by
  unfold execImgRegister
  repeat' first
    | with_reducible intro _
    | with_reducible first
      | assumption | apply onA_next | apply onA_refused | apply onA_ite | apply onO_some | apply onO_none
      | apply onF_some | apply onF_none | apply on_ite | apply onO_ite | apply State.register_on
    | with_reducible apply goodT_ts
    | with_reducible apply goodC_ts
    | dsimp only
    | split

theorem State.unregister_on {z : State} (s : State) (m : Nat) (h_s : Onward z (s)) :
    Onward z (State.unregister s m) := by
  unfold State.unregister
  split
  · exact State.imgDone_on _ _ _ h_s
  · refine State.imgDone_on _ _ _ (State.put_on _ _ _ ?_)
    refine on_harbors h_s (goodH_map (harbors_good h_s) ?_)
    exact fun _ h => h

theorem execImgUnregister_on {z : State} (s : State) (h_s : Onward z (s)) :
    OnwardA z (execImgUnregister s) := by
  unfold execImgUnregister
  repeat' first
    | with_reducible intro _
    | with_reducible first
      | assumption | apply onA_next | apply onA_refused | apply State.unregister_on
    | with_reducible apply goodT_ts
    | with_reducible apply goodC_ts
    | dsimp only

end Sys2Proof.Machine
end

