-- ==== Sys2Proof/Laws/OnRecovery.lean ====
section
/-! SUPPORT. What each operation of Machine/Recovery.lean leaves in order. -/

namespace Sys2Proof.Machine

theorem State.refreshSpares_on {z : State} (s : State) (i : Nat) (h_s : Onward z (s)) :
    Onward z (State.refreshSpares s i) := by
  unfold State.refreshSpares
  repeat' first
    | with_reducible intro _
    | with_reducible first
      | assumption | apply on_ite | apply onO_ite | apply State.raisePF_on | apply State.put_on
    | with_reducible apply goodT_ts
    | with_reducible apply goodC_ts
    | dsimp only
    | split

theorem State.clearMoved_on {z : State} (s : State) (c : Nat) (h_s : Onward z (s)) :
    Onward z (State.clearMoved s c) := by
  unfold State.clearMoved
  repeat' first
    | with_reducible intro _
    | with_reducible first
      | assumption | apply State.resetRegs_on | apply goodC_ite | apply goodT_ite
    | with_reducible apply goodT_ts
    | with_reducible apply goodC_ts
    | dsimp only

theorem State.substitute_on {z : State} (s : State) (c : Nat) (copy : Bool) (h_s : Onward z (s)) :
    OnwardO z (State.substitute s c copy) := by
  unfold State.substitute
  repeat' first
    | with_reducible intro _
    | with_reducible first
      | assumption | apply onO_some | apply onO_none | apply onF_some | apply onF_none | apply on_ite
      | apply onO_ite | apply State.clearMoved_on | apply State.refreshSpares_on | apply State.emptyCache_on
      | apply State.wipeCore_on | apply State.setIsl_on | apply goodC_ite | apply goodT_ite
    | simp only [on_mk_iff, goodC_mk_iff, goodH_mk_iff]
    | with_reducible apply goodT_ts
    | with_reducible apply goodC_ts
    | dsimp only
    | split
    | (apply on_fst; with_reducible assumption)
    | (apply on_snd; with_reducible assumption)
    | (apply on_someF'; with_reducible assumption)
    | (apply on_some; with_reducible assumption)
    | (apply on_someF; with_reducible assumption)
    | (apply on_next; with_reducible assumption)

theorem State.takeSpare_on {z : State} (s : State) (c : Nat) (h_s : Onward z (s)) :
    Onward z (State.takeSpare s c) := by
  unfold State.takeSpare
  repeat' first
    | with_reducible intro _
    | with_reducible first
      | assumption | apply State.substitute_on | apply on_getD | apply on_getD_fst
    | with_reducible apply goodT_ts
    | with_reducible apply goodC_ts
    | dsimp only

theorem State.markFenced_on {z : State} (s : State) (c : Nat) (h_s : Onward z (s)) :
    Onward z (State.markFenced s c) := by
  unfold State.markFenced
  repeat' first
    | with_reducible intro _
    | with_reducible first
      | assumption | apply onO_some | apply onO_none | apply onF_some | apply onF_none
      | apply State.refreshSpares_on | apply State.logEvent_on | apply State.raisePF_on | apply State.setIsl_on
      | apply goodC_ite | apply goodT_ite
    | simp only [on_mk_iff, goodC_mk_iff, goodH_mk_iff]
    | with_reducible apply goodT_ts
    | with_reducible apply goodC_ts
    | dsimp only
    | split
    | (apply on_fst; with_reducible assumption)
    | (apply on_snd; with_reducible assumption)
    | (apply on_someF'; with_reducible assumption)
    | (apply on_some; with_reducible assumption)
    | (apply on_someF; with_reducible assumption)
    | (apply on_next; with_reducible assumption)

theorem State.strike_on {z : State} (s : State) (p status lcore : Nat) (h_s : Onward z (s)) :
    Onward z (State.strike s p status lcore) := by
  unfold State.strike
  repeat' first
    | with_reducible intro _
    | with_reducible first
      | assumption | apply on_ite | apply onO_ite | apply State.takeSpare_on | apply State.eject_on
      | apply State.setFlag_on | apply goodC_ite | apply goodT_ite | apply goodC_foldl | apply goodH_foldl
      | apply goodT_foldl | apply on_foldl | apply on_foldl_fst | apply on_foldl_snd | apply onO_foldl
      | apply onF_foldl
    | with_reducible apply goodT_ts
    | with_reducible apply goodC_ts
    | dsimp only
    | split

theorem State.startRecovery_on {z : State} (s : State) (p c : Nat) (h_s : Onward z (s)) :
    Onward z (State.startRecovery s p c) := by
  unfold State.startRecovery
  repeat' first
    | with_reducible intro _
    | with_reducible first
      | assumption | apply onO_some | apply onO_none | apply onF_some | apply onF_none | apply on_ite
      | apply onO_ite | apply State.eject_on | apply State.refreshRecov_on | apply State.toPart_on
      | apply goodC_ite | apply goodT_ite
    | simp only [on_mk_iff, goodC_mk_iff, goodH_mk_iff]
    | with_reducible apply goodT_ts
    | with_reducible apply goodC_ts
    | dsimp only
    | split

theorem State.reloadCore_on {z : State} (s : State) (p c : Nat) (j : JobSt) (h_s : Onward z (s)) :
    Onward z (State.reloadCore s p c j) := by
  unfold State.reloadCore
  split
  · exact h_s
  · extract_lets stage s1 s2
    have g : Onward z s1 := State.coreStages_on _ _ _ _ h_s
    have k : Onward z s2 := by
      refine on_harbors g (goodH_map (harbors_good g) ?_)
      exact fun _ h => h
    clear_value stage s2
    split
    · exact h_s
    · split
      · exact g
      · exact State.stageDone_on _ _ _ _ _ k

theorem State.fenceFault_on {z : State} (s : State) (c : Nat) (h_s : Onward z (s)) :
    Onward z (State.fenceFault s c) := by
  unfold State.fenceFault
  repeat' first
    | with_reducible intro _
    | with_reducible first
      | assumption | apply onO_some | apply onO_none | apply onF_some | apply onF_none | apply on_ite
      | apply onO_ite | apply State.reloadCore_on | apply State.startRecovery_on | apply State.strike_on
      | apply State.takeSpare_on | apply State.substitute_on | apply State.eject_on | apply goodC_ite
      | apply goodT_ite | apply on_getD | apply on_getD_fst
    | simp only [on_mk_iff, goodC_mk_iff, goodH_mk_iff]
    | with_reducible apply goodT_ts
    | with_reducible apply goodC_ts
    | dsimp only
    | split
    | (apply on_fst; with_reducible assumption)
    | (apply on_snd; with_reducible assumption)
    | (apply on_someF'; with_reducible assumption)
    | (apply on_some; with_reducible assumption)
    | (apply on_someF; with_reducible assumption)
    | (apply on_next; with_reducible assumption)

theorem State.fenceCore_on {z : State} (s : State) (c : Nat) (h_s : Onward z (s)) :
    Onward z (State.fenceCore s c) := by
  unfold State.fenceCore
  repeat' first
    | with_reducible intro _
    | with_reducible first
      | assumption | apply on_ite | apply onO_ite | apply State.fenceFault_on | apply State.markFenced_on
    | with_reducible apply goodT_ts
    | with_reducible apply goodC_ts
    | dsimp only
    | split

theorem execPersistentMismatchFence_on {z : State} (c : LCore) (row col dup conv : Bool) (array : Fin 4) (s : State) (h_s : Onward z (s)) :
    OnwardA z (execPersistentMismatchFence c row col dup conv array s) := by
  unfold execPersistentMismatchFence
  repeat' first
    | with_reducible intro _
    | with_reducible first
      | assumption | apply onA_next | apply onA_refused | apply onA_ite | apply on_ite | apply onO_ite
      | apply State.fenceCore_on | apply CoreSt.failTile_on | apply CoreSt.failStep_on
      | apply State.noteMismatch_on | apply State.syncLadle_on | apply State.setCore_on | apply State.core_on
      | apply State.setFlag_on | apply goodC_ite | apply goodT_ite | apply on_getD | apply on_getD_fst
    | simp only [on_mk_iff, goodC_mk_iff, goodH_mk_iff]
    | with_reducible apply goodT_ts
    | with_reducible apply goodC_ts
    | dsimp only
    | split
    | (apply on_fst; with_reducible assumption)
    | (apply on_snd; with_reducible assumption)
    | (apply on_someF'; with_reducible assumption)
    | (apply on_some; with_reducible assumption)
    | (apply on_someF; with_reducible assumption)
    | (apply on_next; with_reducible assumption)

theorem execRcvFenceGo_on {z : State} (s : State) (h_s : Onward z (s)) :
    OnwardA z (execRcvFenceGo s) := by
  unfold execRcvFenceGo
  repeat' first
    | with_reducible intro _
    | with_reducible first
      | assumption | apply onA_next | apply onA_refused | apply onA_ite | apply on_ite | apply onO_ite
      | apply State.fenceCore_on | apply CoreSt.abandon_on | apply State.syncLadle_on | apply State.clampAt_on
      | apply State.setCore_on | apply State.core_on | apply goodC_ite | apply goodT_ite
    | with_reducible apply goodT_ts
    | with_reducible apply goodC_ts
    | dsimp only
    | split

theorem State.setRecov_on {z : State} (s : State) (p : Nat) (r : Recovery) (h_s : Onward z (s)) :
    Onward z (State.setRecov s p r) := by
  unfold State.setRecov
  repeat' first
    | with_reducible intro _
    | with_reducible first
      | assumption | apply goodC_ite | apply goodT_ite
    | simp only [on_mk_iff, goodC_mk_iff, goodH_mk_iff]
    | with_reducible apply goodT_ts
    | with_reducible apply goodC_ts
    | dsimp only

theorem State.replayOne_on {z : State} (s : State) (p : Nat) (x : Spooled) (h_s : Onward z (s)) :
    OnwardO z (State.replayOne s p x) := by
  unfold State.replayOne
  repeat' first
    | with_reducible intro _
    | with_reducible first
      | assumption | apply onO_some | apply onO_none | apply onF_some | apply onF_none | apply on_ite
      | apply onO_ite | apply State.landPacket_on | apply State.ringFill_on | apply State.writeGrans_on
      | apply goodC_ite | apply goodT_ite | apply goodC_foldl | apply goodH_foldl | apply goodT_foldl
      | apply on_foldl | apply on_foldl_fst | apply on_foldl_snd | apply onO_foldl | apply onF_foldl
      | apply onF_map | apply onF_mapO | apply onO_mapF | apply onO_map
    | simp only [on_mk_iff, goodC_mk_iff, goodH_mk_iff]
    | with_reducible apply goodT_ts
    | with_reducible apply goodC_ts
    | dsimp only
    | split
    | (apply on_fst; with_reducible assumption)
    | (apply on_snd; with_reducible assumption)
    | (apply on_someF'; with_reducible assumption)
    | (apply on_some; with_reducible assumption)
    | (apply on_someF; with_reducible assumption)
    | (apply on_next; with_reducible assumption)

theorem State.replay_on {z : State} (s : State) (p : Nat) (ms : List Spooled) (h_s : Onward z (s)) :
    Onward z (State.replay s p ms).1 := by
  induction ms generalizing s with
  | nil =>
    unfold State.replay
    repeat' first
      | with_reducible intro _
      | with_reducible first
        | assumption | apply onO_some | apply onO_none | apply onF_some | apply onF_none | apply ih
        | apply State.replayOne_on | apply goodC_ite | apply goodT_ite
      | simp only [on_mk_iff, goodC_mk_iff, goodH_mk_iff]
      | with_reducible apply goodT_ts
      | with_reducible apply goodC_ts
      | dsimp only
      | split
      | (apply on_fst; with_reducible assumption)
      | (apply on_snd; with_reducible assumption)
      | (apply on_someF'; with_reducible assumption)
      | (apply on_some; with_reducible assumption)
      | (apply on_someF; with_reducible assumption)
      | (apply on_next; with_reducible assumption)
  | cons e rest ih =>
    unfold State.replay
    repeat' first
      | with_reducible intro _
      | with_reducible first
        | assumption | apply onO_some | apply onO_none | apply onF_some | apply onF_none | apply ih
        | apply State.replayOne_on | apply goodC_ite | apply goodT_ite
      | simp only [on_mk_iff, goodC_mk_iff, goodH_mk_iff]
      | with_reducible apply goodT_ts
      | with_reducible apply goodC_ts
      | dsimp only
      | split
      | (apply on_fst; with_reducible assumption)
      | (apply on_snd; with_reducible assumption)
      | (apply on_someF'; with_reducible assumption)
      | (apply on_some; with_reducible assumption)
      | (apply on_someF; with_reducible assumption)
      | (apply on_next; with_reducible assumption)

theorem State.replaySpool_on {z : State} (s : State) (p : Nat) (h_s : Onward z (s)) :
    Onward z (State.replaySpool s p) := by
  unfold State.replaySpool
  repeat' first
    | with_reducible intro _
    | with_reducible first
      | assumption | apply onO_some | apply onO_none | apply onF_some | apply onF_none | apply State.replay_on
      | apply goodC_ite | apply goodT_ite
    | simp only [on_mk_iff, goodC_mk_iff, goodH_mk_iff]
    | with_reducible apply goodT_ts
    | with_reducible apply goodC_ts
    | dsimp only
    | split
    | (apply on_fst; with_reducible assumption)
    | (apply on_snd; with_reducible assumption)
    | (apply on_someF'; with_reducible assumption)
    | (apply on_some; with_reducible assumption)
    | (apply on_someF; with_reducible assumption)
    | (apply on_next; with_reducible assumption)

theorem State.recovered_on {z : State} (s : State) (p : Nat) (r : Recovery) (h_s : Onward z (s)) :
    Onward z (State.recovered s p r) := by
  unfold State.recovered
  repeat' first
    | with_reducible intro _
    | with_reducible first
      | assumption | apply onO_some | apply onO_none | apply onF_some | apply onF_none | apply State.applyHeld_on
      | apply State.refreshRecov_on | apply State.toWindow_on | apply State.overCores_on | apply State.toPart_on
      | apply State.logEvent_on | apply State.setCore_on | apply State.core_on | apply State.inc_on
      | apply State.put_on | apply goodC_ite | apply goodT_ite
    | simp only [on_mk_iff, goodC_mk_iff, goodH_mk_iff]
    | with_reducible apply goodT_ts
    | with_reducible apply goodC_ts
    | dsimp only

theorem State.recovSubst_on {z : State} (s : State) (p : Nat) (r : Recovery) (h_s : Onward z (s)) :
    Onward z (State.recovSubst s p r) := by
  unfold State.recovSubst
  repeat' first
    | with_reducible intro _
    | with_reducible first
      | assumption | apply onO_some | apply onO_none | apply onF_some | apply onF_none | apply on_ite
      | apply onO_ite | apply State.setRecov_on | apply State.substitute_on | apply State.eject_on
      | apply goodC_ite | apply goodT_ite
    | simp only [on_mk_iff, goodC_mk_iff, goodH_mk_iff]
    | with_reducible apply goodT_ts
    | with_reducible apply goodC_ts
    | dsimp only
    | split
    | (apply on_fst; with_reducible assumption)
    | (apply on_snd; with_reducible assumption)
    | (apply on_someF'; with_reducible assumption)
    | (apply on_some; with_reducible assumption)
    | (apply on_someF; with_reducible assumption)
    | (apply on_next; with_reducible assumption)

theorem State.recovStep_on {z : State} (s : State) (p : Nat) (h_s : Onward z (s)) :
    Onward z (State.recovStep s p) := by
  unfold State.recovStep
  repeat' first
    | with_reducible intro _
    | with_reducible first
      | assumption | apply onO_some | apply onO_none | apply onF_some | apply onF_none | apply on_ite
      | apply onO_ite | apply State.recovSubst_on | apply State.recovered_on | apply State.replaySpool_on
      | apply State.setRecov_on | apply State.atTick_on | apply State.eject_on | apply State.creditAll_on
      | apply goodC_ite | apply goodT_ite
    | simp only [on_mk_iff, goodC_mk_iff, goodH_mk_iff]
    | with_reducible apply goodT_ts
    | with_reducible apply goodC_ts
    | dsimp only
    | split
    | (apply on_fst; with_reducible assumption)
    | (apply on_snd; with_reducible assumption)
    | (apply on_someF'; with_reducible assumption)
    | (apply on_some; with_reducible assumption)
    | (apply on_someF; with_reducible assumption)
    | (apply on_next; with_reducible assumption)

theorem execRecoveryPhaseComplete_on {z : State} (p : Part) (s : State) (h_s : Onward z (s)) :
    OnwardA z (execRecoveryPhaseComplete p s) := by
  unfold execRecoveryPhaseComplete
  repeat' first
    | with_reducible intro _
    | with_reducible first
      | assumption | apply onA_next | apply onA_refused | apply State.recovStep_on
    | with_reducible apply goodT_ts
    | with_reducible apply goodC_ts
    | dsimp only

theorem State.routerFault_on {z : State} (s : State) (k : Nat) (h_s : Onward z (s)) :
    Onward z (State.routerFault s k) := by
  unfold State.routerFault
  repeat' first
    | with_reducible intro _
    | with_reducible first
      | assumption | apply onO_some | apply onO_none | apply onF_some | apply onF_none | apply on_ite
      | apply onO_ite | apply State.strike_on | apply State.refreshSpares_on | apply State.logEvent_on
      | apply State.raisePF_on | apply State.setIsl_on | apply State.put_on | apply goodC_ite | apply goodT_ite
      | apply onF_map | apply onF_mapO | apply onO_mapF | apply onO_map
    | simp only [on_mk_iff, goodC_mk_iff, goodH_mk_iff]
    | with_reducible apply goodT_ts
    | with_reducible apply goodC_ts
    | dsimp only
    | split
    | (apply on_fst; with_reducible assumption)
    | (apply on_snd; with_reducible assumption)
    | (apply on_someF'; with_reducible assumption)
    | (apply on_some; with_reducible assumption)
    | (apply on_someF; with_reducible assumption)
    | (apply on_next; with_reducible assumption)

theorem execRouterFault_on {z : State} (k : Cluster) (s : State) (h_s : Onward z (s)) :
    OnwardA z (execRouterFault k s) := by
  unfold execRouterFault
  repeat' first
    | with_reducible intro _
    | with_reducible first
      | assumption | apply onA_next | apply onA_refused | apply State.routerFault_on
    | with_reducible apply goodT_ts
    | with_reducible apply goodC_ts
    | dsimp only

theorem State.quench_on {z : State} (s : State) (i q hot amps : Nat) (h_s : Onward z (s)) :
    Onward z (State.quench s i q hot amps) := by
  unfold State.quench
  repeat' first
    | with_reducible intro _
    | with_reducible first
      | assumption | apply onO_some | apply onO_none | apply onF_some | apply onF_none | apply on_ite
      | apply onO_ite | apply State.strike_on | apply State.coreRailOff_on | apply State.setPresent_on
      | apply State.logEvent_on | apply State.raisePF_on | apply State.setFlag_on | apply State.put_on
      | apply goodC_ite | apply goodT_ite | apply goodC_foldl | apply goodH_foldl | apply goodT_foldl
      | apply on_foldl | apply on_foldl_fst | apply on_foldl_snd | apply onO_foldl | apply onF_foldl
    | with_reducible apply goodT_ts
    | with_reducible apply goodC_ts
    | dsimp only
    | split

theorem execIslandQuench_on {z : State} (i : Island) (reason : Fin 5) (hot : BitVec 8) (amps : BitVec 16) (s : State) (h_s : Onward z (s)) :
    OnwardA z (execIslandQuench i reason hot amps s) := by
  unfold execIslandQuench
  repeat' first
    | with_reducible intro _
    | with_reducible first
      | assumption | apply onA_next | apply onA_refused | apply onA_ite | apply on_ite | apply onO_ite
      | apply State.quench_on
    | with_reducible apply goodT_ts
    | with_reducible apply goodC_ts
    | dsimp only
    | split

theorem State.harborFault_on {z : State} (s : State) (h : Nat) (h_s : Onward z (s)) :
    Onward z (State.harborFault s h) := by
  unfold State.harborFault
  repeat' first
    | with_reducible intro _
    | with_reducible first
      | assumption | apply onO_some | apply onO_none | apply onF_some | apply onF_none | apply on_ite
      | apply onO_ite | apply State.strike_on | apply State.setHarbor_on | apply State.harbor_on
      | apply State.refreshFerry_on | apply State.logEvent_on | apply State.raisePF_on | apply goodC_ite
      | apply goodT_ite | apply goodH_ite | apply goodC_foldl | apply goodH_foldl | apply goodT_foldl
      | apply on_foldl | apply on_foldl_fst | apply on_foldl_snd | apply onO_foldl | apply onF_foldl
    | simp only [on_mk_iff, goodC_mk_iff, goodH_mk_iff]
    | with_reducible apply goodT_ts
    | with_reducible apply goodC_ts
    | dsimp only
    | split

theorem execHarborFault_on {z : State} (h : Harbor) (s : State) (h_s : Onward z (s)) :
    OnwardA z (execHarborFault h s) := by
  unfold execHarborFault
  repeat' first
    | with_reducible intro _
    | with_reducible first
      | assumption | apply onA_next | apply onA_refused | apply State.harborFault_on | apply goodH_ite
    | with_reducible apply goodT_ts
    | with_reducible apply goodC_ts
    | dsimp only

theorem State.oeFault_on {z : State} (s : State) (d : Nat) (h_s : Onward z (s)) :
    Onward z (State.oeFault s d) := by
  unfold State.oeFault
  repeat' first
    | with_reducible intro _
    | with_reducible first
      | assumption | apply onO_some | apply onO_none | apply onF_some | apply onF_none | apply State.portTo_on
      | apply State.logEvent_on | apply State.raisePF_on | apply goodC_foldl | apply goodH_foldl
      | apply goodT_foldl | apply on_foldl | apply on_foldl_fst | apply on_foldl_snd | apply onO_foldl
      | apply onF_foldl
    | with_reducible apply goodT_ts
    | with_reducible apply goodC_ts
    | dsimp only

theorem execOeFault_on {z : State} (d : Fin 4) (s : State) (h_s : Onward z (s)) :
    OnwardA z (execOeFault d s) := by
  unfold execOeFault
  repeat' first
    | with_reducible intro _
    | with_reducible first
      | assumption | apply onA_next | apply onA_refused | apply State.oeFault_on
    | with_reducible apply goodT_ts
    | with_reducible apply goodC_ts
    | dsimp only

theorem execHubFault_on {z : State} (s : State) (h_s : Onward z (s)) :
    OnwardA z (execHubFault s) := by
  unfold execHubFault
  repeat' first
    | with_reducible intro _
    | with_reducible first
      | assumption | apply onA_next | apply onA_refused | apply onA_ite | apply on_ite | apply onO_ite
      | apply State.hubFault_on
    | with_reducible apply goodT_ts
    | with_reducible apply goodC_ts
    | dsimp only
    | split

end Sys2Proof.Machine
end

