-- ==== Sys2Proof/Laws/OnTenancy.lean ====
section
/-! SUPPORT. What each operation of Machine/Tenancy.lean leaves in order. -/

namespace Sys2Proof.Machine

theorem State.tenCode_on {z : State} (s : State) (who : Option Nat) (code : Nat) (h_s : Onward z (s)) :
    Onward z (State.tenCode s who code) := by
  unfold State.tenCode
  repeat' first
    | with_reducible intro _
    | with_reducible first
      | assumption | apply onO_some | apply onO_none | apply onF_some | apply onF_none | apply State.put_on
      | apply goodC_ite | apply goodT_ite
    | simp only [on_mk_iff, goodC_mk_iff, goodH_mk_iff]
    | with_reducible apply goodT_ts
    | with_reducible apply goodC_ts
    | dsimp only
    | split
    | (apply on_fst; with_reducible assumption)
    | (apply on_snd; with_reducible assumption)
    | (apply on_someF'; with_reducible assumption)
    | (apply on_some; with_reducible assumption)
    | (apply on_someF; with_reducible assumption)
    | (apply on_next; with_reducible assumption)

theorem State.tenAnswer_on {z : State} (s : State) (who : Option Nat) (r : Option State) (h_s : Onward z (s)) (h_r : OnwardO z (r)) :
    Onward z (State.tenAnswer s who r) := by
  unfold State.tenAnswer
  cases r with
  | none => exact State.tenCode_on _ _ _ h_s
  | some t => exact State.tenCode_on _ _ _ (h_r t rfl)

theorem State.setOwner_on {z : State} (s : State) (p : Nat) (o : Option Nat) (h_s : Onward z (s)) :
    Onward z (State.setOwner s p o) := by
  unfold State.setOwner
  repeat' first
    | with_reducible intro _
    | with_reducible first
      | assumption | apply State.setFlag_on | apply State.put_on | apply on_getD | apply on_getD_fst
    | with_reducible apply goodT_ts
    | with_reducible apply goodC_ts
    | dsimp only

theorem State.create_on {z : State} (s : State) (a mask : Nat) (h_s : Onward z (s)) :
    OnwardO z (State.create s a mask) := by
  unfold State.create
  repeat' first
    | with_reducible intro _
    | with_reducible first
      | assumption | apply onO_some | apply onO_none | apply onF_some | apply onF_none | apply on_ite
      | apply onO_ite | apply State.setOwner_on | apply State.put_on | apply goodC_ite | apply goodT_ite
      | apply goodC_foldl | apply goodH_foldl | apply goodT_foldl | apply on_foldl | apply on_foldl_fst
      | apply on_foldl_snd | apply onO_foldl | apply onF_foldl
    | simp only [on_mk_iff, goodC_mk_iff, goodH_mk_iff]
    | with_reducible apply goodT_ts
    | with_reducible apply goodC_ts
    | dsimp only
    | split
    | (apply on_fst; with_reducible assumption)
    | (apply on_snd; with_reducible assumption)
    | (apply on_someF'; with_reducible assumption)
    | (apply on_some; with_reducible assumption)
    | (apply on_someF; with_reducible assumption)
    | (apply on_next; with_reducible assumption)

theorem execPartCreate_on {z : State} (s : State) (h_s : Onward z (s)) :
    OnwardA z (execPartCreate s) := by
  unfold execPartCreate
  repeat' first
    | with_reducible intro _
    | with_reducible first
      | assumption | apply onA_next | apply onA_refused | apply onO_some | apply onO_none | apply onF_some
      | apply onF_none | apply State.create_on | apply State.tenAnswer_on
    | with_reducible apply goodT_ts
    | with_reducible apply goodC_ts
    | dsimp only

theorem State.destroy_on {z : State} (s : State) (p : Nat) (h_s : Onward z (s)) :
    OnwardO z (State.destroy s p) := by
  unfold State.destroy
  repeat' first
    | with_reducible intro _
    | with_reducible first
      | assumption | apply onO_some | apply onO_none | apply onF_some | apply onF_none | apply on_ite
      | apply onO_ite | apply State.put_on | apply State.setReg_on | apply goodC_foldl | apply goodH_foldl
      | apply goodT_foldl | apply on_foldl | apply on_foldl_fst | apply on_foldl_snd | apply onO_foldl
      | apply onF_foldl
    | with_reducible apply goodT_ts
    | with_reducible apply goodC_ts
    | dsimp only
    | split

theorem execPartDestroy_on {z : State} (s : State) (h_s : Onward z (s)) :
    OnwardA z (execPartDestroy s) := by
  unfold execPartDestroy
  repeat' first
    | with_reducible intro _
    | with_reducible first
      | assumption | apply onA_next | apply onA_refused | apply onO_some | apply onO_none | apply onF_some
      | apply onF_none | apply State.destroy_on | apply State.tenAnswer_on
    | with_reducible apply goodT_ts
    | with_reducible apply goodC_ts
    | dsimp only

theorem State.assign_on {z : State} (s : State) (a : Nat) (h_s : Onward z (s)) :
    OnwardO z (State.assign s a) := by
  unfold State.assign
  repeat' first
    | with_reducible intro _
    | with_reducible first
      | assumption | apply onO_some | apply onO_none | apply onF_some | apply onF_none | apply on_ite
      | apply onO_ite | apply State.setOwner_on
    | with_reducible apply goodT_ts
    | with_reducible apply goodC_ts
    | dsimp only
    | split

theorem execPartAssign_on {z : State} (s : State) (h_s : Onward z (s)) :
    OnwardA z (execPartAssign s) := by
  unfold execPartAssign
  repeat' first
    | with_reducible intro _
    | with_reducible first
      | assumption | apply onA_next | apply onA_refused | apply onO_some | apply onO_none | apply onF_some
      | apply onF_none | apply State.assign_on | apply State.tenAnswer_on
    | with_reducible apply goodT_ts
    | with_reducible apply goodC_ts
    | dsimp only

theorem State.preempt_on {z : State} (s : State) (who : Option Nat) (args : List Nat) (h_s : Onward z (s)) :
    OnwardO z (State.preempt s who args) := by
  unfold State.preempt
  repeat' first
    | with_reducible intro _
    | with_reducible first
      | assumption | apply onO_some | apply onO_none | apply onF_some | apply onF_none | apply on_ite
      | apply onO_ite | apply State.toPart_on | apply goodC_ite | apply goodT_ite | apply on_getD
      | apply on_getD_fst
    | simp only [on_mk_iff, goodC_mk_iff, goodH_mk_iff]
    | with_reducible apply goodT_ts
    | with_reducible apply goodC_ts
    | dsimp only
    | split

theorem execPreempt_on {z : State} (s : State) (h_s : Onward z (s)) :
    OnwardA z (execPreempt s) := by
  unfold execPreempt
  repeat' first
    | with_reducible intro _
    | with_reducible first
      | assumption | apply onA_next | apply onA_refused | apply onO_some | apply onO_none | apply onF_some
      | apply onF_none | apply State.preempt_on | apply State.tenAnswer_on
    | with_reducible apply goodT_ts
    | with_reducible apply goodC_ts
    | dsimp only

theorem State.stopGroup_on {z : State} (s : State) (p : Nat) (h_s : Onward z (s)) :
    Onward z (State.stopGroup s p) := by
  unfold State.stopGroup
  repeat' first
    | with_reducible intro _
    | with_reducible first
      | assumption | apply onO_some | apply onO_none | apply onF_some | apply onF_none | apply on_ite
      | apply onO_ite | apply State.atTick_on | apply State.preemptCore_on | apply State.overCores_on
      | apply goodC_ite | apply goodT_ite | apply onF_map | apply onF_mapO | apply onO_mapF | apply onO_map
    | simp only [on_mk_iff, goodC_mk_iff, goodH_mk_iff]
    | with_reducible apply goodT_ts
    | with_reducible apply goodC_ts
    | dsimp only
    | split
    | (apply on_fst; with_reducible assumption)
    | (apply on_snd; with_reducible assumption)
    | (apply on_someF'; with_reducible assumption)
    | (apply on_some; with_reducible assumption)
    | (apply on_someF; with_reducible assumption)
    | (apply on_next; with_reducible assumption)

theorem execPreemptStopTick_on {z : State} (p : Part) (s : State) (h_s : Onward z (s)) :
    OnwardA z (execPreemptStopTick p s) := by
  unfold execPreemptStopTick
  repeat' first
    | with_reducible intro _
    | with_reducible first
      | assumption | apply onA_next | apply onA_refused | apply State.stopGroup_on
    | with_reducible apply goodT_ts
    | with_reducible apply goodC_ts
    | dsimp only

theorem State.record__on {z : State} (s : State) (p : Nat) (j : JobSt) (r : MoveRun) (h_s : Onward z (s)) :
    ∀ e ∈ (State.record_ s p j r).cores, GoodC z e.2 := by
  intro e he
  obtain ⟨c, _, rfl⟩ := List.mem_map.mp he
  exact State.core_on s c h_s

theorem State.endSaved_on {z : State} (s : State) (on : SavedJob → Bool) (h_s : Onward z (s)) :
    Onward z (State.endSaved s on) := by
  unfold State.endSaved
  extract_lets hit s1
  have g : Onward z s1 := by
    refine on_foldl (fun s j h => ?_) _ _ h_s
    split
    · exact h
    · exact State.inc_on _ _ (State.acct_on _ _ _ _ h)
  refine on_saved g fun j hj e he => ?_
  obtain ⟨b, hb, rfl⟩ := List.mem_map.mp hj
  refine saved_good g b hb e ?_
  split at he <;> exact he

theorem State.writeSet_on {z : State} (s : State) (j : SavedJob) (h_s : Onward z (s)) (h_j : ∀ e ∈ (j).cores, GoodC z e.2) :
    Onward z (State.writeSet s j) := by
  unfold State.writeSet
  extract_lets s1 s2
  have a : Onward z s1 := State.endSaved_on _ _ h_s
  have b : Onward z s2 := by
    refine on_saved a fun q hq => ?_
    rcases List.mem_append.mp hq with h | h
    · exact saved_good a q (List.mem_of_mem_filter h)
    · rw [List.mem_singleton.mp h]
      exact h_j
  refine on_foldl (fun s k h => ?_) _ _ b
  split
  · exact State.setObjBytes_on _ _ _ _ h
  · exact h

theorem State.leavePart_on {z : State} (s : State) (p : Nat) (h_s : Onward z (s)) :
    Onward z (State.leavePart s p) := by
  unfold State.leavePart
  repeat' first
    | with_reducible intro _
    | with_reducible first
      | assumption | apply State.refreshFerry_on | apply State.releaseHarbors_on | apply State.setJobBits_on
      | apply State.creditAll_on | apply State.toPart_on | apply State.refreshJobLock_on | apply goodC_ite
      | apply goodT_ite | apply goodH_ite
    | simp only [on_mk_iff, goodC_mk_iff, goodH_mk_iff]
    | with_reducible apply goodT_ts
    | with_reducible apply goodC_ts
    | dsimp only

theorem State.saveOutcome_on {z : State} (s : State) (p : Nat) (j : SavedJob) (lost : Option Nat) (h_s : Onward z (s)) (h_j : ∀ e ∈ (j).cores, GoodC z e.2) :
    Onward z (State.saveOutcome s p j lost) := by
  unfold State.saveOutcome
  split
  · exact State.eject_on _ _ _ _ (State.writeSet_on _ _ h_s h_j)
  · extract_lets s1 s2
    have a : Onward z s1 := State.leavePart_on _ _ (State.writeSet_on _ _ h_s h_j)
    have b : Onward z s2 := by
      unfold s2
      split
      · exact State.acct_on _ _ _ _ a
      · exact a
    exact State.raisePart_on _ _ _ (State.put_on _ _ _ (State.overCores_on _ _ _ b fun _ _ h => State.clearCore_on _ _ h))

theorem State.saveComplete_on {z : State} (s : State) (p : Nat) (h_s : Onward z (s)) :
    Onward z (State.saveComplete s p) := by
  unfold State.saveComplete
  split
  · rename_i r j _ _
    split
    · dsimp only
      have a : Onward z (if r.group then s.atTick (BitVec.ofNat 64 (r.tick.toNat + s.get TEN_CTRL_WINDOW_US * 1200)) else s) :=
        on_ite (State.atTick_on _ _ h_s) h_s
      generalize (if r.group then s.atTick (BitVec.ofNat 64 (r.tick.toNat + s.get TEN_CTRL_WINDOW_US * 1200)) else s) = s0 at a ⊢
      have b : Onward z ((s0.creditAll p).overCores p State.emptyCache) :=
        State.overCores_on _ _ _ (State.creditAll_on _ _ a) fun _ _ h => State.emptyCache_on _ _ h
      generalize (s0.creditAll p).overCores p State.emptyCache = s1 at b ⊢
      exact State.saveOutcome_on _ _ _ _ b (State.record__on _ _ _ _ b)
    · exact h_s
  · exact h_s

theorem execSaveComplete_on {z : State} (p : Part) (s : State) (h_s : Onward z (s)) :
    OnwardA z (execSaveComplete p s) := by
  unfold execSaveComplete
  repeat' first
    | with_reducible intro _
    | with_reducible first
      | assumption | apply onA_next | apply onA_refused | apply State.saveComplete_on
    | with_reducible apply goodT_ts
    | with_reducible apply goodC_ts
    | dsimp only

theorem State.resume_on {z : State} (s : State) (who : Option Nat) (args : List Nat) (h_s : Onward z (s)) :
    OnwardO z (State.resume s who args) := by
  unfold State.resume
  repeat' first
    | with_reducible intro _
    | with_reducible first
      | assumption | apply onO_some | apply onO_none | apply onF_some | apply onF_none | apply on_ite
      | apply onO_ite | apply State.creditAll_on | apply State.toPart_on | apply State.refreshJobLock_on
      | apply goodC_ite | apply goodT_ite | apply on_getD | apply on_getD_fst
    | simp only [on_mk_iff, goodC_mk_iff, goodH_mk_iff]
    | with_reducible apply goodT_ts
    | with_reducible apply goodC_ts
    | dsimp only
    | split
    | (apply on_fst; with_reducible assumption)
    | (apply on_snd; with_reducible assumption)
    | (apply on_someF'; with_reducible assumption)
    | (apply on_some; with_reducible assumption)
    | (apply on_someF; with_reducible assumption)
    | (apply on_next; with_reducible assumption)

theorem execResume_on {z : State} (s : State) (h_s : Onward z (s)) :
    OnwardA z (execResume s) := by
  unfold execResume
  repeat' first
    | with_reducible intro _
    | with_reducible first
      | assumption | apply onA_next | apply onA_refused | apply onO_some | apply onO_none | apply onF_some
      | apply onF_none | apply State.resume_on | apply State.tenAnswer_on
    | with_reducible apply goodT_ts
    | with_reducible apply goodC_ts
    | dsimp only

theorem State.restore_on {z : State} (s : State) (p : Nat) (j : SavedJob) (h_s : Onward z (s)) (h_j : ∀ e ∈ (j).cores, GoodC z e.2) :
    Onward z (State.restore s p j) := by
  unfold State.restore
  dsimp only
  refine State.refreshFerry_on _ (on_foldl ?_ _ _ ?_)
  · exact fun s e h => State.setHarbor_on _ _ _ h (State.harbor_on _ _ h)
  refine on_foldl (fun s e h => ?_) _ _ ?_
  · split
    · exact State.setHarbor_on _ _ _ h (State.harbor_on _ _ h)
    · exact h
  · refine ⟨h_s.1, h_s.2.1, h_s.2.2.1, fun w => rising_insertAll _ (rising_filter _ (h_s.2.2.2.1 w)), h_s.2.2.2.2.1, fun w => ?_⟩
    have k := (Memory.wf_iff s).mp (h_s.mem w)
    refine (Memory.wf_iff _).mpr ⟨k.1, fun e he => ?_, k.2.2⟩
    exact goodC_insertAll (f := fun k => { k with preempt := false }) j.cores h_j (cores_good h_s) e he w

theorem State.resumeTick_on {z : State} (s : State) (p : Nat) (complete : Bool) (h_s : Onward z (s)) :
    Onward z (State.resumeTick s p complete) := by
  unfold State.resumeTick
  split
  · exact h_s
  · rename_i r _
    split
    · exact h_s
    · rename_i j e
      extract_lets +onlyGivenNames s0
      have a : Onward z s0 := State.atTick_on _ _ h_s
      clear_value s0
      split
      · extract_lets +onlyGivenNames s1
        have b : Onward z s1 := by
          refine State.overCores_on _ _ _ (State.setJobBits_on _ _ _ (State.restore_on _ _ _ a ?_)) ?_
          · exact saved_good h_s j (List.mem_of_find?_eq_some e)
          · exact fun _ _ h => State.toWindow_on _ _ h
        clear_value s1
        extract_lets +onlyGivenNames s2
        have c : Onward z s2 := State.unsave_on _ _ b
        clear_value s2
        extract_lets +onlyGivenNames s3
        have d : Onward z s3 := by
          refine State.toPart_on _ _ _ ?_
          simp only [on_mk_iff]
          exact c
        clear_value s3
        refine State.raisePart_on _ _ _ (State.put_on _ _ _ ?_)
        split
        · exact State.showEntry_on _ _ _ _ d
        · exact d
      · split
        · exact State.raisePart_on _ _ _ (State.put_on _ _ _ (State.wipePart_on _ _ (State.leavePart_on _ _ a)))
        · exact h_s

theorem execResumeTick_on {z : State} (p : Part) (complete : Bool) (s : State) (h_s : Onward z (s)) :
    OnwardA z (execResumeTick p complete s) := by
  unfold execResumeTick
  repeat' first
    | with_reducible intro _
    | with_reducible first
      | assumption | apply onA_next | apply onA_refused | apply State.resumeTick_on
    | with_reducible apply goodT_ts
    | with_reducible apply goodC_ts
    | dsimp only

theorem State.discard_on {z : State} (s : State) (who : Option Nat) (handle : Nat) (h_s : Onward z (s)) :
    OnwardO z (State.discard s who handle) := by
  unfold State.discard
  split
  · exact onO_none
  · split
    · rename_i j _ _
      have g := State.endSaved_on s (fun q => decide (q.part = j.part) && decide (q.handles = j.handles)) h_s
      exact onO_some (on_saved g fun q hq => saved_good g q (List.mem_of_mem_filter hq))
    · exact onO_none

theorem execDiscard_on {z : State} (s : State) (h_s : Onward z (s)) :
    OnwardA z (execDiscard s) := by
  unfold execDiscard
  repeat' first
    | with_reducible intro _
    | with_reducible first
      | assumption | apply onA_next | apply onA_refused | apply onO_some | apply onO_none | apply onF_some
      | apply onF_none | apply State.discard_on | apply State.tenAnswer_on
    | with_reducible apply goodT_ts
    | with_reducible apply goodC_ts
    | dsimp only

theorem State.resetPiece_on {z : State} (s : State) (scope target cluster : Nat) (h_s : Onward z (s)) :
    OnwardO z (State.resetPiece s scope target cluster) := by
  unfold State.resetPiece
  repeat' first
    | with_reducible intro _
    | with_reducible first
      | assumption | apply onO_some | apply onO_none | apply onF_some | apply onF_none | apply on_ite
      | apply onO_ite | apply goodC_ite | apply goodT_ite
    | simp only [on_mk_iff, goodC_mk_iff, goodH_mk_iff]
    | with_reducible apply goodT_ts
    | with_reducible apply goodC_ts
    | dsimp only
    | split
    | (apply on_fst; with_reducible assumption)
    | (apply on_snd; with_reducible assumption)
    | (apply on_someF'; with_reducible assumption)
    | (apply on_some; with_reducible assumption)
    | (apply on_someF; with_reducible assumption)
    | (apply on_next; with_reducible assumption)

theorem execResetCore_on {z : State} (s : State) (h_s : Onward z (s)) :
    OnwardA z (execResetCore s) := by
  unfold execResetCore
  repeat' first
    | with_reducible intro _
    | with_reducible first
      | assumption | apply onA_next | apply onA_refused | apply onO_some | apply onO_none | apply onF_some
      | apply onF_none | apply State.resetPiece_on | apply State.tenAnswer_on
    | with_reducible apply goodT_ts
    | with_reducible apply goodC_ts
    | dsimp only

theorem execResetCluster_on {z : State} (s : State) (h_s : Onward z (s)) :
    OnwardA z (execResetCluster s) := by
  unfold execResetCluster
  repeat' first
    | with_reducible intro _
    | with_reducible first
      | assumption | apply onA_next | apply onA_refused | apply onO_some | apply onO_none | apply onF_some
      | apply onF_none | apply State.resetPiece_on | apply State.tenAnswer_on
    | with_reducible apply goodT_ts
    | with_reducible apply goodC_ts
    | dsimp only

theorem State.resetJob_on {z : State} (s : State) (p : Nat) (h_s : Onward z (s)) :
    Onward z (State.resetJob s p) := by
  unfold State.resetJob
  repeat' first
    | with_reducible intro _
    | with_reducible first
      | assumption | apply on_ite | apply onO_ite | apply State.leavePart_on | apply State.closeJob_on
      | apply State.toPart_on | apply State.put_on
    | with_reducible apply goodT_ts
    | with_reducible apply goodC_ts
    | dsimp only
    | split

theorem State.resetPart_on {z : State} (s : State) (p : Nat) (fromPF byFlr : Bool) (h_s : Onward z (s)) :
    OnwardO z (State.resetPart s p fromPF byFlr) := by
  unfold State.resetPart
  repeat' first
    | with_reducible intro _
    | with_reducible first
      | assumption | apply onO_some | apply onO_none | apply onF_some | apply onF_none | apply on_ite
      | apply onO_ite | apply State.resetJob_on | apply State.endSaved_on | apply State.resetBindings_on
      | apply State.setFlag_on | apply goodC_ite | apply goodT_ite | apply onF_map | apply onF_mapO
      | apply onO_mapF | apply onO_map
    | simp only [on_mk_iff, goodC_mk_iff, goodH_mk_iff]
    | with_reducible apply goodT_ts
    | with_reducible apply goodC_ts
    | dsimp only
    | split

theorem execResetPartition_on {z : State} (s : State) (h_s : Onward z (s)) :
    OnwardA z (execResetPartition s) := by
  unfold execResetPartition
  repeat' first
    | with_reducible intro _
    | with_reducible first
      | assumption | apply onA_next | apply onA_refused | apply onO_some | apply onO_none | apply onF_some
      | apply onF_none | apply State.resetPart_on | apply State.tenAnswer_on
    | with_reducible apply goodT_ts
    | with_reducible apply goodC_ts
    | dsimp only

theorem State.packageWarm_on {z : State} (s : State) (h_s : Onward z (s)) :
    Onward z (State.packageWarm s) := by
  unfold State.packageWarm
  repeat' first
    | with_reducible intro _
    | with_reducible first
      | assumption | apply on_ite | apply onO_ite | apply State.warmReset_on
    | with_reducible apply goodT_ts
    | with_reducible apply goodC_ts
    | dsimp only
    | split

theorem execResetWarm_on {z : State} (s : State) (h_s : Onward z (s)) :
    OnwardA z (execResetWarm s) := by
  unfold execResetWarm
  repeat' first
    | with_reducible intro _
    | with_reducible first
      | assumption | apply onA_next | apply onA_refused | apply onO_some | apply onO_none | apply onF_some
      | apply onF_none | apply State.packageWarm_on | apply State.tenCode_on
    | with_reducible apply goodT_ts
    | with_reducible apply goodC_ts
    | dsimp only

theorem State.cutCores_on {z : State} (s : State) (cs : List Nat) (h_s : Onward z (s)) :
    Onward z (State.cutCores s cs) := by
  unfold State.cutCores
  dsimp only
  refine on_foldl ?_ _ _ ?_
  · exact fun s c h => State.setCore_on _ _ _ h (State.core_on s c h)
  · refine on_harbors h_s (goodH_map (harbors_good h_s) ?_)
    exact fun _ h => h

theorem State.drainCut_on {z : State} (s : State) (p : Nat) (h_s : Onward z (s)) :
    Onward z (State.drainCut s p) := by
  unfold State.drainCut
  repeat' first
    | with_reducible intro _
    | with_reducible first
      | assumption | apply onO_some | apply onO_none | apply onF_some | apply onF_none | apply on_ite
      | apply onO_ite | apply State.cutCores_on | apply State.drained_on | apply State.eject_on
      | apply State.setFlag_on | apply goodC_ite | apply goodT_ite | apply onF_map | apply onF_mapO
      | apply onO_mapF | apply onO_map
    | simp only [on_mk_iff, goodC_mk_iff, goodH_mk_iff]
    | with_reducible apply goodT_ts
    | with_reducible apply goodC_ts
    | dsimp only
    | split
    | (apply on_fst; with_reducible assumption)
    | (apply on_snd; with_reducible assumption)
    | (apply on_someF'; with_reducible assumption)
    | (apply on_some; with_reducible assumption)
    | (apply on_someF; with_reducible assumption)
    | (apply on_next; with_reducible assumption)

theorem execDrainCut_on {z : State} (p : Part) (s : State) (h_s : Onward z (s)) :
    OnwardA z (execDrainCut p s) := by
  unfold execDrainCut
  repeat' first
    | with_reducible intro _
    | with_reducible first
      | assumption | apply onA_next | apply onA_refused | apply State.drainCut_on
    | with_reducible apply goodT_ts
    | with_reducible apply goodC_ts
    | dsimp only

theorem State.flrDone_on {z : State} (s : State) (t : Nat) (h_s : Onward z (s)) :
    Onward z (State.flrDone s t) := by
  unfold State.flrDone
  repeat' first
    | with_reducible intro _
    | with_reducible first
      | assumption | apply onO_some | apply onO_none | apply onF_some | apply onF_none | apply on_ite
      | apply onO_ite | apply State.raiseVF_on | apply State.setFlag_on
    | with_reducible apply goodT_ts
    | with_reducible apply goodC_ts
    | dsimp only
    | split

theorem State.resetComplete_on {z : State} (s : State) (i : Nat) (h_s : Onward z (s)) :
    Onward z (State.resetComplete s i) := by
  unfold State.resetComplete
  repeat' first
    | with_reducible intro _
    | with_reducible first
      | assumption | apply onO_some | apply onO_none | apply onF_some | apply onF_none | apply on_ite
      | apply onO_ite | apply State.flrDone_on | apply State.cutCores_on | apply State.emptyCache_on
      | apply State.afterReset_on | apply HarborSt.afterReset_on | apply State.wipePart_on
      | apply State.wipeCluster_on | apply State.wipeCore_on | apply State.clearCore_on | apply State.toPart_on
      | apply State.raisePart_on | apply State.put_on | apply goodC_ite | apply goodT_ite | apply goodC_foldl
      | apply goodH_foldl | apply goodT_foldl | apply on_foldl | apply on_foldl_fst | apply on_foldl_snd
      | apply onO_foldl | apply onF_foldl
    | simp only [on_mk_iff, goodC_mk_iff, goodH_mk_iff]
    | with_reducible apply goodT_ts
    | with_reducible apply goodC_ts
    | dsimp only
    | split
    | (apply on_fst; with_reducible assumption)
    | (apply on_snd; with_reducible assumption)
    | (apply on_someF'; with_reducible assumption)
    | (apply on_some; with_reducible assumption)
    | (apply on_someF; with_reducible assumption)
    | (apply on_next; with_reducible assumption)

theorem execResetComplete_on {z : State} (index : Nat) (s : State) (h_s : Onward z (s)) :
    OnwardA z (execResetComplete index s) := by
  unfold execResetComplete
  repeat' first
    | with_reducible intro _
    | with_reducible first
      | assumption | apply onA_next | apply onA_refused | apply State.resetComplete_on
    | with_reducible apply goodT_ts
    | with_reducible apply goodC_ts
    | dsimp only

theorem State.flr_on {z : State} (s : State) (t : Nat) (h_s : Onward z (s)) :
    Onward z (State.flr s t) := by
  unfold State.flr
  dsimp only
  refine State.flrDone_on _ _ (State.endSaved_on _ _ ?_)
  refine on_foldl (fun s p h => ?_) _ _ ?_
  · split
    · exact on_getD (State.resetPart_on _ _ _ _ h) h
    · exact h
  · have a := on_foldl (z := z) (f := fun (s : State) (e : Nat × ReqStream) => s.closeStream e.1)
      (fun _ _ h => State.closeStream_on _ _ h) (s.streams.filter fun e => decide (e.2.tenant = t)) s h_s
    have b := State.setFlag_on _ (TEN_VF_CTRL_FLR_BUSY t) true (State.setReg_on _ (DB_OBJ_RET t) 0 (State.setReg_on _ (DB_ASYNC t) 0
      (State.setReg_on _ (DB_PSEL t) 0 (State.setReg_on _ (DB_CLAMP t) 0 a))))
    refine on_harbors b (goodH_map (harbors_good b) ?_)
    exact fun _ h => h

theorem execFunctionLevelReset_on {z : State} (t : Tenant) (s : State) (h_s : Onward z (s)) :
    OnwardA z (execFunctionLevelReset t s) := by
  unfold execFunctionLevelReset
  repeat' first
    | with_reducible intro _
    | with_reducible first
      | assumption | apply onA_next | apply onA_refused | apply onA_ite | apply on_ite | apply onO_ite
      | apply State.flr_on
    | with_reducible apply goodT_ts
    | with_reducible apply goodC_ts
    | dsimp only
    | split

theorem State.writeKey_on {z : State} (s : State) (h_s : Onward z (s)) :
    Onward z (State.writeKey s) := by
  unfold State.writeKey
  dsimp only
  split
  · exact State.clampAt_on _ _ _ _ _ _ h_s
  · refine on_harbors h_s (goodH_map (harbors_good h_s) ?_)
    exact fun _ h => h

theorem execKeySlotWrite_on {z : State} (s : State) (h_s : Onward z (s)) :
    OnwardA z (execKeySlotWrite s) := by
  unfold execKeySlotWrite
  repeat' first
    | with_reducible intro _
    | with_reducible first
      | assumption | apply onA_next | apply onA_refused | apply State.writeKey_on
    | with_reducible apply goodT_ts
    | with_reducible apply goodC_ts
    | dsimp only

theorem State.writeMask_on {z : State} (s : State) (who : Option Nat) (m : Nat) (h_s : Onward z (s)) :
    Onward z (State.writeMask s who m) := by
  unfold State.writeMask
  repeat' first
    | with_reducible intro _
    | with_reducible first
      | assumption | apply onO_some | apply onO_none | apply onF_some | apply onF_none | apply on_ite
      | apply onO_ite | apply State.message_on | apply State.put_on | apply goodC_ite | apply goodT_ite
      | apply goodC_foldl | apply goodH_foldl | apply goodT_foldl | apply on_foldl | apply on_foldl_fst
      | apply on_foldl_snd | apply onO_foldl | apply onF_foldl
    | simp only [on_mk_iff, goodC_mk_iff, goodH_mk_iff]
    | with_reducible apply goodT_ts
    | with_reducible apply goodC_ts
    | dsimp only
    | split
    | (apply on_fst; with_reducible assumption)
    | (apply on_snd; with_reducible assumption)
    | (apply on_someF'; with_reducible assumption)
    | (apply on_some; with_reducible assumption)
    | (apply on_someF; with_reducible assumption)
    | (apply on_next; with_reducible assumption)

theorem execCauseMaskWrite_on {z : State} (who : Option Tenant) (mask : Word) (s : State) (h_s : Onward z (s)) :
    OnwardA z (execCauseMaskWrite who mask s) := by
  unfold execCauseMaskWrite
  repeat' first
    | with_reducible intro _
    | with_reducible first
      | assumption | apply onA_next | apply onA_refused | apply State.writeMask_on | apply onF_map | apply onF_mapO
      | apply onO_mapF | apply onO_map
    | with_reducible apply goodT_ts
    | with_reducible apply goodC_ts
    | dsimp only

theorem execMsixMessage_on {z : State} (who : Option Tenant) (cause : Fin 32) (s : State) (h_s : Onward z (s)) :
    OnwardA z (execMsixMessage who cause s) := by
  unfold execMsixMessage
  repeat' first
    | with_reducible intro _
    | with_reducible first
      | assumption | apply onA_next | apply onA_refused | apply onA_ite | apply onO_some | apply onO_none
      | apply onF_some | apply onF_none | apply on_ite | apply onO_ite | apply State.raisePF_on
      | apply State.raiseVF_on | apply goodC_ite | apply goodT_ite
    | simp only [on_mk_iff, goodC_mk_iff, goodH_mk_iff]
    | with_reducible apply goodT_ts
    | with_reducible apply goodC_ts
    | dsimp only
    | split
    | (apply on_fst; with_reducible assumption)
    | (apply on_snd; with_reducible assumption)
    | (apply on_someF'; with_reducible assumption)
    | (apply on_some; with_reducible assumption)
    | (apply on_someF; with_reducible assumption)
    | (apply on_next; with_reducible assumption)

theorem execTokenModerationExpire_on {z : State} (t : Tenant) (s : State) (h_s : Onward z (s)) :
    OnwardA z (execTokenModerationExpire t s) := by
  unfold execTokenModerationExpire
  repeat' first
    | with_reducible intro _
    | with_reducible first
      | assumption | apply onA_next | apply onA_refused | apply onA_ite | apply onO_some | apply onO_none
      | apply onF_some | apply onF_none | apply on_ite | apply onO_ite | apply State.atTick_on
      | apply State.raiseVF_on | apply goodC_ite | apply goodT_ite
    | simp only [on_mk_iff, goodC_mk_iff, goodH_mk_iff]
    | with_reducible apply goodT_ts
    | with_reducible apply goodC_ts
    | dsimp only
    | split
    | (apply on_fst; with_reducible assumption)
    | (apply on_snd; with_reducible assumption)
    | (apply on_someF'; with_reducible assumption)
    | (apply on_some; with_reducible assumption)
    | (apply on_someF; with_reducible assumption)
    | (apply on_next; with_reducible assumption)

theorem execPartFault_on {z : State} (p : Part) (code : BitVec 8) (c : LCore) (s : State) (h_s : Onward z (s)) :
    OnwardA z (execPartFault p code c s) := by
  unfold execPartFault
  repeat' first
    | with_reducible intro _
    | with_reducible first
      | assumption | apply onA_next | apply onA_refused | apply onA_ite | apply on_ite | apply onO_ite
      | apply State.partFault_on
    | with_reducible apply goodT_ts
    | with_reducible apply goodC_ts
    | dsimp only
    | split

end Sys2Proof.Machine
end

