-- ==== Sys2Proof/Laws/OnBoot.lean ====
section
/-! SUPPORT. What each operation of Machine/Boot.lean leaves in order. -/

namespace Sys2Proof.Machine

theorem State.setPads_on {z : State} (s : State) (p : Pads) (h_s : Onward z (s)) :
    Onward z (State.setPads s p) := by
  unfold State.setPads
  repeat' first
    | with_reducible intro _
    | with_reducible first
      | assumption | apply goodC_ite | apply goodT_ite
    | simp only [on_mk_iff, goodC_mk_iff, goodH_mk_iff]
    | with_reducible apply goodT_ts
    | with_reducible apply goodC_ts
    | dsimp only

theorem State.setBoot_on {z : State} (s : State) (b : BootSt) (h_s : Onward z (s)) :
    Onward z (State.setBoot s b) := by
  unfold State.setBoot
  repeat' first
    | with_reducible intro _
    | with_reducible first
      | assumption | apply goodC_ite | apply goodT_ite
    | simp only [on_mk_iff, goodC_mk_iff, goodH_mk_iff]
    | with_reducible apply goodT_ts
    | with_reducible apply goodC_ts
    | dsimp only

theorem State.clampMgt_on {z : State} (s : State) (r : Reg) (h_s : Onward z (s)) :
    Onward z (State.clampMgt s r) := by
  unfold State.clampMgt
  repeat' first
    | with_reducible intro _
    | with_reducible first
      | assumption | apply State.clampAt_on
    | with_reducible apply goodT_ts
    | with_reducible apply goodC_ts
    | dsimp only

theorem State.standbyLost_on {z : State} (s : State) (h_s : Onward z (s)) :
    Onward z (State.standbyLost s) := by
  have g := State.railsOff_on _ h_s
  exact ⟨g.1, g.2.1, g.2.2.1, fun _ => rfl, g.2.2.2.2⟩

theorem execStandbyRailGood_on {z : State} (s : State) (h_s : Onward z (s)) :
    OnwardA z (execStandbyRailGood s) := by
  unfold execStandbyRailGood
  repeat' first
    | with_reducible intro _
    | with_reducible first
      | assumption | apply onA_next | apply onA_refused | apply onA_ite | apply on_ite | apply onO_ite
      | apply State.coldReset_on | apply goodC_ite | apply goodT_ite
    | simp only [on_mk_iff, goodC_mk_iff, goodH_mk_iff]
    | with_reducible apply goodT_ts
    | with_reducible apply goodC_ts
    | dsimp only
    | split

theorem execStandbyRailLost_on {z : State} (s : State) (h_s : Onward z (s)) :
    OnwardA z (execStandbyRailLost s) := by
  unfold execStandbyRailLost
  repeat' first
    | with_reducible intro _
    | with_reducible first
      | assumption | apply onA_next | apply onA_refused | apply onA_ite | apply on_ite | apply onO_ite
      | apply State.standbyLost_on
    | with_reducible apply goodT_ts
    | with_reducible apply goodC_ts
    | dsimp only
    | split

theorem execVstbyOutOfLimits_on {z : State} (s : State) (h_s : Onward z (s)) :
    OnwardA z (execVstbyOutOfLimits s) := by
  unfold execVstbyOutOfLimits
  repeat' first
    | with_reducible intro _
    | with_reducible first
      | assumption | apply onA_next | apply onA_refused | apply onA_ite | apply on_ite | apply onO_ite
      | apply State.standbyLost_on
    | with_reducible apply goodT_ts
    | with_reducible apply goodC_ts
    | dsimp only
    | split

theorem State.powerLost_on {z : State} (s : State) (h_s : Onward z (s)) :
    Onward z (State.powerLost s) := by
  unfold State.powerLost
  repeat' first
    | with_reducible intro _
    | with_reducible first
      | assumption | apply onO_some | apply onO_none | apply onF_some | apply onF_none | apply on_ite
      | apply onO_ite | apply State.enterHub_on | apply State.railsOff_on | apply State.toPhase_on
      | apply State.logEvent_on | apply State.setFlag_on | apply goodC_ite | apply goodT_ite
    | simp only [on_mk_iff, goodC_mk_iff, goodH_mk_iff]
    | with_reducible apply goodT_ts
    | with_reducible apply goodC_ts
    | dsimp only
    | split

theorem State.powerBack_on {z : State} (s : State) (h_s : Onward z (s)) :
    Onward z (State.powerBack s) := by
  unfold State.powerBack
  repeat' first
    | with_reducible intro _
    | with_reducible first
      | assumption | apply on_ite | apply onO_ite | apply State.enterHub_on | apply State.hubEnable_on
      | apply State.beginAttempt_on
    | with_reducible apply goodT_ts
    | with_reducible apply goodC_ts
    | dsimp only
    | split

theorem execPwrOkRise_on {z : State} (s : State) (h_s : Onward z (s)) :
    OnwardA z (execPwrOkRise s) := by
  unfold execPwrOkRise
  repeat' first
    | with_reducible intro _
    | with_reducible first
      | assumption | apply onA_next | apply onA_refused | apply State.powerBack_on | apply State.setPads_on
      | apply goodC_ite | apply goodT_ite
    | simp only [on_mk_iff, goodC_mk_iff, goodH_mk_iff]
    | with_reducible apply goodT_ts
    | with_reducible apply goodC_ts
    | dsimp only

theorem execPwrOkFall_on {z : State} (s : State) (h_s : Onward z (s)) :
    OnwardA z (execPwrOkFall s) := by
  unfold execPwrOkFall
  repeat' first
    | with_reducible intro _
    | with_reducible first
      | assumption | apply onA_next | apply onA_refused | apply State.powerLost_on | apply State.setPads_on
      | apply goodC_ite | apply goodT_ite
    | simp only [on_mk_iff, goodC_mk_iff, goodH_mk_iff]
    | with_reducible apply goodT_ts
    | with_reducible apply goodC_ts
    | dsimp only

theorem execVin12Fault_on {z : State} (s : State) (h_s : Onward z (s)) :
    OnwardA z (execVin12Fault s) := by
  unfold execVin12Fault
  repeat' first
    | with_reducible intro _
    | with_reducible first
      | assumption | apply onA_next | apply onA_refused | apply State.powerLost_on | apply State.setPads_on
      | apply goodC_ite | apply goodT_ite
    | simp only [on_mk_iff, goodC_mk_iff, goodH_mk_iff]
    | with_reducible apply goodT_ts
    | with_reducible apply goodC_ts
    | dsimp only

theorem execVin12WithinLimits_on {z : State} (s : State) (h_s : Onward z (s)) :
    OnwardA z (execVin12WithinLimits s) := by
  unfold execVin12WithinLimits
  repeat' first
    | with_reducible intro _
    | with_reducible first
      | assumption | apply onA_next | apply onA_refused | apply State.powerBack_on | apply State.setPads_on
      | apply goodC_ite | apply goodT_ite
    | simp only [on_mk_iff, goodC_mk_iff, goodH_mk_iff]
    | with_reducible apply goodT_ts
    | with_reducible apply goodC_ts
    | dsimp only

theorem execHubRailTimeout_on {z : State} (s : State) (h_s : Onward z (s)) :
    OnwardA z (execHubRailTimeout s) := by
  unfold execHubRailTimeout
  repeat' first
    | with_reducible intro _
    | with_reducible first
      | assumption | apply onA_next | apply onA_refused | apply onA_ite | apply on_ite | apply onO_ite
      | apply State.failStart_on
    | with_reducible apply goodT_ts
    | with_reducible apply goodC_ts
    | dsimp only
    | split

theorem State.computeRegs_on {z : State} (s : State) (h_s : Onward z (s)) :
    Onward z (State.computeRegs s) := by
  unfold State.computeRegs
  repeat' first
    | with_reducible intro _
    | with_reducible first
      | assumption | apply State.resetRegs_on
    | with_reducible apply goodT_ts
    | with_reducible apply goodC_ts
    | dsimp only

theorem State.computeOff_on {z : State} (s : State) (h_s : Onward z (s)) :
    Onward z (State.computeOff s) := by
  unfold State.computeOff
  extract_lets s1 s2
  have a : Onward z s1 := on_foldl (fun _ _ h => State.coreRailOff_on _ _ h) _ _ h_s
  have b : Onward z s2 := on_foldl (fun _ _ h => State.portTo_on _ _ _ _ h) _ _ a
  exact State.computeRegs_on _ (on_harbors b (goodH_map (harbors_good b) fun _ h => HarborSt.afterReset_on _ h))

theorem State.coolLost_on {z : State} (s : State) (h_s : Onward z (s)) :
    Onward z (State.coolLost s) := by
  unfold State.coolLost
  repeat' first
    | with_reducible intro _
    | with_reducible first
      | assumption | apply on_ite | apply onO_ite | apply State.computeOff_on | apply State.setBoot_on
      | apply State.quench_on | apply State.toPhase_on | apply goodC_ite | apply goodT_ite | apply goodH_ite
      | apply goodC_foldl | apply goodH_foldl | apply goodT_foldl | apply on_foldl | apply on_foldl_fst
      | apply on_foldl_snd | apply onO_foldl | apply onF_foldl
    | simp only [on_mk_iff, goodC_mk_iff, goodH_mk_iff]
    | with_reducible apply goodT_ts
    | with_reducible apply goodC_ts
    | dsimp only
    | split

theorem execCoolLossTimeout_on {z : State} (s : State) (h_s : Onward z (s)) :
    OnwardA z (execCoolLossTimeout s) := by
  unfold execCoolLossTimeout
  repeat' first
    | with_reducible intro _
    | with_reducible first
      | assumption | apply onA_next | apply onA_refused | apply State.coolLost_on
    | with_reducible apply goodT_ts
    | with_reducible apply goodC_ts
    | dsimp only

theorem execCoolOkRise_on {z : State} (s : State) (h_s : Onward z (s)) :
    OnwardA z (execCoolOkRise s) := by
  unfold execCoolOkRise
  repeat' first
    | with_reducible intro _
    | with_reducible first
      | assumption | apply onA_next | apply onA_refused | apply State.setPads_on | apply goodC_ite
      | apply goodT_ite
    | simp only [on_mk_iff, goodC_mk_iff, goodH_mk_iff]
    | with_reducible apply goodT_ts
    | with_reducible apply goodC_ts
    | dsimp only

theorem execCoolOkFall_on {z : State} (s : State) (h_s : Onward z (s)) :
    OnwardA z (execCoolOkFall s) := by
  unfold execCoolOkFall
  repeat' first
    | with_reducible intro _
    | with_reducible first
      | assumption | apply onA_next | apply onA_refused | apply onA_ite | apply on_ite | apply onO_ite
      | apply State.setPads_on | apply State.beginAttempt_on | apply State.toPhase_on | apply goodC_ite
      | apply goodT_ite | apply onF_map | apply onF_mapO | apply onO_mapF | apply onO_map
    | simp only [on_mk_iff, goodC_mk_iff, goodH_mk_iff]
    | with_reducible apply goodT_ts
    | with_reducible apply goodC_ts
    | dsimp only
    | split

theorem State.firmwareUp_on {z : State} (s : State) (slot : Nat) (h_s : Onward z (s)) :
    Onward z (State.firmwareUp s slot) := by
  unfold State.firmwareUp
  repeat' first
    | with_reducible intro _
    | with_reducible first
      | assumption | apply onO_some | apply onO_none | apply onF_some | apply onF_none | apply State.setFlag_on
      | apply State.put_on | apply goodC_ite | apply goodT_ite
    | simp only [on_mk_iff, goodC_mk_iff, goodH_mk_iff]
    | with_reducible apply goodT_ts
    | with_reducible apply goodC_ts
    | dsimp only
    | split
    | (apply on_fst; with_reducible assumption)
    | (apply on_snd; with_reducible assumption)
    | (apply on_someF'; with_reducible assumption)
    | (apply on_some; with_reducible assumption)
    | (apply on_someF; with_reducible assumption)
    | (apply on_next; with_reducible assumption)

theorem State.fuseLoad_on {z : State} (s : State) (h_s : Onward z (s)) :
    Onward z (State.fuseLoad s) := by
  unfold State.fuseLoad
  repeat' first
    | with_reducible intro _
    | with_reducible first
      | assumption | apply State.setPresent_on | apply State.put_on | apply goodC_foldl | apply goodH_foldl
      | apply goodT_foldl | apply on_foldl | apply on_foldl_fst | apply on_foldl_snd | apply onO_foldl
      | apply onF_foldl
    | with_reducible apply goodT_ts
    | with_reducible apply goodC_ts
    | dsimp only

theorem State.harborUp_on {z : State} (s : State) (r : BootResult) (h_s : Onward z (s)) :
    Onward z (State.harborUp s r) := by
  unfold State.harborUp
  repeat' first
    | with_reducible intro _
    | with_reducible first
      | assumption | apply on_ite | apply onO_ite | apply State.setBoot_on | apply State.failStart_on
      | apply State.toPhase_on | apply State.put_on | apply goodC_ite | apply goodT_ite | apply goodC_foldl
      | apply goodH_foldl | apply goodT_foldl | apply on_foldl | apply on_foldl_fst | apply on_foldl_snd
      | apply onO_foldl | apply onF_foldl
    | simp only [on_mk_iff, goodC_mk_iff, goodH_mk_iff]
    | with_reducible apply goodT_ts
    | with_reducible apply goodC_ts
    | dsimp only
    | split

theorem State.failPos_on {z : State} (s : State) (i pos : Nat) (h_s : Onward z (s)) :
    Onward z (State.failPos s i pos) := by
  unfold State.failPos
  repeat' first
    | with_reducible intro _
    | with_reducible first
      | assumption | apply on_ite | apply onO_ite | apply State.setIsl_on | apply goodC_ite | apply goodT_ite
    | simp only [on_mk_iff, goodC_mk_iff, goodH_mk_iff]
    | with_reducible apply goodT_ts
    | with_reducible apply goodC_ts
    | dsimp only
    | split

theorem State.remap_on {z : State} (s : State) (i : Nat) (h_s : Onward z (s)) :
    Onward z (State.remap s i) := by
  unfold State.remap
  repeat' first
    | with_reducible intro _
    | with_reducible first
      | assumption | apply onO_some | apply onO_none | apply onF_some | apply onF_none | apply on_ite
      | apply onO_ite | apply State.coreRailOff_on | apply State.setPresent_on | apply State.setIsl_on
      | apply State.put_on | apply goodC_ite | apply goodT_ite | apply goodC_foldl | apply goodH_foldl
      | apply goodT_foldl | apply on_foldl | apply on_foldl_fst | apply on_foldl_snd | apply onO_foldl
      | apply onF_foldl
    | simp only [on_mk_iff, goodC_mk_iff, goodH_mk_iff]
    | with_reducible apply goodT_ts
    | with_reducible apply goodC_ts
    | dsimp only
    | split
    | (apply on_fst; with_reducible assumption)
    | (apply on_snd; with_reducible assumption)
    | (apply on_someF'; with_reducible assumption)
    | (apply on_some; with_reducible assumption)
    | (apply on_someF; with_reducible assumption)
    | (apply on_next; with_reducible assumption)

theorem State.writeRec_on {z : State} (s : State) (i n : Nat) (voff : Int) (cls temp : Nat) (h_s : Onward z (s)) :
    Onward z (State.writeRec s i n voff cls temp) := by
  unfold State.writeRec
  repeat' first
    | with_reducible intro _
    | with_reducible first
      | assumption | apply on_ite | apply onO_ite | apply State.setIsl_on | apply State.setFlag_on
      | apply State.put_on | apply goodC_ite | apply goodT_ite
    | simp only [on_mk_iff, goodC_mk_iff, goodH_mk_iff]
    | with_reducible apply goodT_ts
    | with_reducible apply goodC_ts
    | dsimp only
    | split

theorem State.islTest_on {z : State} (s : State) (r : BootResult) (h_s : Onward z (s)) :
    Onward z (State.islTest s r) := by
  unfold State.islTest
  repeat' first
    | with_reducible intro _
    | with_reducible first
      | assumption | apply on_ite | apply onO_ite | apply State.writeRec_on | apply State.remap_on
      | apply State.failPos_on | apply goodC_ite | apply goodT_ite | apply goodC_foldl | apply goodH_foldl
      | apply goodT_foldl | apply on_foldl | apply on_foldl_fst | apply on_foldl_snd | apply onO_foldl
      | apply onF_foldl
    | with_reducible apply goodT_ts
    | with_reducible apply goodC_ts
    | dsimp only
    | split

theorem State.retireNear_on {z : State} (s : State) (h f : Nat) (h_s : Onward z (s)) :
    Onward z (State.retireNear s h f) := by
  unfold State.retireNear
  repeat' first
    | with_reducible intro _
    | with_reducible first
      | assumption | apply onO_some | apply onO_none | apply onF_some | apply onF_none | apply on_ite
      | apply onO_ite | apply State.setHarbor_on | apply State.harbor_on | apply State.logEvent_on
      | apply State.inc_on | apply goodC_ite | apply goodT_ite | apply goodH_ite
    | simp only [on_mk_iff, goodC_mk_iff, goodH_mk_iff]
    | with_reducible apply goodT_ts
    | with_reducible apply goodC_ts
    | dsimp only
    | split

theorem State.nearTest_on {z : State} (s : State) (r : BootResult) (h_s : Onward z (s)) :
    Onward z (State.nearTest s r) := by
  unfold State.nearTest
  repeat' first
    | with_reducible intro _
    | with_reducible first
      | assumption | apply on_ite | apply onO_ite | apply State.retireNear_on | apply State.failStart_on
      | apply State.toPhase_on | apply State.harbor_on | apply State.put_on | apply goodH_ite | apply goodC_foldl
      | apply goodH_foldl | apply goodT_foldl | apply on_foldl | apply on_foldl_fst | apply on_foldl_snd
      | apply onO_foldl | apply onF_foldl
    | with_reducible apply goodT_ts
    | with_reducible apply goodC_ts
    | dsimp only
    | split

theorem State.midTest_on {z : State} (s : State) (r : BootResult) (h_s : Onward z (s)) :
    Onward z (State.midTest s r) := by
  unfold State.midTest
  repeat' first
    | with_reducible intro _
    | with_reducible first
      | assumption | apply on_ite | apply onO_ite | apply State.failStart_on | apply State.toPhase_on
      | apply State.setHarbor_on | apply State.harbor_on | apply State.put_on | apply goodC_ite | apply goodT_ite
      | apply goodH_ite | apply goodC_foldl | apply goodH_foldl | apply goodT_foldl | apply on_foldl
      | apply on_foldl_fst | apply on_foldl_snd | apply onO_foldl | apply onF_foldl | apply onF_map
      | apply onF_mapO | apply onO_mapF | apply onO_map
    | simp only [on_mk_iff, goodC_mk_iff, goodH_mk_iff]
    | with_reducible apply goodT_ts
    | with_reducible apply goodC_ts
    | dsimp only
    | split

theorem State.mountsDone_on {z : State} (s : State) (r : BootResult) (h_s : Onward z (s)) :
    OnwardO z (State.mountsDone s r) := by
  unfold State.mountsDone
  repeat' first
    | with_reducible intro _
    | with_reducible first
      | assumption | apply onO_some | apply onO_none | apply onF_some | apply onF_none | apply on_ite
      | apply onO_ite | apply State.toTrain_on | apply State.toPhase_on | apply State.refreshCap_on
      | apply State.put_on | apply goodC_foldl | apply goodH_foldl | apply goodT_foldl | apply on_foldl
      | apply on_foldl_fst | apply on_foldl_snd | apply onO_foldl | apply onF_foldl | apply onF_map
      | apply onF_mapO | apply onO_mapF | apply onO_map
    | with_reducible apply goodT_ts
    | with_reducible apply goodC_ts
    | dsimp only
    | split

theorem State.linkJudge_on {z : State} (s : State) (h_s : Onward z (s)) :
    Onward z (State.linkJudge s) := by
  unfold State.linkJudge
  repeat' first
    | with_reducible intro _
    | with_reducible first
      | assumption | apply on_ite | apply onO_ite | apply State.reachReady_on | apply State.failStart_on
    | with_reducible apply goodT_ts
    | with_reducible apply goodC_ts
    | dsimp only
    | split

theorem State.phaseNext_on {z : State} (s : State) (r : BootResult) (h_s : Onward z (s)) :
    OnwardO z (State.phaseNext s r) := by
  unfold State.phaseNext
  repeat' first
    | with_reducible intro _
    | with_reducible first
      | assumption | apply onO_some | apply onO_none | apply onF_some | apply onF_none | apply on_ite
      | apply onO_ite | apply State.linkJudge_on | apply State.mountsDone_on | apply State.midTest_on
      | apply State.nearTest_on | apply State.islTest_on | apply State.harborUp_on | apply State.fuseLoad_on
      | apply State.firmwareUp_on | apply State.setPads_on | apply State.failStart_on | apply State.enterHub_on
      | apply State.toPhase_on | apply State.put_on | apply goodC_ite | apply goodT_ite | apply goodH_ite
    | simp only [on_mk_iff, goodC_mk_iff, goodH_mk_iff]
    | with_reducible apply goodT_ts
    | with_reducible apply goodC_ts
    | dsimp only
    | split
    | (apply on_fst; with_reducible assumption)
    | (apply on_snd; with_reducible assumption)
    | (apply on_someF'; with_reducible assumption)
    | (apply on_some; with_reducible assumption)
    | (apply on_someF; with_reducible assumption)
    | (apply on_next; with_reducible assumption)

theorem execBootPhaseComplete_on {z : State} (r : BootResult) (s : State) (h_s : Onward z (s)) :
    OnwardA z (execBootPhaseComplete r s) := by
  unfold execBootPhaseComplete
  repeat' first
    | with_reducible intro _
    | with_reducible first
      | assumption | apply onA_next | apply onA_refused | apply State.phaseNext_on | apply State.setBoot_on
      | apply goodC_ite | apply goodT_ite | apply on_getD | apply on_getD_fst
    | simp only [on_mk_iff, goodC_mk_iff, goodH_mk_iff]
    | with_reducible apply goodT_ts
    | with_reducible apply goodC_ts
    | dsimp only

theorem execRetryWaitExpire_on {z : State} (s : State) (h_s : Onward z (s)) :
    OnwardA z (execRetryWaitExpire s) := by
  unfold execRetryWaitExpire
  repeat' first
    | with_reducible intro _
    | with_reducible first
      | assumption | apply onA_next | apply onA_refused | apply onA_ite | apply on_ite | apply onO_ite
      | apply State.enterHub_on | apply State.beginAttempt_on
    | with_reducible apply goodT_ts
    | with_reducible apply goodC_ts
    | dsimp only
    | split

theorem execLinkTrainTimeout_on {z : State} (s : State) (h_s : Onward z (s)) :
    OnwardA z (execLinkTrainTimeout s) := by
  unfold execLinkTrainTimeout
  repeat' first
    | with_reducible intro _
    | with_reducible first
      | assumption | apply onA_next | apply onA_refused | apply onA_ite | apply on_ite | apply onO_ite
      | apply State.linkJudge_on
    | with_reducible apply goodT_ts
    | with_reducible apply goodC_ts
    | dsimp only
    | split

theorem State.rampUp_on {z : State} (s : State) (i : Nat) (h_s : Onward z (s)) :
    Onward z (State.rampUp s i) := by
  unfold State.rampUp
  repeat' first
    | with_reducible intro _
    | with_reducible first
      | assumption | apply State.setPresent_on | apply State.setIsl_on | apply State.setFlag_on
      | apply State.put_on | apply goodC_ite | apply goodT_ite
    | simp only [on_mk_iff, goodC_mk_iff, goodH_mk_iff]
    | with_reducible apply goodT_ts
    | with_reducible apply goodC_ts
    | dsimp only

theorem State.startWave_on {z : State} (s : State) (h_s : Onward z (s)) :
    Onward z (State.startWave s) := by
  unfold State.startWave
  repeat' first
    | with_reducible intro _
    | with_reducible first
      | assumption | apply on_ite | apply onO_ite | apply State.rampUp_on | apply State.setBoot_on
      | apply goodC_ite | apply goodT_ite | apply goodC_foldl | apply goodH_foldl | apply goodT_foldl
      | apply on_foldl | apply on_foldl_fst | apply on_foldl_snd | apply onO_foldl | apply onF_foldl
    | simp only [on_mk_iff, goodC_mk_iff, goodH_mk_iff]
    | with_reducible apply goodT_ts
    | with_reducible apply goodC_ts
    | dsimp only
    | split

theorem execWaveStart_on {z : State} (s : State) (h_s : Onward z (s)) :
    OnwardA z (execWaveStart s) := by
  unfold execWaveStart
  repeat' first
    | with_reducible intro _
    | with_reducible first
      | assumption | apply onA_next | apply onA_refused | apply State.startWave_on
    | with_reducible apply goodT_ts
    | with_reducible apply goodC_ts
    | dsimp only

theorem State.softFault_on {z : State} (s : State) (i : Nat) (ramp : Bool) (h_s : Onward z (s)) :
    Onward z (State.softFault s i ramp) := by
  unfold State.softFault
  repeat' first
    | with_reducible intro _
    | with_reducible first
      | assumption | apply on_ite | apply onO_ite | apply State.coreRailOff_on | apply State.setPresent_on
      | apply State.setIsl_on | apply goodC_ite | apply goodT_ite
    | simp only [on_mk_iff, goodC_mk_iff, goodH_mk_iff]
    | with_reducible apply goodT_ts
    | with_reducible apply goodC_ts
    | dsimp only
    | split

theorem execSoftStartFault_on {z : State} (i : Island) (ramp : Bool) (s : State) (h_s : Onward z (s)) :
    OnwardA z (execSoftStartFault i ramp s) := by
  unfold execSoftStartFault
  repeat' first
    | with_reducible intro _
    | with_reducible first
      | assumption | apply onA_next | apply onA_refused | apply State.softFault_on
    | with_reducible apply goodT_ts
    | with_reducible apply goodC_ts
    | dsimp only

theorem execBootRestart_on {z : State} (s : State) (h_s : Onward z (s)) :
    OnwardA z (execBootRestart s) := by
  unfold execBootRestart
  repeat' first
    | with_reducible intro _
    | with_reducible first
      | assumption | apply onA_next | apply onA_refused | apply onA_ite | apply on_ite | apply onO_ite
      | apply State.clampMgt_on | apply State.enterHub_on | apply State.beginAttempt_on
    | with_reducible apply goodT_ts
    | with_reducible apply goodC_ts
    | dsimp only
    | split

theorem execBootClear_on {z : State} (s : State) (h_s : Onward z (s)) :
    OnwardA z (execBootClear s) := by
  unfold execBootClear
  repeat' first
    | with_reducible intro _
    | with_reducible first
      | assumption | apply onA_next | apply onA_refused | apply onA_ite | apply on_ite | apply onO_ite
      | apply State.clampMgt_on | apply State.put_on | apply goodC_ite | apply goodT_ite
    | simp only [on_mk_iff, goodC_mk_iff, goodH_mk_iff]
    | with_reducible apply goodT_ts
    | with_reducible apply goodC_ts
    | dsimp only
    | split

theorem execBootCfgWrite_on {z : State} (v : Word) (s : State) (h_s : Onward z (s)) :
    OnwardA z (execBootCfgWrite v s) := by
  unfold execBootCfgWrite
  repeat' first
    | with_reducible intro _
    | with_reducible first
      | assumption | apply onA_next | apply onA_refused | apply onA_ite | apply onO_some | apply onO_none
      | apply onF_some | apply onF_none | apply on_ite | apply onO_ite | apply State.clampMgt_on
      | apply State.setReg_on | apply goodC_ite | apply goodT_ite
    | simp only [on_mk_iff, goodC_mk_iff, goodH_mk_iff]
    | with_reducible apply goodT_ts
    | with_reducible apply goodC_ts
    | dsimp only
    | split

theorem execPerstBeforeReady_on {z : State} (s : State) (h_s : Onward z (s)) :
    OnwardA z (execPerstBeforeReady s) := by
  unfold execPerstBeforeReady
  repeat' first
    | with_reducible intro _
    | with_reducible first
      | assumption | apply onA_next | apply onA_refused | apply onA_ite | apply on_ite | apply onO_ite
      | apply goodC_ite | apply goodT_ite
    | simp only [on_mk_iff, goodC_mk_iff, goodH_mk_iff]
    | with_reducible apply goodT_ts
    | with_reducible apply goodC_ts
    | dsimp only
    | split

theorem execPerstDeassert_on {z : State} (s : State) (h_s : Onward z (s)) :
    OnwardA z (execPerstDeassert s) := by
  unfold execPerstDeassert
  repeat' first
    | with_reducible intro _
    | with_reducible first
      | assumption | apply onA_next | apply onA_refused | apply goodC_ite | apply goodT_ite
    | simp only [on_mk_iff, goodC_mk_iff, goodH_mk_iff]
    | with_reducible apply goodT_ts
    | with_reducible apply goodC_ts
    | dsimp only

theorem execJtagInstruction_on {z : State} (i : Fin 4) (s : State) (h_s : Onward z (s)) :
    OnwardA z (execJtagInstruction i s) := by
  unfold execJtagInstruction
  repeat' first
    | with_reducible intro _
    | with_reducible first
      | assumption | apply onA_next | apply onA_refused | apply onA_ite | apply on_ite | apply onO_ite
      | apply State.setPads_on | apply State.emit_on | apply goodC_ite | apply goodT_ite
    | simp only [on_mk_iff, goodC_mk_iff, goodH_mk_iff]
    | with_reducible apply goodT_ts
    | with_reducible apply goodC_ts
    | dsimp only
    | split

end Sys2Proof.Machine
end

