-- ==== Sys2Proof/Laws/OnObjects.lean ====
section
/-! SUPPORT. What each operation of Machine/Objects.lean leaves in order. -/

namespace Sys2Proof.Machine

theorem State.countFaults_on {z : State} (s : State) (h : Nat) (fs : List TileFault) (h_s : Onward z (s)) :
    Onward z (State.countFaults s h fs) := by
  unfold State.countFaults
  repeat' first
    | with_reducible intro _
    | with_reducible first
      | assumption | apply State.bump_on
    | with_reducible apply goodT_ts
    | with_reducible apply goodC_ts
    | dsimp only

theorem HarborSt.fillNear_on {z : State} (x : HarborSt) (frame : Nat) (bs : List PByte) (h_x : GoodH z (x)) :
    GoodH z (HarborSt.fillNear x frame bs) := by
  unfold HarborSt.fillNear
  repeat' first
    | with_reducible intro _
    | with_reducible first
      | assumption | apply putAll_on | apply HarborSt.nearPut_on | apply goodH_ite
    | simp only [on_mk_iff, goodC_mk_iff, goodH_mk_iff]
    | with_reducible apply goodT_ts
    | with_reducible apply goodC_ts
    | dsimp only

theorem State.landPage_on {z : State} (s : State) (h : Nat) (m : PageMove) (h_s : Onward z (s)) :
    Onward z (State.landPage s h m) := by
  unfold State.landPage
  repeat' first
    | with_reducible intro _
    | with_reducible first
      | assumption | apply onO_some | apply onO_none | apply onF_some | apply onF_none | apply on_ite
      | apply onO_ite | apply HarborSt.fillNear_on | apply State.countFaults_on | apply HarborSt.scrubMid_on
      | apply HarborSt.scrubNear_on | apply State.refreshCap_on | apply HarborSt.setObj_on
      | apply State.setHarbor_on | apply State.harbor_on | apply State.inc_on | apply goodC_ite | apply goodT_ite
      | apply goodH_ite
    | simp only [on_mk_iff, goodC_mk_iff, goodH_mk_iff]
    | with_reducible apply goodT_ts
    | with_reducible apply goodC_ts
    | dsimp only
    | split
    | (apply on_fst; with_reducible assumption)
    | (apply on_snd; with_reducible assumption)
    | (apply on_someF'; with_reducible assumption)
    | (apply on_some; with_reducible assumption)
    | (apply on_someF; with_reducible assumption)
    | (apply on_next; with_reducible assumption)

theorem State.endMove_on {z : State} (s : State) (h index : Nat) (far : Bool) (h_s : Onward z (s)) :
    Onward z (State.endMove s h index far) := by
  unfold State.endMove
  repeat' first
    | with_reducible intro _
    | with_reducible first
      | assumption | apply onO_some | apply onO_none | apply onF_some | apply onF_none | apply on_ite
      | apply onO_ite | apply State.landPage_on | apply State.harbor_on | apply goodC_ite | apply goodT_ite
      | apply goodH_ite
    | simp only [on_mk_iff, goodC_mk_iff, goodH_mk_iff]
    | with_reducible apply goodT_ts
    | with_reducible apply goodC_ts
    | dsimp only
    | split
    | (apply on_fst; with_reducible assumption)
    | (apply on_snd; with_reducible assumption)
    | (apply on_someF'; with_reducible assumption)
    | (apply on_some; with_reducible assumption)
    | (apply on_someF; with_reducible assumption)
    | (apply on_next; with_reducible assumption)

theorem execPageMoveSwitch_on {z : State} (h : Harbor) (index : Nat) (s : State) (h_s : Onward z (s)) :
    OnwardA z (execPageMoveSwitch h index s) := by
  unfold execPageMoveSwitch
  repeat' first
    | with_reducible intro _
    | with_reducible first
      | assumption | apply onA_next | apply onA_refused | apply State.endMove_on
    | with_reducible apply goodT_ts
    | with_reducible apply goodC_ts
    | dsimp only

theorem execPageLanding_on {z : State} (h : Harbor) (index : Nat) (s : State) (h_s : Onward z (s)) :
    OnwardA z (execPageLanding h index s) := by
  unfold execPageLanding
  repeat' first
    | with_reducible intro _
    | with_reducible first
      | assumption | apply onA_next | apply onA_refused | apply State.endMove_on
    | with_reducible apply goodT_ts
    | with_reducible apply goodC_ts
    | dsimp only

theorem execPageMoveRestart_on {z : State} (h : Harbor) (index : Nat) (g : Fin 1024) (grans : List Granule) (s : State) (h_s : Onward z (s)) :
    OnwardA z (execPageMoveRestart h index g grans s) := by
  unfold execPageMoveRestart
  repeat' first
    | with_reducible intro _
    | with_reducible first
      | assumption | apply onA_next | apply onA_refused | apply onO_some | apply onO_none | apply onF_some
      | apply onF_none | apply State.writePage_on | apply State.harbor_on | apply goodC_ite | apply goodT_ite
      | apply goodH_ite
    | simp only [on_mk_iff, goodC_mk_iff, goodH_mk_iff]
    | with_reducible apply goodT_ts
    | with_reducible apply goodC_ts
    | dsimp only
    | split
    | (apply on_fst; with_reducible assumption)
    | (apply on_snd; with_reducible assumption)
    | (apply on_someF'; with_reducible assumption)
    | (apply on_some; with_reducible assumption)
    | (apply on_someF; with_reducible assumption)
    | (apply on_next; with_reducible assumption)

theorem execPageHeatHalve_on {z : State} (h : Harbor) (s : State) (h_s : Onward z (s)) :
    OnwardA z (execPageHeatHalve h s) := by
  unfold execPageHeatHalve
  repeat' first
    | with_reducible intro _
    | with_reducible first
      | assumption | apply onA_next | apply onA_refused | apply State.setHarbor_on | apply State.harbor_on
      | apply goodC_ite | apply goodT_ite | apply goodH_ite | apply onF_map | apply onF_mapO | apply onO_mapF
      | apply onO_map
    | simp only [on_mk_iff, goodC_mk_iff, goodH_mk_iff]
    | with_reducible apply goodT_ts
    | with_reducible apply goodC_ts
    | dsimp only

theorem State.promoteFrame_on {z : State} (s : State) (h index page : Nat) (h_s : Onward z (s)) :
    OnwardF z (State.promoteFrame s h index page) := by
  unfold State.promoteFrame
  repeat' first
    | with_reducible intro _
    | with_reducible first
      | assumption | apply onO_some | apply onO_none | apply onF_some | apply onF_none | apply on_ite
      | apply onO_ite | apply State.takeNear_on | apply State.harbor_on | apply goodC_ite | apply goodT_ite
      | apply goodH_ite | apply on_getD | apply on_getD_fst
    | simp only [on_mk_iff, goodC_mk_iff, goodH_mk_iff]
    | with_reducible apply goodT_ts
    | with_reducible apply goodC_ts
    | dsimp only
    | split
    | (apply on_fst; with_reducible assumption)
    | (apply on_snd; with_reducible assumption)
    | (apply on_someF'; with_reducible assumption)
    | (apply on_some; with_reducible assumption)
    | (apply on_someF; with_reducible assumption)
    | (apply on_next; with_reducible assumption)

theorem State.promote_on {z : State} (s : State) (h index page : Nat) (h_s : Onward z (s)) :
    Onward z (State.promote s h index page) := by
  unfold State.promote
  repeat' first
    | with_reducible intro _
    | with_reducible first
      | assumption | apply onO_some | apply onO_none | apply onF_some | apply onF_none | apply on_ite
      | apply onO_ite | apply State.promoteFrame_on | apply State.setHarbor_on | apply State.harbor_on
      | apply goodC_ite | apply goodT_ite | apply goodH_ite
    | simp only [on_mk_iff, goodC_mk_iff, goodH_mk_iff]
    | with_reducible apply goodT_ts
    | with_reducible apply goodC_ts
    | dsimp only
    | split
    | (apply on_fst; with_reducible assumption)
    | (apply on_snd; with_reducible assumption)
    | (apply on_someF'; with_reducible assumption)
    | (apply on_some; with_reducible assumption)
    | (apply on_someF; with_reducible assumption)
    | (apply on_next; with_reducible assumption)

theorem execPagePromote_on {z : State} (h : Harbor) (index : Fin 1048576) (page : Nat) (s : State) (h_s : Onward z (s)) :
    OnwardA z (execPagePromote h index page s) := by
  unfold execPagePromote
  repeat' first
    | with_reducible intro _
    | with_reducible first
      | assumption | apply onA_next | apply onA_refused | apply State.promote_on
    | with_reducible apply goodT_ts
    | with_reducible apply goodC_ts
    | dsimp only

theorem State.allocNear_on {z : State} (s : State) (h index p n : Nat) (h_s : Onward z (s)) :
    OnwardO z (State.allocNear s h index p n) := by
  induction n generalizing s p with
  | zero =>
    unfold State.allocNear
    repeat' first
      | with_reducible intro _
      | with_reducible first
        | assumption | apply onO_some | apply onO_none | apply onF_some | apply onF_none | apply ih
        | apply State.takeNear_on | apply HarborSt.setObj_on | apply State.setHarbor_on | apply State.harbor_on
        | apply goodC_ite | apply goodT_ite | apply goodH_ite
      | simp only [on_mk_iff, goodC_mk_iff, goodH_mk_iff]
      | with_reducible apply goodT_ts
      | with_reducible apply goodC_ts
      | dsimp only
      | split
      | (apply on_fst; with_reducible assumption)
      | (apply on_snd; with_reducible assumption)
      | (apply on_someF'; with_reducible assumption)
      | (apply on_some; with_reducible assumption)
      | (apply on_someF; with_reducible assumption)
      | (apply on_next; with_reducible assumption)
  | succ m ih =>
    unfold State.allocNear
    repeat' first
      | with_reducible intro _
      | with_reducible first
        | assumption | apply onO_some | apply onO_none | apply onF_some | apply onF_none | apply ih
        | apply State.takeNear_on | apply HarborSt.setObj_on | apply State.setHarbor_on | apply State.harbor_on
        | apply goodC_ite | apply goodT_ite | apply goodH_ite
      | simp only [on_mk_iff, goodC_mk_iff, goodH_mk_iff]
      | with_reducible apply goodT_ts
      | with_reducible apply goodC_ts
      | dsimp only
      | split
      | (apply on_fst; with_reducible assumption)
      | (apply on_snd; with_reducible assumption)
      | (apply on_someF'; with_reducible assumption)
      | (apply on_some; with_reducible assumption)
      | (apply on_someF; with_reducible assumption)
      | (apply on_next; with_reducible assumption)

theorem State.allocMid_on {z : State} (s : State) (h index p n : Nat) (h_s : Onward z (s)) :
    OnwardO z (State.allocMid s h index p n) := by
  induction n generalizing s p with
  | zero =>
    unfold State.allocMid
    repeat' first
      | with_reducible intro _
      | with_reducible first
        | assumption | apply onO_some | apply onO_none | apply onF_some | apply onF_none | apply ih
        | apply HarborSt.setObj_on | apply State.setHarbor_on | apply State.harbor_on | apply goodC_ite
        | apply goodT_ite | apply goodH_ite
      | simp only [on_mk_iff, goodC_mk_iff, goodH_mk_iff]
      | with_reducible apply goodT_ts
      | with_reducible apply goodC_ts
      | dsimp only
      | split
      | (apply on_fst; with_reducible assumption)
      | (apply on_snd; with_reducible assumption)
      | (apply on_someF'; with_reducible assumption)
      | (apply on_some; with_reducible assumption)
      | (apply on_someF; with_reducible assumption)
      | (apply on_next; with_reducible assumption)
  | succ m ih =>
    unfold State.allocMid
    repeat' first
      | with_reducible intro _
      | with_reducible first
        | assumption | apply onO_some | apply onO_none | apply onF_some | apply onF_none | apply ih
        | apply HarborSt.setObj_on | apply State.setHarbor_on | apply State.harbor_on | apply goodC_ite
        | apply goodT_ite | apply goodH_ite
      | simp only [on_mk_iff, goodC_mk_iff, goodH_mk_iff]
      | with_reducible apply goodT_ts
      | with_reducible apply goodC_ts
      | dsimp only
      | split
      | (apply on_fst; with_reducible assumption)
      | (apply on_snd; with_reducible assumption)
      | (apply on_someF'; with_reducible assumption)
      | (apply on_some; with_reducible assumption)
      | (apply on_someF; with_reducible assumption)
      | (apply on_next; with_reducible assumption)

theorem State.allocFar_on {z : State} (s : State) (h index n : Nat) (h_s : Onward z (s)) :
    OnwardO z (State.allocFar s h index n) := by
  unfold State.allocFar
  repeat' first
    | with_reducible intro _
    | with_reducible first
      | assumption | apply onO_some | apply onO_none | apply onF_some | apply onF_none | apply on_ite
      | apply onO_ite | apply HarborSt.setObj_on | apply State.setHarbor_on | apply State.harbor_on
      | apply goodC_ite | apply goodT_ite | apply goodH_ite | apply goodC_foldl | apply goodH_foldl
      | apply goodT_foldl | apply on_foldl | apply on_foldl_fst | apply on_foldl_snd | apply onO_foldl
      | apply onF_foldl
    | simp only [on_mk_iff, goodC_mk_iff, goodH_mk_iff]
    | with_reducible apply goodT_ts
    | with_reducible apply goodC_ts
    | dsimp only
    | split
    | (apply on_fst; with_reducible assumption)
    | (apply on_snd; with_reducible assumption)
    | (apply on_someF'; with_reducible assumption)
    | (apply on_some; with_reducible assumption)
    | (apply on_someF; with_reducible assumption)
    | (apply on_next; with_reducible assumption)

theorem State.allocate_on {z : State} (s : State) (h index : Nat) (cls mask n : Nat) (h_s : Onward z (s)) :
    OnwardO z (State.allocate s h index cls mask n) := by
  unfold State.allocate
  repeat' first
    | with_reducible intro _
    | with_reducible first
      | assumption | apply onO_some | apply onO_none | apply onF_some | apply onF_none | apply on_ite
      | apply onO_ite | apply State.allocFar_on | apply State.allocMid_on | apply State.allocNear_on
    | with_reducible apply goodT_ts
    | with_reducible apply goodC_ts
    | dsimp only
    | split

theorem State.objCreate_on {z : State} (s : State) (h : Nat) (a0 pages a2 : Nat) (via : Option Nat) (h_s : Onward z (s)) :
    OnwardF z (State.objCreate s h a0 pages a2 via) := by
  unfold State.objCreate
  repeat' first
    | with_reducible intro _
    | with_reducible first
      | assumption | apply onO_some | apply onO_none | apply onF_some | apply onF_none | apply on_ite
      | apply onO_ite | apply State.allocate_on | apply State.refreshCap_on | apply HarborSt.setObj_on
      | apply State.setHarbor_on | apply State.harbor_on | apply goodC_ite | apply goodT_ite | apply goodH_ite
    | simp only [on_mk_iff, goodC_mk_iff, goodH_mk_iff]
    | with_reducible apply goodT_ts
    | with_reducible apply goodC_ts
    | dsimp only
    | split
    | (apply on_fst; with_reducible assumption)
    | (apply on_snd; with_reducible assumption)
    | (apply on_someF'; with_reducible assumption)
    | (apply on_some; with_reducible assumption)
    | (apply on_someF; with_reducible assumption)
    | (apply on_next; with_reducible assumption)

theorem State.objCommit_on {z : State} (s : State) (h handle : Nat) (o : TierObj) (h_s : Onward z (s)) :
    OnwardO z (State.objCommit s h handle o) := by
  unfold State.objCommit
  repeat' first
    | with_reducible intro _
    | with_reducible first
      | assumption | apply onO_some | apply onO_none | apply onF_some | apply onF_none | apply on_ite
      | apply onO_ite | apply HarborSt.setObj_on | apply State.setHarbor_on | apply State.harbor_on
      | apply goodC_ite | apply goodT_ite | apply goodH_ite
    | simp only [on_mk_iff, goodC_mk_iff, goodH_mk_iff]
    | with_reducible apply goodT_ts
    | with_reducible apply goodC_ts
    | dsimp only
    | split

theorem State.objDelete_on {z : State} (s : State) (h handle : Nat) (o : TierObj) (h_s : Onward z (s)) :
    Onward z (State.objDelete s h handle o) := by
  unfold State.objDelete
  extract_lets i x0 x x1 x2 lo hi x3
  have a : GoodH z x := goodH_foldl (fun _ _ h => HarborSt.scrubNear_on _ _ h) _ _ (State.harbor_on _ _ h_s)
  have b : GoodH z x1 := goodH_foldl (fun _ _ h => HarborSt.scrubNear_on _ _ h) _ _ a
  have c : GoodH z x2 := goodH_foldl (fun _ _ h => HarborSt.scrubMid_on _ _ h) _ _ b
  exact State.refreshCap_on _ _ (State.setHarbor_on _ _ _ h_s
    (goodH_far c (canonical_eraseRange 0 _ _) (canonical_eraseRange false _ _)))

theorem State.askStage_on {z : State} (s : State) (h handle : Nat) (pages : List Nat) (urgent : Bool) (h_s : Onward z (s)) :
    Onward z (State.askStage s h handle pages urgent) := by
  unfold State.askStage
  repeat' first
    | with_reducible intro _
    | with_reducible first
      | assumption | apply onO_some | apply onO_none | apply onF_some | apply onF_none | apply on_ite
      | apply onO_ite | apply State.setHarbor_on | apply State.harbor_on | apply goodC_ite | apply goodT_ite
      | apply goodH_ite | apply onF_map | apply onF_mapO | apply onO_mapF | apply onO_map
    | simp only [on_mk_iff, goodC_mk_iff, goodH_mk_iff]
    | with_reducible apply goodT_ts
    | with_reducible apply goodC_ts
    | dsimp only
    | split
    | (apply on_fst; with_reducible assumption)
    | (apply on_snd; with_reducible assumption)
    | (apply on_someF'; with_reducible assumption)
    | (apply on_some; with_reducible assumption)
    | (apply on_someF; with_reducible assumption)
    | (apply on_next; with_reducible assumption)

theorem State.objPin_on {z : State} (s : State) (h handle : Nat) (o : TierObj) (first count : Nat) (on : Bool) (h_s : Onward z (s)) :
    Onward z (State.objPin s h handle o first count on) := by
  unfold State.objPin
  repeat' first
    | with_reducible intro _
    | with_reducible first
      | assumption | apply on_ite | apply onO_ite | apply HarborSt.setObj_on | apply State.setHarbor_on
      | apply State.harbor_on | apply goodC_ite | apply goodT_ite | apply goodH_ite | apply onF_map
      | apply onF_mapO | apply onO_mapF | apply onO_map
    | simp only [on_mk_iff, goodC_mk_iff, goodH_mk_iff]
    | with_reducible apply goodT_ts
    | with_reducible apply goodC_ts
    | dsimp only
    | split

theorem State.rehome_on {z : State} (s : State) (h index mask page : Nat) (h_s : Onward z (s)) :
    OnwardO z (State.rehome s h index mask page) := by
  unfold State.rehome
  extract_lets +onlyGivenNames x
  have gx : GoodH z x := State.harbor_on _ _ h_s
  split
  · exact onO_none
  · rename_i o _
    extract_lets +onlyGivenNames raw has home y0 yf made
    have gm : OnwardO z made := by
      unfold made
      split
      · exact onO_some h_s
      · split
        · split
          · exact onO_none
          · rename_i s1 f e
            have g1 : Onward z s1 := State.takeNear_on _ _ _ _ h_s _ e
            split
            · exact onO_none
            · exact onO_some (State.setHarbor_on _ _ _ g1 (HarborSt.setObj_on _ _ _
                (HarborSt.fillNear_on _ _ _ (State.harbor_on _ _ g1))))
        · split
          · split
            · exact onO_none
            · exact onO_some (State.setHarbor_on _ _ _ h_s (HarborSt.setObj_on _ _ _
                (putAll_on _ _ _ _ (fun _ _ _ h => HarborSt.midPut_on _ _ _ _ h) (HarborSt.clearPieces_on _ _ _ _ gx))))
          · have gy : GoodH z yf := putAll_on (z := z) (fun x g v => x.farPut (farPage index page) g v) _ 0 (toGranules raw 1024)
              (fun _ _ _ h => HarborSt.farPut_on _ _ _ _ h)
              (HarborSt.setObj_on _ index { o with far := insert o.far page (page / 4) } gx)
            refine onO_some (State.setHarbor_on _ _ _ h_s ?_)
            clear_value yf
            simp only [goodH_mk_iff]
            exact gy
    clear_value made
    split
    · exact onO_none
    · rename_i s1
      have g1 : Onward z s1 := onO_of gm
      extract_lets +onlyGivenNames y
      have gy : GoodH z y := State.harbor_on _ _ g1
      split
      · exact onO_none
      · extract_lets +onlyGivenNames y1 y2 lo y3 o2
        have a : GoodH z y1 := by
          unfold y1
          split
          · exact HarborSt.scrubNear_on _ _ gy
          · exact gy
        have b : GoodH z y2 := by
          unfold y2
          split
          · exact HarborSt.scrubMid_on _ _ a
          · exact a
        have c : GoodH z y3 := by
          unfold y3
          split
          · exact b
          · exact goodH_far b (canonical_eraseRange 0 _ _) (canonical_eraseRange false _ _)
        exact onO_some (State.setHarbor_on _ _ _ g1 (HarborSt.setObj_on _ _ _ c))

theorem State.objSetMask_on {z : State} (s : State) (h handle : Nat) (o : TierObj) (mask : Nat) (h_s : Onward z (s)) :
    OnwardO z (State.objSetMask s h handle o mask) := by
  unfold State.objSetMask
  dsimp only
  split
  · exact onO_none
  · split
    · exact onO_none
    · rename_i t e
      have g : Onward z t := by
        refine onO_foldl ?_ _ _ (onO_some ?_) t e
        rotate_left
        · exact State.setHarbor_on _ _ _ h_s (State.harbor_on _ _ h_s)
        intro a p ha
        cases a with
        | none => exact onO_none
        | some b => exact State.rehome_on _ _ _ _ _ (onO_of ha)
      split
      · exact onO_none
      · exact onO_some (State.refreshCap_on _ _ (State.setHarbor_on _ _ _ g (State.harbor_on _ _ g)))

theorem State.objBusy_on {z : State} (s : State) (h : Nat) (via : Option Nat) (b : Bool) (h_s : Onward z (s)) :
    Onward z (State.objBusy s h via b) := by
  unfold State.objBusy
  repeat' first
    | with_reducible intro _
    | with_reducible first
      | assumption | apply onO_some | apply onO_none | apply onF_some | apply onF_none | apply State.setFlag_on
      | apply goodC_ite | apply goodT_ite
    | simp only [on_mk_iff, goodC_mk_iff, goodH_mk_iff]
    | with_reducible apply goodT_ts
    | with_reducible apply goodC_ts
    | dsimp only
    | split
    | (apply on_fst; with_reducible assumption)
    | (apply on_snd; with_reducible assumption)
    | (apply on_someF'; with_reducible assumption)
    | (apply on_some; with_reducible assumption)
    | (apply on_someF; with_reducible assumption)
    | (apply on_next; with_reducible assumption)

theorem State.objCode_on {z : State} (s : State) (h : Nat) (via : Option Nat) (code : Nat) (h_s : Onward z (s)) :
    Onward z (State.objCode s h via code) := by
  unfold State.objCode
  repeat' first
    | with_reducible intro _
    | with_reducible first
      | assumption | apply onO_some | apply onO_none | apply onF_some | apply onF_none | apply State.raiseVF_on
      | apply State.put_on | apply goodC_ite | apply goodT_ite
    | simp only [on_mk_iff, goodC_mk_iff, goodH_mk_iff]
    | with_reducible apply goodT_ts
    | with_reducible apply goodC_ts
    | dsimp only
    | split
    | (apply on_fst; with_reducible assumption)
    | (apply on_snd; with_reducible assumption)
    | (apply on_someF'; with_reducible assumption)
    | (apply on_some; with_reducible assumption)
    | (apply on_someF; with_reducible assumption)
    | (apply on_next; with_reducible assumption)

theorem State.objDone_on {z : State} (s : State) (h : Nat) (r : ObjRun) (code : Nat) (h_s : Onward z (s)) :
    Onward z (State.objDone s h r code) := by
  unfold State.objDone
  repeat' first
    | with_reducible intro _
    | with_reducible first
      | assumption | apply State.objCode_on | apply State.objBusy_on
    | with_reducible apply goodT_ts
    | with_reducible apply goodC_ts
    | dsimp only

theorem State.objReturn_on {z : State} (s : State) (h : Nat) (via : Option Nat) (handle : Nat) (h_s : Onward z (s)) :
    Onward z (State.objReturn s h via handle) := by
  unfold State.objReturn
  repeat' first
    | with_reducible intro _
    | with_reducible first
      | assumption | apply onO_some | apply onO_none | apply onF_some | apply onF_none | apply State.put_on
      | apply goodC_ite | apply goodT_ite
    | simp only [on_mk_iff, goodC_mk_iff, goodH_mk_iff]
    | with_reducible apply goodT_ts
    | with_reducible apply goodC_ts
    | dsimp only
    | split
    | (apply on_fst; with_reducible assumption)
    | (apply on_snd; with_reducible assumption)
    | (apply on_someF'; with_reducible assumption)
    | (apply on_some; with_reducible assumption)
    | (apply on_someF; with_reducible assumption)
    | (apply on_next; with_reducible assumption)

theorem State.objBegin_on {z : State} (s : State) (h : Nat) (r : ObjRun) (h_s : Onward z (s)) :
    OnwardF z (State.objBegin s h r) := by
  unfold State.objBegin
  repeat' first
    | with_reducible intro _
    | with_reducible first
      | assumption | apply onO_some | apply onO_none | apply onF_some | apply onF_none | apply on_ite
      | apply onO_ite | apply State.objReturn_on | apply State.objSetMask_on | apply State.objPin_on
      | apply State.askStage_on | apply State.objDelete_on | apply State.objCommit_on | apply State.objCreate_on
      | apply goodC_ite | apply goodT_ite | apply onF_map | apply onF_mapO | apply onO_mapF | apply onO_map
    | simp only [on_mk_iff, goodC_mk_iff, goodH_mk_iff]
    | with_reducible apply goodT_ts
    | with_reducible apply goodC_ts
    | dsimp only
    | split
    | (apply on_fst; with_reducible assumption)
    | (apply on_snd; with_reducible assumption)
    | (apply on_someF'; with_reducible assumption)
    | (apply on_some; with_reducible assumption)
    | (apply on_someF; with_reducible assumption)
    | (apply on_next; with_reducible assumption)

theorem State.runObjs_on {z : State} (s : State) (h fuel : Nat) (h_s : Onward z (s)) :
    Onward z (State.runObjs s h fuel) := by
  induction fuel generalizing s with
  | zero => exact h_s
  | succ m ih =>
    unfold State.runObjs
    split
    · rename_i f r rest e _
      obtain rfl : m = f := by simpa using e
      split
      · exact h_s
      · dsimp only
        have g : Onward z (s.setHarbor h { s.harbor h with runs := rest }) :=
          State.setHarbor_on _ _ _ h_s (State.harbor_on _ _ h_s)
        split
        · exact ih _ (State.objDone_on _ _ _ _ g)
        · rename_i e2
          exact ih _ (State.objDone_on _ _ _ _ (State.objBegin_on _ _ _ g _ e2))
        · rename_i e2
          have g2 := State.objBegin_on _ _ _ g _ e2
          exact State.setHarbor_on _ _ _ g2 (State.harbor_on _ _ g2)
    · exact h_s

theorem State.objCommand_on {z : State} (s : State) (h : Nat) (r : ObjRun) (h_s : Onward z (s)) :
    Onward z (State.objCommand s h r) := by
  unfold State.objCommand
  repeat' first
    | with_reducible intro _
    | with_reducible first
      | assumption | apply State.runObjs_on | apply State.objBusy_on | apply State.runs_on
      | apply State.setHarbor_on | apply State.harbor_on | apply goodC_ite | apply goodT_ite | apply goodH_ite
    | simp only [on_mk_iff, goodC_mk_iff, goodH_mk_iff]
    | with_reducible apply goodT_ts
    | with_reducible apply goodC_ts
    | dsimp only

theorem State.pfObject_on {z : State} (s : State) (h op : Nat) (h_s : Onward z (s)) :
    Onward z (State.pfObject s h op) := by
  unfold State.pfObject
  repeat' first
    | with_reducible intro _
    | with_reducible first
      | assumption | apply onO_some | apply onO_none | apply onF_some | apply onF_none | apply on_ite
      | apply onO_ite | apply State.objCommand_on | apply State.clampAt_on
    | with_reducible apply goodT_ts
    | with_reducible apply goodC_ts
    | dsimp only
    | split

theorem execObjNop_on {z : State} (h : Harbor) (s : State) (h_s : Onward z (s)) :
    OnwardA z (execObjNop h s) := by
  unfold execObjNop
  repeat' first
    | with_reducible intro _
    | with_reducible first
      | assumption | apply onA_next | apply onA_refused | apply onA_ite | apply on_ite | apply onO_ite
      | apply State.pfObject_on | apply State.put_on
    | with_reducible apply goodT_ts
    | with_reducible apply goodC_ts
    | dsimp only
    | split

theorem execObjCreate_on {z : State} (h : Harbor) (s : State) (h_s : Onward z (s)) :
    OnwardA z (execObjCreate h s) := by
  unfold execObjCreate
  repeat' first
    | with_reducible intro _
    | with_reducible first
      | assumption | apply onA_next | apply onA_refused | apply State.pfObject_on
    | with_reducible apply goodT_ts
    | with_reducible apply goodC_ts
    | dsimp only

theorem execObjCommit_on {z : State} (h : Harbor) (s : State) (h_s : Onward z (s)) :
    OnwardA z (execObjCommit h s) := by
  unfold execObjCommit
  repeat' first
    | with_reducible intro _
    | with_reducible first
      | assumption | apply onA_next | apply onA_refused | apply State.pfObject_on
    | with_reducible apply goodT_ts
    | with_reducible apply goodC_ts
    | dsimp only

theorem execObjDelete_on {z : State} (h : Harbor) (s : State) (h_s : Onward z (s)) :
    OnwardA z (execObjDelete h s) := by
  unfold execObjDelete
  repeat' first
    | with_reducible intro _
    | with_reducible first
      | assumption | apply onA_next | apply onA_refused | apply State.pfObject_on
    | with_reducible apply goodT_ts
    | with_reducible apply goodC_ts
    | dsimp only

theorem execObjStage_on {z : State} (h : Harbor) (s : State) (h_s : Onward z (s)) :
    OnwardA z (execObjStage h s) := by
  unfold execObjStage
  repeat' first
    | with_reducible intro _
    | with_reducible first
      | assumption | apply onA_next | apply onA_refused | apply State.pfObject_on
    | with_reducible apply goodT_ts
    | with_reducible apply goodC_ts
    | dsimp only

theorem execObjPin_on {z : State} (h : Harbor) (s : State) (h_s : Onward z (s)) :
    OnwardA z (execObjPin h s) := by
  unfold execObjPin
  repeat' first
    | with_reducible intro _
    | with_reducible first
      | assumption | apply onA_next | apply onA_refused | apply State.pfObject_on
    | with_reducible apply goodT_ts
    | with_reducible apply goodC_ts
    | dsimp only

theorem execObjSetmask_on {z : State} (h : Harbor) (s : State) (h_s : Onward z (s)) :
    OnwardA z (execObjSetmask h s) := by
  unfold execObjSetmask
  repeat' first
    | with_reducible intro _
    | with_reducible first
      | assumption | apply onA_next | apply onA_refused | apply State.pfObject_on
    | with_reducible apply goodT_ts
    | with_reducible apply goodC_ts
    | dsimp only

theorem State.landHostPage_on {z : State} (s : State) (h index page : Nat) (d : Option (List Byte × Bool)) (h_s : Onward z (s)) :
    Onward z (State.landHostPage s h index page d).1 := by
  unfold State.landHostPage
  repeat' first
    | with_reducible intro _
    | with_reducible first
      | assumption | apply onO_some | apply onO_none | apply onF_some | apply onF_none | apply State.writePage_on
      | apply goodC_ite | apply goodT_ite | apply onF_map | apply onF_mapO | apply onO_mapF | apply onO_map
    | simp only [on_mk_iff, goodC_mk_iff, goodH_mk_iff]
    | with_reducible apply goodT_ts
    | with_reducible apply goodC_ts
    | dsimp only
    | split
    | (apply on_fst; with_reducible assumption)
    | (apply on_snd; with_reducible assumption)
    | (apply on_someF'; with_reducible assumption)
    | (apply on_some; with_reducible assumption)
    | (apply on_someF; with_reducible assumption)
    | (apply on_next; with_reducible assumption)

theorem State.sendHostPage_on {z : State} (s : State) (index page fn addr : Nat) (h : Nat) (h_s : Onward z (s)) :
    Onward z (State.sendHostPage s index page fn addr h).1 := by
  unfold State.sendHostPage
  repeat' first
    | with_reducible intro _
    | with_reducible first
      | assumption | apply on_ite | apply onO_ite | apply State.hostWrite_on | apply HarborSt.warm_on
      | apply State.setHarbor_on | apply State.harbor_on | apply State.emit_on | apply goodH_ite | apply on_getD
      | apply on_getD_fst | apply onF_map | apply onF_mapO | apply onO_mapF | apply onO_map
    | with_reducible apply goodT_ts
    | with_reducible apply goodC_ts
    | dsimp only
    | split

theorem State.moveHostPages_on {z : State} (s : State) (h : Nat) (r : ObjRun) (h_s : Onward z (s)) :
    Onward z (State.moveHostPages s h r).1 := by
  unfold State.moveHostPages
  repeat' first
    | with_reducible intro _
    | with_reducible first
      | assumption | apply onO_some | apply onO_none | apply onF_some | apply onF_none | apply on_ite
      | apply onO_ite | apply State.sendHostPage_on | apply State.landHostPage_on | apply goodC_foldl
      | apply goodH_foldl | apply goodT_foldl | apply on_foldl | apply on_foldl_fst | apply on_foldl_snd
      | apply onO_foldl | apply onF_foldl | apply on_getD | apply on_getD_fst | apply onF_map | apply onF_mapO
      | apply onO_mapF | apply onO_map
    | with_reducible apply goodT_ts
    | with_reducible apply goodC_ts
    | dsimp only
    | split
    | (apply on_fst; with_reducible assumption)
    | (apply on_snd; with_reducible assumption)
    | (apply on_someF'; with_reducible assumption)

theorem State.objEnd_on {z : State} (s : State) (h : Nat) (h_s : Onward z (s)) :
    Onward z (State.objEnd s h) := by
  unfold State.objEnd
  repeat' first
    | with_reducible intro _
    | with_reducible first
      | assumption | apply onO_some | apply onO_none | apply onF_some | apply onF_none | apply on_ite
      | apply onO_ite | apply State.moveHostPages_on | apply State.runObjs_on | apply State.objDone_on
      | apply State.askStage_on | apply State.runs_on | apply State.setHarbor_on | apply State.harbor_on
      | apply goodC_ite | apply goodT_ite | apply goodH_ite
    | simp only [on_mk_iff, goodC_mk_iff, goodH_mk_iff]
    | with_reducible apply goodT_ts
    | with_reducible apply goodC_ts
    | dsimp only
    | split
    | (apply on_fst; with_reducible assumption)
    | (apply on_snd; with_reducible assumption)
    | (apply on_someF'; with_reducible assumption)
    | (apply on_some; with_reducible assumption)
    | (apply on_someF; with_reducible assumption)
    | (apply on_next; with_reducible assumption)

theorem execObjCommandComplete_on {z : State} (h : Harbor) (s : State) (h_s : Onward z (s)) :
    OnwardA z (execObjCommandComplete h s) := by
  unfold execObjCommandComplete
  repeat' first
    | with_reducible intro _
    | with_reducible first
      | assumption | apply onA_next | apply onA_refused | apply State.objEnd_on
    | with_reducible apply goodT_ts
    | with_reducible apply goodC_ts
    | dsimp only

theorem State.retireUsed_on {z : State} (s : State) (h f : Nat) (h_s : Onward z (s)) :
    Onward z (State.retireUsed s h f) := by
  unfold State.retireUsed
  repeat' first
    | with_reducible intro _
    | with_reducible first
      | assumption | apply onO_some | apply onO_none | apply onF_some | apply onF_none | apply on_ite
      | apply onO_ite | apply HarborSt.fillNear_on | apply State.retireNear_on | apply State.takeNear_on
      | apply HarborSt.scrubNear_on | apply HarborSt.setObj_on | apply State.setHarbor_on | apply State.harbor_on
      | apply goodC_ite | apply goodT_ite | apply goodH_ite | apply onF_map | apply onF_mapO | apply onO_mapF
      | apply onO_map
    | simp only [on_mk_iff, goodC_mk_iff, goodH_mk_iff]
    | with_reducible apply goodT_ts
    | with_reducible apply goodC_ts
    | dsimp only
    | split
    | (apply on_fst; with_reducible assumption)
    | (apply on_snd; with_reducible assumption)
    | (apply on_someF'; with_reducible assumption)
    | (apply on_some; with_reducible assumption)
    | (apply on_someF; with_reducible assumption)
    | (apply on_next; with_reducible assumption)

theorem State.scrub_on {z : State} (s : State) (h f corrected : Nat) (bad : List Nat) (again : Bool) (h_s : Onward z (s)) :
    Onward z (State.scrub s h f corrected bad again) := by
  unfold State.scrub
  extract_lets x seen n x1 s1
  have b : GoodH z x1 := goodH_npois (State.harbor_on _ _ h_s) (canonical_foldl_store false _ _ _)
  have c : Onward z s1 := State.bump_on _ _ _ (State.bump_on _ _ _ (State.setHarbor_on _ _ _ h_s b))
  split
  · exact State.refreshCap_on _ _ (State.retireUsed_on _ _ _ c)
  · exact c

theorem execPatrolScrub_on {z : State} (h : Harbor) (frame : Fin 3145728) (corrected : Nat) (bad : List (Fin 8192)) (again : Bool) (s : State) (h_s : Onward z (s)) :
    OnwardA z (execPatrolScrub h frame corrected bad again s) := by
  unfold execPatrolScrub
  repeat' first
    | with_reducible intro _
    | with_reducible first
      | assumption | apply onA_next | apply onA_refused | apply State.scrub_on | apply onF_map | apply onF_mapO
      | apply onO_mapF | apply onO_map
    | with_reducible apply goodT_ts
    | with_reducible apply goodC_ts
    | dsimp only

theorem execCxlPoison_on {z : State} (h : Harbor) (n : Fin 2) (frame : Fin 8355840) (pieces : List (Fin 256)) (s : State) (h_s : Onward z (s)) :
    OnwardA z (execCxlPoison h n frame pieces s) := by
  unfold execCxlPoison
  extract_lets x f
  exact onA_next (State.inc_on _ _ (State.setHarbor_on _ _ _ h_s
    (goodH_mpois (State.harbor_on _ _ h_s) (canonical_foldl_store false _ _ _))))

theorem State.linkDown_on {z : State} (s : State) (h n : Nat) (h_s : Onward z (s)) :
    Onward z (State.linkDown s h n) := by
  unfold State.linkDown
  repeat' first
    | with_reducible intro _
    | with_reducible first
      | assumption | apply onO_some | apply onO_none | apply onF_some | apply onF_none | apply on_ite
      | apply onO_ite | apply State.strike_on | apply State.refreshCap_on | apply State.setHarbor_on
      | apply State.harbor_on | apply State.logEvent_on | apply State.raisePF_on | apply State.setFlag_on
      | apply goodC_ite | apply goodT_ite | apply goodH_ite | apply goodC_foldl | apply goodH_foldl
      | apply goodT_foldl | apply on_foldl | apply on_foldl_fst | apply on_foldl_snd | apply onO_foldl
      | apply onF_foldl
    | simp only [on_mk_iff, goodC_mk_iff, goodH_mk_iff]
    | with_reducible apply goodT_ts
    | with_reducible apply goodC_ts
    | dsimp only
    | split

theorem execCxlLinkDown_on {z : State} (h : Harbor) (n : Fin 2) (s : State) (h_s : Onward z (s)) :
    OnwardA z (execCxlLinkDown h n s) := by
  unfold execCxlLinkDown
  repeat' first
    | with_reducible intro _
    | with_reducible first
      | assumption | apply onA_next | apply onA_refused | apply State.linkDown_on
    | with_reducible apply goodT_ts
    | with_reducible apply goodC_ts
    | dsimp only

theorem execCxlMediaEvent_on {z : State} (h : Harbor) (n : Fin 2) (fields : List Byte) (s : State) (h_s : Onward z (s)) :
    OnwardA z (execCxlMediaEvent h n fields s) := by
  unfold execCxlMediaEvent
  repeat' first
    | with_reducible intro _
    | with_reducible first
      | assumption | apply onA_next | apply onA_refused | apply onO_some | apply onO_none | apply onF_some
      | apply onF_none | apply State.logEvent_on
    | with_reducible apply goodT_ts
    | with_reducible apply goodC_ts
    | dsimp only

theorem HarborSt.setBlock_on {z : State} (x : HarborSt) (b : Nat) (v : FlashBlock) (h_x : GoodH z (x)) :
    GoodH z (HarborSt.setBlock x b v) := by
  unfold HarborSt.setBlock
  repeat' first
    | with_reducible intro _
    | with_reducible first
      | assumption | apply goodC_ite | apply goodT_ite | apply goodH_ite
    | simp only [on_mk_iff, goodC_mk_iff, goodH_mk_iff]
    | with_reducible apply goodT_ts
    | with_reducible apply goodC_ts
    | dsimp only

theorem HarborSt.moveBlock_on {z : State} (x : HarborSt) (b dst : Nat) (h_x : GoodH z (x)) :
    GoodH z (HarborSt.moveBlock x b dst) := by
  unfold HarborSt.moveBlock
  repeat' first
    | with_reducible intro _
    | with_reducible first
      | assumption | apply on_ite | apply onO_ite | apply HarborSt.setBlock_on | apply goodC_ite | apply goodT_ite
      | apply goodH_ite | apply onF_map | apply onF_mapO | apply onO_mapF | apply onO_map
    | simp only [on_mk_iff, goodC_mk_iff, goodH_mk_iff]
    | with_reducible apply goodT_ts
    | with_reducible apply goodC_ts
    | dsimp only
    | split

theorem State.refreshWear_on {z : State} (s : State) (h : Nat) (h_s : Onward z (s)) :
    Onward z (State.refreshWear s h) := by
  unfold State.refreshWear
  repeat' first
    | with_reducible intro _
    | with_reducible first
      | assumption | apply State.harbor_on | apply State.put_on | apply goodH_ite | apply goodC_foldl
      | apply goodH_foldl | apply goodT_foldl | apply on_foldl | apply on_foldl_fst | apply on_foldl_snd
      | apply onO_foldl | apply onF_foldl | apply on_getD | apply on_getD_fst | apply onF_map | apply onF_mapO
      | apply onO_mapF | apply onO_map
    | with_reducible apply goodT_ts
    | with_reducible apply goodC_ts
    | dsimp only

theorem State.readRefresh_on {z : State} (s : State) (h b dst : Nat) (ecc : Bool) (h_s : Onward z (s)) :
    Onward z (State.readRefresh s h b dst ecc) := by
  unfold State.readRefresh
  repeat' first
    | with_reducible intro _
    | with_reducible first
      | assumption | apply on_ite | apply onO_ite | apply State.refreshWear_on | apply HarborSt.moveBlock_on
      | apply HarborSt.setBlock_on | apply State.setHarbor_on | apply State.harbor_on | apply State.inc_on
      | apply goodC_ite | apply goodT_ite | apply goodH_ite
    | simp only [on_mk_iff, goodC_mk_iff, goodH_mk_iff]
    | with_reducible apply goodT_ts
    | with_reducible apply goodC_ts
    | dsimp only
    | split

theorem execReadRefresh_on {z : State} (h : Harbor) (block dst : Nat) (ecc : Bool) (s : State) (h_s : Onward z (s)) :
    OnwardA z (execReadRefresh h block dst ecc s) := by
  unfold execReadRefresh
  repeat' first
    | with_reducible intro _
    | with_reducible first
      | assumption | apply onA_next | apply onA_refused | apply State.readRefresh_on
    | with_reducible apply goodT_ts
    | with_reducible apply goodC_ts
    | dsimp only

theorem State.wearLevel_on {z : State} (s : State) (h b dst : Nat) (h_s : Onward z (s)) :
    Onward z (State.wearLevel s h b dst) := by
  unfold State.wearLevel
  repeat' first
    | with_reducible intro _
    | with_reducible first
      | assumption | apply on_ite | apply onO_ite | apply State.refreshWear_on | apply HarborSt.moveBlock_on
      | apply HarborSt.setBlock_on | apply State.setHarbor_on | apply State.harbor_on | apply goodC_ite
      | apply goodT_ite | apply goodH_ite | apply goodC_foldl | apply goodH_foldl | apply goodT_foldl
      | apply on_foldl | apply on_foldl_fst | apply on_foldl_snd | apply onO_foldl | apply onF_foldl
      | apply on_getD | apply on_getD_fst | apply onF_map | apply onF_mapO | apply onO_mapF | apply onO_map
    | simp only [on_mk_iff, goodC_mk_iff, goodH_mk_iff]
    | with_reducible apply goodT_ts
    | with_reducible apply goodC_ts
    | dsimp only
    | split

theorem execWearLevel_on {z : State} (h : Harbor) (block dst : Nat) (s : State) (h_s : Onward z (s)) :
    OnwardA z (execWearLevel h block dst s) := by
  unfold execWearLevel
  repeat' first
    | with_reducible intro _
    | with_reducible first
      | assumption | apply onA_next | apply onA_refused | apply State.wearLevel_on
    | with_reducible apply goodT_ts
    | with_reducible apply goodC_ts
    | dsimp only

theorem State.retireBlock_on {z : State} (s : State) (h b dst : Nat) (uncorrectable : List (Nat × Nat)) (spareLow : Bool) (h_s : Onward z (s)) :
    Onward z (State.retireBlock s h b dst uncorrectable spareLow) := by
  unfold State.retireBlock
  extract_lets +onlyGivenNames x
  split
  · exact h_s
  extract_lets +onlyGivenNames x1 src x2 x3 s1 s2
  have a : GoodH z x2 := HarborSt.setBlock_on _ _ _ (HarborSt.moveBlock_on _ _ _ (State.harbor_on _ _ h_s))
  have b : GoodH z x3 := goodH_far a id (canonical_foldl_store false _ _ _)
  have c : Onward z s2 := State.logEvent_on _ _ _ _ _ _ _ _ (State.bump_on _ _ _ (State.inc_on _ _ (State.setHarbor_on _ _ _ h_s b)))
  · split
    · exact State.raisePF_on _ _ (State.setFlag_on _ _ _ c)
    · exact c

theorem execBlockRetire_on {z : State} (h : Harbor) (block dst : Nat) (uncorrectable : List (Nat × Fin 16)) (spareLow : Bool) (s : State) (h_s : Onward z (s)) :
    OnwardA z (execBlockRetire h block dst uncorrectable spareLow s) := by
  unfold execBlockRetire
  repeat' first
    | with_reducible intro _
    | with_reducible first
      | assumption | apply onA_next | apply onA_refused | apply State.retireBlock_on | apply onF_map
      | apply onF_mapO | apply onO_mapF | apply onO_map
    | with_reducible apply goodT_ts
    | with_reducible apply goodC_ts
    | dsimp only

theorem execFtlCheckpoint_on {z : State} (h : Harbor) (s : State) (h_s : Onward z (s)) :
    OnwardA z (execFtlCheckpoint h s) := by
  unfold execFtlCheckpoint
  repeat' first
    | with_reducible intro _
    | with_reducible first
      | assumption | apply onA_next | apply onA_refused | apply State.setHarbor_on | apply State.harbor_on
      | apply goodC_ite | apply goodT_ite | apply goodH_ite
    | simp only [on_mk_iff, goodC_mk_iff, goodH_mk_iff]
    | with_reducible apply goodT_ts
    | with_reducible apply goodC_ts
    | dsimp only

theorem State.mount_on {z : State} (s : State) (h : Nat) (ok : Bool) (ms : Nat) (h_s : Onward z (s)) :
    Onward z (State.mount s h ok ms) := by
  unfold State.mount
  repeat' first
    | with_reducible intro _
    | with_reducible first
      | assumption | apply on_ite | apply onO_ite | apply State.failStart_on | apply State.refreshCap_on
      | apply State.setHarbor_on | apply State.harbor_on | apply State.setFlag_on | apply State.put_on
      | apply goodC_ite | apply goodT_ite | apply goodH_ite | apply onF_map | apply onF_mapO | apply onO_mapF
      | apply onO_map
    | simp only [on_mk_iff, goodC_mk_iff, goodH_mk_iff]
    | with_reducible apply goodT_ts
    | with_reducible apply goodC_ts
    | dsimp only
    | split

theorem execFtlMount_on {z : State} (h : Harbor) (ok : Bool) (ms : Nat) (s : State) (h_s : Onward z (s)) :
    OnwardA z (execFtlMount h ok ms s) := by
  unfold execFtlMount
  repeat' first
    | with_reducible intro _
    | with_reducible first
      | assumption | apply onA_next | apply onA_refused | apply State.mount_on
    | with_reducible apply goodT_ts
    | with_reducible apply goodC_ts
    | dsimp only

end Sys2Proof.Machine
end

