-- ==== Sys2Proof/Laws/OnFerry.lean ====
section
/-! SUPPORT. What each operation of Machine/Ferry.lean leaves in order. -/

namespace Sys2Proof.Machine

theorem State.showFerry_on {z : State} (s : State) (h : Nat) (h_s : Onward z (s)) :
    Onward z (State.showFerry s h) := by
  unfold State.showFerry
  repeat' first
    | with_reducible intro _
    | with_reducible first
      | assumption | apply State.harbor_on | apply State.put_on | apply goodH_ite
    | with_reducible apply goodT_ts
    | with_reducible apply goodC_ts
    | dsimp only

theorem State.ferrySpace_on {z : State} (s : State) (h n fuel : Nat) (h_s : Onward z (s)) :
    OnwardF z (State.ferrySpace s h n fuel) := by
  induction fuel generalizing s with
  | zero =>
    unfold State.ferrySpace
    dsimp only
    split
    · exact onF_some h_s
    · exact onF_none
  | succ m ih =>
    unfold State.ferrySpace
    dsimp only
    split
    · exact onF_some h_s
    · split
      · rename_i f c e _
        obtain rfl : m = f := by simpa using e
        exact ih _ (State.setHarbor_on _ _ _ h_s (State.harbor_on _ _ h_s))
      · exact onF_none

theorem State.nameExpert_on {z : State} (s : State) (h p m e : Nat) (h_s : Onward z (s)) :
    Onward z (State.nameExpert s h p m e).1 := by
  unfold State.nameExpert
  repeat' first
    | with_reducible intro _
    | with_reducible first
      | assumption | apply on_ite | apply onO_ite | apply State.setHarbor_on | apply State.harbor_on
      | apply goodC_ite | apply goodT_ite | apply goodH_ite
    | simp only [on_mk_iff, goodC_mk_iff, goodH_mk_iff]
    | with_reducible apply goodT_ts
    | with_reducible apply goodC_ts
    | dsimp only
    | split

theorem State.setStation_on {z : State} (s : State) (h p sid : Nat) (t : FerryStation) (h_s : Onward z (s)) :
    Onward z (State.setStation s h p sid t) := by
  unfold State.setStation
  repeat' first
    | with_reducible intro _
    | with_reducible first
      | assumption | apply on_ite | apply onO_ite | apply State.setHarbor_on | apply State.harbor_on
      | apply goodC_ite | apply goodT_ite | apply goodH_ite | apply onF_map | apply onF_mapO | apply onO_mapF
      | apply onO_map
    | simp only [on_mk_iff, goodC_mk_iff, goodH_mk_iff]
    | with_reducible apply goodT_ts
    | with_reducible apply goodC_ts
    | dsimp only
    | split

theorem State.ferryReport_on {z : State} (s : State) (h p sid k m : Nat) (es : List Nat) (h_s : Onward z (s)) :
    Onward z (State.ferryReport s h p sid k m es) := by
  unfold State.ferryReport
  repeat' first
    | with_reducible intro _
    | with_reducible first
      | assumption | apply onO_some | apply onO_none | apply onF_some | apply onF_none | apply State.setStation_on
      | apply State.nameExpert_on | apply State.harbor_on | apply goodC_ite | apply goodT_ite | apply goodH_ite
      | apply goodC_foldl | apply goodH_foldl | apply goodT_foldl | apply on_foldl | apply on_foldl_fst
      | apply on_foldl_snd | apply onO_foldl | apply onF_foldl
    | simp only [on_mk_iff, goodC_mk_iff, goodH_mk_iff]
    | with_reducible apply goodT_ts
    | with_reducible apply goodC_ts
    | dsimp only
    | split
    | (apply on_fst; with_reducible assumption)
    | (apply on_snd; with_reducible assumption)
    | (apply on_someF'; with_reducible assumption)
    | (apply on_some; with_reducible assumption)
    | (apply on_someF; with_reducible assumption)
    | (apply on_next; with_reducible assumption)

theorem execFerryReport_on {z : State} (h : Harbor) (p : Part) (sid : Fin 256) (k : Cluster) (model : Fin 1024) (experts : List (Fin 4096)) (s : State) (h_s : Onward z (s)) :
    OnwardA z (execFerryReport h p sid k model experts s) := by
  unfold execFerryReport
  repeat' first
    | with_reducible intro _
    | with_reducible first
      | assumption | apply onA_next | apply onA_refused | apply State.ferryReport_on | apply onF_map
      | apply onF_mapO | apply onO_mapF | apply onO_map
    | with_reducible apply goodT_ts
    | with_reducible apply goodC_ts
    | dsimp only

theorem State.ferryFetch_on {z : State} (s : State) (h : Nat) (h_s : Onward z (s)) :
    Onward z (State.ferryFetch s h) := by
  unfold State.ferryFetch
  repeat' first
    | with_reducible intro _
    | with_reducible first
      | assumption | apply onO_some | apply onO_none | apply onF_some | apply onF_none | apply on_ite
      | apply onO_ite | apply State.ferrySpace_on | apply State.showFerry_on | apply State.ravorSend_on
      | apply State.setHarbor_on | apply State.harbor_on | apply goodC_ite | apply goodT_ite | apply goodH_ite
      | apply on_getD | apply on_getD_fst | apply onF_map | apply onF_mapO | apply onO_mapF | apply onO_map
    | simp only [on_mk_iff, goodC_mk_iff, goodH_mk_iff]
    | with_reducible apply goodT_ts
    | with_reducible apply goodC_ts
    | dsimp only
    | split
    | (apply on_fst; with_reducible assumption)
    | (apply on_snd; with_reducible assumption)
    | (apply on_someF'; with_reducible assumption)
    | (apply on_some; with_reducible assumption)
    | (apply on_someF; with_reducible assumption)
    | (apply on_next; with_reducible assumption)

theorem execFerryFetch_on {z : State} (h : Harbor) (s : State) (h_s : Onward z (s)) :
    OnwardA z (execFerryFetch h s) := by
  unfold execFerryFetch
  repeat' first
    | with_reducible intro _
    | with_reducible first
      | assumption | apply onA_next | apply onA_refused | apply State.ferryFetch_on
    | with_reducible apply goodT_ts
    | with_reducible apply goodC_ts
    | dsimp only

theorem execFerryReq_on {z : State} (h : Harbor) (src : Endpoint) (id : BitVec 16) (handle : Word) (page count : Nat) (s : State) (h_s : Onward z (s)) :
    OnwardA z (execFerryReq h src id handle page count s) := by
  unfold execFerryReq
  repeat' first
    | with_reducible intro _
    | with_reducible first
      | assumption | apply onA_next | apply onA_refused | apply onA_ite | apply onO_some | apply onO_none
      | apply onF_some | apply onF_none | apply on_ite | apply onO_ite | apply State.arrive_on
      | apply State.setHarbor_on | apply State.harbor_on | apply goodC_ite | apply goodT_ite | apply goodH_ite
      | apply onF_map | apply onF_mapO | apply onO_mapF | apply onO_map
    | simp only [on_mk_iff, goodC_mk_iff, goodH_mk_iff]
    | with_reducible apply goodT_ts
    | with_reducible apply goodC_ts
    | dsimp only
    | split
    | (apply on_fst; with_reducible assumption)
    | (apply on_snd; with_reducible assumption)
    | (apply on_someF'; with_reducible assumption)
    | (apply on_some; with_reducible assumption)
    | (apply on_someF; with_reducible assumption)
    | (apply on_next; with_reducible assumption)

theorem State.sendFerryPage_on {z : State} (s : State) (h src index page : Nat) (h_s : Onward z (s)) :
    Onward z (State.sendFerryPage s h src index page) := by
  unfold State.sendFerryPage
  repeat' first
    | with_reducible intro _
    | with_reducible first
      | assumption | apply onO_some | apply onO_none | apply onF_some | apply onF_none | apply State.ravorSend_on
      | apply HarborSt.warm_on | apply State.setHarbor_on | apply State.harbor_on | apply goodC_ite
      | apply goodT_ite | apply goodH_ite | apply goodC_foldl | apply goodH_foldl | apply goodT_foldl
      | apply on_foldl | apply on_foldl_fst | apply on_foldl_snd | apply onO_foldl | apply onF_foldl
      | apply onF_map | apply onF_mapO | apply onO_mapF | apply onO_map
    | simp only [on_mk_iff, goodC_mk_iff, goodH_mk_iff]
    | with_reducible apply goodT_ts
    | with_reducible apply goodC_ts
    | dsimp only
    | split
    | (apply on_fst; with_reducible assumption)
    | (apply on_snd; with_reducible assumption)
    | (apply on_someF'; with_reducible assumption)
    | (apply on_some; with_reducible assumption)
    | (apply on_someF; with_reducible assumption)
    | (apply on_next; with_reducible assumption)

theorem HarborSt.fillGrans_on {z : State} (x : HarborSt) (frame : Nat) (gs : List Granule) (h_x : GoodH z (x)) :
    GoodH z (HarborSt.fillGrans x frame gs) := by
  unfold HarborSt.fillGrans
  repeat' first
    | with_reducible intro _
    | with_reducible first
      | assumption | apply putAll_on | apply HarborSt.nearPut_on | apply goodH_ite
    | simp only [on_mk_iff, goodC_mk_iff, goodH_mk_iff]
    | with_reducible apply goodT_ts
    | with_reducible apply goodC_ts
    | dsimp only

theorem State.fetchDone_on {z : State} (s : State) (h : Nat) (f : FerryFetch) (h_s : Onward z (s)) :
    Onward z (State.fetchDone s h f) := by
  unfold State.fetchDone
  repeat' first
    | with_reducible intro _
    | with_reducible first
      | assumption | apply on_ite | apply onO_ite | apply HarborSt.fillGrans_on | apply State.showFerry_on
      | apply State.setHarbor_on | apply State.harbor_on | apply goodC_ite | apply goodT_ite | apply goodH_ite
      | apply goodC_foldl | apply goodH_foldl | apply goodT_foldl | apply on_foldl | apply on_foldl_fst
      | apply on_foldl_snd | apply onO_foldl | apply onF_foldl | apply onF_map | apply onF_mapO | apply onO_mapF
      | apply onO_map
    | simp only [on_mk_iff, goodC_mk_iff, goodH_mk_iff]
    | with_reducible apply goodT_ts
    | with_reducible apply goodC_ts
    | dsimp only
    | split

theorem execFerryData_on {z : State} (h : Harbor) (src : Endpoint) (id : BitVec 16) (model expert : Nat) (first : Nat) (grans : List Granule) (s : State) (h_s : Onward z (s)) :
    OnwardA z (execFerryData h src id model expert first grans s) := by
  unfold execFerryData
  repeat' first
    | with_reducible intro _
    | with_reducible first
      | assumption | apply onA_next | apply onA_refused | apply onA_ite | apply onO_some | apply onO_none
      | apply onF_some | apply onF_none | apply on_ite | apply onO_ite | apply State.fetchDone_on
      | apply State.arrive_on | apply State.setHarbor_on | apply State.harbor_on | apply goodC_ite
      | apply goodT_ite | apply goodH_ite | apply onF_map | apply onF_mapO | apply onO_mapF | apply onO_map
    | simp only [on_mk_iff, goodC_mk_iff, goodH_mk_iff]
    | with_reducible apply goodT_ts
    | with_reducible apply goodC_ts
    | dsimp only
    | split
    | (apply on_fst; with_reducible assumption)
    | (apply on_snd; with_reducible assumption)
    | (apply on_someF'; with_reducible assumption)
    | (apply on_some; with_reducible assumption)
    | (apply on_someF; with_reducible assumption)
    | (apply on_next; with_reducible assumption)

theorem State.ferryLost_on {z : State} (s : State) (h m e : Nat) (h_s : Onward z (s)) :
    Onward z (State.ferryLost s h m e) := by
  unfold State.ferryLost
  repeat' first
    | with_reducible intro _
    | with_reducible first
      | assumption | apply onO_some | apply onO_none | apply onF_some | apply onF_none | apply on_ite
      | apply onO_ite | apply State.showFerry_on | apply State.setHarbor_on | apply State.harbor_on
      | apply State.partFault_on | apply goodC_ite | apply goodT_ite | apply goodH_ite | apply onF_map
      | apply onF_mapO | apply onO_mapF | apply onO_map
    | simp only [on_mk_iff, goodC_mk_iff, goodH_mk_iff]
    | with_reducible apply goodT_ts
    | with_reducible apply goodC_ts
    | dsimp only
    | split
    | (apply on_fst; with_reducible assumption)
    | (apply on_snd; with_reducible assumption)
    | (apply on_someF'; with_reducible assumption)
    | (apply on_some; with_reducible assumption)
    | (apply on_someF; with_reducible assumption)
    | (apply on_next; with_reducible assumption)

theorem execFerryLinkLost_on {z : State} (h : Harbor) (model : Fin 1024) (expert : Fin 4096) (s : State) (h_s : Onward z (s)) :
    OnwardA z (execFerryLinkLost h model expert s) := by
  unfold execFerryLinkLost
  repeat' first
    | with_reducible intro _
    | with_reducible first
      | assumption | apply onA_next | apply onA_refused | apply State.ferryLost_on
    | with_reducible apply goodT_ts
    | with_reducible apply goodC_ts
    | dsimp only

theorem State.countExpert_on {z : State} (s : State) (h m e : Nat) (hit : Bool) (h_s : Onward z (s)) :
    Onward z (State.countExpert s h m e hit) := by
  unfold State.countExpert
  repeat' first
    | with_reducible intro _
    | with_reducible first
      | assumption | apply onO_some | apply onO_none | apply onF_some | apply onF_none | apply on_ite
      | apply onO_ite | apply State.setHarbor_on | apply State.harbor_on | apply State.inc_on | apply goodC_ite
      | apply goodT_ite | apply goodH_ite | apply onF_map | apply onF_mapO | apply onO_mapF | apply onO_map
    | simp only [on_mk_iff, goodC_mk_iff, goodH_mk_iff]
    | with_reducible apply goodT_ts
    | with_reducible apply goodC_ts
    | dsimp only
    | split
    | (apply on_fst; with_reducible assumption)
    | (apply on_snd; with_reducible assumption)
    | (apply on_someF'; with_reducible assumption)
    | (apply on_some; with_reducible assumption)
    | (apply on_someF; with_reducible assumption)
    | (apply on_next; with_reducible assumption)

theorem State.writeManifest_on {z : State} (s : State) (h : Nat) (t : Station) (words : List Nat) (h_s : Onward z (s)) :
    Onward z (State.writeManifest s h t words) := by
  unfold State.writeManifest
  repeat' first
    | with_reducible intro _
    | with_reducible first
      | assumption | apply State.fabricWrite_on | apply goodC_foldl | apply goodH_foldl | apply goodT_foldl
      | apply on_foldl | apply on_foldl_fst | apply on_foldl_snd | apply onO_foldl | apply onF_foldl
    | with_reducible apply goodT_ts
    | with_reducible apply goodC_ts
    | dsimp only

theorem State.closeRound_on {z : State} (s : State) (h p sid : Nat) (h_s : Onward z (s)) :
    Onward z (State.closeRound s h p sid) := by
  unfold State.closeRound
  repeat' first
    | with_reducible intro _
    | with_reducible first
      | assumption | apply onO_some | apply onO_none | apply onF_some | apply onF_none
      | apply State.writeManifest_on | apply State.countExpert_on | apply State.setStation_on
      | apply State.setHarbor_on | apply State.harbor_on | apply goodC_ite | apply goodT_ite | apply goodH_ite
      | apply goodC_foldl | apply goodH_foldl | apply goodT_foldl | apply on_foldl | apply on_foldl_fst
      | apply on_foldl_snd | apply onO_foldl | apply onF_foldl | apply onF_map | apply onF_mapO | apply onO_mapF
      | apply onO_map
    | simp only [on_mk_iff, goodC_mk_iff, goodH_mk_iff]
    | with_reducible apply goodT_ts
    | with_reducible apply goodC_ts
    | dsimp only
    | split
    | (apply on_fst; with_reducible assumption)
    | (apply on_snd; with_reducible assumption)
    | (apply on_someF'; with_reducible assumption)
    | (apply on_some; with_reducible assumption)
    | (apply on_someF; with_reducible assumption)
    | (apply on_next; with_reducible assumption)

theorem execStationRoundClose_on {z : State} (h : Harbor) (p : Part) (sid : Fin 256) (s : State) (h_s : Onward z (s)) :
    OnwardA z (execStationRoundClose h p sid s) := by
  unfold execStationRoundClose
  repeat' first
    | with_reducible intro _
    | with_reducible first
      | assumption | apply onA_next | apply onA_refused | apply State.closeRound_on
    | with_reducible apply goodT_ts
    | with_reducible apply goodC_ts
    | dsimp only

theorem execFerryHeatHalve_on {z : State} (h : Harbor) (s : State) (h_s : Onward z (s)) :
    OnwardA z (execFerryHeatHalve h s) := by
  unfold execFerryHeatHalve
  repeat' first
    | with_reducible intro _
    | with_reducible first
      | assumption | apply onA_next | apply onA_refused | apply onA_ite | apply on_ite | apply onO_ite
      | apply State.setHarbor_on | apply State.harbor_on | apply goodC_ite | apply goodT_ite | apply goodH_ite
      | apply onF_map | apply onF_mapO | apply onO_mapF | apply onO_map
    | simp only [on_mk_iff, goodC_mk_iff, goodH_mk_iff]
    | with_reducible apply goodT_ts
    | with_reducible apply goodC_ts
    | dsimp only
    | split

theorem State.expertPoured_on {z : State} (s : State) (h p sid m e : Nat) (t : FerryStation) (h_s : Onward z (s)) :
    Onward z (State.expertPoured s h p sid m e t) := by
  unfold State.expertPoured
  repeat' first
    | with_reducible intro _
    | with_reducible first
      | assumption | apply on_ite | apply onO_ite | apply State.setStation_on | apply State.showFerry_on
      | apply State.setHarbor_on | apply State.harbor_on | apply goodC_ite | apply goodT_ite | apply goodH_ite
      | apply onF_map | apply onF_mapO | apply onO_mapF | apply onO_map
    | simp only [on_mk_iff, goodC_mk_iff, goodH_mk_iff]
    | with_reducible apply goodT_ts
    | with_reducible apply goodC_ts
    | dsimp only
    | split

theorem State.ferryPour_on {z : State} (s : State) (h p sid : Nat) (h_s : Onward z (s)) :
    Onward z (State.ferryPour s h p sid) := by
  unfold State.ferryPour
  repeat' first
    | with_reducible intro _
    | with_reducible first
      | assumption | apply onO_some | apply onO_none | apply onF_some | apply onF_none | apply on_ite
      | apply onO_ite | apply State.expertPoured_on | apply State.setStation_on | apply State.countFaults_on
      | apply State.harbor_on | apply State.emit_on | apply goodC_ite | apply goodT_ite | apply goodH_ite
    | simp only [on_mk_iff, goodC_mk_iff, goodH_mk_iff]
    | with_reducible apply goodT_ts
    | with_reducible apply goodC_ts
    | dsimp only
    | split
    | (apply on_fst; with_reducible assumption)
    | (apply on_snd; with_reducible assumption)
    | (apply on_someF'; with_reducible assumption)
    | (apply on_some; with_reducible assumption)
    | (apply on_someF; with_reducible assumption)
    | (apply on_next; with_reducible assumption)

theorem execExrRead_on {z : State} (s : State) (h_s : Onward z (s)) :
    OnwardA z (execExrRead s) := by
  unfold execExrRead
  repeat' first
    | with_reducible intro _
    | with_reducible first
      | assumption | apply onA_next | apply onA_refused | apply State.put_on | apply goodC_foldl
      | apply goodH_foldl | apply goodT_foldl | apply on_foldl | apply on_foldl_fst | apply on_foldl_snd
      | apply onO_foldl | apply onF_foldl
    | with_reducible apply goodT_ts
    | with_reducible apply goodC_ts
    | dsimp only
    | split
    | (apply on_fst; with_reducible assumption)
    | (apply on_snd; with_reducible assumption)
    | (apply on_someF'; with_reducible assumption)

theorem State.exrWrite_on {z : State} (s : State) (h_s : Onward z (s)) :
    Onward z (State.exrWrite s) := by
  unfold State.exrWrite
  repeat' first
    | with_reducible intro _
    | with_reducible first
      | assumption | apply onO_some | apply onO_none | apply onF_some | apply onF_none | apply on_ite
      | apply onO_ite | apply State.clampAt_on | apply goodC_ite | apply goodT_ite
    | simp only [on_mk_iff, goodC_mk_iff, goodH_mk_iff]
    | with_reducible apply goodT_ts
    | with_reducible apply goodC_ts
    | dsimp only
    | split
    | (apply on_fst; with_reducible assumption)
    | (apply on_snd; with_reducible assumption)
    | (apply on_someF'; with_reducible assumption)
    | (apply on_some; with_reducible assumption)
    | (apply on_someF; with_reducible assumption)
    | (apply on_next; with_reducible assumption)

theorem execExrWrite_on {z : State} (s : State) (h_s : Onward z (s)) :
    OnwardA z (execExrWrite s) := by
  unfold execExrWrite
  repeat' first
    | with_reducible intro _
    | with_reducible first
      | assumption | apply onA_next | apply onA_refused | apply State.exrWrite_on
    | with_reducible apply goodT_ts
    | with_reducible apply goodC_ts
    | dsimp only

end Sys2Proof.Machine
end

