-- ==== Sys2Proof/Laws/OnTiers.lean ====
section
/-! SUPPORT. What each operation of Machine/Tiers.lean leaves in order. -/

namespace Sys2Proof.Machine

theorem State.floorWindow_on {z : State} (s : State) (h : Nat) (far : Bool) (h_s : Onward z (s)) :
    Onward z (State.floorWindow s h far) := by
  unfold State.floorWindow
  repeat' first
    | with_reducible intro _
    | with_reducible first
      | assumption | apply on_ite | apply onO_ite | apply State.setHarbor_on | apply State.harbor_on
      | apply goodC_ite | apply goodT_ite | apply goodH_ite | apply goodC_foldl | apply goodH_foldl
      | apply goodT_foldl | apply on_foldl | apply on_foldl_fst | apply on_foldl_snd | apply onO_foldl
      | apply onF_foldl | apply onF_map | apply onF_mapO | apply onO_mapF | apply onO_map
    | simp only [on_mk_iff, goodC_mk_iff, goodH_mk_iff]
    | with_reducible apply goodT_ts
    | with_reducible apply goodC_ts
    | dsimp only
    | split

theorem execFloorWindowStart_on {z : State} (h : Harbor) (far : Bool) (s : State) (h_s : Onward z (s)) :
    OnwardA z (execFloorWindowStart h far s) := by
  unfold execFloorWindowStart
  repeat' first
    | with_reducible intro _
    | with_reducible first
      | assumption | apply onA_next | apply onA_refused | apply State.floorWindow_on
    | with_reducible apply goodT_ts
    | with_reducible apply goodC_ts
    | dsimp only

theorem HarborSt.useKey_on {z : State} (x : HarborSt) (o : TierObj) (h_x : GoodH z (x)) :
    GoodH z (HarborSt.useKey x o) := by
  unfold HarborSt.useKey
  repeat' first
    | with_reducible intro _
    | with_reducible first
      | assumption | apply goodC_ite | apply goodT_ite | apply goodH_ite | apply on_getD | apply on_getD_fst
    | simp only [on_mk_iff, goodC_mk_iff, goodH_mk_iff]
    | with_reducible apply goodT_ts
    | with_reducible apply goodC_ts
    | dsimp only

theorem State.readDeep_on {z : State} (s : State) (h index page path : Nat) (h_s : Onward z (s)) :
    Onward z (State.readDeep s h index page path) := by
  unfold State.readDeep
  repeat' first
    | with_reducible intro _
    | with_reducible first
      | assumption | apply onO_some | apply onO_none | apply onF_some | apply onF_none | apply on_ite
      | apply onO_ite | apply HarborSt.useKey_on | apply HarborSt.setBlock_on | apply State.setHarbor_on
      | apply State.harbor_on | apply goodC_ite | apply goodT_ite | apply goodH_ite
    | simp only [on_mk_iff, goodC_mk_iff, goodH_mk_iff]
    | with_reducible apply goodT_ts
    | with_reducible apply goodC_ts
    | dsimp only
    | split
    | (apply on_fst; with_reducible assumption)
    | (apply on_snd; with_reducible assumption)
    | (apply on_someF'; with_reducible assumption)
    | (apply on_some; with_reducible assumption)
    | (apply on_someF; with_reducible assumption)
    | (apply on_next; with_reducible assumption)

theorem State.putXfer_on {z : State} (s : State) (c : Nat) (x : Xfer) (h_s : Onward z (s)) :
    Onward z (State.putXfer s c x) := by
  unfold State.putXfer
  repeat' first
    | with_reducible intro _
    | with_reducible first
      | assumption | apply on_ite | apply onO_ite | apply State.setCore_on | apply State.core_on | apply goodC_ite
      | apply goodT_ite | apply onF_map | apply onF_mapO | apply onO_mapF | apply onO_map
    | simp only [on_mk_iff, goodC_mk_iff, goodH_mk_iff]
    | with_reducible apply goodT_ts
    | with_reducible apply goodC_ts
    | dsimp only
    | split

theorem State.grantXfer_on {z : State} (s : State) (h c id index page : Nat) (h_s : Onward z (s)) :
    Onward z (State.grantXfer s h c id index page) := by
  unfold State.grantXfer
  repeat' first
    | with_reducible intro _
    | with_reducible first
      | assumption | apply onO_some | apply onO_none | apply onF_some | apply onF_none | apply on_ite
      | apply onO_ite | apply State.putXfer_on | apply State.writePage_on | apply HarborSt.warm_on
      | apply State.setHarbor_on | apply State.harbor_on | apply State.core_on | apply goodC_ite | apply goodT_ite
      | apply goodH_ite | apply onF_map | apply onF_mapO | apply onO_mapF | apply onO_map
    | simp only [on_mk_iff, goodC_mk_iff, goodH_mk_iff]
    | with_reducible apply goodT_ts
    | with_reducible apply goodC_ts
    | dsimp only
    | split
    | (apply on_fst; with_reducible assumption)
    | (apply on_snd; with_reducible assumption)
    | (apply on_someF'; with_reducible assumption)
    | (apply on_some; with_reducible assumption)
    | (apply on_someF; with_reducible assumption)
    | (apply on_next; with_reducible assumption)

theorem State.beginMove_on {z : State} (s : State) (h index page : Nat) (h_s : Onward z (s)) :
    Onward z (State.beginMove s h index page) := by
  unfold State.beginMove
  repeat' first
    | with_reducible intro _
    | with_reducible first
      | assumption | apply onO_some | apply onO_none | apply onF_some | apply onF_none | apply State.takeNear_on
      | apply State.setHarbor_on | apply State.harbor_on | apply goodC_ite | apply goodT_ite | apply goodH_ite
    | simp only [on_mk_iff, goodC_mk_iff, goodH_mk_iff]
    | with_reducible apply goodT_ts
    | with_reducible apply goodC_ts
    | dsimp only
    | split
    | (apply on_fst; with_reducible assumption)
    | (apply on_snd; with_reducible assumption)
    | (apply on_someF'; with_reducible assumption)
    | (apply on_some; with_reducible assumption)
    | (apply on_someF; with_reducible assumption)
    | (apply on_next; with_reducible assumption)

theorem State.pourTile_on {z : State} (s : State) (h key : Nat) (h_s : Onward z (s)) :
    Onward z (State.pourTile s h key) := by
  unfold State.pourTile
  repeat' first
    | with_reducible intro _
    | with_reducible first
      | assumption | apply onO_some | apply onO_none | apply onF_some | apply onF_none | apply on_ite
      | apply onO_ite | apply State.readDeep_on | apply State.countFaults_on | apply HarborSt.warm_on
      | apply State.setHarbor_on | apply State.harbor_on | apply State.emit_on | apply State.inc_on
      | apply goodC_ite | apply goodT_ite | apply goodH_ite | apply on_getD | apply on_getD_fst
    | simp only [on_mk_iff, goodC_mk_iff, goodH_mk_iff]
    | with_reducible apply goodT_ts
    | with_reducible apply goodC_ts
    | dsimp only
    | split
    | (apply on_fst; with_reducible assumption)
    | (apply on_snd; with_reducible assumption)
    | (apply on_someF'; with_reducible assumption)
    | (apply on_some; with_reducible assumption)
    | (apply on_someF; with_reducible assumption)
    | (apply on_next; with_reducible assumption)

theorem State.doGrant_on {z : State} (s : State) (h path : Nat) (a : GrantAct) (h_s : Onward z (s)) :
    Onward z (State.doGrant s h path a) := by
  unfold State.doGrant
  repeat' first
    | with_reducible intro _
    | with_reducible first
      | assumption | apply onO_some | apply onO_none | apply onF_some | apply onF_none | apply State.pourTile_on
      | apply State.beginMove_on | apply State.grantXfer_on | apply State.readDeep_on | apply State.ferryPour_on
      | apply State.sendFerryPage_on | apply State.setHarbor_on | apply State.harbor_on | apply goodC_ite
      | apply goodT_ite | apply goodH_ite
    | simp only [on_mk_iff, goodC_mk_iff, goodH_mk_iff]
    | with_reducible apply goodT_ts
    | with_reducible apply goodC_ts
    | dsimp only
    | split
    | (apply on_fst; with_reducible assumption)
    | (apply on_snd; with_reducible assumption)
    | (apply on_someF'; with_reducible assumption)
    | (apply on_some; with_reducible assumption)
    | (apply on_someF; with_reducible assumption)
    | (apply on_next; with_reducible assumption)

theorem State.showStarve_on {z : State} (s : State) (h : Nat) (h_s : Onward z (s)) :
    Onward z (State.showStarve s h) := by
  unfold State.showStarve
  repeat' first
    | with_reducible intro _
    | with_reducible first
      | assumption | apply on_ite | apply onO_ite | apply State.harbor_on | apply State.put_on | apply goodH_ite
      | apply goodC_foldl | apply goodH_foldl | apply goodT_foldl | apply on_foldl | apply on_foldl_fst
      | apply on_foldl_snd | apply onO_foldl | apply onF_foldl
    | with_reducible apply goodT_ts
    | with_reducible apply goodC_ts
    | dsimp only
    | split

theorem HarborSt.charge_on {z : State} (x : HarborSt) (path : Nat) (r : PathReq) (h_x : GoodH z (x)) :
    GoodH z (HarborSt.charge x path r) := by
  unfold HarborSt.charge
  repeat' first
    | with_reducible intro _
    | with_reducible first
      | assumption | apply onO_some | apply onO_none | apply onF_some | apply onF_none | apply on_ite
      | apply onO_ite | apply goodC_ite | apply goodT_ite | apply goodH_ite
    | simp only [on_mk_iff, goodC_mk_iff, goodH_mk_iff]
    | with_reducible apply goodT_ts
    | with_reducible apply goodC_ts
    | dsimp only
    | split
    | (apply on_fst; with_reducible assumption)
    | (apply on_snd; with_reducible assumption)
    | (apply on_someF'; with_reducible assumption)
    | (apply on_some; with_reducible assumption)
    | (apply on_someF; with_reducible assumption)
    | (apply on_next; with_reducible assumption)

theorem State.pathGrant_on {z : State} (s : State) (h path retries : Nat) (h_s : Onward z (s)) :
    Onward z (State.pathGrant s h path retries) := by
  unfold State.pathGrant
  repeat' first
    | with_reducible intro _
    | with_reducible first
      | assumption | apply onO_some | apply onO_none | apply onF_some | apply onF_none | apply on_ite
      | apply onO_ite | apply HarborSt.charge_on | apply State.showStarve_on | apply State.doGrant_on
      | apply State.setHarbor_on | apply State.harbor_on | apply State.charge_on | apply State.bump_on
      | apply goodC_ite | apply goodT_ite | apply goodH_ite
    | simp only [on_mk_iff, goodC_mk_iff, goodH_mk_iff]
    | with_reducible apply goodT_ts
    | with_reducible apply goodC_ts
    | dsimp only
    | split
    | (apply on_fst; with_reducible assumption)
    | (apply on_snd; with_reducible assumption)
    | (apply on_someF'; with_reducible assumption)
    | (apply on_some; with_reducible assumption)
    | (apply on_someF; with_reducible assumption)
    | (apply on_next; with_reducible assumption)

theorem execPathGrant_on {z : State} (h : Harbor) (path : Fin 13) (retries : Nat) (s : State) (h_s : Onward z (s)) :
    OnwardA z (execPathGrant h path retries s) := by
  unfold execPathGrant
  repeat' first
    | with_reducible intro _
    | with_reducible first
      | assumption | apply onA_next | apply onA_refused | apply State.pathGrant_on
    | with_reducible apply goodT_ts
    | with_reducible apply goodC_ts
    | dsimp only

theorem State.watchdog_on {z : State} (s : State) (c r : Nat) (h_s : Onward z (s)) :
    Onward z (State.watchdog s c r) := by
  unfold State.watchdog
  repeat' first
    | with_reducible intro _
    | with_reducible first
      | assumption | apply onO_some | apply onO_none | apply onF_some | apply onF_none | apply on_ite
      | apply onO_ite | apply State.partFault_on | apply State.setCore_on | apply State.core_on
      | apply State.inc_on | apply State.setFlag_on | apply State.put_on | apply goodC_ite | apply goodT_ite
    | simp only [on_mk_iff, goodC_mk_iff, goodH_mk_iff]
    | with_reducible apply goodT_ts
    | with_reducible apply goodC_ts
    | dsimp only
    | split
    | (apply on_fst; with_reducible assumption)
    | (apply on_snd; with_reducible assumption)
    | (apply on_someF'; with_reducible assumption)
    | (apply on_some; with_reducible assumption)
    | (apply on_someF; with_reducible assumption)
    | (apply on_next; with_reducible assumption)

theorem execPourWatchdogExpire_on {z : State} (c : LCore) (r : Ring) (s : State) (h_s : Onward z (s)) :
    OnwardA z (execPourWatchdogExpire c r s) := by
  unfold execPourWatchdogExpire
  repeat' first
    | with_reducible intro _
    | with_reducible first
      | assumption | apply onA_next | apply onA_refused | apply State.watchdog_on
    | with_reducible apply goodT_ts
    | with_reducible apply goodC_ts
    | dsimp only

end Sys2Proof.Machine
end

