-- ==== Sys2Proof/Laws/OnServing.lean ====
section
/-! SUPPORT. What each operation of Machine/Serving.lean leaves in order. -/

namespace Sys2Proof.Machine

theorem State.clampHub_on {z : State} (s : State) (addr : Nat) (h_s : Onward z (s)) :
    Onward z (State.clampHub s addr) := by
  unfold State.clampHub
  repeat' first
    | with_reducible intro _
    | with_reducible first
      | assumption | apply State.clampAt_on
    | with_reducible apply goodT_ts
    | with_reducible apply goodC_ts
    | dsimp only

theorem State.clampPage_on {z : State} (s : State) (t off : Nat) (h_s : Onward z (s)) :
    Onward z (State.clampPage s t off) := by
  unfold State.clampPage
  repeat' first
    | with_reducible intro _
    | with_reducible first
      | assumption | apply State.clampAt_on | apply State.inc_on
    | with_reducible apply goodT_ts
    | with_reducible apply goodC_ts
    | dsimp only

theorem State.openStream_on {z : State} (s : State) (st : Nat) (x : Option (ReqStream × Bool)) (h_s : Onward z (s)) :
    OnwardF z (State.openStream s st x) := by
  unfold State.openStream
  repeat' first
    | with_reducible intro _
    | with_reducible first
      | assumption | apply onO_some | apply onO_none | apply onF_some | apply onF_none | apply State.setReqHead_on
      | apply goodC_ite | apply goodT_ite
    | simp only [on_mk_iff, goodC_mk_iff, goodH_mk_iff]
    | with_reducible apply goodT_ts
    | with_reducible apply goodC_ts
    | dsimp only
    | split
    | (apply on_fst; with_reducible assumption)
    | (apply on_snd; with_reducible assumption)
    | (apply on_someF'; with_reducible assumption)
    | (apply on_some; with_reducible assumption)
    | (apply on_someF; with_reducible assumption)
    | (apply on_next; with_reducible assumption)

theorem State.strmOpened_on {z : State} (s : State) (r : Option (State × Bool)) (h_s : Onward z (s)) (h_r : OnwardF z (r)) :
    Onward z (State.strmOpened s r) := by
  unfold State.strmOpened
  cases r with
  | none => exact State.put_on _ _ _ h_s
  | some e => exact State.put_on _ _ _ (on_ite (State.clampHub_on _ _ (h_r e rfl)) (h_r e rfl))

theorem execStrmOpen_on {z : State} (s : State) (h_s : Onward z (s)) :
    OnwardA z (execStrmOpen s) := by
  unfold execStrmOpen
  repeat' first
    | with_reducible intro _
    | with_reducible first
      | assumption | apply onA_next | apply onA_refused | apply State.strmOpened_on | apply State.openStream_on
    | with_reducible apply goodT_ts
    | with_reducible apply goodC_ts
    | dsimp only

theorem execStrmClose_on {z : State} (s : State) (h_s : Onward z (s)) :
    OnwardA z (execStrmClose s) := by
  unfold execStrmClose
  repeat' first
    | with_reducible intro _
    | with_reducible first
      | assumption | apply onA_next | apply onA_refused | apply State.closeStream_on | apply State.put_on
    | with_reducible apply goodT_ts
    | with_reducible apply goodC_ts
    | dsimp only

theorem State.readUnits_on {z : State} (s : State) (x : ReqStream) (u n : Nat) (h_s : Onward z (s)) :
    Onward z (State.readUnits s x u n) := by
  unfold State.readUnits
  repeat' first
    | with_reducible intro _
    | with_reducible first
      | assumption | apply on_ite | apply onO_ite | apply State.emit_on
    | with_reducible apply goodT_ts
    | with_reducible apply goodC_ts
    | dsimp only
    | split

theorem State.reqDoorbell_on {z : State} (s : State) (t : Nat) (v : Word) (h_s : Onward z (s)) :
    Onward z (State.reqDoorbell s t v) := by
  unfold State.reqDoorbell
  repeat' first
    | with_reducible intro _
    | with_reducible first
      | assumption | apply onO_some | apply onO_none | apply onF_some | apply onF_none | apply on_ite
      | apply onO_ite | apply State.readUnits_on | apply State.clampPage_on | apply goodC_ite | apply goodT_ite
    | simp only [on_mk_iff, goodC_mk_iff, goodH_mk_iff]
    | with_reducible apply goodT_ts
    | with_reducible apply goodC_ts
    | dsimp only
    | split
    | (apply on_fst; with_reducible assumption)
    | (apply on_snd; with_reducible assumption)
    | (apply on_someF'; with_reducible assumption)
    | (apply on_some; with_reducible assumption)
    | (apply on_someF; with_reducible assumption)
    | (apply on_next; with_reducible assumption)

theorem execRequestDoorbell_on {z : State} (t : Tenant) (v : Word) (s : State) (h_s : Onward z (s)) :
    OnwardA z (execRequestDoorbell t v s) := by
  unfold execRequestDoorbell
  repeat' first
    | with_reducible intro _
    | with_reducible first
      | assumption | apply onA_next | apply onA_refused | apply State.reqDoorbell_on
    | with_reducible apply goodT_ts
    | with_reducible apply goodC_ts
    | dsimp only

theorem State.readRetry_on {z : State} (s : State) (st : Nat) (h_s : Onward z (s)) :
    Onward z (State.readRetry s st) := by
  unfold State.readRetry
  repeat' first
    | with_reducible intro _
    | with_reducible first
      | assumption | apply onO_some | apply onO_none | apply onF_some | apply onF_none | apply on_ite
      | apply onO_ite | apply State.readUnits_on | apply State.closeStream_on | apply State.inc_on
      | apply goodC_ite | apply goodT_ite
    | simp only [on_mk_iff, goodC_mk_iff, goodH_mk_iff]
    | with_reducible apply goodT_ts
    | with_reducible apply goodC_ts
    | dsimp only
    | split
    | (apply on_fst; with_reducible assumption)
    | (apply on_snd; with_reducible assumption)
    | (apply on_someF'; with_reducible assumption)
    | (apply on_some; with_reducible assumption)
    | (apply on_someF; with_reducible assumption)
    | (apply on_next; with_reducible assumption)

theorem execRequestReadRetry_on {z : State} (stream : Stream) (s : State) (h_s : Onward z (s)) :
    OnwardA z (execRequestReadRetry stream s) := by
  unfold execRequestReadRetry
  repeat' first
    | with_reducible intro _
    | with_reducible first
      | assumption | apply onA_next | apply onA_refused | apply State.readRetry_on
    | with_reducible apply goodT_ts
    | with_reducible apply goodC_ts
    | dsimp only

theorem State.parseEntry_on {z : State} (s : State) (st : Nat) (b : List Byte) (h_s : Onward z (s)) :
    Onward z (State.parseEntry s st b) := by
  unfold State.parseEntry
  repeat' first
    | with_reducible intro _
    | with_reducible first
      | assumption | apply onO_some | apply onO_none | apply onF_some | apply onF_none | apply on_ite
      | apply onO_ite | apply State.setReqHead_on | apply State.appendEntry_on | apply goodC_ite | apply goodT_ite
      | apply onF_map | apply onF_mapO | apply onO_mapF | apply onO_map
    | simp only [on_mk_iff, goodC_mk_iff, goodH_mk_iff]
    | with_reducible apply goodT_ts
    | with_reducible apply goodC_ts
    | dsimp only
    | split
    | (apply on_fst; with_reducible assumption)
    | (apply on_snd; with_reducible assumption)
    | (apply on_someF'; with_reducible assumption)
    | (apply on_some; with_reducible assumption)
    | (apply on_someF; with_reducible assumption)
    | (apply on_next; with_reducible assumption)

theorem execRequestEntryParse_on {z : State} (stream : Stream) (bytes : List Byte) (s : State) (h_s : Onward z (s)) :
    OnwardA z (execRequestEntryParse stream bytes s) := by
  unfold execRequestEntryParse
  repeat' first
    | with_reducible intro _
    | with_reducible first
      | assumption | apply onA_next | apply onA_refused | apply State.parseEntry_on
    | with_reducible apply goodT_ts
    | with_reducible apply goodC_ts
    | dsimp only

theorem State.setReq_on {z : State} (s : State) (st : Nat) (r : ServReq) (h_s : Onward z (s)) :
    Onward z (State.setReq s st r) := by
  unfold State.setReq
  repeat' first
    | with_reducible intro _
    | with_reducible first
      | assumption | apply goodC_ite | apply goodT_ite
    | simp only [on_mk_iff, goodC_mk_iff, goodH_mk_iff]
    | with_reducible apply goodT_ts
    | with_reducible apply goodC_ts
    | dsimp only

theorem State.putHistory_on {z : State} (s : State) (b i n : Nat) (toks : List Nat) (h_s : Onward z (s)) :
    Onward z (State.putHistory s b i n toks) := by
  unfold State.putHistory
  repeat' first
    | with_reducible intro _
    | with_reducible first
      | assumption | apply State.setObjBytes_on
    | with_reducible apply goodT_ts
    | with_reducible apply goodC_ts
    | dsimp only

theorem State.admit_on {z : State} (s : State) (m : Nat) (h_s : Onward z (s)) :
    Onward z (State.admitOne s m) := by
  unfold State.admitOne
  repeat' first
    | with_reducible intro _
    | with_reducible first
      | assumption | apply onO_some | apply onO_none | apply onF_some | apply onF_none | apply State.putHistory_on
      | apply State.setReq_on | apply goodC_ite | apply goodT_ite | apply onF_map | apply onF_mapO | apply onO_mapF
      | apply onO_map
    | simp only [on_mk_iff, goodC_mk_iff, goodH_mk_iff]
    | with_reducible apply goodT_ts
    | with_reducible apply goodC_ts
    | dsimp only
    | split
    | (apply on_fst; with_reducible assumption)
    | (apply on_snd; with_reducible assumption)
    | (apply on_someF'; with_reducible assumption)
    | (apply on_some; with_reducible assumption)
    | (apply on_someF; with_reducible assumption)
    | (apply on_next; with_reducible assumption)

theorem execSlotAdmit_on {z : State} (model : Fin 1024) (s : State) (h_s : Onward z (s)) :
    OnwardA z (execSlotAdmit model s) := by
  unfold execSlotAdmit
  repeat' first
    | with_reducible intro _
    | with_reducible first
      | assumption | apply onA_next | apply onA_refused | apply State.admit_on
    | with_reducible apply goodT_ts
    | with_reducible apply goodC_ts
    | dsimp only

theorem State.lookBlocks_on {z : State} (s : State) (b st : Nat) (r : ServReq) (m n : Nat) (h_s : Onward z (s)) :
    Onward z (State.lookBlocks s b st r m n).1 := by
  induction n generalizing s r m with
  | zero =>
    unfold State.lookBlocks
    repeat' first
      | with_reducible intro _
      | with_reducible first
        | assumption | apply onO_some | apply onO_none | apply onF_some | apply onF_none | apply on_ite
        | apply onO_ite | apply ih | apply State.setBind_on | apply State.inc_on | apply goodC_ite | apply goodT_ite
      | simp only [on_mk_iff, goodC_mk_iff, goodH_mk_iff]
      | with_reducible apply goodT_ts
      | with_reducible apply goodC_ts
      | dsimp only
      | split
      | (apply on_fst; with_reducible assumption)
      | (apply on_snd; with_reducible assumption)
      | (apply on_someF'; with_reducible assumption)
      | (apply on_some; with_reducible assumption)
      | (apply on_someF; with_reducible assumption)
      | (apply on_next; with_reducible assumption)
  | succ m ih =>
    unfold State.lookBlocks
    repeat' first
      | with_reducible intro _
      | with_reducible first
        | assumption | apply onO_some | apply onO_none | apply onF_some | apply onF_none | apply on_ite
        | apply onO_ite | apply ih | apply State.setBind_on | apply State.inc_on | apply goodC_ite | apply goodT_ite
      | simp only [on_mk_iff, goodC_mk_iff, goodH_mk_iff]
      | with_reducible apply goodT_ts
      | with_reducible apply goodC_ts
      | dsimp only
      | split
      | (apply on_fst; with_reducible assumption)
      | (apply on_snd; with_reducible assumption)
      | (apply on_someF'; with_reducible assumption)
      | (apply on_some; with_reducible assumption)
      | (apply on_someF; with_reducible assumption)
      | (apply on_next; with_reducible assumption)

theorem State.putRow_on {z : State} (s : State) (b i j : Nat) (blocks : List Nat) (h_s : Onward z (s)) :
    Onward z (State.putRow s b i j blocks) := by
  unfold State.putRow
  repeat' first
    | with_reducible intro _
    | with_reducible first
      | assumption | apply on_ite | apply onO_ite | apply State.setObjBytes_on
    | with_reducible apply goodT_ts
    | with_reducible apply goodC_ts
    | dsimp only
    | split

theorem State.prefixLook_on {z : State} (s : State) (st : Nat) (h_s : Onward z (s)) :
    Onward z (State.prefixLook s st) := by
  unfold State.prefixLook
  repeat' first
    | with_reducible intro _
    | with_reducible first
      | assumption | apply onO_some | apply onO_none | apply onF_some | apply onF_none | apply on_ite
      | apply onO_ite | apply State.putRow_on | apply State.lookBlocks_on | apply State.setReq_on | apply goodC_ite
      | apply goodT_ite
    | simp only [on_mk_iff, goodC_mk_iff, goodH_mk_iff]
    | with_reducible apply goodT_ts
    | with_reducible apply goodC_ts
    | dsimp only
    | split
    | (apply on_fst; with_reducible assumption)
    | (apply on_snd; with_reducible assumption)
    | (apply on_someF'; with_reducible assumption)
    | (apply on_some; with_reducible assumption)
    | (apply on_someF; with_reducible assumption)
    | (apply on_next; with_reducible assumption)

theorem execPrefixLookup_on {z : State} (stream : Stream) (s : State) (h_s : Onward z (s)) :
    OnwardA z (execPrefixLookup stream s) := by
  unfold execPrefixLookup
  repeat' first
    | with_reducible intro _
    | with_reducible first
      | assumption | apply onA_next | apply onA_refused | apply State.prefixLook_on
    | with_reducible apply goodT_ts
    | with_reducible apply goodC_ts
    | dsimp only

theorem State.unrefBlock_on {z : State} (s : State) (model k : Nat) (h_s : Onward z (s)) :
    Onward z (State.unrefBlock s model k) := by
  unfold State.unrefBlock
  repeat' first
    | with_reducible intro _
    | with_reducible first
      | assumption | apply onO_some | apply onO_none | apply onF_some | apply onF_none | apply State.setBind_on
      | apply goodC_ite | apply goodT_ite
    | simp only [on_mk_iff, goodC_mk_iff, goodH_mk_iff]
    | with_reducible apply goodT_ts
    | with_reducible apply goodC_ts
    | dsimp only
    | split
    | (apply on_fst; with_reducible assumption)
    | (apply on_snd; with_reducible assumption)
    | (apply on_someF'; with_reducible assumption)
    | (apply on_some; with_reducible assumption)
    | (apply on_someF; with_reducible assumption)
    | (apply on_next; with_reducible assumption)

theorem State.prefixInsert_on {z : State} (s : State) (b st : Nat) (r : ServReq) (m : Nat) (h_s : Onward z (s)) :
    Onward z (State.prefixInsert s b st r m) := by
  unfold State.prefixInsert
  repeat' first
    | with_reducible intro _
    | with_reducible first
      | assumption | apply onO_some | apply onO_none | apply onF_some | apply onF_none | apply on_ite
      | apply onO_ite | apply State.unrefBlock_on | apply State.setObjBytes_on | apply State.setBind_on
      | apply State.inc_on | apply goodC_ite | apply goodT_ite | apply onF_map | apply onF_mapO | apply onO_mapF
      | apply onO_map
    | simp only [on_mk_iff, goodC_mk_iff, goodH_mk_iff]
    | with_reducible apply goodT_ts
    | with_reducible apply goodC_ts
    | dsimp only
    | split
    | (apply on_fst; with_reducible assumption)
    | (apply on_snd; with_reducible assumption)
    | (apply on_someF'; with_reducible assumption)
    | (apply on_some; with_reducible assumption)
    | (apply on_someF; with_reducible assumption)
    | (apply on_next; with_reducible assumption)

theorem execPrefixAgeSweep_on {z : State} (s : State) (h_s : Onward z (s)) :
    OnwardA z (execPrefixAgeSweep s) := by
  unfold execPrefixAgeSweep
  repeat' first
    | with_reducible intro _
    | with_reducible first
      | assumption | apply onA_next | apply onA_refused | apply goodC_ite | apply goodT_ite | apply onF_map
      | apply onF_mapO | apply onO_mapF | apply onO_map
    | simp only [on_mk_iff, goodC_mk_iff, goodH_mk_iff]
    | with_reducible apply goodT_ts
    | with_reducible apply goodC_ts
    | dsimp only

theorem execPfxObjWrite_on {z : State} (v : Word) (s : State) (h_s : Onward z (s)) :
    OnwardA z (execPfxObjWrite v s) := by
  unfold execPfxObjWrite
  repeat' first
    | with_reducible intro _
    | with_reducible first
      | assumption | apply onA_next | apply onA_refused | apply State.unrefBlock_on | apply State.setReg_on
      | apply goodC_ite | apply goodT_ite | apply goodC_foldl | apply goodH_foldl | apply goodT_foldl
      | apply on_foldl | apply on_foldl_fst | apply on_foldl_snd | apply onO_foldl | apply onF_foldl
    | simp only [on_mk_iff, goodC_mk_iff, goodH_mk_iff]
    | with_reducible apply goodT_ts
    | with_reducible apply goodC_ts
    | dsimp only

theorem State.tokHead_on {z : State} (s : State) (t : Nat) (v : DWord) (h_s : Onward z (s)) :
    Onward z (State.tokHead s t v) := by
  unfold State.tokHead
  repeat' first
    | with_reducible intro _
    | with_reducible first
      | assumption | apply onO_some | apply onO_none | apply onF_some | apply onF_none | apply on_ite
      | apply onO_ite | apply State.clampPage_on | apply State.drainHeld_on | apply goodC_ite | apply goodT_ite
    | simp only [on_mk_iff, goodC_mk_iff, goodH_mk_iff]
    | with_reducible apply goodT_ts
    | with_reducible apply goodC_ts
    | dsimp only
    | split
    | (apply on_fst; with_reducible assumption)
    | (apply on_snd; with_reducible assumption)
    | (apply on_someF'; with_reducible assumption)
    | (apply on_some; with_reducible assumption)
    | (apply on_someF; with_reducible assumption)
    | (apply on_next; with_reducible assumption)

theorem execTokenHeadDoorbell_on {z : State} (t : Tenant) (v : DWord) (s : State) (h_s : Onward z (s)) :
    OnwardA z (execTokenHeadDoorbell t v s) := by
  unfold execTokenHeadDoorbell
  repeat' first
    | with_reducible intro _
    | with_reducible first
      | assumption | apply onA_next | apply onA_refused | apply State.tokHead_on
    | with_reducible apply goodT_ts
    | with_reducible apply goodC_ts
    | dsimp only

theorem State.cancel_on {z : State} (s : State) (t : Nat) (v : DWord) (h_s : Onward z (s)) :
    Onward z (State.cancel s t v) := by
  unfold State.cancel
  repeat' first
    | with_reducible intro _
    | with_reducible first
      | assumption | apply onO_some | apply onO_none | apply onF_some | apply onF_none | apply on_ite
      | apply onO_ite | apply State.setReq_on | apply State.clampPage_on | apply State.endRequest_on
      | apply State.appendEntry_on | apply goodC_ite | apply goodT_ite
    | simp only [on_mk_iff, goodC_mk_iff, goodH_mk_iff]
    | with_reducible apply goodT_ts
    | with_reducible apply goodC_ts
    | dsimp only
    | split
    | (apply on_fst; with_reducible assumption)
    | (apply on_snd; with_reducible assumption)
    | (apply on_someF'; with_reducible assumption)
    | (apply on_some; with_reducible assumption)
    | (apply on_someF; with_reducible assumption)
    | (apply on_next; with_reducible assumption)

theorem execCancel_on {z : State} (t : Tenant) (v : DWord) (s : State) (h_s : Onward z (s)) :
    OnwardA z (execCancel t v s) := by
  unfold execCancel
  repeat' first
    | with_reducible intro _
    | with_reducible first
      | assumption | apply onA_next | apply onA_refused | apply State.cancel_on
    | with_reducible apply goodT_ts
    | with_reducible apply goodC_ts
    | dsimp only

theorem State.refill_on {z : State} (s : State) (t : Nat) (h_s : Onward z (s)) :
    Onward z (State.refill s t) := by
  unfold State.refill
  repeat' first
    | with_reducible intro _
    | with_reducible first
      | assumption | apply on_ite | apply onO_ite | apply State.setLevel_on
    | with_reducible apply goodT_ts
    | with_reducible apply goodC_ts
    | dsimp only
    | split

theorem execBudgetRefill_on {z : State} (s : State) (h_s : Onward z (s)) :
    OnwardA z (execBudgetRefill s) := by
  unfold execBudgetRefill
  repeat' first
    | with_reducible intro _
    | with_reducible first
      | assumption | apply onA_next | apply onA_refused | apply State.refill_on | apply goodC_foldl
      | apply goodH_foldl | apply goodT_foldl | apply on_foldl | apply on_foldl_fst | apply on_foldl_snd
      | apply onO_foldl | apply onF_foldl
    | with_reducible apply goodT_ts
    | with_reducible apply goodC_ts
    | dsimp only

theorem State.levelWrite_on {z : State} (s : State) (t : Nat) (hi : Word) (h_s : Onward z (s)) :
    Onward z (State.levelWrite s t hi) := by
  unfold State.levelWrite
  repeat' first
    | with_reducible intro _
    | with_reducible first
      | assumption | apply on_ite | apply onO_ite | apply State.clampHub_on | apply State.setLevel_on
      | apply goodC_ite | apply goodT_ite
    | simp only [on_mk_iff, goodC_mk_iff, goodH_mk_iff]
    | with_reducible apply goodT_ts
    | with_reducible apply goodC_ts
    | dsimp only
    | split

theorem execBudgetLevelWrite_on {z : State} (t : Tenant) (hi : Word) (s : State) (h_s : Onward z (s)) :
    OnwardA z (execBudgetLevelWrite t hi s) := by
  unfold execBudgetLevelWrite
  repeat' first
    | with_reducible intro _
    | with_reducible first
      | assumption | apply onA_next | apply onA_refused | apply State.levelWrite_on
    | with_reducible apply goodT_ts
    | with_reducible apply goodC_ts
    | dsimp only

end Sys2Proof.Machine
end

