-- ==== Sys2Proof/Laws/OnSampler.lean ====
section
/-! SUPPORT. What each operation of Machine/Sampler.lean leaves in order. -/

namespace Sys2Proof.Machine

theorem State.countHold_on {z : State} (s : State) (h : Hold) (h_s : Onward z (s)) :
    Onward z (State.countHold s h) := by
  unfold State.countHold
  repeat' first
    | with_reducible intro _
    | with_reducible first
      | assumption | apply onO_some | apply onO_none | apply onF_some | apply onF_none | apply State.inc_on
      | apply goodC_ite | apply goodT_ite
    | simp only [on_mk_iff, goodC_mk_iff, goodH_mk_iff]
    | with_reducible apply goodT_ts
    | with_reducible apply goodC_ts
    | dsimp only
    | split
    | (apply on_fst; with_reducible assumption)
    | (apply on_snd; with_reducible assumption)
    | (apply on_someF'; with_reducible assumption)
    | (apply on_some; with_reducible assumption)
    | (apply on_someF; with_reducible assumption)
    | (apply on_next; with_reducible assumption)

theorem State.feedSlot_on {z : State} (s : State) (b st i : Nat) (r : ServReq) (left : Nat) (h_s : Onward z (s)) :
    Onward z (State.feedSlot s b st i r left).1 := by
  unfold State.feedSlot
  repeat' first
    | with_reducible intro _
    | with_reducible first
      | assumption | apply onO_some | apply onO_none | apply onF_some | apply onF_none | apply on_ite
      | apply onO_ite | apply State.countHold_on | apply State.setReq_on | apply State.setBind_on | apply goodC_ite
      | apply goodT_ite | apply goodC_foldl | apply goodH_foldl | apply goodT_foldl | apply on_foldl
      | apply on_foldl_fst | apply on_foldl_snd | apply onO_foldl | apply onF_foldl
    | simp only [on_mk_iff, goodC_mk_iff, goodH_mk_iff]
    | with_reducible apply goodT_ts
    | with_reducible apply goodC_ts
    | dsimp only
    | split

theorem State.feedSlots_on {z : State} (s : State) (b : Nat) (slots : List (Nat × Nat × ServReq)) (left : Nat) (h_s : Onward z (s)) :
    Onward z (State.feedSlots s b slots left).1 := by
  induction slots generalizing s left with
  | nil =>
    unfold State.feedSlots
    repeat' first
      | with_reducible intro _
      | with_reducible first
        | assumption | apply ih | apply State.feedSlot_on | apply goodC_ite | apply goodT_ite
      | simp only [on_mk_iff, goodC_mk_iff, goodH_mk_iff]
      | with_reducible apply goodT_ts
      | with_reducible apply goodC_ts
      | dsimp only
      | split
      | (apply on_fst; with_reducible assumption)
      | (apply on_snd; with_reducible assumption)
      | (apply on_someF'; with_reducible assumption)
      | (apply on_some; with_reducible assumption)
      | (apply on_someF; with_reducible assumption)
      | (apply on_next; with_reducible assumption)
  | cons e rest ih =>
    unfold State.feedSlots
    repeat' first
      | with_reducible intro _
      | with_reducible first
        | assumption | apply ih | apply State.feedSlot_on | apply goodC_ite | apply goodT_ite
      | simp only [on_mk_iff, goodC_mk_iff, goodH_mk_iff]
      | with_reducible apply goodT_ts
      | with_reducible apply goodC_ts
      | dsimp only
      | split
      | (apply on_fst; with_reducible assumption)
      | (apply on_snd; with_reducible assumption)
      | (apply on_someF'; with_reducible assumption)
      | (apply on_some; with_reducible assumption)
      | (apply on_someF; with_reducible assumption)
      | (apply on_next; with_reducible assumption)

theorem State.sendHub_on {z : State} (s : State) (b e off : Nat) (gs : List Granule) (fuel : Nat) (h_s : Onward z (s)) :
    Onward z (State.sendHub s b e off gs fuel) := by
  induction fuel generalizing s off gs with
  | zero =>
    unfold State.sendHub
    repeat' first
      | with_reducible intro _
      | with_reducible first
        | assumption | apply on_ite | apply onO_ite | apply ih | apply State.ravorSend_on | apply goodC_ite
        | apply goodT_ite
      | simp only [on_mk_iff, goodC_mk_iff, goodH_mk_iff]
      | with_reducible apply goodT_ts
      | with_reducible apply goodC_ts
      | dsimp only
      | split
      | (apply on_fst; with_reducible assumption)
      | (apply on_snd; with_reducible assumption)
      | (apply on_someF'; with_reducible assumption)
      | (apply on_some; with_reducible assumption)
      | (apply on_someF; with_reducible assumption)
      | (apply on_next; with_reducible assumption)
  | succ m ih =>
    unfold State.sendHub
    repeat' first
      | with_reducible intro _
      | with_reducible first
        | assumption | apply on_ite | apply onO_ite | apply ih | apply State.ravorSend_on | apply goodC_ite
        | apply goodT_ite
      | simp only [on_mk_iff, goodC_mk_iff, goodH_mk_iff]
      | with_reducible apply goodT_ts
      | with_reducible apply goodC_ts
      | dsimp only
      | split
      | (apply on_fst; with_reducible assumption)
      | (apply on_snd; with_reducible assumption)
      | (apply on_someF'; with_reducible assumption)
      | (apply on_some; with_reducible assumption)
      | (apply on_someF; with_reducible assumption)
      | (apply on_next; with_reducible assumption)

theorem State.stepSend_on {z : State} (s : State) (b : Nat) (h_s : Onward z (s)) :
    Onward z (State.stepSend s b) := by
  unfold State.stepSend
  repeat' first
    | with_reducible intro _
    | with_reducible first
      | assumption | apply on_ite | apply onO_ite | apply State.sendHub_on | apply State.feedSlots_on
      | apply State.setBind_on | apply goodC_ite | apply goodT_ite | apply goodC_foldl | apply goodH_foldl
      | apply goodT_foldl | apply on_foldl | apply on_foldl_fst | apply on_foldl_snd | apply onO_foldl
      | apply onF_foldl | apply onF_map | apply onF_mapO | apply onO_mapF | apply onO_map
    | simp only [on_mk_iff, goodC_mk_iff, goodH_mk_iff]
    | with_reducible apply goodT_ts
    | with_reducible apply goodC_ts
    | dsimp only
    | split
    | (apply on_fst; with_reducible assumption)
    | (apply on_snd; with_reducible assumption)
    | (apply on_someF'; with_reducible assumption)

theorem execStepMessageSend_on {z : State} (b : Fin 32) (s : State) (h_s : Onward z (s)) :
    OnwardA z (execStepMessageSend b s) := by
  unfold execStepMessageSend
  repeat' first
    | with_reducible intro _
    | with_reducible first
      | assumption | apply onA_next | apply onA_refused | apply State.stepSend_on
    | with_reducible apply goodT_ts
    | with_reducible apply goodC_ts
    | dsimp only

theorem State.freeToks_on {z : State} (s : State) (n : Nat) (h_s : Onward z (s)) :
    Onward z (State.freeToks s n).1 := by
  induction n generalizing s with
  | zero =>
    unfold State.freeToks
    repeat' first
      | with_reducible intro _
      | with_reducible first
        | assumption | apply ih | apply State.fresh_on | apply goodC_ite | apply goodT_ite
      | simp only [on_mk_iff, goodC_mk_iff, goodH_mk_iff]
      | with_reducible apply goodT_ts
      | with_reducible apply goodC_ts
      | dsimp only
      | split
      | (apply on_fst; with_reducible assumption)
      | (apply on_snd; with_reducible assumption)
      | (apply on_someF'; with_reducible assumption)
      | (apply on_some; with_reducible assumption)
      | (apply on_someF; with_reducible assumption)
      | (apply on_next; with_reducible assumption)
  | succ m ih =>
    unfold State.freeToks
    repeat' first
      | with_reducible intro _
      | with_reducible first
        | assumption | apply ih | apply State.fresh_on | apply goodC_ite | apply goodT_ite
      | simp only [on_mk_iff, goodC_mk_iff, goodH_mk_iff]
      | with_reducible apply goodT_ts
      | with_reducible apply goodC_ts
      | dsimp only
      | split
      | (apply on_fst; with_reducible assumption)
      | (apply on_snd; with_reducible assumption)
      | (apply on_someF'; with_reducible assumption)
      | (apply on_some; with_reducible assumption)
      | (apply on_someF; with_reducible assumption)
      | (apply on_next; with_reducible assumption)

theorem State.keepHistory_on {z : State} (s : State) (b : Nat) (e : StepEntry) (h_s : Onward z (s)) :
    Onward z (State.keepHistory s b e) := by
  unfold State.keepHistory
  repeat' first
    | with_reducible intro _
    | with_reducible first
      | assumption | apply on_ite | apply onO_ite | apply State.freeToks_on | apply State.setBind_on
      | apply goodC_ite | apply goodT_ite
    | simp only [on_mk_iff, goodC_mk_iff, goodH_mk_iff]
    | with_reducible apply goodT_ts
    | with_reducible apply goodC_ts
    | dsimp only
    | split
    | (apply on_fst; with_reducible assumption)
    | (apply on_snd; with_reducible assumption)
    | (apply on_someF'; with_reducible assumption)

theorem State.stepReceive_on {z : State} (s : State) (b step rank : Nat) (es : List StepEntry) (h_s : Onward z (s)) :
    Onward z (State.stepReceive s b step rank es) := by
  unfold State.stepReceive
  repeat' first
    | with_reducible intro _
    | with_reducible first
      | assumption | apply on_ite | apply onO_ite | apply State.keepHistory_on | apply State.setBind_on
      | apply goodC_ite | apply goodT_ite | apply goodC_foldl | apply goodH_foldl | apply goodT_foldl
      | apply on_foldl | apply on_foldl_fst | apply on_foldl_snd | apply onO_foldl | apply onF_foldl
    | simp only [on_mk_iff, goodC_mk_iff, goodH_mk_iff]
    | with_reducible apply goodT_ts
    | with_reducible apply goodC_ts
    | dsimp only
    | split

theorem execStepMessageReceive_on {z : State} (b : Fin 32) (step : DWord) (rank : Nat) (entries : List StepEntry) (s : State) (h_s : Onward z (s)) :
    OnwardA z (execStepMessageReceive b step rank entries s) := by
  unfold execStepMessageReceive
  repeat' first
    | with_reducible intro _
    | with_reducible first
      | assumption | apply onA_next | apply onA_refused | apply State.stepReceive_on
    | with_reducible apply goodT_ts
    | with_reducible apply goodC_ts
    | dsimp only

theorem State.feedWrite_on {z : State} (s : State) (b : Nat) (h_s : Onward z (s)) :
    Onward z (State.feedWrite s b) := by
  unfold State.feedWrite
  repeat' first
    | with_reducible intro _
    | with_reducible first
      | assumption | apply on_ite | apply onO_ite | apply State.putRow_on | apply State.setBind_on
      | apply State.emit_on | apply goodC_ite | apply goodT_ite | apply goodC_foldl | apply goodH_foldl
      | apply goodT_foldl | apply on_foldl | apply on_foldl_fst | apply on_foldl_snd | apply onO_foldl
      | apply onF_foldl | apply onF_map | apply onF_mapO | apply onO_mapF | apply onO_map
    | simp only [on_mk_iff, goodC_mk_iff, goodH_mk_iff]
    | with_reducible apply goodT_ts
    | with_reducible apply goodC_ts
    | dsimp only
    | split

theorem execFeedWrite_on {z : State} (b : Fin 32) (s : State) (h_s : Onward z (s)) :
    OnwardA z (execFeedWrite b s) := by
  unfold execFeedWrite
  repeat' first
    | with_reducible intro _
    | with_reducible first
      | assumption | apply onA_next | apply onA_refused | apply State.feedWrite_on
    | with_reducible apply goodT_ts
    | with_reducible apply goodC_ts
    | dsimp only

theorem State.jNumber_on {z : State} (s : State) (same : Bool) (h_s : Onward z (s)) :
    Onward z (State.jNumber s same).1 := by
  unfold State.jNumber
  repeat' first
    | with_reducible intro _
    | with_reducible first
      | assumption | apply on_ite | apply onO_ite | apply goodC_ite | apply goodT_ite | apply goodC_foldl
      | apply goodH_foldl | apply goodT_foldl | apply on_foldl | apply on_foldl_fst | apply on_foldl_snd
      | apply onO_foldl | apply onF_foldl
    | simp only [on_mk_iff, goodC_mk_iff, goodH_mk_iff]
    | with_reducible apply goodT_ts
    | with_reducible apply goodC_ts
    | dsimp only
    | split

theorem State.candidate_on {z : State} (s : State) (b i shard : Nat) (gs : List Granule) (same : Bool) (h_s : Onward z (s)) :
    Onward z (State.candidate s b i shard gs same) := by
  unfold State.candidate
  repeat' first
    | with_reducible intro _
    | with_reducible first
      | assumption | apply onO_some | apply onO_none | apply onF_some | apply onF_none | apply on_ite
      | apply onO_ite | apply State.jNumber_on | apply State.setReq_on | apply State.endRequest_on
      | apply goodC_ite | apply goodT_ite
    | simp only [on_mk_iff, goodC_mk_iff, goodH_mk_iff]
    | with_reducible apply goodT_ts
    | with_reducible apply goodC_ts
    | dsimp only
    | split
    | (apply on_fst; with_reducible assumption)
    | (apply on_snd; with_reducible assumption)
    | (apply on_someF'; with_reducible assumption)
    | (apply on_some; with_reducible assumption)
    | (apply on_someF; with_reducible assumption)
    | (apply on_next; with_reducible assumption)

theorem execCandidateRecord_on {z : State} (b : Fin 32) (slot : Fin 256) (shard : Fin 64) (grans : List Granule) (same : Bool) (s : State) (h_s : Onward z (s)) :
    OnwardA z (execCandidateRecord b slot shard grans same s) := by
  unfold execCandidateRecord
  repeat' first
    | with_reducible intro _
    | with_reducible first
      | assumption | apply onA_next | apply onA_refused | apply State.candidate_on
    | with_reducible apply goodT_ts
    | with_reducible apply goodC_ts
    | dsimp only

theorem State.blockMirror_on {z : State} (s : State) (b k : Nat) (h_s : Onward z (s)) :
    Onward z (State.blockMirror s b k) := by
  unfold State.blockMirror
  repeat' first
    | with_reducible intro _
    | with_reducible first
      | assumption | apply State.sendHub_on
    | with_reducible apply goodT_ts
    | with_reducible apply goodC_ts
    | dsimp only

theorem State.endEntry_on {z : State} (s : State) (b : Nat) (e : StepEntry) (h_s : Onward z (s)) :
    Onward z (State.endEntry s b e) := by
  unfold State.endEntry
  repeat' first
    | with_reducible intro _
    | with_reducible first
      | assumption | apply onO_some | apply onO_none | apply onF_some | apply onF_none | apply on_ite
      | apply onO_ite | apply State.blockMirror_on | apply State.prefixInsert_on | apply State.setReq_on
      | apply goodC_ite | apply goodT_ite | apply goodC_foldl | apply goodH_foldl | apply goodT_foldl
      | apply on_foldl | apply on_foldl_fst | apply on_foldl_snd | apply onO_foldl | apply onF_foldl
      | apply on_getD | apply on_getD_fst | apply onF_map | apply onF_mapO | apply onO_mapF | apply onO_map
    | simp only [on_mk_iff, goodC_mk_iff, goodH_mk_iff]
    | with_reducible apply goodT_ts
    | with_reducible apply goodC_ts
    | dsimp only
    | split
    | (apply on_fst; with_reducible assumption)
    | (apply on_snd; with_reducible assumption)
    | (apply on_someF'; with_reducible assumption)
    | (apply on_some; with_reducible assumption)
    | (apply on_someF; with_reducible assumption)
    | (apply on_next; with_reducible assumption)

theorem State.doneShard_on {z : State} (s : State) (b shard step : Nat) (last : Bool) (h_s : Onward z (s)) :
    Onward z (State.doneShard s b shard step last) := by
  unfold State.doneShard
  repeat' first
    | with_reducible intro _
    | with_reducible first
      | assumption | apply on_ite | apply onO_ite | apply State.endEntry_on | apply State.setBind_on
      | apply goodC_ite | apply goodT_ite | apply goodC_foldl | apply goodH_foldl | apply goodT_foldl
      | apply on_foldl | apply on_foldl_fst | apply on_foldl_snd | apply onO_foldl | apply onF_foldl
    | simp only [on_mk_iff, goodC_mk_iff, goodH_mk_iff]
    | with_reducible apply goodT_ts
    | with_reducible apply goodC_ts
    | dsimp only
    | split

theorem execDoneGranule_on {z : State} (b : Fin 32) (shard : Fin 64) (step : DWord) (last : Bool) (s : State) (h_s : Onward z (s)) :
    OnwardA z (execDoneGranule b shard step last s) := by
  unfold execDoneGranule
  repeat' first
    | with_reducible intro _
    | with_reducible first
      | assumption | apply onA_next | apply onA_refused | apply State.doneShard_on
    | with_reducible apply goodT_ts
    | with_reducible apply goodC_ts
    | dsimp only

theorem State.service_on {z : State} (s : State) (u : Nat) (h_s : Onward z (s)) :
    Onward z (State.service s u) := by
  unfold State.service
  repeat' first
    | with_reducible intro _
    | with_reducible first
      | assumption | apply onO_some | apply onO_none | apply onF_some | apply onF_none | apply on_ite
      | apply onO_ite | apply State.sample_on | apply State.setReq_on | apply State.endRequest_on
      | apply State.inc_on | apply goodC_ite | apply goodT_ite
    | simp only [on_mk_iff, goodC_mk_iff, goodH_mk_iff]
    | with_reducible apply goodT_ts
    | with_reducible apply goodC_ts
    | dsimp only
    | split
    | (apply on_fst; with_reducible assumption)
    | (apply on_snd; with_reducible assumption)
    | (apply on_someF'; with_reducible assumption)
    | (apply on_some; with_reducible assumption)
    | (apply on_someF; with_reducible assumption)
    | (apply on_next; with_reducible assumption)

theorem execSamplerService_on {z : State} (u : Fin 4) (s : State) (h_s : Onward z (s)) :
    OnwardA z (execSamplerService u s) := by
  unfold execSamplerService
  repeat' first
    | with_reducible intro _
    | with_reducible first
      | assumption | apply onA_next | apply onA_refused | apply State.service_on
    | with_reducible apply goodT_ts
    | with_reducible apply goodC_ts
    | dsimp only

theorem State.append_on {z : State} (s : State) (st : Nat) (h_s : Onward z (s)) :
    Onward z (State.append s st) := by
  unfold State.append
  repeat' first
    | with_reducible intro _
    | with_reducible first
      | assumption | apply onO_some | apply onO_none | apply onF_some | apply onF_none | apply on_ite
      | apply onO_ite | apply State.putHistory_on | apply State.setReq_on | apply HarborSt.charge_on
      | apply State.replay_on | apply State.endRequest_on | apply State.dropRequest_on | apply State.appendEntry_on
      | apply State.writeEntry_on | apply State.charge_on | apply goodC_ite | apply goodT_ite
    | simp only [on_mk_iff, goodC_mk_iff, goodH_mk_iff]
    | with_reducible apply goodT_ts
    | with_reducible apply goodC_ts
    | dsimp only
    | split
    | (apply on_fst; with_reducible assumption)
    | (apply on_snd; with_reducible assumption)
    | (apply on_someF'; with_reducible assumption)
    | (apply on_some; with_reducible assumption)
    | (apply on_someF; with_reducible assumption)
    | (apply on_next; with_reducible assumption)

theorem execTokenAppend_on {z : State} (stream : Stream) (s : State) (h_s : Onward z (s)) :
    OnwardA z (execTokenAppend stream s) := by
  unfold execTokenAppend
  repeat' first
    | with_reducible intro _
    | with_reducible first
      | assumption | apply onA_next | apply onA_refused | apply State.append_on
    | with_reducible apply goodT_ts
    | with_reducible apply goodC_ts
    | dsimp only

theorem execMirrorAck_on {z : State} (b : Fin 32) (block rank : Nat) (s : State) (h_s : Onward z (s)) :
    OnwardA z (execMirrorAck b block rank s) := by
  unfold execMirrorAck
  repeat' first
    | with_reducible intro _
    | with_reducible first
      | assumption | apply onA_next | apply onA_refused | apply goodC_ite | apply goodT_ite | apply onF_map
      | apply onF_mapO | apply onO_mapF | apply onO_map
    | simp only [on_mk_iff, goodC_mk_iff, goodH_mk_iff]
    | with_reducible apply goodT_ts
    | with_reducible apply goodC_ts
    | dsimp only

theorem State.takeShadow_on {z : State} (s : State) (b : Nat) (q : ShadowReq) (h_s : Onward z (s)) :
    Onward z (State.takeShadow s b q) := by
  unfold State.takeShadow
  repeat' first
    | with_reducible intro _
    | with_reducible first
      | assumption | apply onO_some | apply onO_none | apply onF_some | apply onF_none | apply on_ite
      | apply onO_ite | apply State.setReq_on | apply State.setBind_on | apply goodC_ite | apply goodT_ite
      | apply goodC_foldl | apply goodH_foldl | apply goodT_foldl | apply on_foldl | apply on_foldl_fst
      | apply on_foldl_snd | apply onO_foldl | apply onF_foldl | apply onF_map | apply onF_mapO | apply onO_mapF
      | apply onO_map
    | simp only [on_mk_iff, goodC_mk_iff, goodH_mk_iff]
    | with_reducible apply goodT_ts
    | with_reducible apply goodC_ts
    | dsimp only
    | split
    | (apply on_fst; with_reducible assumption)
    | (apply on_snd; with_reducible assumption)
    | (apply on_someF'; with_reducible assumption)
    | (apply on_some; with_reducible assumption)
    | (apply on_someF; with_reducible assumption)
    | (apply on_next; with_reducible assumption)

theorem State.reload_on {z : State} (s : State) (b : Nat) (h_s : Onward z (s)) :
    Onward z (State.reload s b) := by
  unfold State.reload
  repeat' first
    | with_reducible intro _
    | with_reducible first
      | assumption | apply onO_some | apply onO_none | apply onF_some | apply onF_none | apply State.loadCmd_on
      | apply goodC_ite | apply goodT_ite
    | simp only [on_mk_iff, goodC_mk_iff, goodH_mk_iff]
    | with_reducible apply goodT_ts
    | with_reducible apply goodC_ts
    | dsimp only
    | split
    | (apply on_fst; with_reducible assumption)
    | (apply on_snd; with_reducible assumption)
    | (apply on_someF'; with_reducible assumption)
    | (apply on_some; with_reducible assumption)
    | (apply on_someF; with_reducible assumption)
    | (apply on_next; with_reducible assumption)

theorem State.serveFailover_on {z : State} (s : State) (b lost : Nat) (shadows : List ShadowReq) (h_s : Onward z (s)) :
    Onward z (State.serveFailover s b lost shadows) := by
  unfold State.serveFailover
  repeat' first
    | with_reducible intro _
    | with_reducible first
      | assumption | apply on_ite | apply onO_ite | apply State.reload_on | apply State.takeShadow_on
      | apply State.setReq_on | apply State.faultEnd_on | apply State.setBind_on | apply State.setFlag_on
      | apply goodC_ite | apply goodT_ite | apply goodC_foldl | apply goodH_foldl | apply goodT_foldl
      | apply on_foldl | apply on_foldl_fst | apply on_foldl_snd | apply onO_foldl | apply onF_foldl
    | simp only [on_mk_iff, goodC_mk_iff, goodH_mk_iff]
    | with_reducible apply goodT_ts
    | with_reducible apply goodC_ts
    | dsimp only
    | split

theorem execServingFailover_on {z : State} (b : Fin 32) (lost : Endpoint) (shadows : List ShadowReq) (s : State) (h_s : Onward z (s)) :
    OnwardA z (execServingFailover b lost shadows s) := by
  unfold execServingFailover
  repeat' first
    | with_reducible intro _
    | with_reducible first
      | assumption | apply onA_next | apply onA_refused | apply State.serveFailover_on
    | with_reducible apply goodT_ts
    | with_reducible apply goodC_ts
    | dsimp only

end Sys2Proof.Machine
end

