-- ==== Sys2Proof/Laws/OnAnneal.lean ====
section
/-! SUPPORT. What each operation of Machine/Anneal.lean leaves in order. -/

namespace Sys2Proof.Machine

theorem State.setExk_on {z : State} (s : State) (x : Exkalet) (h_s : Onward z (s)) :
    Onward z (State.setExk s x) := by
  unfold State.setExk
  repeat' first
    | with_reducible intro _
    | with_reducible first
      | assumption | apply goodC_ite | apply goodT_ite
    | simp only [on_mk_iff, goodC_mk_iff, goodH_mk_iff]
    | with_reducible apply goodT_ts
    | with_reducible apply goodC_ts
    | dsimp only

theorem State.showRunning_on {z : State} (s : State) (i : Nat) (h_s : Onward z (s)) :
    Onward z (State.showRunning s i) := by
  unfold State.showRunning
  repeat' first
    | with_reducible intro _
    | with_reducible first
      | assumption | apply onO_some | apply onO_none | apply onF_some | apply onF_none
      | apply State.refreshAnneal_on | apply State.setFlag_on | apply goodC_ite | apply goodT_ite
    | simp only [on_mk_iff, goodC_mk_iff, goodH_mk_iff]
    | with_reducible apply goodT_ts
    | with_reducible apply goodC_ts
    | dsimp only
    | split
    | (apply on_fst; with_reducible assumption)
    | (apply on_snd; with_reducible assumption)
    | (apply on_someF'; with_reducible assumption)
    | (apply on_some; with_reducible assumption)
    | (apply on_someF; with_reducible assumption)
    | (apply on_next; with_reducible assumption)

theorem State.setChannel_on {z : State} (s : State) (ch : Nat) (a : Option Anneal) (h_s : Onward z (s)) :
    Onward z (State.setChannel s ch a) := by
  unfold State.setChannel
  repeat' first
    | with_reducible intro _
    | with_reducible first
      | assumption | apply State.setExk_on | apply goodC_ite | apply goodT_ite
    | simp only [on_mk_iff, goodC_mk_iff, goodH_mk_iff]
    | with_reducible apply goodT_ts
    | with_reducible apply goodC_ts
    | dsimp only

theorem State.annealStart_on {z : State} (s : State) (h_s : Onward z (s)) :
    Onward z (State.annealStart s) := by
  unfold State.annealStart
  repeat' first
    | with_reducible intro _
    | with_reducible first
      | assumption | apply onO_some | apply onO_none | apply onF_some | apply onF_none | apply on_ite
      | apply onO_ite | apply State.setChannel_on | apply State.showRunning_on | apply State.setExk_on
      | apply State.refreshAnneal_on | apply goodC_ite | apply goodT_ite
    | simp only [on_mk_iff, goodC_mk_iff, goodH_mk_iff]
    | with_reducible apply goodT_ts
    | with_reducible apply goodC_ts
    | dsimp only
    | split
    | (apply on_fst; with_reducible assumption)
    | (apply on_snd; with_reducible assumption)
    | (apply on_someF'; with_reducible assumption)
    | (apply on_some; with_reducible assumption)
    | (apply on_someF; with_reducible assumption)
    | (apply on_next; with_reducible assumption)

theorem execReannealStart_on {z : State} (s : State) (h_s : Onward z (s)) :
    OnwardA z (execReannealStart s) := by
  unfold execReannealStart
  repeat' first
    | with_reducible intro _
    | with_reducible first
      | assumption | apply onA_next | apply onA_refused | apply State.annealStart_on
    | with_reducible apply goodT_ts
    | with_reducible apply goodC_ts
    | dsimp only

theorem State.annealAgain_on {z : State} (s : State) (ch : Nat) (a : Anneal) (cls : Nat) (h_s : Onward z (s)) :
    Onward z (State.annealAgain s ch a cls) := by
  unfold State.annealAgain
  repeat' first
    | with_reducible intro _
    | with_reducible first
      | assumption | apply onO_some | apply onO_none | apply onF_some | apply onF_none | apply State.setChannel_on
      | apply State.setIsl_on | apply goodC_ite | apply goodT_ite
    | simp only [on_mk_iff, goodC_mk_iff, goodH_mk_iff]
    | with_reducible apply goodT_ts
    | with_reducible apply goodC_ts
    | dsimp only

theorem State.canary_on {z : State} (s : State) (ch : Nat) (err : Bool) (h_s : Onward z (s)) :
    Onward z (State.canary s ch err) := by
  unfold State.canary
  repeat' first
    | with_reducible intro _
    | with_reducible first
      | assumption | apply onO_some | apply onO_none | apply onF_some | apply onF_none | apply on_ite
      | apply onO_ite | apply State.annealAgain_on | apply State.setChannel_on | apply goodC_ite | apply goodT_ite
    | simp only [on_mk_iff, goodC_mk_iff, goodH_mk_iff]
    | with_reducible apply goodT_ts
    | with_reducible apply goodC_ts
    | dsimp only
    | split
    | (apply on_fst; with_reducible assumption)
    | (apply on_snd; with_reducible assumption)
    | (apply on_someF'; with_reducible assumption)
    | (apply on_some; with_reducible assumption)
    | (apply on_someF; with_reducible assumption)
    | (apply on_next; with_reducible assumption)

theorem execCanaryRun_on {z : State} (ch : Fin 4) (err : Bool) (s : State) (h_s : Onward z (s)) :
    OnwardA z (execCanaryRun ch err s) := by
  unfold execCanaryRun
  repeat' first
    | with_reducible intro _
    | with_reducible first
      | assumption | apply onA_next | apply onA_refused | apply State.canary_on
    | with_reducible apply goodT_ts
    | with_reducible apply goodC_ts
    | dsimp only

theorem State.annealFail_on {z : State} (s : State) (ch : Nat) (a : Anneal) (h_s : Onward z (s)) :
    Onward z (State.annealFail s ch a) := by
  unfold State.annealFail
  repeat' first
    | with_reducible intro _
    | with_reducible first
      | assumption | apply onO_some | apply onO_none | apply onF_some | apply onF_none | apply State.setChannel_on
      | apply State.showRunning_on | apply State.logEvent_on | apply State.postMessage_on | apply State.setFlag_on
    | with_reducible apply goodT_ts
    | with_reducible apply goodC_ts
    | dsimp only

theorem State.annealPass_on {z : State} (s : State) (ch : Nat) (a : Anneal) (new : Int) (h_s : Onward z (s)) :
    Onward z (State.annealPass s ch a new) := by
  unfold State.annealPass
  repeat' first
    | with_reducible intro _
    | with_reducible first
      | assumption | apply onO_some | apply onO_none | apply onF_some | apply onF_none | apply State.setChannel_on
      | apply State.showRunning_on | apply State.writeRec_on | apply State.annealTrigger_on
      | apply State.logEvent_on | apply State.inc_on | apply State.setFlag_on
    | with_reducible apply goodT_ts
    | with_reducible apply goodC_ts
    | dsimp only

theorem State.annealEnd_on {z : State} (s : State) (ch : Nat) (err : Bool) (h_s : Onward z (s)) :
    Onward z (State.annealEnd s ch err) := by
  unfold State.annealEnd
  repeat' first
    | with_reducible intro _
    | with_reducible first
      | assumption | apply onO_some | apply onO_none | apply onF_some | apply onF_none | apply on_ite
      | apply onO_ite | apply State.annealPass_on | apply State.annealFail_on | apply State.annealAgain_on
      | apply goodC_ite | apply goodT_ite
    | simp only [on_mk_iff, goodC_mk_iff, goodH_mk_iff]
    | with_reducible apply goodT_ts
    | with_reducible apply goodC_ts
    | dsimp only
    | split
    | (apply on_fst; with_reducible assumption)
    | (apply on_snd; with_reducible assumption)
    | (apply on_someF'; with_reducible assumption)
    | (apply on_some; with_reducible assumption)
    | (apply on_someF; with_reducible assumption)
    | (apply on_next; with_reducible assumption)

theorem execReannealComplete_on {z : State} (ch : Fin 4) (err : Bool) (s : State) (h_s : Onward z (s)) :
    OnwardA z (execReannealComplete ch err s) := by
  unfold execReannealComplete
  repeat' first
    | with_reducible intro _
    | with_reducible first
      | assumption | apply onA_next | apply onA_refused | apply State.annealEnd_on
    | with_reducible apply goodT_ts
    | with_reducible apply goodC_ts
    | dsimp only

theorem State.annealAll_on {z : State} (s : State) (i : Nat) (h_s : Onward z (s)) :
    Onward z (State.annealAll s i) := by
  unfold State.annealAll
  repeat' first
    | with_reducible intro _
    | with_reducible first
      | assumption | apply on_ite | apply onO_ite | apply State.setExk_on | apply State.guard_on
      | apply State.refreshAnneal_on | apply goodC_ite | apply goodT_ite | apply onF_map | apply onF_mapO
      | apply onO_mapF | apply onO_map
    | simp only [on_mk_iff, goodC_mk_iff, goodH_mk_iff]
    | with_reducible apply goodT_ts
    | with_reducible apply goodC_ts
    | dsimp only
    | split

theorem State.pairDown_on {z : State} (s : State) (held : Bool) (h_s : Onward z (s)) :
    Onward z (State.pairDown s held) := by
  unfold State.pairDown
  repeat' first
    | with_reducible intro _
    | with_reducible first
      | assumption | apply State.setExk_on | apply State.setFlag_on | apply goodC_ite | apply goodT_ite
    | simp only [on_mk_iff, goodC_mk_iff, goodH_mk_iff]
    | with_reducible apply goodT_ts
    | with_reducible apply goodC_ts
    | dsimp only

theorem State.trialFail_on {z : State} (s : State) (h_s : Onward z (s)) :
    Onward z (State.trialFail s) := by
  unfold State.trialFail
  repeat' first
    | with_reducible intro _
    | with_reducible first
      | assumption | apply onO_some | apply onO_none | apply onF_some | apply onF_none | apply on_ite
      | apply onO_ite | apply State.setExk_on | apply State.exkShow_on | apply State.logEvent_on
      | apply State.postMessage_on | apply goodC_ite | apply goodT_ite
    | simp only [on_mk_iff, goodC_mk_iff, goodH_mk_iff]
    | with_reducible apply goodT_ts
    | with_reducible apply goodC_ts
    | dsimp only
    | split
    | (apply on_fst; with_reducible assumption)
    | (apply on_snd; with_reducible assumption)
    | (apply on_someF'; with_reducible assumption)
    | (apply on_some; with_reducible assumption)
    | (apply on_someF; with_reducible assumption)
    | (apply on_next; with_reducible assumption)

theorem State.pairFault_on {z : State} (s : State) (cause : Nat) (count : RF) (h_s : Onward z (s)) :
    Onward z (State.pairFault s cause count) := by
  unfold State.pairFault
  repeat' first
    | with_reducible intro _
    | with_reducible first
      | assumption | apply onO_some | apply onO_none | apply onF_some | apply onF_none | apply on_ite
      | apply onO_ite | apply State.trialFail_on | apply State.pairDown_on | apply State.setExk_on
      | apply State.setPads_on | apply State.failStart_on | apply State.crashSnapshot_on | apply State.logEvent_on
      | apply State.inc_on | apply State.setFlag_on | apply goodC_ite | apply goodT_ite
    | simp only [on_mk_iff, goodC_mk_iff, goodH_mk_iff]
    | with_reducible apply goodT_ts
    | with_reducible apply goodC_ts
    | dsimp only
    | split

theorem execLockstepMismatch_on {z : State} (s : State) (h_s : Onward z (s)) :
    OnwardA z (execLockstepMismatch s) := by
  unfold execLockstepMismatch
  repeat' first
    | with_reducible intro _
    | with_reducible first
      | assumption | apply onA_next | apply onA_refused | apply State.pairFault_on
    | with_reducible apply goodT_ts
    | with_reducible apply goodC_ts
    | dsimp only

theorem execExkWatchdogExpire_on {z : State} (s : State) (h_s : Onward z (s)) :
    OnwardA z (execExkWatchdogExpire s) := by
  unfold execExkWatchdogExpire
  repeat' first
    | with_reducible intro _
    | with_reducible first
      | assumption | apply onA_next | apply onA_refused | apply State.pairFault_on
    | with_reducible apply goodT_ts
    | with_reducible apply goodC_ts
    | dsimp only

theorem State.pairUp_on {z : State} (s : State) (h_s : Onward z (s)) :
    Onward z (State.pairUp s) := by
  unfold State.pairUp
  repeat' first
    | with_reducible intro _
    | with_reducible first
      | assumption | apply onO_some | apply onO_none | apply onF_some | apply onF_none | apply on_ite
      | apply onO_ite | apply State.firmwareUp_on | apply State.setBoot_on | apply State.hubEnable_on
      | apply State.postMessage_on | apply goodC_ite | apply goodT_ite
    | simp only [on_mk_iff, goodC_mk_iff, goodH_mk_iff]
    | with_reducible apply goodT_ts
    | with_reducible apply goodC_ts
    | dsimp only
    | split
    | (apply on_fst; with_reducible assumption)
    | (apply on_snd; with_reducible assumption)
    | (apply on_someF'; with_reducible assumption)
    | (apply on_some; with_reducible assumption)
    | (apply on_someF; with_reducible assumption)
    | (apply on_next; with_reducible assumption)

theorem execPairRestartComplete_on {z : State} (s : State) (h_s : Onward z (s)) :
    OnwardA z (execPairRestartComplete s) := by
  unfold execPairRestartComplete
  repeat' first
    | with_reducible intro _
    | with_reducible first
      | assumption | apply onA_next | apply onA_refused | apply State.pairUp_on
    | with_reducible apply goodT_ts
    | with_reducible apply goodC_ts
    | dsimp only

theorem State.thermtrip_on {z : State} (s : State) (h_s : Onward z (s)) :
    Onward z (State.thermtrip s) := by
  unfold State.thermtrip
  repeat' first
    | with_reducible intro _
    | with_reducible first
      | assumption | apply on_ite | apply onO_ite | apply State.railsOff_on | apply State.crashSnapshot_on
      | apply State.toPhase_on | apply goodC_ite | apply goodT_ite
    | simp only [on_mk_iff, goodC_mk_iff, goodH_mk_iff]
    | with_reducible apply goodT_ts
    | with_reducible apply goodC_ts
    | dsimp only
    | split

theorem State.showTemps_on {z : State} (s : State) (dies : List (List (BitVec 8))) (towers : List (BitVec 8)) (h_s : Onward z (s)) :
    Onward z (State.showTemps s dies towers) := by
  unfold State.showTemps
  repeat' first
    | with_reducible intro _
    | with_reducible first
      | assumption | apply State.put_on | apply goodC_foldl | apply goodH_foldl | apply goodT_foldl
      | apply on_foldl | apply on_foldl_fst | apply on_foldl_snd | apply onO_foldl | apply onF_foldl
    | with_reducible apply goodT_ts
    | with_reducible apply goodC_ts
    | dsimp only

theorem State.sample_on {z : State} (s : State) (dies : List (List (BitVec 8))) (towers : List (BitVec 8)) (rails : List Nat) (trip : Bool) (h_s : Onward z (s)) :
    Onward z (State.sample s dies towers rails trip) := by
  unfold State.sample
  repeat' first
    | with_reducible intro _
    | with_reducible first
      | assumption | apply on_ite | apply onO_ite | apply State.showTemps_on | apply State.thermtrip_on
      | apply State.setExk_on | apply goodC_ite | apply goodT_ite
    | simp only [on_mk_iff, goodC_mk_iff, goodH_mk_iff]
    | with_reducible apply goodT_ts
    | with_reducible apply goodC_ts
    | dsimp only
    | split

theorem execSensorSample_on {z : State} (dies : List (List (BitVec 8))) (towers : List (BitVec 8)) (rails : List Nat) (trip : Bool) (s : State) (h_s : Onward z (s)) :
    OnwardA z (execSensorSample dies towers rails trip s) := by
  unfold execSensorSample
  repeat' first
    | with_reducible intro _
    | with_reducible first
      | assumption | apply onA_next | apply onA_refused | apply State.sample_on
    | with_reducible apply goodT_ts
    | with_reducible apply goodC_ts
    | dsimp only

theorem State.powerWarn_on {z : State} (s : State) (pkg : Nat) (h_s : Onward z (s)) :
    Onward z (State.powerWarn s pkg) := by
  unfold State.powerWarn
  repeat' first
    | with_reducible intro _
    | with_reducible first
      | assumption | apply onO_some | apply onO_none | apply onF_some | apply onF_none | apply on_ite
      | apply onO_ite | apply State.setExk_on | apply State.logEvent_on | apply State.postMessage_on
      | apply State.inc_on | apply goodC_ite | apply goodT_ite
    | simp only [on_mk_iff, goodC_mk_iff, goodH_mk_iff]
    | with_reducible apply goodT_ts
    | with_reducible apply goodC_ts
    | dsimp only
    | split

theorem State.powerReport_on {z : State} (s : State) (blocks : List Nat) (standby : Nat) (h_s : Onward z (s)) :
    Onward z (State.powerReport s blocks standby) := by
  unfold State.powerReport
  repeat' first
    | with_reducible intro _
    | with_reducible first
      | assumption | apply on_ite | apply onO_ite | apply State.powerWarn_on | apply State.put_on
      | apply goodC_foldl | apply goodH_foldl | apply goodT_foldl | apply on_foldl | apply on_foldl_fst
      | apply on_foldl_snd | apply onO_foldl | apply onF_foldl
    | with_reducible apply goodT_ts
    | with_reducible apply goodC_ts
    | dsimp only
    | split

theorem execPowerReport_on {z : State} (blocks : List Nat) (standby : Nat) (s : State) (h_s : Onward z (s)) :
    OnwardA z (execPowerReport blocks standby s) := by
  unfold execPowerReport
  repeat' first
    | with_reducible intro _
    | with_reducible first
      | assumption | apply onA_next | apply onA_refused | apply State.powerReport_on
    | with_reducible apply goodT_ts
    | with_reducible apply goodC_ts
    | dsimp only

theorem execPeakClr_on {z : State} (s : State) (h_s : Onward z (s)) :
    OnwardA z (execPeakClr s) := by
  unfold execPeakClr
  repeat' first
    | with_reducible intro _
    | with_reducible first
      | assumption | apply onA_next | apply onA_refused | apply State.put_on
    | with_reducible apply goodT_ts
    | with_reducible apply goodC_ts
    | dsimp only

theorem execEventLogCopy_on {z : State} (n : Nat) (s : State) (h_s : Onward z (s)) :
    OnwardA z (execEventLogCopy n s) := by
  unfold execEventLogCopy
  repeat' first
    | with_reducible intro _
    | with_reducible first
      | assumption | apply onA_next | apply onA_refused | apply onA_ite | apply on_ite | apply onO_ite
      | apply State.setExk_on | apply State.refreshLog_on | apply State.setFlag_on | apply goodC_ite
      | apply goodT_ite
    | simp only [on_mk_iff, goodC_mk_iff, goodH_mk_iff]
    | with_reducible apply goodT_ts
    | with_reducible apply goodC_ts
    | dsimp only
    | split

end Sys2Proof.Machine
end

