-- ==== Sys2Proof/Laws/OnMailbox.lean ====
section
/-! SUPPORT. What each operation of Machine/Mailbox.lean leaves in order. -/

namespace Sys2Proof.Machine

theorem State.setMbxData_on {z : State} (s : State) (bs : List Byte) (h_s : Onward z (s)) :
    Onward z (State.setMbxData s bs) := by
  unfold State.setMbxData
  repeat' first
    | with_reducible intro _
    | with_reducible first
      | assumption | apply State.put_on | apply goodC_foldl | apply goodH_foldl | apply goodT_foldl
      | apply on_foldl | apply on_foldl_fst | apply on_foldl_snd | apply onO_foldl | apply onF_foldl
    | with_reducible apply goodT_ts
    | with_reducible apply goodC_ts
    | dsimp only

theorem State.mailbox_on {z : State} (s : State) (op : Nat) (run : State → State × Nat) (h_s : Onward z (s)) (h_run : ∀ x0, Onward z (x0) → Onward z (run x0).1) :
    Onward z (State.mailbox s op run) := by
  unfold State.mailbox
  repeat' first
    | with_reducible intro _
    | with_reducible first
      | assumption | apply on_ite | apply onO_ite | apply h_run | apply State.clampMgt_on | apply State.put_on
    | with_reducible apply goodT_ts
    | with_reducible apply goodC_ts
    | dsimp only
    | split
    | (apply on_fst; with_reducible assumption)
    | (apply on_snd; with_reducible assumption)
    | (apply on_someF'; with_reducible assumption)

theorem State.mbxNop_on {z : State} (s : State) (h_s : Onward z (s)) :
    Onward z (State.mbxNop s).1 := by
  unfold State.mbxNop
  repeat' first
    | with_reducible intro _
    | with_reducible first
      | assumption
    | with_reducible apply goodT_ts
    | with_reducible apply goodC_ts
    | dsimp only

theorem State.readEvents_on {z : State} (s : State) (from_ : Word) (h_s : Onward z (s)) :
    Onward z (State.readEvents s from_).1 := by
  unfold State.readEvents
  repeat' first
    | with_reducible intro _
    | with_reducible first
      | assumption | apply onO_some | apply onO_none | apply onF_some | apply onF_none | apply on_ite
      | apply onO_ite | apply State.setMbxData_on | apply State.put_on | apply goodC_ite | apply goodT_ite
    | simp only [on_mk_iff, goodC_mk_iff, goodH_mk_iff]
    | with_reducible apply goodT_ts
    | with_reducible apply goodC_ts
    | dsimp only
    | split
    | (apply on_fst; with_reducible assumption)
    | (apply on_snd; with_reducible assumption)
    | (apply on_someF'; with_reducible assumption)
    | (apply on_some; with_reducible assumption)
    | (apply on_someF; with_reducible assumption)
    | (apply on_next; with_reducible assumption)

theorem State.readCrash_on {z : State} (s : State) (off : Nat) (h_s : Onward z (s)) :
    Onward z (State.readCrash s off).1 := by
  unfold State.readCrash
  repeat' first
    | with_reducible intro _
    | with_reducible first
      | assumption | apply on_ite | apply onO_ite | apply State.setMbxData_on
    | with_reducible apply goodT_ts
    | with_reducible apply goodC_ts
    | dsimp only
    | split

theorem State.clearCrash_on {z : State} (s : State) (h_s : Onward z (s)) :
    Onward z (State.clearCrash s).1 := by
  unfold State.clearCrash
  repeat' first
    | with_reducible intro _
    | with_reducible first
      | assumption | apply State.setExk_on | apply goodC_ite | apply goodT_ite
    | simp only [on_mk_iff, goodC_mk_iff, goodH_mk_iff]
    | with_reducible apply goodT_ts
    | with_reducible apply goodC_ts
    | dsimp only

theorem State.keyCommand_on {z : State} (s : State) (k : KeyCmd) (install : Bool) (h_s : Onward z (s)) :
    Onward z (State.keyCommand s k install).1 := by
  unfold State.keyCommand
  repeat' first
    | with_reducible intro _
    | with_reducible first
      | assumption | apply onO_some | apply onO_none | apply onF_some | apply onF_none | apply on_ite
      | apply onO_ite | apply State.setExk_on | apply State.exkShow_on | apply State.logEvent_on | apply goodC_ite
      | apply goodT_ite | apply on_getD | apply on_getD_fst
    | simp only [on_mk_iff, goodC_mk_iff, goodH_mk_iff]
    | with_reducible apply goodT_ts
    | with_reducible apply goodC_ts
    | dsimp only
    | split

theorem State.provision_on {z : State} (s : State) (digest : List Byte) (h_s : Onward z (s)) :
    Onward z (State.provision s digest).1 := by
  unfold State.provision
  repeat' first
    | with_reducible intro _
    | with_reducible first
      | assumption | apply onO_some | apply onO_none | apply onF_some | apply onF_none | apply State.setExk_on
      | apply goodC_ite | apply goodT_ite
    | simp only [on_mk_iff, goodC_mk_iff, goodH_mk_iff]
    | with_reducible apply goodT_ts
    | with_reducible apply goodC_ts
    | dsimp only
    | split
    | (apply on_fst; with_reducible assumption)
    | (apply on_snd; with_reducible assumption)
    | (apply on_someF'; with_reducible assumption)
    | (apply on_some; with_reducible assumption)
    | (apply on_someF; with_reducible assumption)
    | (apply on_next; with_reducible assumption)

theorem State.mbxQuench_on {z : State} (s : State) (i : Nat) (h_s : Onward z (s)) :
    Onward z (State.mbxQuench s i).1 := by
  unfold State.mbxQuench
  repeat' first
    | with_reducible intro _
    | with_reducible first
      | assumption | apply on_ite | apply onO_ite | apply State.quench_on
    | with_reducible apply goodT_ts
    | with_reducible apply goodC_ts
    | dsimp only
    | split

theorem State.mbxReanneal_on {z : State} (s : State) (i : Nat) (h_s : Onward z (s)) :
    Onward z (State.mbxReanneal s i).1 := by
  unfold State.mbxReanneal
  repeat' first
    | with_reducible intro _
    | with_reducible first
      | assumption | apply on_ite | apply onO_ite | apply State.annealAll_on
    | with_reducible apply goodT_ts
    | with_reducible apply goodC_ts
    | dsimp only
    | split

theorem execMbxNop_on {z : State} (s : State) (h_s : Onward z (s)) :
    OnwardA z (execMbxNop s) := by
  unfold execMbxNop
  repeat' first
    | with_reducible intro _
    | with_reducible first
      | assumption | apply onA_next | apply onA_refused | apply State.mbxNop_on | apply State.mailbox_on
    | with_reducible apply goodT_ts
    | with_reducible apply goodC_ts
    | dsimp only

theorem execReadEvt_on {z : State} (s : State) (h_s : Onward z (s)) :
    OnwardA z (execReadEvt s) := by
  unfold execReadEvt
  repeat' first
    | with_reducible intro _
    | with_reducible first
      | assumption | apply onA_next | apply onA_refused | apply State.readEvents_on | apply State.mailbox_on
    | with_reducible apply goodT_ts
    | with_reducible apply goodC_ts
    | dsimp only

theorem execReadCrash_on {z : State} (s : State) (h_s : Onward z (s)) :
    OnwardA z (execReadCrash s) := by
  unfold execReadCrash
  repeat' first
    | with_reducible intro _
    | with_reducible first
      | assumption | apply onA_next | apply onA_refused | apply State.readCrash_on | apply State.mailbox_on
    | with_reducible apply goodT_ts
    | with_reducible apply goodC_ts
    | dsimp only

theorem execClearCrash_on {z : State} (s : State) (h_s : Onward z (s)) :
    OnwardA z (execClearCrash s) := by
  unfold execClearCrash
  repeat' first
    | with_reducible intro _
    | with_reducible first
      | assumption | apply onA_next | apply onA_refused | apply State.clearCrash_on | apply State.mailbox_on
    | with_reducible apply goodT_ts
    | with_reducible apply goodC_ts
    | dsimp only

theorem execKeyInstall_on {z : State} (k : KeyCmd) (s : State) (h_s : Onward z (s)) :
    OnwardA z (execKeyInstall k s) := by
  unfold execKeyInstall
  repeat' first
    | with_reducible intro _
    | with_reducible first
      | assumption | apply onA_next | apply onA_refused | apply State.keyCommand_on | apply State.mailbox_on
    | with_reducible apply goodT_ts
    | with_reducible apply goodC_ts
    | dsimp only

theorem execKeyRevoke_on {z : State} (k : KeyCmd) (s : State) (h_s : Onward z (s)) :
    OnwardA z (execKeyRevoke k s) := by
  unfold execKeyRevoke
  repeat' first
    | with_reducible intro _
    | with_reducible first
      | assumption | apply onA_next | apply onA_refused | apply State.keyCommand_on | apply State.mailbox_on
    | with_reducible apply goodT_ts
    | with_reducible apply goodC_ts
    | dsimp only

theorem execOwnerProvision_on {z : State} (s : State) (h_s : Onward z (s)) :
    OnwardA z (execOwnerProvision s) := by
  unfold execOwnerProvision
  repeat' first
    | with_reducible intro _
    | with_reducible first
      | assumption | apply onA_next | apply onA_refused | apply State.provision_on | apply State.mailbox_on
    | with_reducible apply goodT_ts
    | with_reducible apply goodC_ts
    | dsimp only

theorem execMbxQuench_on {z : State} (s : State) (h_s : Onward z (s)) :
    OnwardA z (execMbxQuench s) := by
  unfold execMbxQuench
  repeat' first
    | with_reducible intro _
    | with_reducible first
      | assumption | apply onA_next | apply onA_refused | apply State.mbxQuench_on | apply State.mailbox_on
    | with_reducible apply goodT_ts
    | with_reducible apply goodC_ts
    | dsimp only

theorem execMbxWarmReset_on {z : State} (s : State) (h_s : Onward z (s)) :
    OnwardA z (execMbxWarmReset s) := by
  unfold execMbxWarmReset
  repeat' first
    | with_reducible intro _
    | with_reducible first
      | assumption | apply onA_next | apply onA_refused | apply State.mailbox_on | apply State.packageWarm_on
    | with_reducible apply goodT_ts
    | with_reducible apply goodC_ts
    | dsimp only

theorem execMbxColdReset_on {z : State} (s : State) (h_s : Onward z (s)) :
    OnwardA z (execMbxColdReset s) := by
  unfold execMbxColdReset
  repeat' first
    | with_reducible intro _
    | with_reducible first
      | assumption | apply onA_next | apply onA_refused | apply State.mailbox_on | apply State.coldReset_on
    | with_reducible apply goodT_ts
    | with_reducible apply goodC_ts
    | dsimp only

theorem execMbxReanneal_on {z : State} (s : State) (h_s : Onward z (s)) :
    OnwardA z (execMbxReanneal s) := by
  unfold execMbxReanneal
  repeat' first
    | with_reducible intro _
    | with_reducible first
      | assumption | apply onA_next | apply onA_refused | apply State.mbxReanneal_on | apply State.mailbox_on
    | with_reducible apply goodT_ts
    | with_reducible apply goodC_ts
    | dsimp only

theorem execMailboxMessage_on {z : State} (kind : Fin 8) (s : State) (h_s : Onward z (s)) :
    OnwardA z (execMailboxMessage kind s) := by
  unfold execMailboxMessage
  repeat' first
    | with_reducible intro _
    | with_reducible first
      | assumption | apply onA_next | apply onA_refused | apply onA_ite | apply on_ite | apply onO_ite
      | apply State.postMessage_on
    | with_reducible apply goodT_ts
    | with_reducible apply goodC_ts
    | dsimp only
    | split

theorem State.pldmReply_on {z : State} (s : State) (n code : Nat) (h_s : Onward z (s)) :
    Onward z (State.pldmReply s n code) := by
  unfold State.pldmReply
  repeat' first
    | with_reducible intro _
    | with_reducible first
      | assumption | apply State.emit_on
    | with_reducible apply goodT_ts
    | with_reducible apply goodC_ts
    | dsimp only

theorem State.update_on {z : State} (s : State) (n : Nat) (want : List UpdState) (run : State → State × Nat) (h_s : Onward z (s)) (h_run : ∀ x0, Onward z (x0) → Onward z (run x0).1) :
    Onward z (State.update s n want run) := by
  unfold State.update
  repeat' first
    | with_reducible intro _
    | with_reducible first
      | assumption | apply on_ite | apply onO_ite | apply h_run | apply State.pldmReply_on
    | with_reducible apply goodT_ts
    | with_reducible apply goodC_ts
    | dsimp only
    | split
    | (apply on_fst; with_reducible assumption)
    | (apply on_snd; with_reducible assumption)
    | (apply on_someF'; with_reducible assumption)

theorem State.toUpd_on {z : State} (s : State) (u : UpdState) (h_s : Onward z (s)) :
    Onward z (State.toUpd s u) := by
  unfold State.toUpd
  repeat' first
    | with_reducible intro _
    | with_reducible first
      | assumption | apply State.setExk_on | apply goodC_ite | apply goodT_ite
    | simp only [on_mk_iff, goodC_mk_iff, goodH_mk_iff]
    | with_reducible apply goodT_ts
    | with_reducible apply goodC_ts
    | dsimp only

theorem State.setFwSlot_on {z : State} (s : State) (n : Nat) (f : FwSlot) (h_s : Onward z (s)) :
    Onward z (State.setFwSlot s n f) := by
  unfold State.setFwSlot
  repeat' first
    | with_reducible intro _
    | with_reducible first
      | assumption | apply State.setExk_on | apply State.exkShow_on | apply goodC_ite | apply goodT_ite
    | simp only [on_mk_iff, goodC_mk_iff, goodH_mk_iff]
    | with_reducible apply goodT_ts
    | with_reducible apply goodC_ts
    | dsimp only

theorem State.fwEvent_on {z : State} (s : State) (what n : Nat) (h_s : Onward z (s)) :
    Onward z (State.fwEvent s what n) := by
  unfold State.fwEvent
  repeat' first
    | with_reducible intro _
    | with_reducible first
      | assumption | apply onO_some | apply onO_none | apply onF_some | apply onF_none | apply State.logEvent_on
    | with_reducible apply goodT_ts
    | with_reducible apply goodC_ts
    | dsimp only

theorem State.requestUpdate_on {z : State} (s : State) (h_s : Onward z (s)) :
    Onward z (State.requestUpdate s) := by
  unfold State.requestUpdate
  repeat' first
    | with_reducible intro _
    | with_reducible first
      | assumption | apply on_ite | apply onO_ite | apply State.update_on | apply State.pldmReply_on
      | apply State.setExk_on | apply goodC_ite | apply goodT_ite
    | simp only [on_mk_iff, goodC_mk_iff, goodH_mk_iff]
    | with_reducible apply goodT_ts
    | with_reducible apply goodC_ts
    | dsimp only
    | split

theorem execRequestUpdate_on {z : State} (s : State) (h_s : Onward z (s)) :
    OnwardA z (execRequestUpdate s) := by
  unfold execRequestUpdate
  repeat' first
    | with_reducible intro _
    | with_reducible first
      | assumption | apply onA_next | apply onA_refused | apply State.requestUpdate_on
    | with_reducible apply goodT_ts
    | with_reducible apply goodC_ts
    | dsimp only

theorem execPassComponentTable_on {z : State} (last : Bool) (s : State) (h_s : Onward z (s)) :
    OnwardA z (execPassComponentTable last s) := by
  unfold execPassComponentTable
  repeat' first
    | with_reducible intro _
    | with_reducible first
      | assumption | apply onA_next | apply onA_refused | apply onA_ite | apply on_ite | apply onO_ite
      | apply State.toUpd_on | apply State.update_on
    | with_reducible apply goodT_ts
    | with_reducible apply goodC_ts
    | dsimp only
    | split

theorem execUpdateComponent_on {z : State} (component : BitVec 16) (s : State) (h_s : Onward z (s)) :
    OnwardA z (execUpdateComponent component s) := by
  unfold execUpdateComponent
  repeat' first
    | with_reducible intro _
    | with_reducible first
      | assumption | apply onA_next | apply onA_refused | apply onA_ite | apply on_ite | apply onO_ite
      | apply State.setFwSlot_on | apply State.update_on | apply State.setExk_on | apply goodC_ite
      | apply goodT_ite
    | simp only [on_mk_iff, goodC_mk_iff, goodH_mk_iff]
    | with_reducible apply goodT_ts
    | with_reducible apply goodC_ts
    | dsimp only
    | split

theorem execRequestFirmwareData_on {z : State} (offset : Nat) (bytes : List Byte) (s : State) (h_s : Onward z (s)) :
    OnwardA z (execRequestFirmwareData offset bytes s) := by
  unfold execRequestFirmwareData
  repeat' first
    | with_reducible intro _
    | with_reducible first
      | assumption | apply onA_next | apply onA_refused | apply onA_ite | apply on_ite | apply onO_ite
      | apply State.setFwSlot_on | apply State.update_on | apply State.setExk_on | apply goodC_ite
      | apply goodT_ite
    | simp only [on_mk_iff, goodC_mk_iff, goodH_mk_iff]
    | with_reducible apply goodT_ts
    | with_reducible apply goodC_ts
    | dsimp only
    | split

theorem execTransferComplete_on {z : State} (ok : Bool) (s : State) (h_s : Onward z (s)) :
    OnwardA z (execTransferComplete ok s) := by
  unfold execTransferComplete
  repeat' first
    | with_reducible intro _
    | with_reducible first
      | assumption | apply onA_next | apply onA_refused | apply onA_ite | apply on_ite | apply onO_ite
      | apply State.toUpd_on | apply State.update_on
    | with_reducible apply goodT_ts
    | with_reducible apply goodC_ts
    | dsimp only
    | split

theorem execVerifyComplete_on {z : State} (s : State) (h_s : Onward z (s)) :
    OnwardA z (execVerifyComplete s) := by
  unfold execVerifyComplete
  repeat' first
    | with_reducible intro _
    | with_reducible first
      | assumption | apply onA_next | apply onA_refused | apply onA_ite | apply on_ite | apply onO_ite
      | apply State.fwEvent_on | apply State.setFwSlot_on | apply State.toUpd_on | apply State.update_on
      | apply State.setExk_on | apply goodC_ite | apply goodT_ite
    | simp only [on_mk_iff, goodC_mk_iff, goodH_mk_iff]
    | with_reducible apply goodT_ts
    | with_reducible apply goodC_ts
    | dsimp only
    | split

theorem execApplyComplete_on {z : State} (ok : Bool) (s : State) (h_s : Onward z (s)) :
    OnwardA z (execApplyComplete ok s) := by
  unfold execApplyComplete
  repeat' first
    | with_reducible intro _
    | with_reducible first
      | assumption | apply onA_next | apply onA_refused | apply State.update_on | apply State.setExk_on
      | apply goodC_ite | apply goodT_ite
    | simp only [on_mk_iff, goodC_mk_iff, goodH_mk_iff]
    | with_reducible apply goodT_ts
    | with_reducible apply goodC_ts
    | dsimp only

theorem State.activate_on {z : State} (s : State) (h_s : Onward z (s)) :
    Onward z (State.activate s).1 := by
  unfold State.activate
  repeat' first
    | with_reducible intro _
    | with_reducible first
      | assumption | apply on_ite | apply onO_ite | apply State.fwEvent_on | apply State.setFwSlot_on
      | apply State.pairDown_on | apply State.setExk_on | apply State.enterHub_on | apply State.beginAttempt_on
      | apply State.postMessage_on | apply goodC_ite | apply goodT_ite
    | simp only [on_mk_iff, goodC_mk_iff, goodH_mk_iff]
    | with_reducible apply goodT_ts
    | with_reducible apply goodC_ts
    | dsimp only
    | split

theorem execActivateFirmware_on {z : State} (s : State) (h_s : Onward z (s)) :
    OnwardA z (execActivateFirmware s) := by
  unfold execActivateFirmware
  repeat' first
    | with_reducible intro _
    | with_reducible first
      | assumption | apply onA_next | apply onA_refused | apply State.activate_on | apply State.update_on
    | with_reducible apply goodT_ts
    | with_reducible apply goodC_ts
    | dsimp only

theorem execGetStatus_on {z : State} (s : State) (h_s : Onward z (s)) :
    OnwardA z (execGetStatus s) := by
  unfold execGetStatus
  repeat' first
    | with_reducible intro _
    | with_reducible first
      | assumption | apply onA_next | apply onA_refused | apply onA_ite | apply on_ite | apply onO_ite
      | apply State.update_on | apply State.emit_on
    | with_reducible apply goodT_ts
    | with_reducible apply goodC_ts
    | dsimp only
    | split

theorem execCancelUpdateComponent_on {z : State} (s : State) (h_s : Onward z (s)) :
    OnwardA z (execCancelUpdateComponent s) := by
  unfold execCancelUpdateComponent
  repeat' first
    | with_reducible intro _
    | with_reducible first
      | assumption | apply onA_next | apply onA_refused | apply State.update_on | apply State.setExk_on
      | apply goodC_ite | apply goodT_ite
    | simp only [on_mk_iff, goodC_mk_iff, goodH_mk_iff]
    | with_reducible apply goodT_ts
    | with_reducible apply goodC_ts
    | dsimp only

theorem execCancelUpdate_on {z : State} (s : State) (h_s : Onward z (s)) :
    OnwardA z (execCancelUpdate s) := by
  unfold execCancelUpdate
  repeat' first
    | with_reducible intro _
    | with_reducible first
      | assumption | apply onA_next | apply onA_refused | apply State.update_on | apply State.setExk_on
      | apply goodC_ite | apply goodT_ite
    | simp only [on_mk_iff, goodC_mk_iff, goodH_mk_iff]
    | with_reducible apply goodT_ts
    | with_reducible apply goodC_ts
    | dsimp only

theorem State.trialPass_on {z : State} (s : State) (h_s : Onward z (s)) :
    Onward z (State.trialPass s) := by
  unfold State.trialPass
  dsimp only
  split
  · apply State.fwEvent_on
    apply State.setFlag_on
    apply State.setFwSlot_on
    apply State.setFwSlot_on
    exact ⟨h_s.1, h_s.2.1, le_trans h_s.2.2.1 (Nat.le_max_left _ _), h_s.2.2.2.1, h_s.2.2.2.2⟩
  · exact h_s

theorem execFwTrialExpire_on {z : State} (s : State) (h_s : Onward z (s)) :
    OnwardA z (execFwTrialExpire s) := by
  unfold execFwTrialExpire
  repeat' first
    | with_reducible intro _
    | with_reducible first
      | assumption | apply onA_next | apply onA_refused | apply State.trialPass_on
    | with_reducible apply goodT_ts
    | with_reducible apply goodC_ts
    | dsimp only

theorem execMctpControl_on {z : State} (request : Nat) (args : List Byte) (s : State) (h_s : Onward z (s)) :
    OnwardA z (execMctpControl request args s) := by
  unfold execMctpControl
  repeat' first
    | with_reducible intro _
    | with_reducible first
      | assumption | apply onA_next | apply onA_refused | apply onA_ite | apply on_ite | apply onO_ite
      | apply State.emit_on
    | with_reducible apply goodT_ts
    | with_reducible apply goodC_ts
    | dsimp only
    | split

theorem execPldmBaseCommand_on {z : State} (request : Nat) (args : List Byte) (s : State) (h_s : Onward z (s)) :
    OnwardA z (execPldmBaseCommand request args s) := by
  unfold execPldmBaseCommand
  repeat' first
    | with_reducible intro _
    | with_reducible first
      | assumption | apply onA_next | apply onA_refused | apply onA_ite | apply on_ite | apply onO_ite
      | apply State.emit_on
    | with_reducible apply goodT_ts
    | with_reducible apply goodC_ts
    | dsimp only
    | split

theorem execPldmPlatformRead_on {z : State} (q : PlatSensor) (s : State) (h_s : Onward z (s)) :
    OnwardA z (execPldmPlatformRead q s) := by
  unfold execPldmPlatformRead
  repeat' first
    | with_reducible intro _
    | with_reducible first
      | assumption | apply onA_next | apply onA_refused | apply onA_ite | apply on_ite | apply onO_ite
      | apply State.emit_on
    | with_reducible apply goodT_ts
    | with_reducible apply goodC_ts
    | dsimp only
    | split

theorem State.oemRun_on {z : State} (s : State) (op : Nat) (key : Option KeyCmd) (h_s : Onward z (s)) :
    Onward z (State.oemRun s op key).1 := by
  unfold State.oemRun
  repeat' first
    | with_reducible intro _
    | with_reducible first
      | assumption | apply onO_some | apply onO_none | apply onF_some | apply onF_none | apply State.mbxReanneal_on
      | apply State.mbxQuench_on | apply State.provision_on | apply State.keyCommand_on | apply State.clearCrash_on
      | apply State.readCrash_on | apply State.readEvents_on | apply State.mbxNop_on | apply State.packageWarm_on
      | apply State.coldReset_on | apply goodC_ite | apply goodT_ite
    | simp only [on_mk_iff, goodC_mk_iff, goodH_mk_iff]
    | with_reducible apply goodT_ts
    | with_reducible apply goodC_ts
    | dsimp only
    | split
    | (apply on_fst; with_reducible assumption)
    | (apply on_snd; with_reducible assumption)
    | (apply on_someF'; with_reducible assumption)
    | (apply on_some; with_reducible assumption)
    | (apply on_someF; with_reducible assumption)
    | (apply on_next; with_reducible assumption)

theorem State.keepMbx_on {z : State} (s old : State) (h_s : Onward z (s)) (h_old : Onward z (old)) :
    Onward z (State.keepMbx s old) := by
  exact on_regs h_s (fun r => rising_insertAll _ (rising_filter _ r))

theorem State.oem_on {z : State} (s : State) (q : OemCmd) (h_s : Onward z (s)) :
    Onward z (State.oem s q) := by
  unfold State.oem
  repeat' first
    | with_reducible intro _
    | with_reducible first
      | assumption | apply on_ite | apply onO_ite | apply State.keepMbx_on | apply State.oemRun_on
      | apply State.mailbox_on | apply State.setMbxData_on | apply State.emit_on | apply State.put_on
      | apply goodC_ite | apply goodT_ite
    | simp only [on_mk_iff, goodC_mk_iff, goodH_mk_iff]
    | with_reducible apply goodT_ts
    | with_reducible apply goodC_ts
    | dsimp only
    | split
    | (apply on_fst; with_reducible assumption)
    | (apply on_snd; with_reducible assumption)
    | (apply on_someF'; with_reducible assumption)
    | (apply on_some; with_reducible assumption)
    | (apply on_someF; with_reducible assumption)
    | (apply on_next; with_reducible assumption)

theorem execPldmOemCommand_on {z : State} (q : OemCmd) (s : State) (h_s : Onward z (s)) :
    OnwardA z (execPldmOemCommand q s) := by
  unfold execPldmOemCommand
  repeat' first
    | with_reducible intro _
    | with_reducible first
      | assumption | apply onA_next | apply onA_refused | apply State.oem_on
    | with_reducible apply goodT_ts
    | with_reducible apply goodC_ts
    | dsimp only

theorem execEntdaa_on {z : State} (addr : BitVec 7) (s : State) (h_s : Onward z (s)) :
    OnwardA z (execEntdaa addr s) := by
  unfold execEntdaa
  repeat' first
    | with_reducible intro _
    | with_reducible first
      | assumption | apply onA_next | apply onA_refused | apply onA_ite | apply onO_some | apply onO_none
      | apply onF_some | apply onF_none | apply on_ite | apply onO_ite | apply State.setExk_on
      | apply State.emit_on | apply goodC_ite | apply goodT_ite
    | simp only [on_mk_iff, goodC_mk_iff, goodH_mk_iff]
    | with_reducible apply goodT_ts
    | with_reducible apply goodC_ts
    | dsimp only
    | split

end Sys2Proof.Machine
end

