-- ==== Sys2Proof/Laws/OnHost.lean ====
section
/-! SUPPORT. What each operation of Machine/Host.lean leaves in order. -/

namespace Sys2Proof.Machine

theorem State.configDefaults_on {z : State} (s : State) (h_s : Onward z (s)) :
    Onward z (State.configDefaults s) := by
  unfold State.configDefaults
  repeat' first
    | with_reducible intro _
    | with_reducible first
      | assumption | apply goodC_ite | apply goodT_ite
    | simp only [on_mk_iff, goodC_mk_iff, goodH_mk_iff]
    | with_reducible apply goodT_ts
    | with_reducible apply goodC_ts
    | dsimp only

theorem State.conventionalReset_on {z : State} (s : State) (perst : Bool) (h_s : Onward z (s)) :
    Onward z (State.conventionalReset s perst) := by
  unfold State.conventionalReset
  repeat' first
    | with_reducible intro _
    | with_reducible first
      | assumption | apply on_ite | apply onO_ite | apply State.configDefaults_on | apply State.packageWarm_on
      | apply goodC_ite | apply goodT_ite
    | simp only [on_mk_iff, goodC_mk_iff, goodH_mk_iff]
    | with_reducible apply goodT_ts
    | with_reducible apply goodC_ts
    | dsimp only
    | split

theorem execConventionalReset_on {z : State} (perst : Bool) (s : State) (h_s : Onward z (s)) :
    OnwardA z (execConventionalReset perst s) := by
  unfold execConventionalReset
  repeat' first
    | with_reducible intro _
    | with_reducible first
      | assumption | apply onA_next | apply onA_refused | apply State.conventionalReset_on
    | with_reducible apply goodT_ts
    | with_reducible apply goodC_ts
    | dsimp only

theorem execPfFlr_on {z : State} (s : State) (h_s : Onward z (s)) :
    OnwardA z (execPfFlr s) := by
  unfold execPfFlr
  repeat' first
    | with_reducible intro _
    | with_reducible first
      | assumption | apply onA_next | apply onA_refused | apply onA_ite | apply on_ite | apply onO_ite
      | apply State.configDefaults_on | apply State.packageWarm_on
    | with_reducible apply goodT_ts
    | with_reducible apply goodC_ts
    | dsimp only
    | split

theorem execVfEnable_on {z : State} (numVfs : Fin 4097) (s : State) (h_s : Onward z (s)) :
    OnwardA z (execVfEnable numVfs s) := by
  unfold execVfEnable
  repeat' first
    | with_reducible intro _
    | with_reducible first
      | assumption | apply onA_next | apply onA_refused | apply onA_ite | apply on_ite | apply onO_ite
      | apply goodC_ite | apply goodT_ite
    | simp only [on_mk_iff, goodC_mk_iff, goodH_mk_iff]
    | with_reducible apply goodT_ts
    | with_reducible apply goodC_ts
    | dsimp only
    | split

theorem State.vfEnableClear_on {z : State} (s : State) (h_s : Onward z (s)) :
    Onward z (State.vfEnableClear s) := by
  unfold State.vfEnableClear
  repeat' first
    | with_reducible intro _
    | with_reducible first
      | assumption | apply on_ite | apply onO_ite | apply State.flr_on | apply goodC_ite | apply goodT_ite
      | apply goodC_foldl | apply goodH_foldl | apply goodT_foldl | apply on_foldl | apply on_foldl_fst
      | apply on_foldl_snd | apply onO_foldl | apply onF_foldl
    | simp only [on_mk_iff, goodC_mk_iff, goodH_mk_iff]
    | with_reducible apply goodT_ts
    | with_reducible apply goodC_ts
    | dsimp only
    | split

theorem execVfEnableClear_on {z : State} (s : State) (h_s : Onward z (s)) :
    OnwardA z (execVfEnableClear s) := by
  unfold execVfEnableClear
  repeat' first
    | with_reducible intro _
    | with_reducible first
      | assumption | apply onA_next | apply onA_refused | apply State.vfEnableClear_on
    | with_reducible apply goodT_ts
    | with_reducible apply goodC_ts
    | dsimp only

theorem execPfD3hot_on {z : State} (s : State) (h_s : Onward z (s)) :
    OnwardA z (execPfD3hot s) := by
  unfold execPfD3hot
  repeat' first
    | with_reducible intro _
    | with_reducible first
      | assumption | apply onA_next | apply onA_refused | apply goodC_ite | apply goodT_ite
    | simp only [on_mk_iff, goodC_mk_iff, goodH_mk_iff]
    | with_reducible apply goodT_ts
    | with_reducible apply goodC_ts
    | dsimp only

theorem execPfToD0_on {z : State} (s : State) (h_s : Onward z (s)) :
    OnwardA z (execPfToD0 s) := by
  unfold execPfToD0
  repeat' first
    | with_reducible intro _
    | with_reducible first
      | assumption | apply onA_next | apply onA_refused | apply goodC_ite | apply goodT_ite
    | simp only [on_mk_iff, goodC_mk_iff, goodH_mk_iff]
    | with_reducible apply goodT_ts
    | with_reducible apply goodC_ts
    | dsimp only

theorem execPoisonedTlp_on {z : State} (s : State) (h_s : Onward z (s)) :
    OnwardA z (execPoisonedTlp s) := by
  unfold execPoisonedTlp
  repeat' first
    | with_reducible intro _
    | with_reducible first
      | assumption | apply onA_next | apply onA_refused | apply onA_ite | apply on_ite | apply onO_ite
      | apply State.inc_on | apply goodC_ite | apply goodT_ite
    | simp only [on_mk_iff, goodC_mk_iff, goodH_mk_iff]
    | with_reducible apply goodT_ts
    | with_reducible apply goodC_ts
    | dsimp only
    | split

theorem State.putPageBytes_on {z : State} (s : State) (h index page off : Nat) (bs : List Byte) (h_s : Onward z (s)) :
    Onward z (State.putPageBytes s h index page off bs) := by
  unfold State.putPageBytes
  repeat' first
    | with_reducible intro _
    | with_reducible first
      | assumption | apply State.writePage_on | apply State.harbor_on | apply goodH_ite | apply on_getD
      | apply on_getD_fst
    | with_reducible apply goodT_ts
    | with_reducible apply goodC_ts
    | dsimp only

theorem State.freeBytes_on {z : State} (s : State) (n : Nat) (h_s : Onward z (s)) :
    Onward z (State.freeBytes s n).2 := by
  unfold State.freeBytes
  repeat' first
    | with_reducible intro _
    | with_reducible first
      | assumption | apply State.fresh_on | apply onF_map | apply onF_mapO | apply onO_mapF | apply onO_map
    | with_reducible apply goodT_ts
    | with_reducible apply goodC_ts
    | dsimp only

theorem State.putMidUnit_on {z : State} (s : State) (h f u off : Nat) (bs : List Byte) (h_s : Onward z (s)) :
    Onward z (State.putMidUnit s h f u off bs) := by
  unfold State.putMidUnit
  repeat' first
    | with_reducible intro _
    | with_reducible first
      | assumption | apply onO_some | apply onO_none | apply onF_some | apply onF_none
      | apply HarborSt.clearPieces_on | apply putAll_on | apply HarborSt.midPut_on | apply State.setHarbor_on
      | apply State.harbor_on | apply goodC_ite | apply goodT_ite | apply goodH_ite | apply on_getD
      | apply on_getD_fst | apply onF_map | apply onF_mapO | apply onO_mapF | apply onO_map
    | simp only [on_mk_iff, goodC_mk_iff, goodH_mk_iff]
    | with_reducible apply goodT_ts
    | with_reducible apply goodC_ts
    | dsimp only
    | split
    | (apply on_fst; with_reducible assumption)
    | (apply on_snd; with_reducible assumption)
    | (apply on_someF'; with_reducible assumption)
    | (apply on_some; with_reducible assumption)
    | (apply on_someF; with_reducible assumption)
    | (apply on_next; with_reducible assumption)

theorem State.warmByte_on {z : State} (s : State) (b : AptByte) (h_s : Onward z (s)) :
    Onward z (State.warmByte s b) := by
  unfold State.warmByte
  repeat' first
    | with_reducible intro _
    | with_reducible first
      | assumption | apply HarborSt.warm_on | apply State.setHarbor_on | apply State.harbor_on | apply goodC_ite
      | apply goodT_ite | apply goodH_ite
    | simp only [on_mk_iff, goodC_mk_iff, goodH_mk_iff]
    | with_reducible apply goodT_ts
    | with_reducible apply goodC_ts
    | dsimp only
    | split
    | (apply on_fst; with_reducible assumption)
    | (apply on_snd; with_reducible assumption)
    | (apply on_someF'; with_reducible assumption)
    | (apply on_some; with_reducible assumption)
    | (apply on_someF; with_reducible assumption)
    | (apply on_next; with_reducible assumption)

theorem State.aptRead_on {z : State} (s : State) (a off n : Nat) (h_s : Onward z (s)) :
    Onward z (State.aptRead s a off n) := by
  unfold State.aptRead
  repeat' first
    | with_reducible intro _
    | with_reducible first
      | assumption | apply onO_some | apply onO_none | apply onF_some | apply onF_none | apply on_ite
      | apply onO_ite | apply State.warmByte_on | apply State.freeBytes_on | apply State.ravorSend_on
      | apply State.emit_on | apply State.inc_on | apply goodC_ite | apply goodT_ite | apply on_getD
      | apply on_getD_fst | apply onF_map | apply onF_mapO | apply onO_mapF | apply onO_map
    | simp only [on_mk_iff, goodC_mk_iff, goodH_mk_iff]
    | with_reducible apply goodT_ts
    | with_reducible apply goodC_ts
    | dsimp only
    | split
    | (apply on_fst; with_reducible assumption)
    | (apply on_snd; with_reducible assumption)
    | (apply on_someF'; with_reducible assumption)
    | (apply on_some; with_reducible assumption)
    | (apply on_someF; with_reducible assumption)
    | (apply on_next; with_reducible assumption)

theorem execApertureRead_on {z : State} (a : Fin 16) (off : Word) (len : Nat) (s : State) (h_s : Onward z (s)) :
    OnwardA z (execApertureRead a off len s) := by
  unfold execApertureRead
  repeat' first
    | with_reducible intro _
    | with_reducible first
      | assumption | apply onA_next | apply onA_refused | apply onA_ite | apply on_ite | apply onO_ite
      | apply State.aptRead_on
    | with_reducible apply goodT_ts
    | with_reducible apply goodC_ts
    | dsimp only
    | split

theorem State.writeRun_on {z : State} (s : State) (b : AptByte) (bs : List Byte) (h_s : Onward z (s)) :
    Onward z (State.writeRun s b bs) := by
  unfold State.writeRun
  repeat' first
    | with_reducible intro _
    | with_reducible first
      | assumption | apply State.putMidUnit_on | apply State.putPageBytes_on | apply putAll_on
      | apply HarborSt.nearPut_on | apply State.setHarbor_on | apply State.harbor_on | apply goodC_ite
      | apply goodT_ite | apply goodH_ite
    | simp only [on_mk_iff, goodC_mk_iff, goodH_mk_iff]
    | with_reducible apply goodT_ts
    | with_reducible apply goodC_ts
    | dsimp only
    | split
    | (apply on_fst; with_reducible assumption)
    | (apply on_snd; with_reducible assumption)
    | (apply on_someF'; with_reducible assumption)
    | (apply on_some; with_reducible assumption)
    | (apply on_someF; with_reducible assumption)
    | (apply on_next; with_reducible assumption)

theorem State.boardBytes_on {z : State} (s : State) (skip : Nat) (bs : List Byte) (h_s : Onward z (s)) :
    Onward z (State.boardBytes s skip bs).2 := by
  unfold State.boardBytes
  repeat' first
    | with_reducible intro _
    | with_reducible first
      | assumption | apply on_ite | apply onO_ite | apply State.freeBytes_on
    | with_reducible apply goodT_ts
    | with_reducible apply goodC_ts
    | dsimp only
    | split

theorem State.aptWrite_on {z : State} (s : State) (a off : Nat) (bs : List Byte) (h_s : Onward z (s)) :
    Onward z (State.aptWrite s a off bs) := by
  unfold State.aptWrite
  repeat' first
    | with_reducible intro _
    | with_reducible first
      | assumption | apply onO_some | apply onO_none | apply onF_some | apply onF_none | apply on_ite
      | apply onO_ite | apply State.boardBytes_on | apply State.writeRun_on | apply State.ravorSend_on
      | apply State.inc_on | apply goodC_ite | apply goodT_ite
    | simp only [on_mk_iff, goodC_mk_iff, goodH_mk_iff]
    | with_reducible apply goodT_ts
    | with_reducible apply goodC_ts
    | dsimp only
    | split
    | (apply on_fst; with_reducible assumption)
    | (apply on_snd; with_reducible assumption)
    | (apply on_someF'; with_reducible assumption)
    | (apply on_some; with_reducible assumption)
    | (apply on_someF; with_reducible assumption)
    | (apply on_next; with_reducible assumption)

theorem execApertureWrite_on {z : State} (a : Fin 16) (off : Word) (bytes : List Byte) (s : State) (h_s : Onward z (s)) :
    OnwardA z (execApertureWrite a off bytes s) := by
  unfold execApertureWrite
  repeat' first
    | with_reducible intro _
    | with_reducible first
      | assumption | apply onA_next | apply onA_refused | apply onA_ite | apply on_ite | apply onO_ite
      | apply State.aptWrite_on
    | with_reducible apply goodT_ts
    | with_reducible apply goodC_ts
    | dsimp only
    | split

theorem State.doorbell_on {z : State} (s : State) (t : Nat) (run : State → Option State) (h_s : Onward z (s)) (h_run : ∀ x0, Onward z (x0) → OnwardO z (run x0)) :
    Onward z (State.doorbell s t run) := by
  unfold State.doorbell
  repeat' first
    | with_reducible intro _
    | with_reducible first
      | assumption | apply onO_some | apply onO_none | apply onF_some | apply onF_none | apply on_ite
      | apply onO_ite | apply h_run | apply State.clampPage_on | apply State.tenAnswer_on
    | with_reducible apply goodT_ts
    | with_reducible apply goodC_ts
    | dsimp only
    | split

theorem State.dbLoad_on {z : State} (s : State) (t : Nat) (h_s : Onward z (s)) :
    Onward z (State.dbLoad s t) := by
  unfold State.dbLoad
  repeat' first
    | with_reducible intro _
    | with_reducible first
      | assumption | apply onO_some | apply onO_none | apply onF_some | apply onF_none | apply on_ite
      | apply onO_ite | apply State.clampPage_on | apply State.tenCode_on | apply State.loadCmd_on
      | apply State.refuseLoad_on
    | with_reducible apply goodT_ts
    | with_reducible apply goodC_ts
    | dsimp only
    | split

theorem execDbLoad_on {z : State} (t : Tenant) (s : State) (h_s : Onward z (s)) :
    OnwardA z (execDbLoad t s) := by
  unfold execDbLoad
  repeat' first
    | with_reducible intro _
    | with_reducible first
      | assumption | apply onA_next | apply onA_refused | apply State.dbLoad_on
    | with_reducible apply goodT_ts
    | with_reducible apply goodC_ts
    | dsimp only

theorem execDbPreempt_on {z : State} (t : Tenant) (s : State) (h_s : Onward z (s)) :
    OnwardA z (execDbPreempt t s) := by
  unfold execDbPreempt
  repeat' first
    | with_reducible intro _
    | with_reducible first
      | assumption | apply onA_next | apply onA_refused | apply onO_some | apply onO_none | apply onF_some
      | apply onF_none | apply State.doorbell_on | apply State.preempt_on
    | with_reducible apply goodT_ts
    | with_reducible apply goodC_ts
    | dsimp only

theorem execDbResume_on {z : State} (t : Tenant) (s : State) (h_s : Onward z (s)) :
    OnwardA z (execDbResume t s) := by
  unfold execDbResume
  repeat' first
    | with_reducible intro _
    | with_reducible first
      | assumption | apply onA_next | apply onA_refused | apply onO_some | apply onO_none | apply onF_some
      | apply onF_none | apply State.doorbell_on | apply State.resume_on
    | with_reducible apply goodT_ts
    | with_reducible apply goodC_ts
    | dsimp only

theorem execDbDiscard_on {z : State} (t : Tenant) (s : State) (h_s : Onward z (s)) :
    OnwardA z (execDbDiscard t s) := by
  unfold execDbDiscard
  repeat' first
    | with_reducible intro _
    | with_reducible first
      | assumption | apply onA_next | apply onA_refused | apply onO_some | apply onO_none | apply onF_some
      | apply onF_none | apply State.doorbell_on | apply State.discard_on
    | with_reducible apply goodT_ts
    | with_reducible apply goodC_ts
    | dsimp only

theorem State.dbReset_on {z : State} (s : State) (t : Nat) (h_s : Onward z (s)) :
    OnwardO z (State.dbReset s t) := by
  unfold State.dbReset
  repeat' first
    | with_reducible intro _
    | with_reducible first
      | assumption | apply onO_some | apply onO_none | apply onF_some | apply onF_none | apply on_ite
      | apply onO_ite | apply State.resetPart_on
    | with_reducible apply goodT_ts
    | with_reducible apply goodC_ts
    | dsimp only
    | split

theorem execDbReset_on {z : State} (t : Tenant) (s : State) (h_s : Onward z (s)) :
    OnwardA z (execDbReset t s) := by
  unfold execDbReset
  repeat' first
    | with_reducible intro _
    | with_reducible first
      | assumption | apply onA_next | apply onA_refused | apply State.dbReset_on | apply State.doorbell_on
    | with_reducible apply goodT_ts
    | with_reducible apply goodC_ts
    | dsimp only

theorem State.dbObject_on {z : State} (s : State) (t h : Nat) (r : ObjRun) (h_s : Onward z (s)) :
    OnwardO z (State.dbObject s t h r) := by
  unfold State.dbObject
  repeat' first
    | with_reducible intro _
    | with_reducible first
      | assumption | apply onO_some | apply onO_none | apply onF_some | apply onF_none | apply on_ite
      | apply onO_ite | apply State.objCommand_on | apply goodH_ite
    | with_reducible apply goodT_ts
    | with_reducible apply goodC_ts
    | dsimp only
    | split

theorem State.dbObj_on {z : State} (s : State) (t op : Nat) (h_s : Onward z (s)) :
    Onward z (State.dbObj s t op) := by
  unfold State.dbObj
  repeat' first
    | with_reducible intro _
    | with_reducible first
      | assumption | apply onO_some | apply onO_none | apply onF_some | apply onF_none | apply State.dbObject_on
      | apply State.doorbell_on
    | with_reducible apply goodT_ts
    | with_reducible apply goodC_ts
    | dsimp only

theorem execDbObjCreate_on {z : State} (t : Tenant) (s : State) (h_s : Onward z (s)) :
    OnwardA z (execDbObjCreate t s) := by
  unfold execDbObjCreate
  repeat' first
    | with_reducible intro _
    | with_reducible first
      | assumption | apply onA_next | apply onA_refused | apply State.dbObj_on
    | with_reducible apply goodT_ts
    | with_reducible apply goodC_ts
    | dsimp only

theorem execDbObjCommit_on {z : State} (t : Tenant) (s : State) (h_s : Onward z (s)) :
    OnwardA z (execDbObjCommit t s) := by
  unfold execDbObjCommit
  repeat' first
    | with_reducible intro _
    | with_reducible first
      | assumption | apply onA_next | apply onA_refused | apply State.dbObj_on
    | with_reducible apply goodT_ts
    | with_reducible apply goodC_ts
    | dsimp only

theorem execDbObjDelete_on {z : State} (t : Tenant) (s : State) (h_s : Onward z (s)) :
    OnwardA z (execDbObjDelete t s) := by
  unfold execDbObjDelete
  repeat' first
    | with_reducible intro _
    | with_reducible first
      | assumption | apply onA_next | apply onA_refused | apply State.dbObj_on
    | with_reducible apply goodT_ts
    | with_reducible apply goodC_ts
    | dsimp only

theorem execDbObjStage_on {z : State} (t : Tenant) (s : State) (h_s : Onward z (s)) :
    OnwardA z (execDbObjStage t s) := by
  unfold execDbObjStage
  repeat' first
    | with_reducible intro _
    | with_reducible first
      | assumption | apply onA_next | apply onA_refused | apply State.dbObj_on
    | with_reducible apply goodT_ts
    | with_reducible apply goodC_ts
    | dsimp only

theorem execDbObjPin_on {z : State} (t : Tenant) (s : State) (h_s : Onward z (s)) :
    OnwardA z (execDbObjPin t s) := by
  unfold execDbObjPin
  repeat' first
    | with_reducible intro _
    | with_reducible first
      | assumption | apply onA_next | apply onA_refused | apply State.dbObj_on
    | with_reducible apply goodT_ts
    | with_reducible apply goodC_ts
    | dsimp only

theorem execDbObjSetmask_on {z : State} (t : Tenant) (s : State) (h_s : Onward z (s)) :
    OnwardA z (execDbObjSetmask t s) := by
  unfold execDbObjSetmask
  repeat' first
    | with_reducible intro _
    | with_reducible first
      | assumption | apply onA_next | apply onA_refused | apply State.dbObj_on
    | with_reducible apply goodT_ts
    | with_reducible apply goodC_ts
    | dsimp only

theorem State.dbPages_on {z : State} (s : State) (t op : Nat) (data : List (Option (List Byte × Bool))) (h_s : Onward z (s)) :
    Onward z (State.dbPages s t op data) := by
  unfold State.dbPages
  repeat' first
    | with_reducible intro _
    | with_reducible first
      | assumption | apply onO_some | apply onO_none | apply onF_some | apply onF_none | apply State.dbObject_on
      | apply State.doorbell_on | apply goodH_ite
    | with_reducible apply goodT_ts
    | with_reducible apply goodC_ts
    | dsimp only

theorem execObjWrite_on {z : State} (t : Tenant) (pages : List (Option (List Byte × Bool))) (s : State) (h_s : Onward z (s)) :
    OnwardA z (execObjWrite t pages s) := by
  unfold execObjWrite
  repeat' first
    | with_reducible intro _
    | with_reducible first
      | assumption | apply onA_next | apply onA_refused | apply State.dbPages_on
    | with_reducible apply goodT_ts
    | with_reducible apply goodC_ts
    | dsimp only

theorem execObjRead_on {z : State} (t : Tenant) (s : State) (h_s : Onward z (s)) :
    OnwardA z (execObjRead t s) := by
  unfold execObjRead
  repeat' first
    | with_reducible intro _
    | with_reducible first
      | assumption | apply onA_next | apply onA_refused | apply State.dbPages_on
    | with_reducible apply goodT_ts
    | with_reducible apply goodC_ts
    | dsimp only

theorem dbOpened_on {z : State} (t : Nat) (r : Option (State × Bool)) (h_r : OnwardF z (r)) :
    OnwardO z (dbOpened t r) := by
  unfold dbOpened
  cases r with
  | none => exact onO_none
  | some e => exact onO_some (on_ite (State.clampPage_on _ _ _ (h_r e rfl)) (h_r e rfl))

theorem State.dbOpen_on {z : State} (s : State) (t : Nat) (h_s : Onward z (s)) :
    OnwardO z (State.dbOpen s t) := by
  unfold State.dbOpen
  repeat' first
    | with_reducible intro _
    | with_reducible first
      | assumption | apply onO_some | apply onO_none | apply onF_some | apply onF_none | apply dbOpened_on
      | apply State.openStream_on
    | with_reducible apply goodT_ts
    | with_reducible apply goodC_ts
    | dsimp only

theorem execDbStrmOpen_on {z : State} (t : Tenant) (s : State) (h_s : Onward z (s)) :
    OnwardA z (execDbStrmOpen t s) := by
  unfold execDbStrmOpen
  repeat' first
    | with_reducible intro _
    | with_reducible first
      | assumption | apply onA_next | apply onA_refused | apply State.dbOpen_on | apply State.doorbell_on
    | with_reducible apply goodT_ts
    | with_reducible apply goodC_ts
    | dsimp only

theorem State.dbClose_on {z : State} (s : State) (t : Nat) (h_s : Onward z (s)) :
    OnwardO z (State.dbClose s t) := by
  unfold State.dbClose
  repeat' first
    | with_reducible intro _
    | with_reducible first
      | assumption | apply onO_some | apply onO_none | apply onF_some | apply onF_none | apply State.closeStream_on
      | apply goodC_ite | apply goodT_ite
    | simp only [on_mk_iff, goodC_mk_iff, goodH_mk_iff]
    | with_reducible apply goodT_ts
    | with_reducible apply goodC_ts
    | dsimp only
    | split
    | (apply on_fst; with_reducible assumption)
    | (apply on_snd; with_reducible assumption)
    | (apply on_someF'; with_reducible assumption)
    | (apply on_some; with_reducible assumption)
    | (apply on_someF; with_reducible assumption)
    | (apply on_next; with_reducible assumption)

theorem execDbStrmClose_on {z : State} (t : Tenant) (s : State) (h_s : Onward z (s)) :
    OnwardA z (execDbStrmClose t s) := by
  unfold execDbStrmClose
  repeat' first
    | with_reducible intro _
    | with_reducible first
      | assumption | apply onA_next | apply onA_refused | apply State.dbClose_on | apply State.doorbell_on
    | with_reducible apply goodT_ts
    | with_reducible apply goodC_ts
    | dsimp only

end Sys2Proof.Machine
end

