-- ==== Sys2Proof/Laws/OnRegisters.lean ====
section
/-! SUPPORT. What each operation of Machine/Registers.lean leaves in order. -/

namespace Sys2Proof.Machine

theorem State.clampBlock_on {z : State} (s : State) (a : Nat) (h_s : Onward z (s)) :
    Onward z (State.clampBlock s a) := by
  unfold State.clampBlock
  repeat' first
    | with_reducible intro _
    | with_reducible first
      | assumption | apply on_ite | apply onO_ite | apply State.clampHub_on | apply State.clampAt_on
    | with_reducible apply goodT_ts
    | with_reducible apply goodC_ts
    | dsimp only
    | split

theorem State.clampDead_on {z : State} (s : State) (a : Nat) (h_s : Onward z (s)) :
    Onward z (State.clampDead s a) := by
  unfold State.clampDead
  repeat' first
    | with_reducible intro _
    | with_reducible first
      | assumption | apply on_ite | apply onO_ite | apply State.clampBlock_on | apply State.clampHub_on
    | with_reducible apply goodT_ts
    | with_reducible apply goodC_ts
    | dsimp only
    | split

theorem State.after_on {z : State} (s : State) (a : Answer) (h_s : Onward z (s)) (h_a : OnwardA z (a)) :
    Onward z (State.after s a) := by
  unfold State.after
  cases a with
  | next t => exact h_a t rfl
  | fault r => exact h_s
  | refused r => exact h_s

theorem State.tenCmd_on {z : State} (s : State) (op : Nat) (h_s : Onward z (s)) :
    Onward z (State.tenCmd s op) := by
  unfold State.tenCmd
  repeat' first
    | with_reducible intro _
    | with_reducible first
      | assumption | apply onO_some | apply onO_none | apply onF_some | apply onF_none | apply on_ite
      | apply onO_ite | apply State.after_on | apply execResetWarm_on | apply execResetPartition_on
      | apply execResetCluster_on | apply execResetCore_on | apply execDiscard_on | apply execResume_on
      | apply execPreempt_on | apply execPartAssign_on | apply execPartDestroy_on | apply execPartCreate_on
      | apply State.tenCode_on | apply goodC_ite | apply goodT_ite
    | simp only [on_mk_iff, goodC_mk_iff, goodH_mk_iff]
    | with_reducible apply goodT_ts
    | with_reducible apply goodC_ts
    | dsimp only
    | split
    | (apply on_fst; with_reducible assumption)
    | (apply on_snd; with_reducible assumption)
    | (apply on_someF'; with_reducible assumption)
    | (apply on_some; with_reducible assumption)
    | (apply on_someF; with_reducible assumption)
    | (apply on_next; with_reducible assumption)

theorem State.mbxCmd_on {z : State} (s : State) (op : Nat) (h_s : Onward z (s)) :
    Onward z (State.mbxCmd s op) := by
  unfold State.mbxCmd
  repeat' first
    | with_reducible intro _
    | with_reducible first
      | assumption | apply State.after_on | apply execMbxReanneal_on | apply execMbxColdReset_on
      | apply execMbxWarmReset_on | apply execMbxQuench_on | apply execOwnerProvision_on | apply execClearCrash_on
      | apply execReadCrash_on | apply execReadEvt_on | apply execMbxNop_on | apply goodC_ite | apply goodT_ite
    | simp only [on_mk_iff, goodC_mk_iff, goodH_mk_iff]
    | with_reducible apply goodT_ts
    | with_reducible apply goodC_ts
    | dsimp only
    | split
    | (apply on_fst; with_reducible assumption)
    | (apply on_snd; with_reducible assumption)
    | (apply on_someF'; with_reducible assumption)
    | (apply on_some; with_reducible assumption)
    | (apply on_someF; with_reducible assumption)
    | (apply on_next; with_reducible assumption)

theorem State.objCmd_on {z : State} (s : State) (h op : Nat) (h_s : Onward z (s)) :
    Onward z (State.objCmd s h op) := by
  unfold State.objCmd
  repeat' first
    | with_reducible intro _
    | with_reducible first
      | assumption | apply on_ite | apply onO_ite | apply State.after_on | apply execObjNop_on
      | apply State.pfObject_on | apply goodH_ite
    | with_reducible apply goodT_ts
    | with_reducible apply goodC_ts
    | dsimp only
    | split

theorem State.onWrite_on {z : State} (s : State) (a : Nat) (is : List Nat) (v : Word) (h_s : Onward z (s)) :
    Onward z (State.onWrite s a is v) := by
  unfold State.onWrite
  repeat' first
    | with_reducible intro _
    | with_reducible first
      | assumption | apply on_ite | apply onO_ite | apply State.objCmd_on | apply State.mbxCmd_on
      | apply State.tenCmd_on | apply State.after_on | apply execPeakClr_on | apply execStrmClose_on
      | apply execStrmOpen_on | apply execExrWrite_on | apply execExrRead_on | apply execBootClear_on
      | apply execBootRestart_on | apply State.writeKey_on | apply execRcvFenceGo_on | apply execImgUnregister_on
      | apply execImgRegister_on | apply execFseqGo_on | apply execLdrLoad_on | apply execReflStart_on
      | apply execTopoWrite_on | apply execTopoRead_on | apply execEpochResume_on | apply execEpochCommit_on
      | apply execEpochRetrain_on | apply execEpochDrain_on | apply execAliasTake_on | apply execInjectionArm_on
      | apply State.enablePort_on | apply State.unfence_on | apply execFullTrain_on | apply execDebugStep_on
      | apply execDebugHaltReq_on | apply execFifoTestWrite_on | apply State.core_on | apply goodC_ite
      | apply goodT_ite | apply on_getD | apply on_getD_fst
    | with_reducible apply goodT_ts
    | with_reducible apply goodC_ts
    | dsimp only
    | split

theorem State.holdToken_on {z : State} (s : State) (t : Nat) (v : Word) (h_s : Onward z (s)) :
    Onward z (State.holdToken s t v) := by
  unfold State.holdToken
  repeat' first
    | with_reducible intro _
    | with_reducible first
      | assumption | apply on_ite | apply onO_ite | apply goodC_ite | apply goodT_ite
    | simp only [on_mk_iff, goodC_mk_iff, goodH_mk_iff]
    | with_reducible apply goodT_ts
    | with_reducible apply goodC_ts
    | dsimp only
    | split

theorem State.ownWrite_on {z : State} (s : State) (a : Nat) (is : List Nat) (v : Word) (h_s : Onward z (s)) :
    OnwardO z (State.ownWrite s a is v) := by
  unfold State.ownWrite
  repeat' first
    | with_reducible intro _
    | with_reducible first
      | assumption | apply onO_some | apply onO_none | apply onF_some | apply onF_none | apply on_ite
      | apply onO_ite | apply State.after_on | apply State.clampBlock_on | apply State.levelWrite_on
      | apply execPfxObjWrite_on | apply execBootCfgWrite_on | apply execCreditGrantWrite_on
      | apply State.setReg_on | apply goodC_ite | apply goodT_ite | apply on_getD | apply on_getD_fst
    | simp only [on_mk_iff, goodC_mk_iff, goodH_mk_iff]
    | with_reducible apply goodT_ts
    | with_reducible apply goodC_ts
    | dsimp only
    | split

theorem State.follow_on {z : State} (s : State) (a : Nat) (is : List Nat) (v : Word) (h_s : Onward z (s)) :
    Onward z (State.follow s a is v) := by
  unfold State.follow
  repeat' first
    | with_reducible intro _
    | with_reducible first
      | assumption | apply onO_some | apply onO_none | apply onF_some | apply onF_none | apply on_ite
      | apply onO_ite | apply State.writeMask_on | apply State.setFlag_on
    | with_reducible apply goodT_ts
    | with_reducible apply goodC_ts
    | dsimp only
    | split

theorem State.regWrite_on {z : State} (s : State) (key : Nat) (v : Word) (h_s : Onward z (s)) :
    Onward z (State.regWrite s key v) := by
  unfold State.regWrite
  repeat' first
    | with_reducible intro _
    | with_reducible first
      | assumption | apply onO_some | apply onO_none | apply onF_some | apply onF_none | apply on_ite
      | apply onO_ite | apply State.follow_on | apply State.ownWrite_on | apply State.holdToken_on
      | apply State.onWrite_on | apply State.clampDead_on | apply State.clampBlock_on | apply State.setReg_on
      | apply goodC_ite | apply goodT_ite
    | simp only [on_mk_iff, goodC_mk_iff, goodH_mk_iff]
    | with_reducible apply goodT_ts
    | with_reducible apply goodC_ts
    | dsimp only
    | split
    | (apply on_fst; with_reducible assumption)
    | (apply on_snd; with_reducible assumption)
    | (apply on_someF'; with_reducible assumption)
    | (apply on_some; with_reducible assumption)
    | (apply on_someF; with_reducible assumption)
    | (apply on_next; with_reducible assumption)

theorem State.msixWrite_on {z : State} (s : State) (fn n word : Nat) (v : Word) (h_s : Onward z (s)) :
    Onward z (State.msixWrite s fn n word v) := by
  unfold State.msixWrite
  repeat' first
    | with_reducible intro _
    | with_reducible first
      | assumption | apply on_ite | apply onO_ite | apply State.emit_on | apply goodC_ite | apply goodT_ite
    | simp only [on_mk_iff, goodC_mk_iff, goodH_mk_iff]
    | with_reducible apply goodT_ts
    | with_reducible apply goodC_ts
    | dsimp only
    | split

theorem State.dbCmd_on {z : State} (s : State) (t op : Nat) (h_s : Onward z (s)) :
    Onward z (State.dbCmd s t op) := by
  unfold State.dbCmd
  repeat' first
    | with_reducible intro _
    | with_reducible first
      | assumption | apply onO_some | apply onO_none | apply onF_some | apply onF_none | apply State.after_on
      | apply execDbStrmClose_on | apply execDbStrmOpen_on | apply State.dbPages_on | apply State.dbObj_on
      | apply execDbReset_on | apply execDbDiscard_on | apply execDbResume_on | apply execDbPreempt_on
      | apply State.dbLoad_on | apply State.doorbell_on | apply goodC_ite | apply goodT_ite
    | simp only [on_mk_iff, goodC_mk_iff, goodH_mk_iff]
    | with_reducible apply goodT_ts
    | with_reducible apply goodC_ts
    | dsimp only
    | split
    | (apply on_fst; with_reducible assumption)
    | (apply on_snd; with_reducible assumption)
    | (apply on_someF'; with_reducible assumption)
    | (apply on_some; with_reducible assumption)
    | (apply on_someF; with_reducible assumption)
    | (apply on_next; with_reducible assumption)

theorem State.pageWrite_on {z : State} (s : State) (t off : Nat) (v : Word) (h_s : Onward z (s)) :
    Onward z (State.pageWrite s t off v) := by
  unfold State.pageWrite
  repeat' first
    | with_reducible intro _
    | with_reducible first
      | assumption | apply onO_some | apply onO_none | apply onF_some | apply onF_none | apply on_ite
      | apply onO_ite | apply State.dbCmd_on | apply State.msixWrite_on | apply State.holdToken_on
      | apply State.reqDoorbell_on | apply State.clampPage_on | apply State.writeMask_on | apply State.put_on
    | with_reducible apply goodT_ts
    | with_reducible apply goodC_ts
    | dsimp only
    | split

theorem State.pageWrite8_on {z : State} (s : State) (t off : Nat) (lo hi : Word) (h_s : Onward z (s)) :
    OnwardO z (State.pageWrite8 s t off lo hi) := by
  unfold State.pageWrite8
  repeat' first
    | with_reducible intro _
    | with_reducible first
      | assumption | apply onO_some | apply onO_none | apply onF_some | apply onF_none | apply on_ite
      | apply onO_ite | apply State.cancel_on | apply State.tokHead_on
    | with_reducible apply goodT_ts
    | with_reducible apply goodC_ts
    | dsimp only
    | split

theorem State.clampWrite_on {z : State} (s : State) (bar2 : Bool) (a : Nat) (h_s : Onward z (s)) :
    Onward z (State.clampWrite s bar2 a) := by
  unfold State.clampWrite
  repeat' first
    | with_reducible intro _
    | with_reducible first
      | assumption | apply on_ite | apply onO_ite | apply State.clampBlock_on | apply State.clampPage_on
    | with_reducible apply goodT_ts
    | with_reducible apply goodC_ts
    | dsimp only
    | split

theorem State.write4_on {z : State} (s : State) (bar2 : Bool) (a : Nat) (v : Word) (be : BitVec 4) (h_s : Onward z (s)) :
    Onward z (State.write4 s bar2 a v be) := by
  unfold State.write4
  repeat' first
    | with_reducible intro _
    | with_reducible first
      | assumption | apply on_ite | apply onO_ite | apply State.clampWrite_on | apply State.pageWrite_on
      | apply State.msixWrite_on | apply State.regWrite_on
    | with_reducible apply goodT_ts
    | with_reducible apply goodC_ts
    | dsimp only
    | split

theorem State.hostWrite_on {z : State} (s : State) (bar2 : Bool) (a : Nat) (lo : Word) (loBe : BitVec 4) (hi : Option (Word × BitVec 4)) (h_s : Onward z (s)) :
    Onward z (State.hostWrite s bar2 a lo loBe hi) := by
  unfold State.hostWrite
  repeat' first
    | with_reducible intro _
    | with_reducible first
      | assumption | apply onO_some | apply onO_none | apply onF_some | apply onF_none | apply on_ite
      | apply onO_ite | apply State.write4_on | apply State.pageWrite8_on | apply goodC_ite | apply goodT_ite
    | simp only [on_mk_iff, goodC_mk_iff, goodH_mk_iff]
    | with_reducible apply goodT_ts
    | with_reducible apply goodC_ts
    | dsimp only
    | split
    | (apply on_fst; with_reducible assumption)
    | (apply on_snd; with_reducible assumption)
    | (apply on_someF'; with_reducible assumption)
    | (apply on_some; with_reducible assumption)
    | (apply on_someF; with_reducible assumption)
    | (apply on_next; with_reducible assumption)

theorem execRegisterWrite_on {z : State} (bar2 : Bool) (dw : BitVec 26) (lo : Word) (loBe : BitVec 4) (hi : Option (Word × BitVec 4)) (s : State) (h_s : Onward z (s)) :
    OnwardA z (execRegisterWrite bar2 dw lo loBe hi s) := by
  unfold execRegisterWrite
  repeat' first
    | with_reducible intro _
    | with_reducible first
      | assumption | apply onA_next | apply onA_refused | apply State.hostWrite_on
    | with_reducible apply goodT_ts
    | with_reducible apply goodC_ts
    | dsimp only

theorem execPourWdogLimitWrite_on {z : State} (i : Island) (v : Word) (s : State) (h_s : Onward z (s)) :
    OnwardA z (execPourWdogLimitWrite i v s) := by
  unfold execPourWdogLimitWrite
  repeat' first
    | with_reducible intro _
    | with_reducible first
      | assumption | apply onA_next | apply onA_refused | apply State.regWrite_on
    | with_reducible apply goodT_ts
    | with_reducible apply goodC_ts
    | dsimp only

end Sys2Proof.Machine
end

