-- ==== Sys2Proof/Laws/OnTide.lean ====
section
/-! SUPPORT. What the commands that set the tide leave in order: the end of deskew, a load, a correction, a tick. -/

namespace Sys2Proof.Machine

theorem Kept.refl (s : State) : Kept s s := (on_refl s).kept
theorem Kept.trans {a b c : State} (h : Kept a b) (g : Kept b c) : Kept a c :=
  ⟨g.1.trans h.1, g.2.1.trans h.2.1, le_trans h.2.2.1 g.2.2.1, fun x => g.2.2.2.1 (h.2.2.2.1 x), fun x => g.2.2.2.2 (h.2.2.2.2 x)⟩

/-- Setting the tide keeps all that `Kept` speaks of. -/
theorem Kept.tide {z s : State} (h : Kept z s) (t : TideSt) : Kept z { s with tide := t } := h
theorem Kept.setFlag {z s : State} (h : Kept z s) (f : RF) (b : Bool) : Kept z (s.setFlag f b) :=
  h.trans (State.setFlag_on s f b (on_refl s)).kept
theorem Kept.inc {z s : State} (h : Kept z s) (f : RF) : Kept z (s.inc f) := h.trans (State.inc_on s f (on_refl s)).kept

theorem execDeskewDone_kept {s t : State} (h : execDeskewDone s = .next t) : Kept s t := by
  unfold execDeskewDone at h
  cases h
  split
  · exact (((Kept.refl s).setFlag _ _).setFlag _ _).tide _
  · exact .refl s

theorem execTideLoad_kept {s t : State} (h : execTideLoad s = .next t) : Kept s t := by
  unfold execTideLoad at h
  cases h
  split
  · exact .refl s
  · split
    · exact (((Kept.refl s).setFlag _ _).tide _).setFlag _ _
    · exact (((Kept.refl s).setFlag _ _).tide _).setFlag _ _

theorem execTideSlew_kept {s t : State} (h : execTideSlew s = .next t) : Kept s t := by
  unfold execTideSlew at h
  dsimp only at h
  cases h
  split <;> split
  · exact ((Kept.refl s).tide _).inc _
  · exact .refl s
  · exact ((Kept.refl s).tide _).inc _
  · exact .refl s

theorem State.tick_kept (s : State) : Kept s s.tick := by
  unfold State.tick
  split
  · exact (Kept.refl s).tide _
  · exact .refl s

end Sys2Proof.Machine
end

