-- ==== Sys2Proof/Laws/OnExec.lean ====
section
/-! SUPPORT. What every command leaves in order. -/

namespace Sys2Proof.Machine

/-- Whatever a command does, the same commands wait after it, the fuses are as they were but for a rollback counter that has
not fallen, the register file is in order, and the tide stands no earlier or has been stopped. The three commands that
set the tide are spoken of in Laws/OnTide.lean. -/
theorem exec_on (i : Instr) (s : State) (h1 : i ≠ .deskewDone) (h2 : i ≠ .tideLoad) (h3 : i ≠ .tideSlew) :
    OnwardA s (exec i s) := by
  have h := on_refl s
  cases i
  case registerWrite => exact execRegisterWrite_on _ _ _ _ _ _ h
  case rootPllLock => exact execRootPllLock_on _ h
  case pllLockTimeout => exact execPllLockTimeout_on _ h
  case deskewDone => exact absurd rfl (h1)
  case pllLockLoss => exact execPllLockLoss_on _ h
  case governorEvaluation => exact execGovernorEvaluation_on _ _ _ _ h
  case droopAlarm => exact execDroopAlarm_on _ _ _ h
  case droopStepDown => exact execDroopStepDown_on _ _ _ h
  case hubTideLoRead => exact execHubTideLoRead_on _ h
  case tideSyncEdge => exact execTideSyncEdge_on _ h
  case tideLoad => exact absurd rfl (h2)
  case tideSlew => exact absurd rfl (h3)
  case fenceCompletion => exact execFenceCompletion_on _ _ h
  case fenceNoticeArrival => exact execFenceNoticeArrival_on _ _ h
  case mm => exact execMm_on _ _ _ h
  case mmac => exact execMmac_on _ _ _ h
  case vadd => exact execVadd_on _ _ _ h
  case vsub => exact execVsub_on _ _ _ h
  case vmul => exact execVmul_on _ _ _ h
  case vfma => exact execVfma_on _ _ _ h
  case vmin => exact execVmin_on _ _ _ h
  case vmax => exact execVmax_on _ _ _ h
  case vsfu => exact execVsfu_on _ _ _ h
  case vdiv => exact execVdiv_on _ _ _ h
  case vred => exact execVred_on _ _ _ h
  case vld => exact execVld_on _ _ _ h
  case vst => exact execVst_on _ _ _ h
  case vbcast => exact execVbcast_on _ _ _ h
  case vscale => exact execVscale_on _ _ _ h
  case rmax => exact execRmax_on _ _ _ h
  case rsum => exact execRsum_on _ _ _ h
  case rmean => exact execRmean_on _ _ _ h
  case rvar => exact execRvar_on _ _ _ h
  case rminmax => exact execRminmax_on _ _ _ h
  case li => exact execLi_on _ _ _ h
  case alu => exact execAlu_on _ _ _ h
  case alui => exact execAlui_on _ _ _ h
  case lds => exact execLds_on _ _ _ h
  case sts => exact execSts_on _ _ _ h
  case amov => exact execAmov_on _ _ _ h
  case get => exact execGet_on _ _ _ h
  case put => exact execPut_on _ _ _ h
  case fill => exact execFill_on _ _ _ h
  case copy => exact execCopy_on _ _ _ h
  case send => exact execSend_on _ _ _ h
  case sendi => exact execSendi_on _ _ _ h
  case recv => exact execRecv_on _ _ _ h
  case wput => exact execWput_on _ _ _ h
  case tget => exact execTget_on _ _ _ h
  case tput => exact execTput_on _ _ _ h
  case transferDelivered => exact execTransferDelivered_on _ _ _ _ h
  case rpop => exact execRpop_on _ _ _ h
  case rpush => exact execRpush_on _ _ _ h
  case rwait => exact execRwait_on _ _ _ h
  case rsel => exact execRsel_on _ _ _ h
  case ctake => exact execCtake_on _ _ _ h
  case cset => exact execCset_on _ _ _ h
  case cadd => exact execCadd_on _ _ _ h
  case counterBankDecision => exact execCounterBankDecision_on _ _ h
  case waitx => exact execWaitx_on _ _ _ h
  case fence => exact execFence_on _ _ _ h
  case waitt => exact execWaitt_on _ _ _ h
  case waitm => exact execWaitm_on _ ‹WaitF› _ h
  case loop => exact execLoop_on _ _ _ h
  case br => exact execBr_on _ _ _ h
  case beqz => exact execBeqz_on _ _ _ h
  case bnez => exact execBnez_on _ _ _ h
  case blt => exact execBlt_on _ _ _ h
  case bge => exact execBge_on _ _ _ h
  case nop => exact execNop_on _ _ h
  case halt => exact execHalt_on _ _ h
  case switch => exact execSwitch_on _ _ _ h
  case yield => exact execYield_on _ _ h
  case bkpt => exact execBkpt_on _ _ h
  case slotSwitch => exact execSlotSwitch_on _ _ h
  case switchRequestArrival => exact execSwitchRequestArrival_on _ _ _ h
  case ladleStep => exact execLadleStep_on _ _ h
  case stepChecksPass => exact execStepChecksPass_on _ _ h
  case outputTileWrite => exact execOutputTileWrite_on _ _ h
  case checksumRecompute => exact execChecksumRecompute_on _ _ _ _ _ h
  case duplicateRerun => exact execDuplicateRerun_on _ _ _ _ h
  case persistentMismatchFence => exact execPersistentMismatchFence_on _ _ _ _ _ _ _ h
  case ladleTileDrop => exact execLadleTileDrop_on _ _ h
  case preemptRequestAtCore => exact execPreemptRequestAtCore_on _ _ h
  case debugHaltReq => exact execDebugHaltReq_on _ _ _ h
  case debugStep => exact execDebugStep_on _ _ h
  case injectionArm => exact execInjectionArm_on _ _ h
  case ringFillArrival => exact execRingFillArrival_on _ _ _ _ _ _ _ h
  case runnerForward => exact execRunnerForward_on _ _ _ _ h
  case slotRelease => exact execSlotRelease_on _ _ _ _ h
  case slotCreditReturn => exact execSlotCreditReturn_on _ _ _ _ _ _ h
  case remoteWriteWindow => exact execRemoteWriteWindow_on _ _ _ _ _ _ h
  case remoteWriteCredit => exact execRemoteWriteCredit_on _ _ _ _ _ h
  case creditGrantWrite => exact execCreditGrantWrite_on _ _ _ _ _ _ h
  case packetFirstWord => exact execPacketFirstWord_on _ _ _ _ _ _ h
  case packetCommit => exact execPacketCommit_on _ _ _ _ _ h
  case badPacketRewind => exact execBadPacketRewind_on _ _ _ h
  case fifoTestWrite => exact execFifoTestWrite_on _ _ _ _ h
  case gets => exact execGets_on _ _ _ _ _ h
  case getm => exact execGetm_on _ _ _ _ _ h
  case puts => exact execPuts_on _ _ _ _ _ h
  case putm => exact execPutm_on _ _ _ _ _ h
  case directoryDecision => exact execDirectoryDecision_on _ _ _ _ h
  case inv => exact execInv_on _ _ _ _ _ h
  case fwdGets => exact execFwdGets_on _ _ _ _ _ h
  case fwdGetm => exact execFwdGetm_on _ _ _ _ _ h
  case data => exact execData_on _ _ _ _ h
  case invAck => exact execInvAck_on _ _ _ _ h
  case scoreWrite => exact execScoreWrite_on _ _ _ _ _ _ h
  case roundDecision => exact execRoundDecision_on _ _ _ _ h
  case ferryReport => exact execFerryReport_on _ _ _ _ _ _ _ h
  case ferryFetch => exact execFerryFetch_on _ _ h
  case stationRoundClose => exact execStationRoundClose_on _ _ _ _ h
  case ferryLinkLost => exact execFerryLinkLost_on _ _ _ _ h
  case ferryHeatHalve => exact execFerryHeatHalve_on _ _ h
  case exrRead => exact execExrRead_on _ h
  case exrWrite => exact execExrWrite_on _ h
  case objNop => exact execObjNop_on _ _ h
  case objCreate => exact execObjCreate_on _ _ h
  case objCommit => exact execObjCommit_on _ _ h
  case objDelete => exact execObjDelete_on _ _ h
  case objStage => exact execObjStage_on _ _ h
  case objPin => exact execObjPin_on _ _ h
  case objSetmask => exact execObjSetmask_on _ _ h
  case objCommandComplete => exact execObjCommandComplete_on _ _ h
  case pageHeatHalve => exact execPageHeatHalve_on _ _ h
  case pagePromote => exact execPagePromote_on _ _ _ _ h
  case pageMoveSwitch => exact execPageMoveSwitch_on _ _ _ h
  case pageMoveRestart => exact execPageMoveRestart_on _ _ _ _ _ h
  case patrolScrub => exact execPatrolScrub_on _ _ _ _ _ _ h
  case cxlPoison => exact execCxlPoison_on _ _ _ _ _ h
  case cxlLinkDown => exact execCxlLinkDown_on _ _ _ h
  case cxlMediaEvent => exact execCxlMediaEvent_on _ _ _ _ h
  case floorWindowStart => exact execFloorWindowStart_on _ _ _ h
  case pathGrant => exact execPathGrant_on _ _ _ _ h
  case pageLanding => exact execPageLanding_on _ _ _ h
  case readRefresh => exact execReadRefresh_on _ _ _ _ _ h
  case wearLevel => exact execWearLevel_on _ _ _ _ h
  case blockRetire => exact execBlockRetire_on _ _ _ _ _ _ h
  case ftlCheckpoint => exact execFtlCheckpoint_on _ _ h
  case ftlMount => exact execFtlMount_on _ _ _ _ h
  case pourWatchdogExpire => exact execPourWatchdogExpire_on _ _ _ h
  case pourWdogLimitWrite => exact execPourWdogLimitWrite_on _ _ _ h
  case ldrLoad => exact execLdrLoad_on _ h
  case loadStageComplete => exact execLoadStageComplete_on _ _ h
  case jobStart => exact execJobStart_on _ _ h
  case imgRegister => exact execImgRegister_on _ h
  case imgUnregister => exact execImgUnregister_on _ h
  case entryBegin => exact execEntryBegin_on _ _ h
  case entryEnd => exact execEntryEnd_on _ _ h
  case fseqGo => exact execFseqGo_on _ _ h
  case slotRewrite => exact execSlotRewrite_on _ _ _ h
  case strmOpen => exact execStrmOpen_on _ h
  case strmClose => exact execStrmClose_on _ h
  case requestDoorbell => exact execRequestDoorbell_on _ _ _ h
  case requestEntryParse => exact execRequestEntryParse_on _ _ _ h
  case requestReadRetry => exact execRequestReadRetry_on _ _ h
  case slotAdmit => exact execSlotAdmit_on _ _ h
  case prefixLookup => exact execPrefixLookup_on _ _ h
  case tokenHeadDoorbell => exact execTokenHeadDoorbell_on _ _ _ h
  case cancel => exact execCancel_on _ _ _ h
  case stepMessageSend => exact execStepMessageSend_on _ _ h
  case stepMessageReceive => exact execStepMessageReceive_on _ _ _ _ _ h
  case feedWrite => exact execFeedWrite_on _ _ h
  case candidateRecord => exact execCandidateRecord_on _ _ _ _ _ _ h
  case doneGranule => exact execDoneGranule_on _ _ _ _ _ h
  case samplerService => exact execSamplerService_on _ _ h
  case tokenAppend => exact execTokenAppend_on _ _ h
  case mirrorAck => exact execMirrorAck_on _ _ _ _ h
  case prefixAgeSweep => exact execPrefixAgeSweep_on _ h
  case budgetRefill => exact execBudgetRefill_on _ h
  case budgetLevelWrite => exact execBudgetLevelWrite_on _ _ _ h
  case pfxObjWrite => exact execPfxObjWrite_on _ _ h
  case servingFailover => exact execServingFailover_on _ _ _ _ h
  case portTrainingComplete => exact execPortTrainingComplete_on _ _ _ _ _ _ h
  case trainRetry => exact execTrainRetry_on _ _ h
  case portRetrain => exact execPortRetrain_on _ _ _ h
  case fullTrain => exact execFullTrain_on _ _ h
  case clrFence => exact execClrFence_on _ _ h
  case flitSend => exact execFlitSend_on _ _ h
  case dataFlitReceive => exact execDataFlitReceive_on _ _ _ _ _ _ h
  case badFlit => exact execBadFlit_on _ _ h
  case nak => exact execNak_on _ _ _ _ h
  case nakRepeat => exact execNakRepeat_on _ _ h
  case replayTimeout => exact execReplayTimeout_on _ _ _ h
  case credit => exact execCredit_on _ _ _ _ _ _ h
  case timeReq => exact execTimeReq_on _ _ _ _ _ h
  case timeRsp => exact execTimeRsp_on _ _ _ _ _ _ _ _ h
  case timeExchange => exact execTimeExchange_on _ _ h
  case train => exact execTrain_on _ _ _ _ _ _ _ _ _ h
  case packet => exact execPacket_on _ _ _ _ _ _ h
  case write => exact execWrite_on _ _ _ _ _ _ _ _ h
  case ferryReq => exact execFerryReq_on _ _ _ _ _ _ _ h
  case ferryData => exact execFerryData_on _ _ _ _ _ _ _ _ h
  case eack => exact execEack_on _ _ _ _ _ h
  case boardWr => exact execBoardWr_on _ _ _ _ _ _ h
  case boardRd => exact execBoardRd_on _ _ _ _ _ _ h
  case boardData => exact execBoardData_on _ _ _ _ h
  case transitForward => exact execTransitForward_on _ _ _ _ _ _ _ _ _ _ _ _ _ _ h
  case eackTimeout => exact execEackTimeout_on _ _ _ _ h
  case routeFail => exact execRouteFail_on _ ‹Fin 16› _ h
  case heartbeatSend => exact execHeartbeatSend_on _ h
  case heartbeat => exact execHeartbeat_on _ _ h
  case heartbeatMiss => exact execHeartbeatMiss_on _ _ h
  case takeover => exact execTakeover_on _ _ _ h
  case withdraw => exact execWithdraw_on _ _ _ h
  case aliasTake => exact execAliasTake_on _ h
  case epochDrain => exact execEpochDrain_on _ h
  case epochDrainTimeout => exact execEpochDrainTimeout_on _ h
  case epochRetrain => exact execEpochRetrain_on _ h
  case epochCommit => exact execEpochCommit_on _ h
  case epochResume => exact execEpochResume_on _ h
  case topoRead => exact execTopoRead_on _ h
  case topoWrite => exact execTopoWrite_on _ h
  case reflStart => exact execReflStart_on _ _ h
  case reflComplete => exact execReflComplete_on _ _ _ h
  case partCreate => exact execPartCreate_on _ h
  case partDestroy => exact execPartDestroy_on _ h
  case partAssign => exact execPartAssign_on _ h
  case preempt => exact execPreempt_on _ h
  case preemptStopTick => exact execPreemptStopTick_on _ _ h
  case saveComplete => exact execSaveComplete_on _ _ h
  case resume => exact execResume_on _ h
  case resumeTick => exact execResumeTick_on _ _ _ h
  case discard => exact execDiscard_on _ h
  case resetCore => exact execResetCore_on _ h
  case resetCluster => exact execResetCluster_on _ h
  case resetPartition => exact execResetPartition_on _ h
  case resetWarm => exact execResetWarm_on _ h
  case drainCut => exact execDrainCut_on _ _ h
  case resetComplete => exact execResetComplete_on _ _ h
  case functionLevelReset => exact execFunctionLevelReset_on _ _ h
  case keySlotWrite => exact execKeySlotWrite_on _ h
  case causeMaskWrite => exact execCauseMaskWrite_on _ _ _ h
  case msixMessage => exact execMsixMessage_on _ _ _ h
  case tokenModerationExpire => exact execTokenModerationExpire_on _ _ h
  case partFault => exact execPartFault_on _ _ _ _ h
  case standbyRailGood => exact execStandbyRailGood_on _ h
  case standbyRailLost => exact execStandbyRailLost_on _ h
  case pwrOkRise => exact execPwrOkRise_on _ h
  case pwrOkFall => exact execPwrOkFall_on _ h
  case hubRailTimeout => exact execHubRailTimeout_on _ h
  case coolOkFall => exact execCoolOkFall_on _ h
  case coolOkRise => exact execCoolOkRise_on _ h
  case coolLossTimeout => exact execCoolLossTimeout_on _ h
  case vin12Fault => exact execVin12Fault_on _ h
  case bootPhaseComplete => exact execBootPhaseComplete_on _ _ h
  case retryWaitExpire => exact execRetryWaitExpire_on _ h
  case waveStart => exact execWaveStart_on _ h
  case softStartFault => exact execSoftStartFault_on _ _ _ h
  case linkTrainTimeout => exact execLinkTrainTimeout_on _ h
  case bootRestart => exact execBootRestart_on _ h
  case bootClear => exact execBootClear_on _ h
  case bootCfgWrite => exact execBootCfgWrite_on _ _ h
  case rcvFenceGo => exact execRcvFenceGo_on _ h
  case recoveryPhaseComplete => exact execRecoveryPhaseComplete_on _ _ h
  case routerFault => exact execRouterFault_on _ _ h
  case islandQuench => exact execIslandQuench_on _ _ _ _ _ h
  case harborFault => exact execHarborFault_on _ _ h
  case oeFault => exact execOeFault_on _ _ h
  case hubFault => exact execHubFault_on _ h
  case reannealStart => exact execReannealStart_on _ h
  case canaryRun => exact execCanaryRun_on _ _ _ h
  case reannealComplete => exact execReannealComplete_on _ _ _ h
  case lockstepMismatch => exact execLockstepMismatch_on _ h
  case exkWatchdogExpire => exact execExkWatchdogExpire_on _ h
  case sensorSample => exact execSensorSample_on _ _ _ _ _ h
  case powerReport => exact execPowerReport_on _ _ _ h
  case peakClr => exact execPeakClr_on _ h
  case eventLogCopy => exact execEventLogCopy_on _ _ h
  case mbxNop => exact execMbxNop_on _ h
  case readEvt => exact execReadEvt_on _ h
  case readCrash => exact execReadCrash_on _ h
  case clearCrash => exact execClearCrash_on _ h
  case keyInstall => exact execKeyInstall_on _ _ h
  case keyRevoke => exact execKeyRevoke_on _ _ h
  case ownerProvision => exact execOwnerProvision_on _ h
  case mbxQuench => exact execMbxQuench_on _ h
  case mbxWarmReset => exact execMbxWarmReset_on _ h
  case mbxColdReset => exact execMbxColdReset_on _ h
  case mbxReanneal => exact execMbxReanneal_on _ h
  case mailboxMessage => exact execMailboxMessage_on _ _ h
  case requestUpdate => exact execRequestUpdate_on _ h
  case passComponentTable => exact execPassComponentTable_on _ _ h
  case updateComponent => exact execUpdateComponent_on _ _ h
  case requestFirmwareData => exact execRequestFirmwareData_on _ _ _ h
  case transferComplete => exact execTransferComplete_on _ _ h
  case verifyComplete => exact execVerifyComplete_on _ h
  case applyComplete => exact execApplyComplete_on _ _ h
  case activateFirmware => exact execActivateFirmware_on _ h
  case getStatus => exact execGetStatus_on _ h
  case cancelUpdateComponent => exact execCancelUpdateComponent_on _ h
  case cancelUpdate => exact execCancelUpdate_on _ h
  case fwTrialExpire => exact execFwTrialExpire_on _ h
  case mctpControl => exact execMctpControl_on _ _ _ h
  case pldmPlatformRead => exact execPldmPlatformRead_on _ _ h
  case pldmOemCommand => exact execPldmOemCommand_on _ _ h
  case conventionalReset => exact execConventionalReset_on _ _ h
  case pfFlr => exact execPfFlr_on _ h
  case vfEnableClear => exact execVfEnableClear_on _ h
  case pfD3hot => exact execPfD3hot_on _ h
  case poisonedTlp => exact execPoisonedTlp_on _ h
  case apertureRead => exact execApertureRead_on _ _ _ _ h
  case apertureWrite => exact execApertureWrite_on _ _ _ _ h
  case dbLoad => exact execDbLoad_on _ _ h
  case dbPreempt => exact execDbPreempt_on _ _ h
  case dbResume => exact execDbResume_on _ _ h
  case dbDiscard => exact execDbDiscard_on _ _ h
  case dbReset => exact execDbReset_on _ _ h
  case dbObjCreate => exact execDbObjCreate_on _ _ h
  case dbObjCommit => exact execDbObjCommit_on _ _ h
  case dbObjDelete => exact execDbObjDelete_on _ _ h
  case dbObjStage => exact execDbObjStage_on _ _ h
  case dbObjPin => exact execDbObjPin_on _ _ h
  case dbObjSetmask => exact execDbObjSetmask_on _ _ h
  case objWrite => exact execObjWrite_on _ _ _ h
  case objRead => exact execObjRead_on _ _ h
  case dbStrmOpen => exact execDbStrmOpen_on _ _ h
  case dbStrmClose => exact execDbStrmClose_on _ _ h
  case perstBeforeReady => exact execPerstBeforeReady_on _ h
  case vstbyOutOfLimits => exact execVstbyOutOfLimits_on _ h
  case jtagInstruction => exact execJtagInstruction_on _ _ h
  case droopAlarmClear => exact execDroopAlarmClear_on _ _ _ h
  case idleFlit => exact execIdleFlit_on _ _ _ h
  case portEnable => exact execPortEnable_on _ _ _ h
  case vfEnable => exact execVfEnable_on _ _ h
  case pfToD0 => exact execPfToD0_on _ h
  case perstDeassert => exact execPerstDeassert_on _ h
  case vin12WithinLimits => exact execVin12WithinLimits_on _ h
  case pairRestartComplete => exact execPairRestartComplete_on _ h
  case pldmBaseCommand => exact execPldmBaseCommand_on _ _ _ h
  case entdaa => exact execEntdaa_on _ _ h

end Sys2Proof.Machine
end

