-- ==== Sys2Proof/Laws/TileStore.lean ====
section
/-! SUPPORT. Granules of a tile store: what was written is read back, side-band and all, and other granules are left alone
(R202, R203, R205). -/

namespace Sys2Proof.Machine

theorem length_readMany {α : Type} (d : α) (m : SMap α) (k n : Nat) : (readMany d m k n).length = n := by
  induction n generalizing k with
  | zero => rfl
  | succ n ih => simp [readMany, ih]
theorem getD_readMany {α : Type} (d e : α) (m : SMap α) (k n i : Nat) (h : i < n) :
    (readMany d m k n).getD i e = lookupD m (k + i) d := by
  induction n generalizing k i with
  | zero => omega
  | succ n ih =>
    cases i with
    | zero => simp [readMany]
    | succ i =>
      have := ih (k + 1) i (by omega)
      simp only [readMany, List.getD_cons_succ, this]
      congr 1; omega

/-- What was written over a run of keys is read back from it. -/
theorem readMany_storeMany_self {α : Type} [DecidableEq α] (d : α) (m : SMap α) (k : Nat) (vs : List α) :
    readMany d (storeMany d m k vs) k vs.length = vs := by
  apply List.ext_getElem (length_readMany _ _ _ _)
  intro i h1 h2
  have e := getD_readMany d d (storeMany d m k vs) k vs.length i h2
  rw [List.getD_eq_getElem _ _ h1] at e
  rw [e, lookupD_storeMany, if_pos (by omega), Nat.add_sub_cancel_left, List.getD_eq_getElem _ _ h2]
/-- Keys apart from a run written read as before. -/
theorem readMany_storeMany_apart {α : Type} [DecidableEq α] (d : α) (m : SMap α) (k j n : Nat) (vs : List α)
    (h : j + n ≤ k ∨ k + vs.length ≤ j) : readMany d (storeMany d m k vs) j n = readMany d m j n := by
  apply List.ext_getElem (by simp [length_readMany])
  intro i h1 h2
  rw [length_readMany] at h1
  have e1 := getD_readMany d d (storeMany d m k vs) j n i h1
  have e2 := getD_readMany d d m j n i h1
  rw [List.getD_eq_getElem _ _ (by rw [length_readMany]; exact h1)] at e1 e2
  rw [e1, e2, lookupD_storeMany, if_neg (by omega)]

/-- A granule has its sizes. -/
theorem granule_wf (t : TileStore) (g : Nat) : (t.granule g).wf = true := by
  simp [Granule.wf, TileStore.granule, TileStore.bytes, length_readMany]

theorem granule_setGranule_self (t : TileStore) (g : Nat) (x : Granule) (h : x.wf = true) : (t.setGranule g x).granule g = x := by
  obtain ⟨d, sc, w, p⟩ := x
  simp only [Granule.wf, Bool.and_eq_true, decide_eq_true_eq] at h
  obtain ⟨⟨⟨h1, h2⟩, h3⟩, h4⟩ := h
  have e1 : d.take 64 = d := List.take_of_length_le (by omega)
  have e2 : sc.take 4 = sc := List.take_of_length_le (by omega)
  have e3 : w.take 16 = w := List.take_of_length_le (by omega)
  have e4 : p.take 4 = p := List.take_of_length_le (by omega)
  have r1 := readMany_storeMany_self 0 t.data (64 * g) d
  have r2 := readMany_storeMany_self 0 t.scales (4 * g) sc
  have r3 := readMany_storeMany_self false t.wpois (16 * g) w
  have r4 := readMany_storeMany_self false t.spois (4 * g) p
  rw [h1] at r1; rw [h2] at r2; rw [h3] at r3; rw [h4] at r4
  simp only [TileStore.setGranule, TileStore.granule, TileStore.bytes, TileStore.setBytes, TileStore.setWords,
    TileStore.setScales, TileStore.setSpois, e1, e2, e3, e4, r1, r2, r3, r4]
theorem granule_setGranule_ne (t : TileStore) {g j : Nat} (x : Granule) (h : j ≠ g) : (t.setGranule g x).granule j = t.granule j := by
  simp only [TileStore.setGranule, TileStore.granule, TileStore.bytes, TileStore.setBytes, TileStore.setWords,
    TileStore.setScales, TileStore.setSpois]
  rw [readMany_storeMany_apart, readMany_storeMany_apart, readMany_storeMany_apart, readMany_storeMany_apart] <;>
    simp only [List.length_take] <;> omega

/-! ### Runs of granules of a core -/

/-- A core frame under granules written to that core. -/
theorem CoreFrame.setTs {c : Nat} {rs : List Reg} {s t : State} {x : TileStore} (h : CoreFrame c rs s t) :
    CoreFrame c rs s (t.setTs c x) := h.setCore
theorem CoreFrame.writeGrans {c : Nat} {rs : List Reg} {s : State} (xs : List Granule) :
    ∀ {t : State} {g : Nat}, CoreFrame c rs s t → CoreFrame c rs s (t.writeGrans c g xs) := by
  induction xs with
  | nil => intro t g h; exact h
  | cons x rest ih =>
    intro t g h
    simp only [State.writeGrans]
    split
    · exact ih h.setTs
    · exact ih h

theorem scratchEnd_setTs (s : State) (c d : Nat) (x : TileStore) : (s.setTs d x).scratchEnd c = s.scratchEnd c := rfl
theorem inScratch_setTs (s : State) (c d a n : Nat) (x : TileStore) : (s.setTs d x).inScratch c a n = s.inScratch c a n := rfl
@[simp] theorem ts_setTs (s : State) (c : Nat) (x : TileStore) : (s.setTs c x).ts c = x := by
  simp [State.ts, State.setTs]

/-- Granules written change the tile store of their core alone. -/
theorem core_writeGrans (c : Nat) (xs : List Granule) :
    ∀ (s : State) (g : Nat), (s.writeGrans c g xs).core c = { s.core c with ts := (s.writeGrans c g xs).ts c } := by
  induction xs with
  | nil => intro s g; rfl
  | cons x rest ih =>
    intro s g
    simp only [State.writeGrans]
    split
    · rw [ih]; simp [State.setTs]
    · exact ih s (g + 1)
theorem inScratch_writeGrans (c d : Nat) (xs : List Granule) :
    ∀ (s : State) (g a n : Nat), (s.writeGrans c g xs).inScratch d a n = s.inScratch d a n := by
  induction xs with
  | nil => intro s g a n; rfl
  | cons x rest ih =>
    intro s g a n
    simp only [State.writeGrans]
    split
    · rw [ih]; rfl
    · rw [ih]

/-- Bytes outside the granules written are left alone. -/
theorem byte_writeGrans_out (c b : Nat) (xs : List Granule) :
    ∀ (s : State) (g : Nat), b < 64 * g ∨ 64 * (g + xs.length) ≤ b →
      ((s.writeGrans c g xs).ts c).byte b = (s.ts c).byte b := by
  induction xs with
  | nil => intro s g _; rfl
  | cons x rest ih =>
    intro s g h
    simp only [List.length_cons] at h
    simp only [State.writeGrans]
    split
    · rw [ih _ _ (by omega), ts_setTs, byte_setGranule_out _ _ (by omega)]
    · exact ih _ _ (by omega)
/-- Granules outside the run are left alone. -/
theorem granule_writeGrans_out (c j : Nat) (xs : List Granule) :
    ∀ (s : State) (g : Nat), j < g ∨ g + xs.length ≤ j → ((s.writeGrans c g xs).ts c).granule j = (s.ts c).granule j := by
  induction xs with
  | nil => intro s g _; rfl
  | cons x rest ih =>
    intro s g h
    simp only [List.length_cons] at h
    simp only [State.writeGrans]
    split
    · rw [ih _ _ (by omega), ts_setTs, granule_setGranule_ne _ _ (by omega)]
    · exact ih _ _ (by omega)
/-- A granule written inside the scratchpad is read back. -/
theorem granule_writeGrans_in (c : Nat) (xs : List Granule) :
    ∀ (s : State) (g i : Nat) (x : Granule), xs[i]? = some x → x.wf = true → s.inScratch c (64 * (g + i)) 64 = true →
      ((s.writeGrans c g xs).ts c).granule (g + i) = x := by
  induction xs with
  | nil => intro s g i x h; simp at h
  | cons y rest ih =>
    intro s g i x h hw hs
    simp only [State.writeGrans]
    cases i with
    | zero =>
      simp only [List.getElem?_cons_zero, Option.some.injEq] at h
      subst h
      rw [if_pos (by simpa using hs), granule_writeGrans_out _ _ _ _ _ (by omega), ts_setTs]
      exact granule_setGranule_self _ _ _ hw
    | succ i =>
      simp only [List.getElem?_cons_succ] at h
      have e : g + (i + 1) = g + 1 + i := by omega
      rw [e] at hs ⊢
      split
      · exact ih _ _ _ _ h hw hs
      · exact ih _ _ _ _ h hw hs

/-! ### Words written one after the other -/

theorem scratchEnd_of_regs {s t : State} (c : Nat) (hf : t.fuses = s.fuses)
    (hr : t.reg (s.atCore c ISL_CORE_TS) = s.reg (s.atCore c ISL_CORE_TS)) : t.scratchEnd c = s.scratchEnd c := by
  have ha : t.atCore c ISL_CORE_TS_CACHE_UNITS = s.atCore c ISL_CORE_TS_CACHE_UNITS := by
    simp only [State.atCore, State.phys, hf]
  have hg : t.get (s.atCore c ISL_CORE_TS_CACHE_UNITS) = s.get (s.atCore c ISL_CORE_TS_CACHE_UNITS) :=
    congrArg (fun v => fieldGet v 0 3) hr
  simp only [State.scratchEnd, ha, hg]
theorem scratchEnd_of_frame {s t : State} {c : Nat} (h : CoreFrame c (s.instrRegs c) s t) : t.scratchEnd c = s.scratchEnd c := by
  refine scratchEnd_of_regs c h.fuses (h.2.1 _ ?_)
  simp [State.instrRegs, State.atCore, ISL_CORE_TS, ISL_CORE_EVT, ISL_CORE_VEC, ISL_CORE_DBG]
theorem inScratch_of_frame {s t : State} {c : Nat} (h : CoreFrame c (s.instrRegs c) s t) (a n : Nat) :
    t.inScratch c a n = s.inScratch c a n := by
  simp only [State.inScratch, scratchEnd_of_frame h]
@[simp] theorem inScratch_outOfRange (s : State) (c a n : Nat) (o : Bool) : (s.outOfRange c o).inScratch c a n = s.inScratch c a n :=
  inScratch_of_frame ((CoreFrame.refl c (s.instrRegs c) s).outOfRange (by simp [State.instrRegs])) a n
@[simp] theorem ts_outOfRange (s : State) (c d : Nat) (o : Bool) : (s.outOfRange c o).ts d = s.ts d := by
  simp [State.ts]

theorem CoreFrame.writeWords {c : Nat} {rs : List Reg} {s : State} (hr : s.atCore c ISL_CORE_EVT ∈ rs) (p : Bool)
    (ws : List Word) : ∀ {t : State} {a : Nat}, CoreFrame c rs s t → CoreFrame c rs s (t.writeWords c a ws p) := by
  induction ws with
  | nil => intro t a h; exact h
  | cons w rest ih =>
    intro t a h
    simp only [State.writeWords]
    split
    · exact ih (h.setTs.outOfRange hr)
    · exact ih (h.outOfRange hr)
theorem core_writeWords (c : Nat) (p : Bool) (ws : List Word) :
    ∀ (s : State) (a : Nat), (s.writeWords c a ws p).core c = { s.core c with ts := (s.writeWords c a ws p).ts c } := by
  induction ws with
  | nil => intro s a; rfl
  | cons w rest ih =>
    intro s a
    simp only [State.writeWords]
    split
    · rw [ih]; simp [State.setTs]
    · rw [ih]; simp
theorem byte_writeWords_out (c b : Nat) (p : Bool) (ws : List Word) :
    ∀ (s : State) (a : Nat), b < a ∨ a + 4 * ws.length ≤ b → ((s.writeWords c a ws p).ts c).byte b = (s.ts c).byte b := by
  induction ws with
  | nil => intro s a _; rfl
  | cons w rest ih =>
    intro s a h
    simp only [List.length_cons] at h
    simp only [State.writeWords]
    split
    · rw [ih _ _ (by omega), ts_outOfRange, ts_setTs, byte_setWords, byte_setBytes_out _ _ (by rw [length_leBytes]; omega)]
    · rw [ih _ _ (by omega), ts_outOfRange]
theorem bytes_eq_of_byte {t u : TileStore} {a n : Nat} (h : ∀ b, a ≤ b → b < a + n → t.byte b = u.byte b) : t.bytes a n = u.bytes a n := by
  apply List.ext_getElem (by simp [TileStore.bytes, length_readMany])
  intro i h1 h2
  have h3 : i < n := by simpa [TileStore.bytes, length_readMany] using h1
  have e1 := getD_readMany (0 : Byte) 0 t.data a n i h3
  have e2 := getD_readMany (0 : Byte) 0 u.data a n i h3
  rw [List.getD_eq_getElem _ _ (by rw [length_readMany]; exact h3)] at e1 e2
  exact e1.trans ((h (a + i) (by omega) (by omega)).trans e2.symm)
theorem readMany_add {α : Type} (d : α) (m : SMap α) (k i j : Nat) : readMany d m k (i + j) = readMany d m k i ++ readMany d m (k + i) j := by
  induction i generalizing k with
  | zero => simp [readMany]
  | succ i ih => rw [show i + 1 + j = (i + j) + 1 by omega]; simp only [readMany, ih, List.cons_append]; congr 3; omega
theorem bytes_add (t : TileStore) (a i j : Nat) : t.bytes a (i + j) = t.bytes a i ++ t.bytes (a + i) j := readMany_add ..
theorem bytes_setBytes_self (t : TileStore) (a : Nat) (bs : List Byte) : (t.setBytes a bs).bytes a bs.length = bs :=
  readMany_storeMany_self ..
/-- Words written inside the scratchpad are read back. -/
theorem bytes_writeWords_in (c : Nat) (p : Bool) (ws : List Word) :
    ∀ (s : State) (a : Nat), s.inScratch c a (4 * ws.length) = true →
      ((s.writeWords c a ws p).ts c).bytes a (4 * ws.length) = ws.flatMap fun w => leBytes 4 w.toNat := by
  induction ws with
  | nil => intro s a _; rfl
  | cons w rest ih =>
    intro s a h
    simp only [State.inScratch, List.length_cons, decide_eq_true_eq] at h
    have h1 : s.inScratch c a 4 = true := by simp only [State.inScratch, decide_eq_true_eq]; omega
    simp only [State.writeWords, List.length_cons, List.flatMap_cons]
    rw [if_pos h1, show 4 * (rest.length + 1) = 4 + 4 * rest.length by omega, bytes_add]
    congr 1
    · refine (bytes_eq_of_byte (u := ((s.ts c).setBytes a (leBytes 4 w.toNat))) fun b hb1 hb2 => ?_).trans ?_
      · rw [byte_writeWords_out _ _ _ _ _ _ (by omega), ts_outOfRange, ts_setTs, byte_setWords]
      · have e := bytes_setBytes_self (s.ts c) a (leBytes 4 w.toNat)
        rwa [length_leBytes] at e
    · refine ih _ _ ?_
      rw [inScratch_outOfRange, inScratch_setTs]
      simp only [State.inScratch, decide_eq_true_eq]; omega

end Sys2Proof.Machine
end

