-- ==== Sys2Proof/Tests/Slice0.lean ====
section
/-! SUPPORT. Tests of the model: ill-formed commands that the check refuses, single commands with results taken from the spec,
and for every statement that has hypotheses states and operands that meet them. -/

/-! ### States for the tests -/

namespace Sys2Proof.Tests

open Sys2Proof Sys2Proof.Machine

/-- A job with nothing in its image. -/
def tJob : JobSt :=
  { handle := 0, model := none, image := emptyImage, objs := [], peers := [], self := 0, entry := 0, runs := [],
    held := [none, none, none, none], waiting := false, started := true, startAt := none, ending := none }

/-- Partition 0 of cluster 0 in state `st` with a job. -/
def tPart (st : Nat) : State :=
  { (State.reset.put (TEN_PART_CTRL_STATE 0) st).put (TEN_PART_CL_MASK 0 0) 1 with jobs := [(0, tJob)] }

/-- A core whose active slot, slot 0, is ACTIVE. -/
def tCore : CoreSt := coreReset.setSlot 0 { slotReset with state := .active }

/-- A running job with core 0 ready to issue. -/
def tRun : State := (tPart psRunning).setCore 0 tCore


/-! ### Witnesses: states and operands that meet the hypotheses of the statements -/

def tV : VecF := { vd := 15, va := 1, vb := 2, fn := 0, cvt := 0, areg := 0, src := false, ring := 0, sa := 31, imm := 0 }
def tA : MoveF := { sd := 31, sa := 30, sb := 29, fn := 0, imm := 0 }
def tS : StatF := { ring := 0, src := false, areg := 7, dreg := 1, fmt := 10, rows := 0, len := 63 }

/-- A ring of two slots of one granule, its head slot full. -/
def tRing : RingDesc := { base := 0, gran := 1, slots := 2, producer := 1, consumer := 0, forward := none }
def tRingSt : RingSt := { ringReset with full := [true, false], tail := 1 }
/-- A running job whose core 0 has that ring as ring 15 of its active slot. -/
def tRings : State :=
  let x : SlotSt := { slotReset with
    state := .active, rings := [(15, tRingSt)],
    tables := { emptyTables with rings := List.replicate 15 { tRing with gran := 0 } ++ [tRing] } }
  tRun.setCore 0 (coreReset.setSlot 0 x)

theorem tRun_issues : tRun.canIssue 0 = true := by decide
theorem tRings_issues : tRings.canIssue 0 = true := by decide
theorem witness_vsfu : tRun.canIssue 0 = true ∧ (9 : BitVec 4).toNat ≤ 9 := by decide
theorem witness_vred : ∃ op, redFn 2 ((tRun.core 0).vreg 1).isInt = some op := ⟨_, rfl⟩
theorem witness_vbcast : tRun.scored 0 [31] = true := by decide
theorem witness_vld : ∃ g, LoadSlot tRun 0 false 15 g
    ∧ tRun.inScratch 0 (tRun.vecAddr 0 tV 10 g) (vecBytes 10) = true := ⟨none, rfl, by decide⟩
theorem witness_vld_ring : ∃ g, LoadSlot tRings 0 true 15 g := ⟨_, tRing, by decide, by decide, rfl⟩
/-- The last addresses of the tile store lie outside the scratchpad where the cache takes units of it. -/
def tHigh : State :=
  (tRun.put (tRun.atCore 0 ISL_CORE_TS_CACHE_UNITS) 4).setCore 0
    (coreReset.setSlot 0 { slotReset with state := .active, aregs := List.replicate 8 0x1FFFFF })
theorem witness_vld_out : tHigh.canIssue 0 = true
    ∧ tHigh.inScratch 0 (tHigh.vecAddr 0 tV 10 none) (vecBytes 10) = false := by decide
theorem witness_vst_ring : ∃ g, StoreSlot tRings 0 true 15 g := ⟨_, tRing, by decide, by decide, rfl⟩
theorem witness_vst : (cvtDfmt 0xA).toNat ≤ 10 ∧ tRun.inScratch 0 (tRun.vecAddr 0 tV (cvtDfmt 0xA) none) (vecBytes (cvtDfmt 0xA)) = true
    ∧ tHigh.inScratch 0 (tHigh.vecAddr 0 tV (cvtDfmt 0xA) none) (vecBytes (cvtDfmt 0xA)) = false := by decide

theorem witness_stat : StatSource tRun 0 tS 0 ∧ tRun.inScratch 0 0 (rowBytes 10 64) = true := by
  refine ⟨?_, by decide⟩
  unfold StatSource
  decide
theorem witness_stat_ring : StatSource tRings 0 { tS with src := true, ring := 15 } 0 := ⟨tRing, by decide⟩
theorem witness_scalar : slotReset.sregs.length = 32 ∧ slotReset.spois.length = 32 := by decide
theorem witness_alu : ∃ v, aluFn 12 ((tRun.core 0).slot.sreg 30) ((tRun.core 0).slot.sreg 29) = some v := ⟨_, rfl⟩
theorem witness_alui : ∃ v, aluFn 0 ((tRun.core 0).slot.sreg 30) 5 = some v ∧ tRun.scored 0 [30, 31] = true := ⟨_, rfl, by decide⟩
theorem witness_lds : tRun.inScratch 0 (tRun.wordAddr 0 tA) 4 = true ∧ tHigh.scored 0 [31] = true
    ∧ tHigh.inScratch 0 (tHigh.wordAddr 0 { tA with sa := 7 }) 4 = false := by decide
theorem witness_amov : tRun.scored 0 [30] = true ∧ (tRun.core 0).slot.spoison 30 = false := by decide
theorem witness_get : ∃ v, tRun.special 0 9 = some v ∧ tRun.scored 0 [31] = true := ⟨_, rfl, by decide⟩
theorem witness_get_low : ∃ v, tRun.special 0 0 = some v := ⟨_, rfl⟩
theorem witness_put : (6 : BitVec 32).toNat % 256 = 6 ∧ tRun.spoison 0 30 = false := by decide
theorem witness_sts : tRun.scored 0 [29] = true ∧ tRun.inScratch 0 (tRun.wordAddr 0 tA) 4 = true
    ∧ tHigh.inScratch 0 (tHigh.wordAddr 0 { tA with sa := 7 }) 4 = false := by decide
theorem witness_fill : tRun.scored 0 [30, 29] = true ∧ tRun.spoison 0 30 = false ∧ tRun.spoison 0 29 = false := by decide
/-- s30 = s29 = 64 and a31 = 128: one granule copied from granule 0 to granule 2. -/
def tCopy : State :=
  tRun.setCore 0 (coreReset.setSlot 0 { slotReset with state := .active, sregs := List.replicate 32 64, aregs := [128, 0, 0, 0, 0, 0, 0, 0] })
theorem witness_copy : tCopy.canIssue 0 = true ∧ min ((tCopy.sreg 0 29).toNat / 64) (tCopy.scratchEnd 0 / 64) = 1
    ∧ tCopy.inScratch 0 0 64 = true := by decide

def tF : FlowF := { sa := 31, sb := 30, target := 1023, count := 0 }
theorem witness_branch : tRun.scored 0 [tF.sa.val, tF.sb.val] = true ∧ (tRun.core 0).slot.spoison 31 = false
    ∧ (tRun.core 0).slot.spoison 30 = false ∧ tF.count.toNat = 0 ∧ { tF with count := 1 }.count.toNat ≠ 0 := by decide
/-- Slot 3 holds a program that is ready. -/
def tReady : State := tRun.setCore 0 (tCore.setSlot 3 { slotReset with state := .ready })
theorem witness_switch : tReady.canIssue 0 = true ∧ (3 : Slot).val ≠ (tReady.core 0).active
    ∧ ((tReady.core 0).slots.getD 3 slotReset).state = .ready ∧ (tReady.core 0).ladleQuiet = true
    ∧ (0 : Slot).val = (tReady.core 0).active := by decide
theorem witness_waits : tRun.tagsDone 0 0xFFFF = true ∧ (tRun.core 0).ladleQuiet = true
    ∧ (tRun.sreg 0 30).toNat * 2 ^ 32 + (tRun.sreg 0 31).toNat ≤ tRun.tide.now.toNat := by decide
theorem witness_rings : (tRings.core 0).slot.ringDesc 15 = some tRing ∧ 1 ≤ ((tRings.core 0).slot.ring 15).avail
    ∧ 1 ≤ ((tRings.core 0).slot.ring 15).free tRing := by decide
/-- A route of kind 0 at place 0 of the active slot. -/
def tRouteD : RouteDesc := { kind := 0, vroute := 0, listLen := 0, dkind := 0, dsel := 0, remote := false, rank := 0, peerRoute := 0, port := 0 }
def tRoute : State :=
  tRun.setCore 0 (coreReset.setSlot 0 { slotReset with state := .active, tables := { emptyTables with routes := [tRouteD] } })
theorem witness_rsel : tRoute.canIssue 0 = true ∧ (tRoute.core 0).slot.tables.routes[(0 : Nat)]? = some tRouteD
    ∧ tRoute.scored 0 [0] = true ∧ (tRoute.core 0).slot.spoison 0 = false := by decide
theorem witness_counters : tRun.scored 0 [31] = true ∧ tRun.spoison 0 31 = false := by decide
/-- A CTAKE into s31 waits at the counter bank, and the active slot's stream engine 3 is full. -/
def tHeld : State :=
  let x : Xfer := { id := 0, se := 3, tag := 0, kind := 0, slot := 0, laddr := 0, offset := 0, grans := 1, handle := 0,
                    cached := false, waits := 1, closed := false, data := [], lines := [] }
  (tRun.setCore 0 { tCore with xfers := List.replicate 16 x }).setCluster 0
    { (tRun.cluster 0) with ctrReqs := [{ core := 0, op := 0, ctr := 63, val := 0, sd := 31, slot := 0 }] }
theorem witness_held : tHeld.canIssue 0 = true ∧ tHeld.scored 0 [31] = false ∧ tHeld.scored 0 [0] = true
    ∧ tHeld.placeFree 0 3 = false ∧ tHeld.tagsDone 0 1 = false := by decide
theorem witness_held_rings : ((tRings.core 0).slot.ring 15).avail < 2 ∧ ((tRings.core 0).slot.ring 15).free tRing < 2
    ∧ (tRings.fifo 0 3).take = none := by decide
/-- A macro at the head of the ladle. -/
def tMatD : MatDesc :=
  { ringBacked := false, rowsLayout := true, base := 0, breg := 0, fmt := 10, rowsMax := 1, colsMax := 1, rstride := 1, ctr := 64, wreg := 0 }
def tMatF : MatF :=
  { adesc := 0, wring := 15, odesc := 1, afmt := 3, wfmt := 3, cvt := 0xA, tag := 0, sparse := 0, askip := false, walk := 0, dreg := 0 }
def tMacro : Macro :=
  { seq := 0, f := tMatF, acc := false, slot := 0, adesc := tMatD, odesc := tMatD, abase := 0, obase := 0, m := 1, tk := 1, tn := 1,
    wval := 0, pos := (0, 0, 0), released := 0, sums := [], spois := [], poisSeen := false, left := false, done := false }
theorem witness_held_ladle : (CoreSt.ladleQuiet { tCore with ladle := [tMacro] }) = false := by decide
theorem witness_idle_core : Instr.sequencer (.nop 5) = some 5 ∧ (Instr.nop 5).wf = true ∧ tRun.canIssue 5 = false := by decide

def tX : XferF := { route := 0, port := 3, areg := 0, len := 255, se := 3, tag := 15, sb := 31, desc := 0, imm := 0 }
/-- Routes: 0 within the package, 1 to a peer's rank 0, 2 with alternatives and the null one selected, 63 missing. -/
def tSend : State :=
  { (tRun.setCore 0 { (coreReset.setSlot 0 { slotReset with
      state := .active, rsel := [(2, none)],
      tables := { emptyTables with routes := [{ tRouteD with vroute := 7 }, { tRouteD with remote := true, peerRoute := 9 },
        { tRouteD with kind := 1, listLen := 2 }] } }) with sendCred := [(0, 256), (1, 256)] }) with
    jobs := [(0, { tJob with peers := [5] })] }
theorem witness_send : tSend.canIssue 0 = true ∧ tSend.dest 0 0 = .route 7 ∧ 256 ≤ tSend.credit 0 0 ∧ tSend.dest 0 2 = .null
    ∧ tSend.dest 0 63 = .missing ∧ tSend.scored 0 [31] = true := by decide
theorem witness_send_peer : tSend.dest 0 1 = .peer 5 9 ∧ 256 ≤ tSend.credit 0 1 := by decide
/-- A packet of two granules, the second with a bad word, waits in FIFO 3. -/
def tPacket : Packet := { route := 0, source := 0, grans := [plainGranule [1], plainGranule [2]], badWords := [15] }
def tRecv : State :=
  tRun.setCore 0 { tCore with fifos := List.replicate 3 fifoReset ++ [{ fifoReset with cope := [tPacket], fill := 1 }] }
theorem witness_recv : tRecv.canIssue 0 = true ∧ ∃ p x, (tRecv.fifo 0 3).take = some (p, x) ∧ p = tPacket :=
  ⟨by decide, _, _, rfl, rfl⟩
theorem witness_wput : tSend.placeFree 0 3 = true ∧ tSend.spoison 0 31 = false
    ∧ (tSend.core 0).slot.tables.routes[(0 : Nat)]? = some { tRouteD with vroute := 7 } ∧ tRouteD.dkind ≠ 2 := by decide
/-- A near object of two pages under object descriptor 0, and a handle no object has under descriptor 15. -/
def tObjD : ObjDesc := { slot := 0, handle := 0, cache := 0, write := true, first := 0, pages := 2 }
def tObj : TierObj :=
  { owner := none, cls := 1, mask := 1, pages := 2, committed := false, stack := some 0, near := [(0, 4096), (1, 4097)],
    mid := [], far := [], pins := [], heat := [], barred := [] }
def tObjs : State :=
  (tRun.setCore 0 (coreReset.setSlot 0 { slotReset with
    state := .active,
    tables := { emptyTables with objs := tObjD :: List.replicate 14 tObjD ++ [{ tObjD with handle := 5 }] } })).setHarbor 0
    { harborReset with objs := [(0, tObj)] }
theorem witness_tget : tObjs.canIssue 0 = true ∧ tObjs.placeFree 0 3 = true ∧ tObjs.obj 0 = some tObj ∧ tObj.sealed = false
    ∧ (tObjs.core 0).slot.tables.objs[(0 : Nat)]? = some tObjD ∧ tObjs.remoteOff 0 tX + 64 * 256 ≤ 65536 * tObjD.pages
    ∧ 65536 * tObjD.first + tObjs.remoteOff 0 tX + 64 * 256 ≤ 65536 * tObj.pages := by decide
theorem witness_tget_missing : (tObjs.core 0).slot.tables.objs[(15 : Nat)]? = some { tObjD with handle := 5 }
    ∧ tObjs.obj 5 = none := by decide
def tXfer (kind : Nat) (closed : Bool) : Xfer :=
  { id := 7, se := 0, tag := 0, kind := kind, slot := 0, laddr := 64, offset := 0, grans := 1, handle := 0, cached := false,
    waits := 0, closed := closed, data := [plainGranule [9]], lines := [] }
theorem witness_delivery : ((tRun.setCore 0 { tCore with xfers := [tXfer 0 false, tXfer 1 true] }).core 0).xfers[(1 : Nat)]?
      = some (tXfer 1 true) ∧ tRun.awaits (.core 0 7) = false ∧ (plainGranule [9]).wf = true
    ∧ tRun.inScratch 0 (64 * ((tXfer 1 false).laddr / 64)) 64 = true := by decide

/-- Descriptors 0 and 1, ring 15 with its head slot full. -/
def tMats : State :=
  let x : SlotSt := { slotReset with
    state := .active, rings := [(15, tRingSt)],
    tables := { emptyTables with mats := [{ tMatD with colsMax := 32 }, { tMatD with colsMax := 32 }],
                                 rings := List.replicate 15 { tRing with gran := 0 } ++ [tRing] } }
  tRun.setCore 0 (coreReset.setSlot 0 x)
theorem witness_mm : tMats.canIssue 0 = true ∧ matLegal tMatF = true
    ∧ (tMats.core 0).slot.tables.mats[tMatF.adesc.val]? = some { tMatD with colsMax := 32 }
    ∧ (tMats.core 0).slot.tables.mats[tMatF.odesc.val]? = some { tMatD with colsMax := 32 }
    ∧ (tMats.core 0).slot.ringDesc tMatF.wring = some tRing
    ∧ tMats.scored 0 (matRegs tMatF { tMatD with colsMax := 32 }) = true ∧ (tMats.core 0).queued.length < 2
    ∧ (∀ q ∈ matRegs tMatF { tMatD with colsMax := 32 }, tMats.spoison 0 q = false)
    ∧ (runShape tMatF { tMatD with colsMax := 32 } { tMatD with colsMax := 32 } (tMats.sreg 0 0)).1 ≤ 1
    ∧ (runShape tMatF { tMatD with colsMax := 32 } { tMatD with colsMax := 32 } (tMats.sreg 0 0)).2.1 ≤ 1
    ∧ (runShape tMatF { tMatD with colsMax := 32 } { tMatD with colsMax := 32 } (tMats.sreg 0 0)).2.2 ≤ 1 := by decide

/-- The ladle of core 0 holds `ms`, with steps `xs` in flight and output tiles `os`. -/
def tLadle (ms : List Macro) (xs : List StepRun) (os : List OutTile) : State :=
  tMats.setCore 0 { tMats.core 0 with ladle := ms, steps := xs, outs := os }
def tM : Macro := { tMacro with sums := List.replicate 4 0, spois := List.replicate 4 false }
def tStep : StepRun :=
  { macroSeq := 0, pos := (0, 0, 0), tile := 0, contrib := [], cpois := [], init := none, askips := 1, bskips := 2, mis := none,
    persist := false, recomputed := false, rerun := false }
def tOut : OutTile := { m := tM, s := 0, n := 0, sums := [], pois := [], rerun := false }

theorem witness_step : (tLadle [tM] [] []).ladleLive 0 = true ∧ (tLadle [tM] [] []).coreLive 0 = true
    ∧ ((tLadle [tM] [] []).core 0).preempt = false ∧ (((tLadle [tM] [] []).core 0).ladle.find? fun m => !m.done) = some tM
    ∧ ((tLadle [tM] [] []).core 0).hazard tM tM.pos = false ∧ ((tLadle [tM] [] []).core 0).outSlotFree tM = true
    ∧ ((tLadle [tM] [] []).core 0).tileSlot [] tM (tM.tileIx tM.pos) = some 0 := by decide
/-- No tile stands in ring 0, which has no slots. -/
def tMnone : Macro := { tM with f := { tMatF with wring := 0 } }
theorem witness_step_held : ((tLadle [tMnone] [] []).core 0).tileSlot [] tMnone (tMnone.tileIx tMnone.pos) = none := by decide
/-- An output of an earlier macro, unwritten, lies where the macro's first slab does; and a ring that no output fits in. -/
def tLater : Macro := { tM with seq := 5 }
theorem witness_step_hazard : ((tLadle [tLater] [] [tOut]).core 0).hazard tLater tLater.pos = true
    ∧ ((tLadle [tLater] [] [tOut]).core 0).outSlotFree tLater = true
    ∧ (((tLadle [tLater] [] [tOut]).core 0).tileSlot [] tLater (tLater.tileIx tLater.pos)).isSome = true := by decide
def tMfull : Macro := { tM with odesc := { tMatD with ringBacked := true }, obase := 20 }
theorem witness_step_full : ((tLadle [tMfull] [] []).core 0).hazard tMfull tMfull.pos = false
    ∧ ((tLadle [tMfull] [] []).core 0).outSlotFree tMfull = false
    ∧ (((tLadle [tMfull] [] []).core 0).tileSlot [] tMfull (tMfull.tileIx tMfull.pos)).isSome = true := by decide
theorem witness_step_unarmed : (tLadle [tM] [] []).armedFor 0 ((tLadle [tM] [] []).slabRows 0 tM 0 0)
    (parseTile 3 0 (((tLadle [tM] [] []).ts 0).granules 0 1)) = false := by decide
theorem witness_pass : (tLadle [tM] [tStep] []).ladleLive 0 = true ∧ ((tLadle [tM] [tStep] []).core 0).steps = [tStep]
    ∧ tStep.mis = none ∧ (((tLadle [tM] [tStep] []).core 0).ladle.find? fun m => decide (m.seq = tStep.macroSeq)) = some tM := by
  decide
theorem witness_mismatch : tStep.recomputed = false ∧ tStep.rerun = false ∧ tOut.rerun = false
    ∧ ((tLadle [tM] [tStep] [tOut]).core 0).outs = [tOut] := by decide
theorem witness_write : (tLadle [tM] [] [tOut]).corePart 0 = some 0 ∧ lookup (tLadle [tM] [] [tOut]).jobs 0 = some tJob
    ∧ tJob.ending = none ∧ tOut.m.odesc.ringBacked = false
    ∧ (((tLadle [tM] [] [tOut]).core 0).slots.getD 0 slotReset).ringDesc 15 = some tRing := by decide
def tOutRing : OutTile := { tOut with m := { tM with odesc := { tMatD with ringBacked := true }, obase := 15 } }
theorem witness_write_ring : tOutRing.m.odesc.ringBacked = true
    ∧ (((tLadle [tM] [] [tOutRing]).core 0).slots.getD 0 slotReset).ringDesc tOutRing.m.obase = some tRing := by decide
/-- Its second tile lies outside the run-time shape. -/
def tDrop : Macro := { tM with adesc := { tMatD with colsMax := 64 }, odesc := { tMatD with colsMax := 32 }, released := 1 }
theorem witness_drop : (tLadle [tDrop] [] []).ladleLive 0 = true ∧ tDrop.released < tDrop.tiles
    ∧ tDrop.dropped tDrop.released = true ∧ (CoreSt.tileSlot ((tLadle [tDrop] [] []).core 0) [] tDrop tDrop.released).isSome = true := by
  decide

/-- Slot 0 ACTIVE with a switch to slot 3, READY, decided; the same with a debug halt. -/
def tSwitch : State := tRun.setCore 0 { (tCore.setSlot 3 { slotReset with state := .ready }) with switchTo := some 3, dbgStop := true }
theorem witness_switches : (tSwitch.core 0).switchTo = some 3 ∧ 3 ≠ (tSwitch.core 0).active ∧ 3 < (tSwitch.core 0).slots.length
    ∧ (tSwitch.core 0).active < (tSwitch.core 0).slots.length ∧ ((tSwitch.core 0).slots.getD 3 slotReset).state = .ready
    ∧ (tSwitch.core 0).ladleQuiet = true ∧ (tSwitch.core 0).preempt = false ∧ (tSwitch.core 0).slot.state = .active
    ∧ (tSwitch.core 0).dbgStop = true := by decide
theorem witness_switch_idle : (tRun.core 5).slot.state ≠ .active := by decide
def tSaving : State :=
  { (tPart psSaving).setCore 0 tCore with
    saves := [{ part := 0, handles := [none, none, none, none], group := false, tick := 0, stopped := false, moved := false }] }
theorem witness_preempt : tSaving.corePart 0 = some 0 ∧ tSaving.stopsNow 0 = true := by decide
/-- A ring in slot 1 fed by a pour (producer 0), by its neighbour (1) and by remote cores (2): rings 0, 1, 2 of two slots of two
granules, with forwards over route 0; the first slot of ring 1 is full. -/
def tRing2 (p : Nat) : RingDesc := { base := 16 * p, gran := 2, slots := 2, producer := p, consumer := 0, forward := some 0 }
def tFull : RingSt := { ringReset with full := [true, false], tail := 1, credits := 1, forwarded := 1, delivered := 0, due := 1 }
def tRunner (v : RingSt) : State :=
  tRun.setCore 0 (tCore.setSlot 1 { slotReset with
    state := .ready, rings := [(0, v), (1, v), (2, v)],
    tables := { emptyTables with rings := [tRing2 0, tRing2 1, tRing2 2], routes := [tRouteD] } })
theorem witness_runner_fill : (((tRunner tFull).core 0).slots.getD 1 slotReset).ringDesc 2 = some (tRing2 2) ∧ (tRunner tFull).absorbs 0 = false
    ∧ tFull.full.getD tFull.tail false = false ∧ 1 + 1 = (tRing2 2).gran ∧ (plainGranule []).wf = true
    ∧ (tRunner tFull).inScratch 0 (64 * ((tRing2 2).slotGran 1 + 1)) 64 = true := by decide
theorem witness_fill_dropped : { tFull with full := [true, true] }.full.getD tFull.tail false = true ∧ (tRing2 0).gran < 1 + 2 := by decide
theorem witness_forward : (tRunner { tFull with forwarded := 0 }).fenced 0 = false ∧ (tRing2 1).forward = some 0
    ∧ (((tRunner tFull).core 0).slots.getD 1 slotReset).tables.routes[(0 : Nat)]? = some tRouteD
    ∧ { tFull with forwarded := 0 }.forwarded < { tFull with forwarded := 0 }.count ∧ 0 < { tFull with forwarded := 0 }.credits
    ∧ tFull.delivered < tFull.forwarded ∧ 0 < tFull.due ∧ (tRing2 1).producer = 1 ∧ (tRing2 2).producer = 2 := by decide
/-- A window over every granule open to every sender, in WINDOW mode. -/
def tWin : State :=
  ((tRun.setFlag (tRun.atCore 0 ISL_CORE_TS_WMODE) true).setFlag (tRun.atCore 0 ISL_CORE_TS_TEST) false).setCore 0
    (tCore.setSlot 0 { slotReset with state := .active, tables := { emptyTables with
      wins := [{ base := 0, limit := 0x7FFF, sndBase := 0, sndMask := 0xFFF, scope := true, bind := true }] } })
theorem witness_window : tWin.absorbs 0 = false ∧ tWin.windowMode 0 = true ∧ tWin.windowAdmits 0 0xFFF true 0x7FFF 1 = true
    ∧ tWin.windowAdmits 0 0xFFF true 0x7FFF 2 = false := by decide
/-- Credit entry 3 grants sender 7 two granules from granule 5. -/
def tCredit : State :=
  ((((tRun.setFlag (tRun.atCore 0 ISL_CORE_TS_WMODE) false).put (tRun.atCore 0 fun i k j => ISL_CORE_WCRED_BASE i k j 3) 5).put
    (tRun.atCore 0 fun i k j => ISL_CORE_WCRED_LEN i k j 3) 2).put (tRun.atCore 0 fun i k j => ISL_CORE_WKEY_GRANT_LEN i k j 3) 2).put
    (tRun.atCore 0 fun i k j => ISL_CORE_WKEY_SENDER i k j 3) 7 |>.setFlag (tRun.atCore 0 fun i k j => ISL_CORE_WCRED_VALID i k j 3) true
theorem witness_credit : tCredit.windowMode 0 = false ∧ tCredit.creditAdmits 0 3 7 6 1 = true
    ∧ (∀ e : Fin 4, e < 3 → tCredit.creditAdmits 0 e 7 6 1 = false) ∧ (∀ e : Fin 4, tCredit.creditAdmits 0 e 7 6 2 = false) := by decide
theorem witness_grant : tCredit.flag (tCredit.atCore 0 ISL_CORE_TS_WMODE) = false
    ∧ (0x6FFF : BitVec 15).toNat + (1 : BitVec 15).toNat ≤ tCredit.scratchEnd 0 / 64 ∧ (0x6FFF : BitVec 15).toNat < tCredit.scratchEnd 0 / 64
    ∧ tWin.flag (tWin.atCore 0 ISL_CORE_TS_WMODE) = true
    ∧ tWin.get (tWin.atCore 0 fun i k j => ISL_CORE_WCRED_LEN i k j 0) ≠ (1 : BitVec 15).toNat := by decide
def tInProg : State := tRun.setCore 0 { tCore with fifos := List.replicate 4 { fifoReset with inProg := some (3, 9, 128) } }
theorem witness_packet : tRun.absorbs 0 = false ∧ (tRun.fifo 0 3).inProg = none ∧ packetGrans (tRun.fifo 0 3).filling + 128 ≤ 128
    ∧ (tInProg.fifo 0 3).inProg = some (3, 9, 128) ∧ (tInProg.fifo 0 3).testHeld = none ∧ (tInProg.fifo 0 3).held = none := by decide
theorem witness_test_write : (tRun.setFlag (tRun.atCore 0 ISL_CORE_TS_TEST) true).flag (tRun.atCore 0 ISL_CORE_TS_TEST) = true
    ∧ (tRun.fifo 0 0).held = none ∧ packetGrans (tRun.fifo 0 0).filling + 1 ≤ 128 := by decide

/-- A cached TGET of core 0 that wants line 5 of object 0, and a cached TPUT; the cache holds one unit. -/
def tWants (kind : Nat) (ls : List CLine) : State :=
  (tRun.put (tRun.atCore 0 ISL_CORE_TS_CACHE_UNITS) 1).setCore 0 { tCore with
    cache := ls,
    xfers := [{ id := 1, se := 0, tag := 0, kind := kind, slot := 0, laddr := 0, offset := 320, grans := 1, handle := 0, cached := true,
                waits := 0, closed := false, data := [poisonGranule], lines := [] }] }
def tLine (m : Bool) : CLine := { handle := 0, line := 5, set_ := 5, way := 0, modified := m, gran := plainGranule [1] }
theorem witness_gets : ((tWants 1 []).core 0).xfers.any (fun x => x.wants 0 5 && decide (x.kind = 2) == false) = true
    ∧ ((tWants 1 []).core 0).line 0 5 = none ∧ ((tWants 1 []).core 0).lineReq 0 5 = none ∧ 0 < (tWants 1 []).sets 0 := by decide
theorem witness_getm : ((tWants 2 [tLine false]).core 0).xfers.any (fun x => x.wants 0 5 && decide (x.kind = 2) == true) = true
    ∧ ((tWants 2 [tLine false]).core 0).line 0 5 = some (tLine false) ∧ (tLine false).modified = false := by decide
/-- A full set, whose first line is the victim. -/
def tSet (m : Bool) : State :=
  let ls : List CLine := (List.range 8).map fun w => { tLine m with line := 5 + 1024 * w, way := w }
  (tRun.put (tRun.atCore 0 ISL_CORE_TS_CACHE_UNITS) 1).setCore 0 { tCore with
    cache := ls, lineReqs := [{ handle := 0, line := 5 + 1024 * 8, write := false, supply := none, fwd := none, invs := [], acks := 0 }] }
theorem witness_victim : ∃ n < 8, ∃ l, ((tSet true).core 0).line 0 (5 + 1024 * n) = some l ∧ l.modified = true
    ∧ (tSet true).isVictim 0 l = true ∧ ((tSet true).cluster 0).wb.length + (((tSet true).cluster 0).dirReqs.filter fun r => decide (r.kind = 3)).length < 16 :=
  ⟨0, by decide, _, rfl, rfl, by decide, by decide⟩
theorem witness_victim_clean : ∃ l, ((tSet false).core 0).line 0 5 = some l ∧ l.modified = false ∧ (tSet false).isVictim 0 l = true :=
  ⟨_, rfl, rfl, by decide⟩
/-- One request of core 15 of cluster 0 at the directory, for a line in state `st`. -/
def tReq (kind : Nat) : DirReq := { kind := kind, core := 15, handle := 0, line := 5, gran := poisonGranule, at_ := 1 }
def tLineReq (w : Bool) : LineReq := { handle := 0, line := 5, write := w, supply := none, fwd := none, invs := [], acks := 0 }
def tDir (kind : Nat) (st : Option DirState) : State :=
  (tRun.setCore 15 { coreReset with lineReqs := [tLineReq (kind == 1)] }).setCluster 0 { tRun.cluster 0 with
    dirReqs := [tReq kind], lines := match st with | none => [] | some d => [{ handle := 0, line := 5, st := d }] }
theorem witness_directory : ∀ kind < 4, chooseReq (firstArrived ((tDir kind none).cluster 0).dirReqs 0 5)
      ((tDir kind none).get ((tDir kind none).atCluster 0 ISL_DIR_STATUS_RR_PTR)) = some (tReq kind)
    ∧ ((tDir kind none).cluster 0).wb = [] ∧ ((tDir kind none).core 15).lineReq 0 5 = some (tLineReq (kind == 1)) := by decide
theorem witness_directory_lines : ((tDir 0 none).cluster 0).dirLine 0 5 = none
    ∧ ((tDir 2 (some (.shared [15, 1]))).cluster 0).dirLine 0 5 = some (.shared [15, 1])
    ∧ ((tDir 3 (some (.modified 15))).cluster 0).dirLine 0 5 = some (.modified 15) := by decide
/-- Core 1 holds the line; core 0 awaits its acknowledgement or its data. -/
def tPeer (q : LineReq) : State :=
  (tRun.setCore 0 { tCore with lineReqs := [q] }).setCore 1 { coreReset with cache := [tLine true] }
theorem witness_inv : ((tPeer { tLineReq true with invs := [1] }).core (peerOf 1 0)).lineReq 0 5 = some { tLineReq true with invs := [1] }
    ∧ [1].contains (ixOf 1) = true := by decide
theorem witness_forward_line : ((tPeer { tLineReq false with fwd := some 1 }).core (peerOf 1 0)).lineReq 0 5
      = some { tLineReq false with fwd := some 1 } ∧ ((tPeer (tLineReq true)).core 1).line 0 5 = some (tLine true) := by decide
def tFilled : LineReq := { tLineReq false with supply := some (plainGranule [3]) }
def tData : State :=
  (tRun.put (tRun.atCore 0 ISL_CORE_TS_CACHE_UNITS) 1).setCore 0 { tCore with lineReqs := [tFilled] }
theorem witness_data : (tData.core 0).lineReq 0 5 = some tFilled ∧ (tData.core 0).line 0 5 = none
    ∧ ((tData.core 0).freeWay (5 % tData.sets 0)).isSome = true ∧ (tData.core 0).xfers.any (fun x => x.wants 0 5) = false := by decide
theorem witness_bank : (tRun.setCluster 0 { tRun.cluster 0 with ctrReqs :=
      [{ core := 0, op := 0, ctr := 63, val := 1, sd := 31, slot := 0 }, { core := 1, op := 2, ctr := 63, val := 1, sd := 0, slot := 0 }] }).get
        (tRun.atCluster 0 fun i c => ISL_CTR_LIM_LIMIT i c 63) ≤ tRun.get (tRun.atCluster 0 fun i c => ISL_CTR_VAL_VALUE i c 63)
    ∧ (tRun.put (tRun.atCluster 0 fun i c => ISL_CTR_LIM_LIMIT i c 63) 5).get (tRun.atCluster 0 fun i c => ISL_CTR_VAL_VALUE i c 63) + 1
      < (tRun.put (tRun.atCluster 0 fun i c => ISL_CTR_LIM_LIMIT i c 63) 5).get (tRun.atCluster 0 fun i c => ISL_CTR_LIM_LIMIT i c 63)
    ∧ ixOf 1 ≠ ixOf 0 := by decide
/-- A round of one member, one token and four experts, gathered and not. -/
def tRound : RoundDesc :=
  { model := 0, e := 4, k := 1, cand := 1, bf16 := false, gate := 0, renorm := false, members := [0], tok := 1, decBase := 0 }
def tRouter (rs : List ScoreRound) : State :=
  tRun.setCluster 0 { tRun.cluster 0 with routers := [(3, { descs := [(7, tRound)], experts := [], stations := [], rounds := [(7, rs)] })] }
def tDone : ScoreRound := { grans := [(0, plainGranule [])] }
theorem witness_router : lookup (((tRouter []).cluster 0).router 3).descs 7 = some tRound ∧ tRound.members.contains (ixOf 0) = true
    ∧ (tRouter []).absorbs 0 = false ∧ tRound.complete { grans := [] } = false ∧ tRound.complete tDone = true
    ∧ (tRouter [tDone]).partRuns 0 = true ∧ lookupD (((tRouter [tDone, tDone]).cluster 0).router 3).rounds 7 [] = [tDone, tDone] := by decide
theorem witness_router_inv : (tRouter [tDone]).Inv := by unfold State.Inv; decide

def tHub : State := { State.reset with pads := { State.reset.pads with hubRail := true } }
def tLocked : State := tHub.setFlag HUB_CLK_STATUS_PLL_LOCK true
def tTide (td : TideSt) (s : State) : State := { s with tide := td }
def tTicks : TideSt := { now := 5000, running := true, loadAt := some 5003, slewAt := some 3976, toGo := 1 }
theorem witness_clocks : tHub.pads.hubRail = true ∧ tLocked.flag HUB_CLK_STATUS_PLL_LOCK = true
    ∧ tLocked.flag HUB_CLK_STATUS_DESKEW_DONE = false := by decide
theorem witness_tide_load : ((tTide tTicks tHub).setFlag HUB_TIDE_CTRL_LOAD_ARM true).tide.running = true
    ∧ ((tTide tTicks tHub).setFlag HUB_TIDE_CTRL_LOAD_ARM true).flag HUB_TIDE_CTRL_LOAD_ARM = true
    ∧ (tTide tTicks tHub).anyJob = false ∧ (tTide tTicks tRun).anyJob = true ∧ tTicks.loadAt = some 5003 := by decide
theorem witness_tide_slew : ((tTide tTicks tHub).setFlag HUB_TIDE_CTRL_SLEW_EN true).flag HUB_TIDE_CTRL_SLEW_EN = true
    ∧ tTicks.toGo ≠ 0 ∧ (3976 : DWord).toNat + 1024 ≤ tTicks.now.toNat := by decide
/-- Island 15 ramped, at step code `n`, with the hold of faster steps already passed. -/
def tGov (n : Nat) : State :=
  ((tTide tTicks State.reset).setIsl 15 { (State.reset.isl 15) with railUp := true, coolFor := 255 }).put (ISL_GOV_STATUS_STEP 15) n
theorem witness_governor : (tGov 2).tide.running = true ∧ ((tGov 2).isl 15).railUp = true
    ∧ (tGov 2).flag (ISL_GOV_STATUS_DROOP_HOLD 15) = false
    ∧ (tGov 0).get (ISL_GOV_STATUS_STEP 15) < max ((tGov 0).ceiling 15 (hottest [115]).1) ((tGov 0).capCode 15)
    ∧ max ((tGov 0).ceiling 15 (hottest [115]).1) ((tGov 0).capCode 15) ≤ 4
    ∧ max ((tGov 4).ceiling 15 (hottest [20]).1) ((tGov 4).capCode 15) < (tGov 4).get (ISL_GOV_STATUS_STEP 15)
    ∧ (tGov 4).get (ISL_GOV_CTRL_UP_HOLD 15) ≤ ((tGov 4).isl 15).coolFor + 1 := by decide
theorem witness_governor_release : ∀ th, (tGov 4).release 15 4 = some th → (hottest [20]).1 + ((tGov 4).get (ISL_GOV_CTRL_HYST_C 15) : Int) ≤ th := by
  intro th h
  cases h
  decide
theorem witness_governor_waits : 0 + 1 < State.reset.get (ISL_GOV_CTRL_UP_HOLD 15) := by decide
theorem witness_droop : ((tGov 2).setFlag (ISL_GOV_CTRL_STRETCH_EN 15) false).flag (ISL_GOV_CTRL_STRETCH_EN 15) = false
    ∧ ((tGov 2).setFlag (ISL_GOV_CTRL_STRETCH_EN 15) true).flag (ISL_GOV_CTRL_STRETCH_EN 15) = true
    ∧ ((tGov 2).setFlag (ISL_GOV_STATUS_STRETCHING 15) true).flag (ISL_GOV_STATUS_STRETCHING 15) = true := by decide
/-- Two cores whose fences of cluster scope differ in what they wait for. -/
def tFence (sends : Nat) : State :=
  (((tRun.put (TEN_PART_CL_MASK 0 0) 1).setCore 0 { tCore with fence := some 1 }).overCores 0 fun s d =>
    s.setCore d { s.core d with fence := some 1 }).setCore 15 { coreReset with fence := some 1, sends := sends }
theorem witness_fence : ((tFence 0).core 0).fence = some 1 ∧ (tFence 0).fenceParts 0 1 ≠ []
    ∧ (∀ d ∈ (tFence 0).fenceParts 0 1, ((tFence 0).core d).gathered 1 = true) := by decide
theorem witness_fence_waits : 15 ∈ (tFence 1).fenceParts 0 1 ∧ ((tFence 1).core 15).gathered 1 = false := by decide
theorem witness_fence_notice : ((tRun.setCore 0 { tCore with fence := some 1, fenceTick := some 7 }).core 0).fenceTick = some 7 := by decide

/-- The package at a phase of a start, its standby rail and pads good, with the count of failed starts. -/
def tPhase (p : Nat) : State :=
  { State.reset.put MGT_BOOT_STATUS_PHASE p with
    pads := { State.reset.pads with vstbyGood := true, pwrOk := true, vin12Good := true, hubRail := true, coolOkL := false },
    exk := { State.reset.exk with powered := true, fwRunning := true } }
def tFailed (n : Nat) (s : State) : State := { s with exk := { s.exk with failCount := n } }
theorem witness_failed : (tPhase phHub).starting = true ∧ (tFailed 2 (tPhase phHub)).exk.failCount < 3
    ∧ 3 ≤ (tFailed 3 (tPhase phHub)).exk.failCount ∧ (tPhase phHub).phase = phHub ∧ (tPhase phHub).pads.hubRail = true
    ∧ (tPhase phHub).flag HUB_CLK_STATUS_PLL_LOCK = false ∧ ((tPhase phHub).setFlag HUB_CLK_STATUS_PLL_LOCK true).starting = true
    ∧ ((tPhase phHub).setFlag HUB_CLK_STATUS_PLL_LOCK true).phase = phHub := by decide
/-- One port enabled, none UP, one wanted. -/
def tLink : State :=
  ((tPhase phLink).setFlag (RVR_PORT_CTRL_EN 15) true).put MGT_BOOT_CFG_MIN_PORTS 1 |>.put MGT_BOOT_FAB_PRESENT 1
theorem witness_link_fails : tLink.starting = true ∧ tLink.phase = phLink
    ∧ (tLink.enabledPorts.filter fun p => decide (tLink.get (RVR_PORT_STATUS_STATE p) = ptUp)).length
      < tLink.get MGT_BOOT_CFG_MIN_PORTS := by decide
theorem witness_power : State.reset.pads.vstbyGood = false ∧ (tPhase phReady).pads.vstbyGood = true ∧ (tPhase phReady).ready = true
    ∧ ((tPhase phMinimal).setFlag MGT_BOOT_STATUS_MINIMAL true).minimal = true := by decide
def tWait : State := { tPhase phOff with boot := { State.reset.boot with waitPower := true, waitCool := true } }
theorem witness_power_returns : tWait.boot.waitPower = true ∧ tWait.pads.vin12Good = true ∧ tWait.pads.pwrOk = true
    ∧ (tPhase phReady).boot.waitPower = false ∧ (tPhase phReady).phase ≠ phHub := by decide
def tWarmPads (s : State) : State := { s with pads := { s.pads with coolOkL := true } }
theorem witness_coolant : tWait.boot.waitCool = true ∧ (tPhase phReady).boot.waitCool = false
    ∧ (tWarmPads (tPhase phWaves)).pads.coolOkL = true ∧ (tWarmPads (tPhase phWaves)).starting = true
    ∧ phHarbor ≤ (tWarmPads (tPhase phWaves)).phase ∧ (tWarmPads (tPhase phReady)).ready = true := by decide
/-- A start in which every test passes. -/
def tBootOk : BootResult :=
  { fabOk := 0xFFFF, stackFail := 0, midAbsent := 0, midTrainFail := 0, oeFail := 0, coreFail := [(15, 143)], anneal := [],
    nearRetired := [], midBad := [], ftlNone := 0xF, ms := 10 }
theorem witness_phases : (tPhase phExk).phase = phExk ∧ (tPhase phExk).exk.preferred < 2
    ∧ ((tPhase phHub).setFlag HUB_CLK_STATUS_DESKEW_DONE true).flag HUB_CLK_STATUS_DESKEW_DONE = true
    ∧ (tPhase phFabric).phase = phFabric ∧ (tPhase phWaitCool).phase = phWaitCool ∧ (tPhase phWaitCool).pads.coolOkL = false
    ∧ (tPhase phHarbor).phase = phHarbor ∧ tBootOk.stackFail = 0 ∧ tBootOk.midTrainFail = 0 ∧ tBootOk.oeFail = 0
    ∧ (tPhase phIslTest).phase = phIslTest ∧ ((tPhase phIslTest).setIsl 15 { State.reset.isl 15 with railUp := true }).phase = phIslTest := by
  decide
theorem witness_phases_later : { tPhase phWaves with boot := { State.reset.boot with wave := 4 } }.boot.wave = 4
    ∧ (tPhase phNear).phase = phNear ∧ tBootOk.nearRetired = [] ∧ (∀ h < 4, ∀ k < 3, (tPhase phNear).stackRetired h k ≤ 4096)
    ∧ (tPhase phMid).phase = phMid ∧ tBootOk.midAbsent = 0 ∧ tBootOk.midBad = [] ∧ (tPhase phFtl).phase = phFtl
    ∧ (∀ h < 4, bit tBootOk.ftlNone.toNat h = true) := by decide
def tLinkUp : State := (List.range 16).foldl (fun s p => s.put (RVR_PORT_STATUS_STATE p) ptUp) tLink
set_option maxRecDepth 8000 in
theorem witness_phase_ready : tLinkUp.phase = phLink ∧ tLinkUp.linksSettled = true ∧ tLinkUp.get MGT_BOOT_FAB_PRESENT ≠ 0
    ∧ tLinkUp.get MGT_BOOT_CFG_MIN_PORTS
      ≤ (tLinkUp.enabledPorts.filter fun p => decide (tLinkUp.get (RVR_PORT_STATUS_STATE p) = ptUp)).length := by decide
theorem witness_waves : (tPhase phWaves).phase = phWaves ∧ (tPhase phWaves).boot.wave < 4 ∧ (tPhase phWaves).pads.coolOkL = false
    ∧ (∃ i : Island, waveOf i = 0 ∧ (tPhase phWaves).mayRamp i = true) ∧ (∃ i : Island, waveOf i ≠ 0) := by decide
def tRamped : State := { tPhase phWaves with boot := { State.reset.boot with wave := 4 } }.setIsl 15 { State.reset.isl 15 with railUp := true }
theorem witness_soft_start : tRamped.phase = phWaves ∧ (tRamped.isl 15).railUp = true ∧ waveOf 15 < tRamped.boot.wave
    ∧ tRamped.mayRamp 15 = true := by decide
theorem witness_boot_commands : (tPhase phReady).bootOpen = true ∧ (tPhase phHub).bootOpen = false
    ∧ bootCfgOf ((tPhase phReady).reg MGT_BOOT_CFG) = (tPhase phReady).reg MGT_BOOT_CFG ∧ bootCfgOf 0xFFFFFFFF ≠ 0xFFFFFFFF
    ∧ (tPhase phRetry).phase = phRetry ∧ (tPhase phHub).ready = false := by decide

def tHarbor (x : HarborSt) (s : State) : State := s.setHarbor 3 x
/-- A station of one feeder, cluster 5, that the job's image describes. -/
def tStation (rs : List (Nat × List (Nat × Nat × Bool))) : FerryStation := { part := 0, sid := 255, reports := rs, pouring := [], tile := 0 }
def tStationRec : Station :=
  { sid := 255, ferry := true, cluster := 0, members := [], arrBase := 0, rowGran := 1, capacity := 1, retBase := 0, harbor := 3,
    manBase := 0, feeders := [5] }
def tFerry : State :=
  { tHarbor { harborReset with stations := [tStation [(5, [(1023, 4095, true)])]], rounds := 2 ^ 16 } tRun with
    jobs := [(0, { tJob with image := { emptyImage with flasks := [{ emptyFlask with stations := [tStationRec] }] } })] }
theorem witness_station : (tFerry.harbor 3).station 0 255 = some (tStation [(5, [(1023, 4095, true)])])
    ∧ tFerry.stationRec 3 0 255 = some tStationRec
    ∧ firstReports [(5, [(1023, 4095, true)])] tStationRec.feeders = some [(5, [(1023, 4095, true)])]
    ∧ 2 ^ tFerry.get (HBR_FERRY_CTRL_HALF_LIFE_LOG2 3) ≤ (tFerry.harbor 3).rounds := by decide
def tFetch (running : Bool) : FerryFetch :=
  { model := 1023, expert := 4095, version := 0, home := 9, handle := 5, pages := 1, part := 0, running := running, bypass := false,
    lost := false, told := false, landed := [], frames := [8192], heat := 0 }
def tFetching (running : Bool) : State := tHarbor { harborReset with fetches := [tFetch running] } tRun
theorem witness_fetch : leastBy (fun (f : FerryFetch) => 4096 * f.model + f.expert)
      (((tFetching false).harbor 3).fetches.filter fun f => !f.running && f.landed.isEmpty && !f.lost) = some (tFetch false)
    ∧ (((tFetching false).harbor 3).fetches.filter fun g => g.running).length < (tFetching false).get (HBR_FERRY_CTRL_MAX_INFLIGHT 3)
    ∧ ((tFetching false).setFlag (HBR_FERRY_CTRL_EN 3) false).flag (HBR_FERRY_CTRL_EN 3) = false := by decide
/-- A ferry cache of two pages, one of them held for the fetch. -/
def tCache : State :=
  (((tFetching false).setFlag (HBR_FERRY_CTRL_EN 3) true).put (HBR_FERRY_CACHE_BASE_BASE_PAGE 3) 8192).put (HBR_FERRY_CACHE_PAGES_PAGES 3) 2
theorem witness_fetch_cached : tCache.flag (HBR_FERRY_CTRL_EN 3) = true ∧ (tFetch false).pages ≤ (tCache.ferryFree 3).length := by decide
/-- Port 15 is UP, and message 65,535 of endpoint 9 is expected on both channels. -/
def tUp (s : State) : State :=
  { s.put (RVR_PORT_STATUS_STATE 15) ptUp with ravor := { s.ravor with expected := [(36, 65535), (37, 65535)] } }
set_option maxRecDepth 8000 in
theorem witness_ferry_req : (tUp tRun).linked = true ∧ lookup (tUp tRun).ravor.expected (4 * 9 + 0) = some 65535
    ∧ (tUp (tHarbor { harborReset with objs := [(0, tObj)] } tRun)).obj 0xC0000000 = some tObj ∧ harborOf 0xC0000000 = 3 := by decide
set_option maxRecDepth 8000 in
theorem witness_ferry_data : lookup (tUp (tFetching true)).ravor.expected (4 * 9 + 1) = some 65535
    ∧ ((tUp (tFetching true)).harbor 3).fetchOf 1023 4095 = some (tFetch true) ∧ (tFetch true).running = true
    ∧ (tFetch true).home = 9 ∧ (tFetch true).lost = false ∧ (tFetch true).told = false ∧ (tFetch true).part < 128
    ∧ 1024 * (tFetch true).pages ≤ { tFetch true with landed := List.replicate 768 (plainGranule []) }.landed.length + 256 := by decide
/-- Entry 4,095 of model 1,023 stands in the registry and is written anew. -/
def tRegistry : State :=
  { (State.reset.put HUB_EXR_IDX_MODEL 1023).put HUB_EXR_IDX_EXPERT 4095 with registry := [(exrKey 1023 4095, 7)] }
theorem witness_registry : lookup tRegistry.registry (exrKey tRegistry.exrIndex.1 tRegistry.exrIndex.2) = some 7
    ∧ bitsOf tRegistry.exrWords 18 2 ≠ 3 ∧ bitsOf tRegistry.exrWords 21 11 = 0 ∧ bitsOf tRegistry.exrWords 112 16 = 0
    ∧ tRegistry.boundLocal 1023 4095 = false := by decide

/-- Object 0 of harbor 3 as the argument of an object command. -/
def tCmd (o : TierObj) (a1 a2 : Nat) : State :=
  (((tHarbor { harborReset with objs := [(0, o)] } State.reset).put (HBR_OBJ_ARG_ARG 3 0) 0xC0000000).put (HBR_OBJ_ARG_ARG 3 1) a1).put
    (HBR_OBJ_ARG_ARG 3 2) a2
def tWeight : TierObj := { tObj with cls := 0, mask := 1, stack := some 0 }
theorem witness_object : (tCmd tObj 0 0).flag (HBR_OBJ_STATUS_BUSY 3) = false ∧ ((tCmd tObj 0 0).harbor 3).runs = []
    ∧ (tCmd tObj 0 0).objFor 3 0xC0000000 none = some tObj ∧ tObj.cls ≠ 0 ∧ (tCmd tWeight 0 0).objFor 3 0xC0000000 none = some tWeight
    ∧ tWeight.cls = 0 ∧ bit tWeight.mask 2 = false ∧ (tCmd tObj 0 0).get (HBR_OBJ_ARG_ARG 3 1) = 0 := by decide
/-- CREATE of a near object of one page, and of none. -/
def tMake (pages : Nat) : State :=
  ((State.reset.put (HBR_OBJ_ARG_ARG 3 0) (2 ^ 12 + 2 ^ 13 + 2 ^ 16)).put (HBR_OBJ_ARG_ARG 3 1) pages).put (HBR_OBJ_ARG_ARG 3 2) 0
theorem witness_create : (((tMake 1).setFlag (HBR_OBJ_STATUS_BUSY 3) true).setHarbor 3 { harborReset with runs := [] } |>.objCreate 3
      (2 ^ 12 + 2 ^ 13 + 2 ^ 16) 1 0 none).isSome = true
    ∧ ((tMake 0).setHarbor 3 harborReset).objCreate 3 (2 ^ 12 + 2 ^ 13 + 2 ^ 16) 0 0 none = none := by decide
def tAway : TierObj := { tObj with near := [(0, 4096)], mid := [(1, 7)], mask := 3, heat := [(1, 200)] }
theorem witness_stage : (tCmd tObj 0 2).get (HBR_OBJ_ARG_ARG 3 2) < 2 ^ 25 ∧ tObj.holds 0 (bitsOf 2 0 24) = true
    ∧ bit tObj.mask 0 = true ∧ tObj.missing 0 (bitsOf 2 0 24) = [] ∧ tAway.holds 0 2 = true ∧ tAway.missing 0 2 ≠ [] := by decide
theorem witness_setmask : (3 * 65536) % 65536 = 0 ∧ 3 * 65536 < 2 ^ 19 ∧ bitsOf (3 * 65536) 16 3 = 3 ∧ maskOk 1 3 = true := by decide
theorem witness_busy : (State.reset.setFlag (HBR_OBJ_STATUS_BUSY 3) true).flag (HBR_OBJ_STATUS_BUSY 3) = true := by decide
/-- Page 1 of the object moves from the middle tier; page 1 of a far object lands. -/
def tMove (r : Nat) : PageMove := { index := 0, page := 1, frame := 9000, mig := true, restarts := r }
def tFarObj : TierObj := { tObj with cls := 0, mask := 5, near := [], far := [(0, 0), (1, 0)], committed := true }
def tMoving (o : TierObj) (r : Nat) : State := tHarbor { harborReset with objs := [(0, o)], moves := [tMove r] } State.reset
theorem witness_moves : ((tMoving tAway 0).harbor 3).moves[(0 : Nat)]? = some (tMove 0)
    ∧ lookup ((tMoving tAway 0).harbor 3).objs 0 = some tAway ∧ ((tMoving tAway 0).harbor 3).farOnly 0 1 = false
    ∧ ((tMoving tFarObj 0).harbor 3).farOnly 0 1 = true ∧ tAway.sealed = false ∧ (tMove 0).restarts < 3 ∧ 3 ≤ (tMove 3).restarts
    ∧ (((tMoving tAway 3).harbor 3).moves.find? fun q => decide (q.index = 0) && decide (q.page = 1)) = some (tMove 3) := by decide
def tHot : State := (tHarbor { harborReset with objs := [(0, tAway)] } State.reset).setFlag (HBR_MIG_CTRL_EN 3) true
theorem witness_promote : tHot.flag (HBR_MIG_CTRL_EN 3) = true ∧ bit tAway.mask 0 = true ∧ bit tAway.mask 1 = true
    ∧ tAway.fastest 1 = some 1 ∧ tHot.get (HBR_MIG_CTRL_PROMOTE 3) ≤ lookupD tAway.heat 1 0 ∧ tAway.barred.contains 1 = false
    ∧ ((tHot.harbor 3).moves.any fun m => decide (m.index = 0) && decide (m.page = 1)) = false
    ∧ (tHot.promoteFrame 3 0 1).isSome = true := by decide
def tRunning : ObjRun := { op := 2, a0 := 0, a1 := 0, a2 := 0, host := 0, data := [], via := none, begun := true }
theorem witness_complete : ((tHarbor { harborReset with runs := [tRunning] } State.reset).harbor 3).runs = [tRunning]
    ∧ tRunning.begun = true ∧ tRunning.op = 2 ∧ tRunning.via = none := by decide
theorem witness_tier_errors : (if true then [] else (tHot.harbor 3).badReads) = ([] : SMap Nat) ∧ [(8191 : Fin 8192)].length < 2
    ∧ 2 ≤ [(0 : Fin 8192), 8191].length ∧ (tHot.harbor 3).retired.contains 3145727 = false
    ∧ (∀ e ∈ (tHot.harbor 3).objs, ∀ q ∈ e.2.near, q.2 ≠ 3145727) ∧ (tHot.harbor 3).midDown.contains 1 = false
    ∧ (∀ p < 128, tHot.writableOn p 3 1 = false) ∧ tHot.exk.staged.length < 1024 := by decide
/-- Block 1 is worn less than any, block 2 is free and worn more. -/
def tFlash : State :=
  tHarbor { harborReset with blocks := [(1, { reads := 2 ^ 32 - 1, erases := 0, free := false, retired := false }),
                                        (2, { reads := 0, erases := 2 ^ 20, free := true, retired := false })] } (tPhase phFtl)
theorem witness_flash : tFlash.get (HBR_FTL_CTRL_RD_LIMIT 3) * 65536 ≤ ((tFlash.harbor 3).block 1).reads
    ∧ ((tFlash.harbor 3).block 2).free = true ∧ ((tFlash.harbor 3).block 2).retired = false ∧ ((tFlash.harbor 3).block 1).retired = false
    ∧ (leastBy id ((tFlash.harbor 3).blocks.map fun e => e.2.erases)).getD 0 = 0
    ∧ tFlash.get (HBR_FTL_CTRL_WL_DELTA 3) < ((tFlash.harbor 3).blocks.map fun e => e.2.erases).foldl max 0 - 0
    ∧ ((tFlash.harbor 3).block 1).erases = 0 ∧ 0 < ((tFlash.harbor 3).block 2).erases ∧ tFlash.phase = phFtl := by decide

/-- Page 1 of object 0 waits to be staged; a stream pours the one tile of page 0. -/
def tStage : TierReq := { cls := 2, path := 5, part := some 0, at_ := 0, bytes := 65536, job := .stage 0 0 }
def tFar0 : TierObj := { tObj with near := [], far := [(0, 0), (1, 0)] }
def tStaging : State := tHarbor { harborReset with objs := [(0, tFar0)], reqs := [tStage] } State.reset
def tPathReq : PathReq := (tStaging.showStarve 3).tierReq 3 tStage
theorem witness_stage_grant : (tStaging.harbor 3).fenced = false ∧ (tStaging.showStarve 3).chooseReq 3 5 = some tPathReq
    ∧ tPathReq.act = .req tStage ∧ tStage.job = .stage 0 0
    ∧ (((tStaging.showStarve 3).setHarbor 3 { (tStaging.harbor 3).charge 5 tPathReq with
        reqs := (tStaging.harbor 3).reqs.erase tStage }).takeNear 3 0 0).isSome = true := by decide
def tPourRec : PourRec :=
  { slot := 0, first := 0, tiles := 2, repeats := 0, vroute := 1, slots := 2, gran := 1, rate := 1, harbor := 3, engine := 0 }
def tPour : PourStream :=
  { part := 0, flask := 0, desc := tPourRec, handle := 0xC0000000, credits := 1, pos := 0, runs := 0, lastAt := 0, emptyAt := none,
    stopped := false, back := [] }
def tPouring : State :=
  tHarbor { harborReset with objs := [(0, tObj)], streams := [(5, tPour)],
                             near := [(65536 * 4096 + 4, 1), (65536 * 4096 + 6, 64)] } (tPart psRunning)
def tPourReq : PathReq := (tPouring.showStarve 3).streamReq 5 tPour 16 (.pour 5)
theorem witness_pour : (tPouring.harbor 3).fenced = false ∧ tPourReq.act = .pour 5 ∧ lookup (tPouring.harbor 3).streams 5 = some tPour
    ∧ tPouring.obj tPour.handle = some tObj ∧ harborOf tPour.handle = 3 ∧ (tPouring.harbor 3).spot tPour tObj = .tile 0 0
    ∧ lookup tObj.near 0 ≠ none := by decide
theorem witness_pour_chosen : (tPouring.showStarve 3).chooseReq 3 0 = some tPourReq := by decide +kernel
theorem witness_path_fenced : ((tHarbor { harborReset with fenced := true } State.reset).harbor 3).fenced = true := by decide
/-- Core 0 is the one leaf of VROUTE 1 of the job, and ring 0 of its slot 1 is what the stream fills. -/
def tPourRing : State :=
  { (tPart psRunning).setCore 0 (tRunner tFull |>.core 0) with
    jobs := [(0, { tJob with image := { emptyImage with noc := [{ number := 1, source := 0, leaves := [0] }] } })] }.setHarbor 1
    { harborReset with streams := [(5, tPour)] }
theorem witness_pour_credit : tPour.pos + 1 < tPour.desc.tiles ∧ { tPour with pos := 1 }.desc.tiles ≤ { tPour with pos := 1 }.pos + 1
    ∧ ({ tPourRec with repeats := 2 }.repeats ≠ 0 ∧ { tPourRec with repeats := 2 }.repeats ≤ { tPour with runs := 1 }.runs + 1)
    ∧ ((tPourRing.core 0).slots.getD 1 slotReset).ringDesc 0 = some (tRing2 0) ∧ (tRing2 0).producer = 0
    ∧ 0 < (((tPourRing.core 0).slots.getD 1 slotReset).ring 0).due ∧ lookup (tPourRing.harbor (4 / 4)).streams (64 * (4 % 4) + 5) = some tPour
    ∧ tPourRing.groupHeads tPour = [(0 : LCore).val] ∧ lookupD tPour.back 0 0 = 0 ∧ tPour.stopped = false := by decide
def tStarving (l : List Nat) : State := (tPart psRunning).setCore 0 { tCore.setSlot 0 { slotReset with
  state := .active, rings := [(0, { tFull with full := [false, false] })], tables := { emptyTables with rings := [tRing2 0] } } with starve := l }
theorem witness_starve : (tStarving []).starves 0 0 = true ∧ (tStarving [0]).starves 0 0 = true ∧ ((tStarving []).core 0).dbgStop = false
    ∧ ((tStarving []).core 0).starve.contains (0 : Ring).val = false ∧ (tStarving []).corePart 0 = some 0
    ∧ ((tStarving [0]).core 0).starve.contains (0 : Ring).val = true := by decide
theorem witness_starve_sound : (tStarving []).Inv ∧ (tStarving [0]).Inv := ⟨⟨by decide, by decide, by decide⟩, by decide, by decide, by decide⟩

/-- A committed image object of harbor 3, a LOAD of partition 0 from it, and the partition in state `st`. -/
def tImg : TierObj := { tWeight with committed := true }
def tLoading (st : Nat) (waits : SMap LoadRun) : State :=
  { ((tHarbor { harborReset with objs := [(0, tImg)] } (tPhase phReady)).put (TEN_PART_CTRL_STATE 0) st).put (HUB_LDR_ARG_ARG 1) 0xC0000000 with
    loads := waits }
def tLoadReq : LoadReq := { part := 0, model := none, handle := 0xC0000000, bind := 0, issuer := none }
def tLoadRun (n : Nat) : LoadRun := { req := tLoadReq, stage := n }
def tFour : SMap LoadRun := (List.range 4).map fun n => (n, tLoadRun 1)
theorem witness_load : (tLoading psIdle []).ready = true ∧ (tLoading psIdle []).get (TEN_PART_CTRL_STATE 0) = psIdle
    ∧ (tLoading psIdle []).mayLoad (loadReqOf 0 0xC0000000 0 none) = true ∧ (tLoading psIdle []).unserved 0 = false
    ∧ (tLoading psIdle []).get (HUB_LDR_ARG_ARG 1) = 0xC0000000
    ∧ (List.range 4).find? (fun n => (lookup (tLoading psIdle []).loads n).isNone) = some 0
    ∧ (∀ n, n < 4 → lookup (tLoading psIdle tFour).loads n ≠ none)
    ∧ (tLoading psResetting []).get (TEN_PART_CTRL_STATE 0) = psResetting
    ∧ (tLoading psResetting []).mayLoad (loadReqOf 0 0xC0000000 0 none) = true ∧ (tPhase phHub).ready = false := by decide
/-- A sequence of two entries of flask 1, in slots 0 and 3; the second is the last. -/
def tSeq : List SeqEntry :=
  [{ flask := 1, slot := 0, next := 1, go := true, last := false, count := 2 },
   { flask := 1, slot := 3, next := 0, go := false, last := true, count := 0 }]
def tSeqJob : JobSt := { tJob with image := { emptyImage with seq := tSeq }, held := [some 1, none, none, none] }
def tStages (n : Nat) (j : JobSt) : State := { tPart psLoading with loads := [(2, tLoadRun n)], jobs := [(0, j)] }
theorem witness_stages : ∀ n ∈ [1, 2, 6, 7], lookup (tStages n tSeqJob).loads 2 = some (tLoadRun n)
    ∧ lookup (tStages n tSeqJob).jobs (tLoadRun n).req.part = some tSeqJob ∧ (tLoadRun n).stage = n ∧ (tStages n tSeqJob).loadsWaiting = []
    ∧ (tStages n tSeqJob).saves = [] := by decide
theorem witness_stages_sound : ∀ n, (tStages n tSeqJob).Inv := fun _ =>
  ⟨(by decide : rising (tPart psLoading).regs = true), (by decide : Memory.wf (tPart psLoading) = true),
   (by decide : (tPart psLoading).fuses.sound = true)⟩
def tPrimed : JobSt := { tSeqJob with started := false, startAt := some 512 }
theorem witness_start : lookup (tStages 8 tPrimed).jobs 0 = some tPrimed ∧ tPrimed.startAt = some 512 ∧ tPrimed.started = false
    ∧ (tPrimed.image.seq[(0 : Nat)]?).isSome = true ∧ 0 ∈ (tStages 8 tPrimed).partCores 0 := by decide
/-- The job at entry `n`, every core of cluster 0 with slot 0 in state `st`. -/
def tSeqAt (n : Nat) (waiting : Bool) (st : SlotState) : State :=
  { ((tPart psRunning).setFlag (HUB_FSEQ_GO_GO 0) true) with
    jobs := [(0, { tSeqJob with entry := n, waiting := waiting, held := [some 1, none, none, some 1] })]
    cores := (List.range 16).map fun c =>
      (c, coreReset.setSlot 0 { slotReset with state := st } |>.setSlot 3 { slotReset with state := .ready }) }
theorem witness_sequence : ((tSeqAt 0 true .ready).jobs.map fun e => e.2.image.seq[e.2.entry]?) = [tSeq[(0 : Nat)]?]
    ∧ (tSeqAt 0 true .ready).get (TEN_PART_CTRL_STATE 0) = psRunning ∧ (tSeqAt 0 true .ready).flag (HUB_FSEQ_GO_GO 0) = true
    ∧ (tSeqAt 0 true .ready).slotsIn 0 0 (fun x => x == .ready || x == .halted) = true
    ∧ (tSeqAt 0 true .active).slotsIn 0 0 (fun x => x == .ready || x == .halted) = false
    ∧ (∀ c ∈ (tSeqAt 0 false .halted).partCores 0, ((tSeqAt 0 false .halted).core c).active = 0
        ∧ ((tSeqAt 0 false .halted).core c).slot.state = .halted ∧ ((tSeqAt 0 false .halted).core c).switchTo = none)
    ∧ (∀ c ∈ ((tSeqAt 1 false .halted).setCore 0 coreReset).partCores 0, c < 16) := by decide
/-- Every core at entry 1 in slot 3, halted; and slot 3 held by another flask while entry 0 runs. -/
def tSeqLast : State :=
  { tSeqAt 1 false .ready with
    cores := (List.range 16).map fun c => (c, { coreReset.setSlot 3 { slotReset with state := .halted } with active := 3 }) }
theorem witness_sequence_last : (∀ c ∈ tSeqLast.partCores 0, (tSeqLast.core c).active = 3 ∧ (tSeqLast.core c).slot.state = .halted
      ∧ (tSeqLast.core c).switchTo = none) ∧ (tSeq[(1 : Nat)]?.map (·.last)) = some true := by decide
def tSeqOther : JobSt := { tSeqJob with held := [some 1, none, none, some 2] }
theorem witness_rewrite : (seqWalk tSeqOther.image.seq 0 257).tail.find? (fun q => decide (q.slot = 3)) = tSeq[(1 : Nat)]?
    ∧ tSeqOther.started = true ∧ tSeqOther.waiting = false ∧ (tSeqAt 0 false .active).slotsIn 0 3 (fun y => y != .active) = true
    ∧ tSeqOther.held.getD 3 none ≠ some 1 := by decide
theorem witness_sequence_sound : (tSeqAt 0 true .ready).Inv ∧ (tSeqAt 0 false .halted).Inv ∧ tSeqLast.Inv :=
  ⟨⟨by decide, by decide, by decide⟩, ⟨by decide, by decide, by decide⟩, by decide, by decide, by decide⟩
def tModels : State := { tLoading psIdle [] with models := [(0, { handle := 0xC0000000, image := emptyImage, tenant := none, objs := [] })] }
theorem witness_models : lookup tModels.models 0 ≠ none ∧ lookup (tLoading psIdle []).models 0 = none
    ∧ (tLoading psIdle []).imageObj 0xC0000000 ≠ none ∧ (tModels.jobs.any fun e => decide (e.2.model = some 0)) = false := by decide
theorem witness_unregister : ({ tModels with jobs := [(3, { tJob with model := some 0 })] }.jobs.any fun e =>
    decide (e.2.model = some 0)) = true ∧ bitsOf (tModels.get (HUB_IMG_ARG_ARG 0)) 0 10 = 0 := by decide

/-- Stream 0 of tenant 0, whose virtual function is enabled. -/
def tStream : ReqStream :=
  { tenant := 0, shadow := false, rqBase := 0x1000, tkBase := 0x2000, rqLog := 4, tkLog := 4, head := 14, tail := 15, fails := 0,
    wpos := 0, rhead := 0, held := [], ended := none }
def tServe (x : ReqStream) : State :=
  { State.reset with host := { State.reset.host with vfEnable := true, numVfs := 1 }, streams := [(0, x)] }
theorem witness_streams : (streamArgs 0x1000 0 0x2000 0 0 false).isSome = true ∧ lookup State.reset.streams 0 = none
    ∧ streamArgs 0x1001 0 0x2000 0 0 false = none ∧ lookup (tServe tStream).streams 0 ≠ none
    ∧ State.reset.streamOf 0 0 = none ∧ (tServe tStream).streamOf 0 0 = some tStream ∧ tStream.head ≠ tStream.tail
    ∧ ({ tStream with fails := 1 }.fails < 2) ∧ 2 ≤ { tStream with fails := 2 }.fails ∧ tStream.held = [] ∧ tStream.room = true := by decide
/-- A doorbell of tail 0 (past the end of the ring) and one of tail 15 (no step ahead); of token head 3 and of one too far. -/
theorem witness_doorbells : bitsOf (0x00000000#32).toNat 14 2 = 0 ∧ bitsOf (0x00000000#32).toNat 16 16 < tStream.rqSize
    ∧ ringDist tStream.rqSize tStream.head tStream.tail < ringDist tStream.rqSize tStream.head 0
    ∧ tStream.tail < { tStream with head := 3, tail := 5 }.rqSize
    ∧ bitsOf (0x000F0000#32).toNat 16 16 = 15 ∧ ringDist tStream.rqSize tStream.head 15 ≤ ringDist tStream.rqSize tStream.head tStream.tail
    ∧ bitsOf (0x0000000300000000#64).toNat 32 20 = 3
    ∧ ringDist { tStream with wpos := 4 }.tkSize { tStream with wpos := 4 }.rhead 3 ≤ { tStream with wpos := 4 }.wpos - { tStream with wpos := 4 }.rhead
    ∧ tStream.wpos - tStream.rhead < ringDist tStream.tkSize tStream.rhead 3 := by decide
/-- A request of 70 tokens 0 for model 0 in slot 1 of binding 0; of one token; waiting; drawn. -/
def tAsk (n : Nat) : ServReq :=
  { submitOf [] 0 with tag := 9, plen := n, slot := some (0, 1), looked := false, history := List.replicate n 0, maxNew := 4 }
def tAsked (r : ServReq) : State :=
  { ((((((tServe { tStream with head := 0 }).setFlag (SRV_BIND0_EN 0) true).put (SRV_BIND1_HOME_CNT 0) 4).put (SRV_BIND8_KV_CNT 0) 16).put
      (SRV_BIND2_PF_CHUNK 0) 64).put (SRV_BIND2_PF_STEP 0) 64).put (SRV_BUD_LEVEL_LO_V 0) 0x100000 with reqs := [(0, r)] }
theorem witness_cancel : lookup (tServe tStream).reqs 0 = none
    ∧ lookup (tAsked (tAsk 1)).reqs 0 = some (tAsk 1) ∧ (tAsk 1).tag = 9 ∧ (tAsk 1).slot ≠ none ∧ { tAsk 1 with slot := none }.slot = none := by decide
/-- A NOP entry, a SUBMIT entry of one token and one without a token. -/
def tEntry (plen : Nat) : List Byte :=
  [1, 0, 0, 0, 9, 0, 0, 0, BitVec.ofNat 8 plen, 0, 0, 0, 4, 0, 0, 0] ++ List.replicate 12 0 ++ [0, 0, 0x80, 0x3F] ++ List.replicate 4 0
    ++ [0, 0, 0x80, 0x3F] ++ List.replicate 88 0
def tOpen : State := { tAsked (tAsk 1) with reqs := [] }.setFlag (TEN_VF_CTRL_EN 0) true
set_option maxRecDepth 8000 in
theorem witness_entry : lookup tOpen.streams 0 = some { tStream with head := 0 } ∧ lookup tOpen.reqs 0 = none
    ∧ 64 ≤ (tEntry 1).length ∧ 64 * entryUnits (tEntry 1) ≤ (tEntry 1).length ∧ 64 * entryUnits (tEntry 0) ≤ (tEntry 0).length
    ∧ entryUnits (tEntry 1) ≤ ringDist tStream.rqSize 0 tStream.tail ∧ leNat ((tEntry 1).take 1) ≠ 0
    ∧ leNat ((List.replicate 64 (0 : Byte)).take 1) = 0 ∧ entryUnits (List.replicate 64 0) = 1
    ∧ tOpen.submitStatus 0 (tEntry 1) (submitOf (tEntry 1) tOpen.nextId) = none
    ∧ tOpen.submitStatus 0 (tEntry 0) (submitOf (tEntry 0) tOpen.nextId) = some stRefusedShape := by decide
def tWaits : State := tAsked { tAsk 1 with slot := none }
theorem witness_admit : (0, { tAsk 1 with slot := none }) ∈ tWaits.reqs ∧ (∀ f ∈ tWaits.reqs, f = (0, { tAsk 1 with slot := none }))
    ∧ (tAsk 1).model = 0 ∧ (∀ f ∈ tWaits.reqs, f.2.order < 2 ^ 64)
    ∧ (tWaits.bindsOf 0).findSome? (fun b => (tWaits.freeSlot b).map fun i => (b, i)) = some (0, 0) := by decide
/-- The index holds the first block of the request. -/
def tKey : DWord := prefixKey 0 0 ((tAsk 70).history) 0
def tKnown : State :=
  { tAsked (tAsk 70) with pfx := [(16 * (tKey.toNat % 262144), { key := tKey, model := 0, scope := 0, block := 5, age := 3 })] }
theorem witness_prefix : (tAsk 70).looked = false ∧ (tAsk 70).slot = some (0, 1) ∧ (tAsk 1).plen ≤ 64 ∧ 64 < (tAsk 70).plen
    ∧ (tAsk 70).plen ≤ 128
    ∧ (((tAsked (tAsk 70)).pfxMatches tKey 0 0).find? fun e => decide ((tAsked (tAsk 70)).pfxToks e.1 = blockToks (tAsk 70).history 0)
        && (tAsked (tAsk 70)).bindHas 0 e.2.block) = none
    ∧ (tAsked (tAsk 70)).pfxScope 0 0 = 0 := by decide
theorem witness_prefix_hit : ((tKnown.pfxMatches tKey 0 (tKnown.pfxScope 0 0)).find? fun e =>
    decide (tKnown.pfxToks e.1 = blockToks (tAsk 70).history 0) && tKnown.bindHas 0 e.2.block).map (·.2.block) = some 5 := by decide +kernel
/-- Binding 0 of partition 0, which runs; its message of rank 0 is there. -/
def tFed (b : BindSt) : State := (({ tAsked { tAsk 1 with looked := true } with binds := [(0, b)] }).put (TEN_PART_CTRL_STATE 0) psRunning)
def tBind : BindSt := { bindReset with msgs := [(0, [])] }
theorem witness_steps : (tFed tBind).flag (SRV_BIND0_EN 0) = true ∧ tBind.running = false ∧ tBind.sent = false
    ∧ (tFed tBind).settled 0 { tAsk 1 with looked := true } = true
    ∧ ((List.range 256).filterMap fun i => ((tFed tBind).reqAt 0 i).map fun e => (e.1, i, e.2)) = [(0, 1, { tAsk 1 with looked := true })]
    ∧ (tFed tBind).slotHold 0 { tAsk 1 with looked := true } = .none
    ∧ 0 < min (min ((tFed tBind).get (SRV_BIND2_PF_CHUNK 0)) ((tFed tBind).get (SRV_BIND2_PF_STEP 0))) ({ tAsk 1 with looked := true } : ServReq).ready
    ∧ (tFed tBind).get (TEN_PART_CTRL_STATE ((tFed tBind).bindPart 0)) = psRunning
    ∧ (∀ r, r < (tFed tBind).bindRanks 0 → lookup ((tFed tBind).bind 0).msgs r ≠ none)
    ∧ ((tFed { tBind with running := true }).bind 0).running = true ∧ ((tFed { tBind with running := true }).bind 0).step = 0
    ∧ ((tFed { tBind with running := true }).bind 0).done.contains 0 = false := by decide
/-- The slot is sampled. -/
def tSampled : ServReq := { tAsk 1 with sampling := true }
theorem witness_records : (tAsked tSampled).reqAt 0 1 = some (0, tSampled) ∧ tSampled.sampling = true ∧ tSampled.atJ = none
    ∧ (0 : Nat) < (tAsked tSampled).bindShards 0 ∧ (tAsked tSampled).bindShards 0 ≤ (insert tSampled.records 0 (candsOf 0 [])).length
    ∧ tSampled.cancelled = false ∧ { tSampled with cancelled := true }.cancelled = true
    ∧ (insert tSampled.records 0 (candsOf 0 [])).length < ((tAsked tSampled).put (SRV_BIND2_SHARDS_M1 0) 1).bindShards 0 := by decide
def tChosen : ServReq := { tSampled with atJ := some 0 }
theorem witness_service : (0, 1) ∈ (tAsked tChosen).serviceLine 1 ∧ (∀ e ∈ (tAsked tChosen).serviceLine 1, e = (0, 1))
    ∧ lookup (tAsked tChosen).reqs 0 = some tChosen ∧ tStream.tenant < 4096 := by decide
def tDrawn : ServReq := { tSampled with drawn := some (7, false) }
theorem witness_append : lookup (tAsked tDrawn).reqs 0 = some tDrawn ∧ tDrawn.slot = some ((0 : Fin 32).val, 1) ∧ tDrawn.awaiting = []
    ∧ tDrawn.lateCancel = false ∧ { tStream with wpos := 16 }.room = false := by decide
/-- Binding 0 with failover, its job on endpoints 0 and 1. -/
def tOver : State :=
  { (tAsked (tAsk 1)).setFlag (SRV_BIND0_FAILOVER 0) true with jobs := [(0, { tJob with peers := [0, 1] })] }
theorem witness_failover : tOver.flag (SRV_BIND0_FAILOVER 0) = true ∧ tOver.flag (SRV_BIND0_EN 0) = true
    ∧ (tOver.bindPeers 0).1.contains 1 = true ∧ lookup tOver.jobs (tOver.bindPart 0) = some { tJob with peers := [0, 1] }
    ∧ lookup tOver.lastLoad (tOver.bindPart 0) = none ∧ tOver.slotReqs 0 = [(0, 1, tAsk 1)]
    ∧ (tAsked (tAsk 1)).flag (SRV_BIND0_FAILOVER 0) = false := by decide
theorem witness_failover_sound : tOver.Inv := ⟨by decide, by decide, by decide⟩

/-- Port 13 enabled in state `st` of a package that is READY. -/
def tPort (st : Nat) (x : PortSt) : State :=
  (let s := (tPhase phReady).setFlag (RVR_PORT_CTRL_EN 13) true
   ({ s with pads := { s.pads with harborRail := true } }.put (RVR_PORT_STATUS_STATE 13) st).setPort 13 x)
def tNbr : TrainRec := { ep := 5, port := 3, width := 3, epoch := 0, alias_ := none, refusal := false, reason := 0 }
def tFlit (n : Nat) : Flit := { seq := n, vc := 1, dl := false, som := true, eom := true, body := [] }
theorem witness_ports : (tPort ptTrain { portReset with nbr := some tNbr }).get (RVR_PORT_STATUS_STATE 13) = ptTrain
    ∧ ((tPort ptTrain { portReset with nbr := some tNbr }).port 13).nbr = some tNbr
    ∧ (tPort ptTrain { portReset with nbr := some tNbr }).trainReason 13 true 3 0 = 0
    ∧ (tPort ptTrain { portReset with nbr := some tNbr }).trainReason 13 true 0 0 ≠ 0
    ∧ (tPort ptDown { portReset with fails := 1 }).get (RVR_PORT_STATUS_STATE 13) = ptDown
    ∧ (tPort ptDown { portReset with fails := 1 }).mayTrain 13 = true ∧ 0 < ((tPort ptDown { portReset with fails := 1 }).port 13).fails
    ∧ (tPort ptDown portReset).pads.harborRail = true ∧ (tPort ptDown portReset).ready = true
    ∧ (tPort ptDown portReset).flag RVR_EP_ID_SUPERSEDED = false ∧ (tPort ptDown portReset).get (RVR_PORT_STATUS_STATE 13) ≠ ptUp
    ∧ (tPort ptUp { portReset with expiries := 8 }).get (RVR_PORT_STATUS_STATE 13) = ptUp
    ∧ (8 ≤ ((tPort ptUp { portReset with expiries := 8 }).port 13).expiries) ∧ (tPort ptFenced portReset).mayTrain 13 = true
    ∧ ((tPort ptFenced portReset).setFlag (RVR_PORT_CTRL_EN 13) false).mayTrain 13 = false
    ∧ (tPort ptFenced portReset).get (RVR_PORT_STATUS_STATE 13) = ptFenced := by decide
theorem witness_ports_sound : (tPort ptUp { portReset with expiries := 8 }).Inv := ⟨by decide, by decide, by decide⟩
/-- A port that is UP with flits 4094, 4095 and 0 unacknowledged, or with one to send. -/
def tSent : PortSt := { portReset with unacked := [tFlit 4094, tFlit 4095, tFlit 0], exp := 4095, nextSeq := 1 }
def tQueued : PortSt := { portReset with queue := [tFlit 0], credits := initialCredits }
theorem witness_link : (tPort ptUp tSent).portUp 13 = true ∧ (tPort ptUp tSent).port 13 = tSent
    ∧ tSent.unacked = [tFlit 4094] ++ tFlit 4095 :: [tFlit 0] ∧ (∀ g ∈ [tFlit 4094], g.seq ≠ (tFlit 4095).seq)
    ∧ (∀ f ∈ tSent.unacked, f.seq ≠ 77) ∧ tSent.replay = [] ∧ (tFlit 4094).seq = (4094#12).toNat
    ∧ (∀ g ∈ tSent.unacked, g.seq ≠ (4093#12).toNat ∧ g.seq ≠ ((4094#12).toNat + 4095) % 4096)
    ∧ tSent.exp < 4096 ∧ (4095#12).toNat = tSent.exp ∧ (0 < ((0#12).toNat + 4096 - tSent.exp) % 4096
    ∧ ((0#12).toNat + 4096 - tSent.exp) % 4096 < 2048) ∧ 2048 ≤ ((4094#12).toNat + 4096 - tSent.exp) % 4096
    ∧ lookupD tSent.owed 2 0 < 63 ∧ { tSent with records := [[]] }.records ≠ [] ∧ tSent.records = []
    ∧ { tSent with replay := [tFlit 0] }.replay = [tFlit 0] ∧ tQueued.pick = some 0 ∧ tQueued.queue[(0 : Nat)]? = some (tFlit 0)
    ∧ tQueued.unacked.length < 2048 ∧ tSent.pick = none ∧ tSent.owed = [] := by decide
/-- Port 13 is that of the parent; fourteen or fifteen offsets are kept; the package is the root. -/
def tTimed (n role : Nat) : State :=
  let s := ((tPort ptUp portReset).put RVR_TIME_CTRL_ROLE role).put RVR_TIME_CTRL_PARENT 13
  { s with ravor := { s.ravor with offsets := List.replicate n 0 } }
theorem witness_time : (tTimed 14 1).portUp 13 = true ∧ (tTimed 14 1).get RVR_TIME_CTRL_ROLE = 1
    ∧ (tTimed 14 1).get RVR_TIME_CTRL_PARENT = (13 : Port).val ∧ (tTimed 14 1).ravor.offsets.length < 15
    ∧ 15 ≤ (tTimed 15 1).ravor.offsets.length ∧ (tTimed 0 2).get RVR_TIME_CTRL_ROLE = 2 ∧ (tTimed 0 0).get RVR_TIME_CTRL_ROLE = 0
    ∧ (-127 ≤ meanOffset (((tTimed 15 1).ravor.offsets ++ [stampDiff 5 3 - stampDiff 9 7]).foldl (· + ·) 0) 0
    ∧ meanOffset (((tTimed 15 1).ravor.offsets ++ [stampDiff 5 3 - stampDiff 9 7]).foldl (· + ·) 0) 0 ≤ 127) := by decide

/-- A package linked over port 13 whose partition 0 runs a job of endpoints 0 and 5 with VROUTE 1 to core 0. -/
def tFabric (n : Nat) : State :=
  let s := (tWin.put MGT_BOOT_STATUS_PHASE phReady).put (RVR_PORT_STATUS_STATE 13) ptUp
  { s with ravor := { s.ravor with expected := [(20, n), (21, n)] },
           jobs := [(0, { tJob with peers := [0, 5], image := { emptyImage with noc := [{ number := 1, source := 0, leaves := [0] }] } })] }
theorem witness_again : (tFabric 7).linked = true ∧ lookup (tFabric 7).ravor.expected (4 * 5) = some 7
    ∧ 1 ≤ (7 + 65536 - (6#16).toNat) % 65536 ∧ (7 + 65536 - (6#16).toNat) % 65536 ≤ 32768 := by decide
theorem witness_arrives : (tFabric 7).linked = true ∧ lookup (tFabric 7).ravor.expected (4 * 5 + 0) = some (7#16).toNat
    ∧ (tFabric 7).mirrorBind 0x123 (1#12).toNat = none ∧ (tFabric 7).jobFor 5 (2#12).toNat = none
    ∧ (tFabric 7).jobFor 5 (1#12).toNat = some (0, [(0 : LCore).val]) ∧ (tFabric 7).spools? 0 = false
    ∧ (tFabric 7).absorbs 0 = false ∧ (tFabric 7).windowMode 0 = true ∧ (tFabric 7).windowAdmits 0 0x123 true 0x7FFF 1 = true
    ∧ (tFabric 7).windowAdmits 0 0x123 true 0x7FFF 2 = false ∧ 64 * 0x7FFF < 2 ^ 32 ∧ (plainGranule [1]).wf = true
    ∧ (tFabric 7).inScratch 0 (64 * 0x7FFF) 64 = true ∧ 64 < (List.replicate 65 (plainGranule [])).length := by decide
theorem witness_lands : ((tFabric 7).landPacket [0] 5 1 [plainGranule [1]]).isSome = true
    ∧ (((tFabric 7).setCore 0 { (tFabric 7).core 0 with fifos := List.replicate 4 { fifoReset with inProg := some (3, 9, 128) } }).landPacket
        [0] 5 1 [plainGranule [1]]).isNone = true := by decide
/-- The board window of endpoint 5, on tenant 0's object 0 of harbor 3, page 0 of which lies in frame 4096. -/
def tBoard : State :=
  (let s := (tHarbor { harborReset with objs := [(0, { tObj with owner := some 0 })] } (tFabric 7))
   ((s.setFlag RVR_MODE_BW true).setFlag (RVR_BOARD_EP_V 2) true).put (RVR_BOARD_EP_EP 2) 5)
def tBoardAt (frame : Nat) : DWord := BitVec.ofNat 64 (3 * 2 ^ 46 + 65536 * frame)
theorem witness_board : tBoard.linked = true ∧ lookup tBoard.ravor.expected (4 * 5 + 0) = some (7#16).toNat
    ∧ tBoard.boardGrans 5 1 (tBoardAt 4096) 1 true = none
    ∧ tBoard.boardGrans 5 0 (tBoardAt 4097) 1 true = some [(0, 1, 0)]
    ∧ tBoard.boardGrans 5 0 (tBoardAt 4096) (min 2 256) false ≠ none ∧ tBoard.boardGrans 6 0 (tBoardAt 4096) (min 2 256) false = none := by decide
def tBoardRead : State := { tFabric 7 with host := { (tFabric 7).host with boardReads := [(5, 4, 8)] } }
theorem witness_board_data : lookup tBoardRead.ravor.expected (4 * 5 + 1) = some (7#16).toNat
    ∧ (tBoardRead.host.boardReads.find? fun r => decide (r.1 = (5 : Endpoint).val)) = some (5, 4, 8)
    ∧ ((tFabric 7).host.boardReads.find? fun r => decide (r.1 = (5 : Endpoint).val)) = none := by decide
/-- Messages that await their acknowledgement: a packet of core 0 and a message of a partition's engine. -/
def tMsg (kind : Nat) : RMsg :=
  { dest := 5, src := 0, key := 0, kind := kind, vroute := 1, tick := 0, offset := 0, resend := false, id := 9, route := 0, hop := 0,
    tenant := 0, baddr := 0, grans := [] }
def tAwait (w : RSender) : State := { tFabric 7 with ravor := { (tFabric 7).ravor with waiting := [(w, tMsg 1)] } }
theorem witness_eack : (∀ w ∈ [RSender.packet 0 1, RSender.engine 0], ((tAwait w).ravor.waiting.find? fun w => decide (w.2.dest = (5 : Endpoint).val)
      && decide (vcOf w.2.kind = (0 : Fin 3).val) && decide (w.2.id = (9#16).toNat)) = some (w, tMsg 1))
    ∧ (tAwait .board).linked = true ∧ (tAwait .board).get RVR_EPOCH_STATUS_PHASE ≠ 1 := by decide
/-- A route of two hops, out of ports 13 and 2. -/
def tRoute2 : DWord := BitVec.ofNat 64 (2 * 2 ^ 60 + 32 * 2 + 13)
theorem witness_transit : (0 : Fin 16).val < hopCount tRoute2 ∧ (tFabric 7).portUp (hopPort tRoute2 0) = true
    ∧ hopCount tRoute2 ≤ (2 : Fin 16).val ∧ (tFabric 7).portUp (hopPort tRoute2 1) = false := by decide
/-- Endpoint 5 over routes 0 and 2, route 0 in use. -/
def tTopo : TopoEntry := { topoReset with routes := [tRoute2, 0, tRoute2, 0], valid := 5 }
def tRouted (y : TopoEntry) : State :=
  { tAwait .board with ravor := { (tAwait .board).ravor with active := [(5, y)], shadow := [(6, tTopo)] } }
theorem witness_routes : (tRouted tTopo).get RVR_EPOCH_STATUS_PHASE = 0 ∧ (tRouted tTopo).via 5 = 5 ∧ (tRouted tTopo).topo 5 = tTopo
    ∧ (tRouted tTopo).usable tTopo tTopo.inUse = true ∧ (tMsg 1).dest = (5 : Endpoint) ∧ (tMsg 1).resend = false ∧ acked (tMsg 1).kind = true
    ∧ ((tRouted tTopo).ravor.waiting.any fun w => decide (w.2.dest = (5 : Endpoint).val) && decide (vcOf w.2.kind = (0 : Fin 3).val)
        && decide (w.2.id = (9#16).toNat)) = true
    ∧ ((tFabric 7).ravor.waiting.any fun w => decide (w.2.dest = (5 : Endpoint).val)) = false
    ∧ bit tTopo.valid tTopo.inUse = true ∧ (tRouted tTopo).bestRoute { tTopo with failed := setBit tTopo.failed tTopo.inUse true } = some 2
    ∧ lookup (tRouted tTopo).ravor.active 5 = some tTopo ∧ bit tTopo.valid 2 = true ∧ tTopo.routes.getD 2 0 = tRoute2
    ∧ State.reset.linked = false := by decide
/-- Heartbeats: target 1 alone; watch 2 on endpoint 5, armed, after `n` silent periods. -/
def tBeat (n : Nat) (y : TopoEntry) : State :=
  let s := (((tRouted y).setFlag (RVR_HB_TGT_V 1) true).setFlag (RVR_WATCH_ARM 2) true).put (RVR_WATCH_EP 2) 5
  { s with ravor := { s.ravor with silent := [(2, n)] } }
theorem witness_heartbeat : (∀ n, n < 4 → State.reset.flag (RVR_HB_TGT_V n) = false) ∧ (tBeat 0 tTopo).flag (RVR_HB_TGT_V 1) = true
    ∧ (∀ k, k < 4 → k ≠ 1 → (tBeat 0 tTopo).flag (RVR_HB_TGT_V k) = false) ∧ (tBeat 0 tTopo).flag (RVR_WATCH_ARM 2) = true
    ∧ (tBeat 0 tTopo).watchSuspended = false ∧ (tBeat 0 tTopo).get (RVR_WATCH_EP 2) = (5 : Endpoint).val
    ∧ (tBeat 0 tTopo).bestRoute ((tBeat 0 tTopo).topo ((tBeat 0 tTopo).via 5)) ≠ none
    ∧ (tBeat 200 topoReset).get RVR_HB_CTRL_MISS ≤ lookupD (tBeat 200 topoReset).ravor.silent 2 0 + 1
    ∧ (tBeat 200 topoReset).bestRoute ((tBeat 200 topoReset).topo ((tBeat 200 topoReset).via 5)) = none
    ∧ (tBeat 200 topoReset).flag (RVR_WATCH_LOST 2) = false ∧ (tBeat 200 topoReset).flag RVR_EP_ALIAS_VALID = false
    ∧ (tBeat 200 topoReset).watchSuspended = false := by decide
/-- The package bears endpoint 5's alias; endpoint 5 is redirected to endpoint 9. -/
def tAlias : State := ((tFabric 7).setFlag RVR_EP_ALIAS_VALID true).put RVR_EP_ALIAS_ALIAS 5
def tTaken : State := tRouted { topoReset with redir := true, redirect := 9 }
theorem witness_takeover : tAlias.flag RVR_EP_ALIAS_VALID = true ∧ tAlias.get RVR_EP_ALIAS_ALIAS = (5 : Endpoint).val
    ∧ tAlias.get RVR_EP_ID_ID < (9 : Endpoint).val ∧ (tRouted tTopo).linked = true ∧ ((tRouted tTopo).topo 5).redir = false
    ∧ (8 : Endpoint).val < (tTaken.topo 5).redirect ∧ (tTaken.topo 5).redir = true ∧ (tTaken.topo 5).redirect = (9 : Endpoint).val
    ∧ ((0 : Endpoint).val ≤ tAlias.get RVR_EP_ID_ID) ∧ tAlias.linked = true ∧ (tAlias.topo 5).redir = false := by decide
/-- An epoch change at step `n`. -/
def tEpoch (n : Nat) (c : Bool) : State :=
  let s := (tRouted tTopo).put RVR_EPOCH_STATUS_PHASE n
  { s with ravor := { s.ravor with committed := c } }
theorem witness_epoch : (∀ n < 4, (tEpoch n false).get RVR_EPOCH_STATUS_PHASE = n) ∧ (tEpoch 3 true).ravor.committed = true
    ∧ (tEpoch 3 false).ravor.committed = false ∧ lookup (tEpoch 3 false).ravor.shadow 6 = some tTopo
    ∧ ((tPort ptUp portReset).put RVR_EPOCH_STATUS_PHASE 2).mayTrain 13 = true
    ∧ ((tPort ptUp portReset).put RVR_EPOCH_STATUS_PHASE 2).get (RVR_PORT_STATUS_STATE 13) ≠ ptFenced
    ∧ ((tEpoch 0 false).setFlag RVR_TOPO_IDX_BANK false).flag RVR_TOPO_IDX_BANK = false ∧ (tEpoch 0 false).flag RVR_TOPO_IDX_BANK = true := by decide
theorem witness_epoch_sound : (∀ c, (tEpoch 3 c).Inv) ∧ ((tPort ptUp portReset).put RVR_EPOCH_STATUS_PHASE 2).Inv :=
  ⟨fun c => ⟨by cases c <;> decide, by cases c <;> decide, by cases c <;> decide⟩, by decide, by decide, by decide⟩
theorem witness_reflectometer : State.reset.flag (OPT_REFL_STATUS_BUSY 3) = false
    ∧ State.reset.get (RVR_PORT_STATUS_STATE (4 * (3 : OE).val + State.reset.get (OPT_REFL_CMD_LANE 3) / 4)) = ptDown
    ∧ (State.reset.setFlag (OPT_REFL_STATUS_BUSY 3) true).flag (OPT_REFL_STATUS_BUSY 3) = true
    ∧ (State.reset.put (RVR_PORT_STATUS_STATE 12) ptUp).get (RVR_PORT_STATUS_STATE (4 * (3 : OE).val + State.reset.get (OPT_REFL_CMD_LANE 3) / 4)) = ptUp
    ∧ State.reset.flag (OPT_REFL_CMD_FORCE 3) = false ∧ ([(5#16, 6#8, 7#8)] : List (BitVec 16 × BitVec 8 × BitVec 8)).length ≤ 8 := by decide

/-- Cluster 5 is free and present; partition 0 is to be made of it, for the PF. -/
def tCreate (a mask : Nat) : State :=
  (((tPhase phReady).put (TEN_ARG_ARG 0) a).put (TEN_ARG_ARG 2) mask).put MGT_BOOT_FAB_PRESENT 0xFFFF
set_option maxRecDepth 8000 in
theorem witness_create_part : (tCreate (2 ^ 19) 32).ready = true ∧ (tCreate (2 ^ 19) 32).partState 0 = psFree ∧ (32 : Nat) ≠ 0
    ∧ ownerArg (2 ^ 19) = none ∧ ownerArg 128 = some 1 ∧ (tCreate 128 32).flag (TEN_VF_CTRL_EN 1) = false
    ∧ (∀ k, k < 128 → bit 32 k = true → (tCreate (2 ^ 19) 32).partOf k = none ∧ (tCreate (2 ^ 19) 32).clusterExists k = true
        ∧ (tCreate (2 ^ 19) 32).present ((tCreate (2 ^ 19) 32).phys (k / 8)) = true)
    ∧ (tPart psIdle).partState 0 = psIdle ∧ (tPart psIdle).minimal = false ∧ (tPart psIdle).partOf 0 ≠ none
    ∧ (tPhase phMinimal).minimal = true := by decide
/-- Partition 0 in state `st` with its save object, object 0 of harbor 0, and its image, object 0 of harbor 3. -/
def tSaveObj : TierObj := { tObj with owner := some 0, cls := 3, pages := 657 }
def tMover (st : Nat) (x : HarborSt) : State :=
  { tHarbor { harborReset with objs := [(0, tImg)] } (tPart st) with jobs := [(0, { tJob with handle := 0xC0000000 })] }.setHarbor 0
    { x with objs := [(0, tSaveObj)] }
def tMoveRun (g : Bool) : MoveRun :=
  { part := 0, handles := [some 0, none, none, none], group := g, tick := 0, stopped := false, moved := false }
def tSavedJob : SavedJob :=
  { live := true, part := 0, owner := some 0, mask := 1, handles := [some 0, none, none, none], tick := 0,
    job := { tJob with handle := 0xC0000000 }, cores := [(0, tCore), (1, coreReset)], clusters := [], regs := [], streams := [], stations := [] }
theorem witness_preempt_part : (tMover psRunning harborReset).saves = [] ∧ (tMover psRunning harborReset).tenArg 0 = (0 : Part).val
    ∧ (tMover psRunning harborReset).saveSetOk 0 ((tMover psRunning harborReset).saveSet 0 (setWords (tMover psRunning harborReset).tenArgs)) = true
    ∧ (tMover psRunning harborReset).minimal = false ∧ (tMover psRunning harborReset).partState 0 = psRunning
    ∧ (tMover psLoading harborReset).partState 0 = psLoading ∧ (tMover psIdle harborReset).partState 0 = psIdle
    ∧ (tMover psLoading harborReset).saveSetOk 0 ((tMover psLoading harborReset).saveSet 0 (setWords (tMover psLoading harborReset).tenArgs)) = true := by decide
/-- The save object holds the set's header. -/
def tSavedIn : State :=
  { tMover psIdle { harborReset with near := ((tSavedJob.header 0).zipIdx.filter fun e => decide (e.1 ≠ 0)).map fun e => (65536 * 4096 + e.2, e.1) } with
    saved := [tSavedJob] }
theorem witness_resume : tSavedIn.partState 0 = psIdle ∧ tSavedIn.flag (HUB_RCV_PART_FENCED 0) = false
    ∧ (tSavedIn.setOf 0 (tSavedIn.saveSet 0 (setWords tSavedIn.tenArgs))).isSome = true ∧ tSavedIn.imageThere tSavedJob.job = true
    ∧ (tMover psIdle harborReset).setOf 0 ((tMover psIdle harborReset).saveSet 0 (setWords (tMover psIdle harborReset).tenArgs)) = none := by decide
def tGroup : State := { tMover psSaving harborReset with saves := [tMoveRun true] }
def tQuiet : State :=
  { tMover psSaving harborReset with saves := [tMoveRun false], cores := (List.range 16).map fun c => (c, { coreReset with preempt := true }) }
theorem witness_save : tGroup.saving 0 = some (tMoveRun true) ∧ (tMoveRun true).group = true ∧ (tMoveRun true).stopped = false
    ∧ tQuiet.saving 0 = some (tMoveRun false) ∧ (lookup tQuiet.jobs 0).isSome = true ∧ tQuiet.partQuiet 0 = true ∧ tQuiet.partDrained 0 = true
    ∧ (tMoveRun false).group = false ∧ (∀ c ∈ tQuiet.partCores 0, tQuiet.fenced c = false) ∧ tQuiet.saved = [] := by decide
def tRestoring : State := { tMover psRestoring harborReset with restores := [tMoveRun true], saved := [tSavedJob] }
theorem witness_restore : (tRestoring.restores.find? fun r => decide (r.part = (0 : Part).val)) = some (tMoveRun true)
    ∧ (tRestoring.saved.find? fun j => j.named (tMoveRun true)) = some tSavedJob ∧ (tSavedJob.cores.map (·.1)).Nodup
    ∧ (∀ e ∈ tSavedJob.regs, 0x1000000 ≤ e.1 ∧ e.1 < 0x2000000) ∧ (tMoveRun true).group = true := by decide
theorem witness_discard : (tSavedIn.saved.find? fun j => j.live && j.handles.contains (some (tSavedIn.tenArg 2))) = some tSavedJob
    ∧ tSavedIn.minimal = false ∧ (tSavedIn.restores.any fun r => tSavedJob.named r) = false
    ∧ (State.reset.saved.find? fun j => j.live && j.handles.contains (some (State.reset.tenArg 2))) = none := by decide
theorem witness_moves_sound : (tMover psRunning harborReset).Inv ∧ tSavedIn.Inv ∧ tGroup.Inv ∧ tQuiet.Inv ∧ tRestoring.Inv :=
  ⟨⟨by decide, by decide, by decide⟩, ⟨by decide, by decide, by decide⟩, ⟨by decide, by decide, by decide⟩,
   ⟨by decide, by decide, by decide⟩, by decide, by decide, by decide⟩
/-- Resets: a run of each scope, drained, at index 1. -/
def tReset (scope target : Nat) : ResetRun := { scope := scope, target := target, byFlr := false, fromPF := true, drained := true }
def tResets (scope target : Nat) : State := { tPart psResetting with resets := [tReset 0 2047, tReset scope target] }
theorem witness_resets : (∀ q, (tPart psRunning).partOf 0 = some q → (tPart psRunning).moving q = false)
    ∧ (tPart psSaving).partOf 0 = some 0 ∧ (tPart psSaving).moving 0 = true
    ∧ (tPart psRunning).tenArg 0 = 0 ∧ State.reset.partState 0 = psFree ∧ lookup (tPart psRunning).jobs 0 = some tJob
    ∧ (tPart psRunning).saved = [] ∧ (tPart psRunning).reqs = [] ∧ (tPhase phReady).ready = true ∧ (tPart psRunning).ready = false
    ∧ (tPart psRunning).minimal = false ∧ (tPart psSaving).partState 0 = psSaving ∧ lookup (tPart psSaving).recov 0 = none := by
  refine ⟨fun q h => ?_, by decide⟩
  have h0 : (tPart psRunning).partOf 0 = some 0 := by decide
  rw [h0] at h; cases h; decide
theorem witness_reset_complete : ∀ e ∈ [(0, 5), (1, 5), (2, 0)], (tResets e.1 e.2).resets[(1 : Nat)]? = some (tReset e.1 e.2)
    ∧ (tResets e.1 e.2).scopeDrained (tReset e.1 e.2) = true ∧ (tResets e.1 e.2).loadsWaiting = [] ∧ (tReset e.1 e.2).byFlr = false := by decide
def tTwo (x : ReqStream) : State :=
  { State.reset with host := { State.reset.host with vfEnable := true, numVfs := 2 }, streams := [(0, x)] }
theorem witness_flr : (tTwo { tStream with tenant := 1 }).vfLive 1 = true ∧ State.reset.vfLive 1 = false
    ∧ (∀ p, p < 128 → (tTwo { tStream with tenant := 1 }).ownerOf p ≠ some (1 : Tenant).val)
    ∧ (tTwo { tStream with tenant := 1 }).resets = [] ∧ lookup (tTwo { tStream with tenant := 1 }).streams 0 = some { tStream with tenant := 1 } := by decide
theorem witness_resets_sound : (tPart psRunning).Inv ∧ (tPart psSaving).Inv ∧ (tPhase phReady).Inv ∧ (tResets 1 5).Inv ∧ (tTwo tStream).Inv :=
  ⟨⟨by decide, by decide, by decide⟩, ⟨by decide, by decide, by decide⟩, ⟨by decide, by decide, by decide⟩,
   ⟨by decide, by decide, by decide⟩, by decide, by decide, by decide⟩
/-- TOKEN held after a clear; a key slot in use. -/
def tToken (w : Bool) : State := { State.reset with tokens := [(1, { until_ := 9, waiting := w })] }
theorem witness_causes : pfCause 0 = true ∧ pfCause 31 = false ∧ (lookup (tToken true).tokens 1).isSome = true ∧ lookup State.reset.tokens 1 = none
    ∧ (∀ c, c < 9 → bit (0x1FF#32).toNat c = true → bit (State.reset.get (TEN_VF_CAUSE_CAUSE 1)) c = false)
    ∧ (∀ c, c < 32 → bit (0xFFFFFFFF#32).toNat c = true → bit (State.reset.get TEN_PF_CAUSE_CAUSE) c = false)
    ∧ partFaults.contains (BitVec.ofNat 8 stPourStarved).toNat = true ∧ (tPart psRunning).partState 0 ≠ psFree
    ∧ (tPart psRunning).ownerOf 0 = some 0 ∧ ((tPart psRunning).setFlag (TEN_PART_CTRL_PF 0) true).ownerOf 0 = none := by decide
def tKeyed : State :=
  (tHarbor { harborReset with objs := [(0, { tFarObj with owner := some 7 })] } State.reset).put TEN_KEY_IDX_SLOT 7
theorem witness_keys : min 4096 (State.reset.get TEN_KEY_IDX_SLOT) < 4096 ∧ State.reset.keyHeld 0 = false
    ∧ min 4096 ((State.reset.put TEN_KEY_IDX_SLOT 4096).get TEN_KEY_IDX_SLOT) = 4096
    ∧ min 4096 (tKeyed.get TEN_KEY_IDX_SLOT) = 7 ∧ tKeyed.keyHeld 7 = true := by decide

/-- Core 0 is named by FENCE: in partition 0, running or loading, or in none; with and without spares left on island 0. -/
def tFenceCmd (st : Nat) (used : List Nat) : State :=
  { (tPart st).setCore 0 tCore with islands := [(0, { islandReset with fencedPos := used })] }
def tNoPart : State := { State.reset with islands := [(0, islandReset)] }
theorem witness_fence_core : (tFenceCmd psRunning []).get HUB_RCV_FENCE_LCORE = (0 : LCore).val ∧ (tFenceCmd psRunning []).fenced 0 = false
    ∧ (∀ p, p < 128 → (tFenceCmd psRunning []).partState p ≠ psLoading) ∧ (∀ p, p < 128 → tNoPart.partState p ≠ psLoading)
    ∧ tNoPart.corePart 0 = none ∧ (∃ q ∈ tNoPart.unusedSpares 0, q ≠ tNoPart.posOf 0 0)
    ∧ (tFenceCmd psRunning []).corePart 0 = some 0 ∧ (tFenceCmd psRunning []).partState 0 = psRunning
    ∧ (∃ q ∈ (tFenceCmd psRunning []).unusedSpares 0, q ≠ (tFenceCmd psRunning []).posOf 0 0)
    ∧ (∀ q ∈ (tFenceCmd psRunning spares).unusedSpares 0, q = (tFenceCmd psRunning spares).posOf 0 0)
    ∧ (tFenceCmd psRunning spares).fenced 0 = false
    ∧ lookup (tFenceCmd psRunning spares).jobs 0 ≠ none ∧ (tFenceCmd psRunning spares).flag HUB_RCV_CTRL_WITHDRAW = false
    ∧ (tFenceCmd psRunning spares).reqs = [] ∧ (tFenceCmd psLoading []).partState 0 = psLoading ∧ (tFenceCmd psLoading []).fenced 0 = false := by decide
theorem witness_fence_core_sound : (tFenceCmd psRunning []).Inv ∧ (tFenceCmd psRunning spares).Inv ∧ (tFenceCmd psLoading []).Inv ∧ tNoPart.Inv :=
  ⟨⟨by decide, by decide, by decide⟩, ⟨by decide, by decide, by decide⟩, ⟨by decide, by decide, by decide⟩, by decide, by decide, by decide⟩
def tPersist : State :=
  (tFenceCmd psRunning []).setCore 0 { tCore with steps := [{ tStep with mis := none, recomputed := true }] }
theorem witness_persistent : tPersist.ladleLive 0 = true ∧ (tPersist.core 0).steps = [{ tStep with mis := none, recomputed := true }]
    ∧ tPersist.corePart 0 = some 0 ∧ tPersist.partState 0 = psRunning
    ∧ (∃ q ∈ tPersist.unusedSpares 0, q ≠ tPersist.posOf 0 0) := by decide
/-- A recovery of core 0 in partition 0 in phase `n`, its cores stopped, with nothing to replay. -/
def tRecov (n : Nat) : Recovery :=
  { phase := n, lcore := 0, detected := 0, second := false, resumeAt := if n = 7 then some 512 else none, noSpare := false, overflow := false }
def tRecovering (n : Nat) : State :=
  { tFenceCmd psRecovering [] with
    recov := [(0, tRecov n)], spools := [(0, [])], cores := (List.range 16).map fun c => (c, { coreReset with preempt := true }) }
theorem witness_recovery : (∀ n < 8, lookup (tRecovering n).recov 0 = some (tRecov n) ∧ (tRecov n).phase = n)
    ∧ (tRecovering 3).partDrained 0 = true ∧ lookup (tRecovering 3).jobs 0 = some tJob ∧ tJob.peers = []
    ∧ ((tRecovering 3).setCore 0 { coreReset with sends := 1 }).partDrained 0 = false
    ∧ ((tRecovering 4).recov.filter fun e => decide (5 ≤ e.2.phase)).length < 8 ∧ (tRecov 5).overflow = false
    ∧ (tRecovering 5).unusedSpares 0 ≠ [] ∧ lookup (tRecovering 6).spools 0 = some [] ∧ (tRecov 7).resumeAt = some 512
    ∧ (tRecovering 7).saves = [] := by decide
theorem witness_recovery_sound : ∀ n < 8, rising (tRecovering n).regs = true ∧ Memory.wf (tRecovering n) = true
    ∧ (tRecovering n).fuses.sound = true := by decide
/-- Island 0 with its rail up; partition 0 with an object and a pour in harbor 3. -/
def tIslandUp (n : Nat) : State := { tPart psRunning with islands := [(0, { islandReset with railUp := true, over115 := n })] }
def tOnHarbor : State :=
  { tHarbor { harborReset with streams := [(5, tPour)], reqs := [tStage] } (tPart psRunning) with
    jobs := [(0, { tJob with handle := 0xC0000000 })] }
theorem witness_faults : bit ((tPart psRunning).get (ISL_FLT_STATUS_RTR_FENCED ((tPart psRunning).phys (0 / 8)))) (0 % 8) = false
    ∧ bit (((tPart psRunning).put (ISL_FLT_STATUS_RTR_FENCED 0) 1).get (ISL_FLT_STATUS_RTR_FENCED 0)) (0 % 8) = true
    ∧ (tPart psRunning).partOf 0 = some 0 ∧ lookup (tPart psRunning).jobs 0 ≠ none ∧ (tPart psRunning).partOf 9 = none
    ∧ (tIslandUp 4).flag (ISL_FLT_STATUS_QUENCHED 0) = false ∧ ((tIslandUp 4).isl 0).railUp = true ∧ 4 ≤ ((tIslandUp 4).isl 0).over115
    ∧ (tPart psRunning |>.isl 0).railUp = false ∧ (tIslandUp 4).streams = [] ∧ (tIslandUp 4).partOnIsland 0 0 = true
    ∧ (tOnHarbor.harbor 3).fenced = false ∧ tOnHarbor.onHarbor 0 3 = true
    ∧ ((tHarbor { harborReset with fenced := true } State.reset).harbor 3).fenced = true ∧ (tPhase phHub).pads.hubRail = true
    ∧ State.reset.pads.hubRail = false := by decide
theorem witness_faults_sound : (tIslandUp 4).Inv ∧ tOnHarbor.Inv := ⟨⟨by decide, by decide, by decide⟩, by decide, by decide, by decide⟩

/-- The pair runs; channel 1 holds `a`, island 5's search at code 2. -/
def tAnneal (v : Int) (up : Option Bool) (f : Option Int) : Anneal := { newAnneal 5 2 1 5 0 with v := v, upward := up, final := f }
def tChannels (a : Option Anneal) (c : Option Nat) : State :=
  let s := ((tPhase phReady).put (ISL_GOV_STATUS_STEP 5) 2)
  { s with exk := { s.exk with channels := [some (newAnneal 4 0 0 5 0), a, none, none], annealQ := [newAnneal 5 2 1 5 0] },
           islands := [(5, { islandReset with railUp := true, restartCls := c })] }
theorem witness_anneal : (tChannels none none).exk.channels.length = 4 ∧ (tChannels none none).exk.annealQ = [newAnneal 5 2 1 5 0]
    ∧ (tChannels none none).exk.fwRunning = true ∧ (tChannels none none).channel 1 = none
    ∧ (∀ c : Nat, c < (1 : Fin 4).val → ((tChannels none none).channel c).isSome = true) ∧ State.reset.exk.annealQ = []
    ∧ (newAnneal 5 2 1 5 0).island < 16 ∧ (newAnneal 5 2 1 5 0).code < 5
    ∧ (tChannels (some (tAnneal 5 none none)) (some 2)).channel 1 = some (tAnneal 5 none none)
    ∧ ((tChannels (some (tAnneal 5 none none)) (some 2)).isl 5).restartCls = some 2
    ∧ ((tChannels (some (tAnneal 5 none none)) none).isl 5).restartCls = none := by decide
theorem witness_canary : (tAnneal 60 none none).final = none ∧ (tAnneal 60 none none).v ≤ 60 ∧ (tAnneal 60 none none).upward ≠ some false
    ∧ (tAnneal 60 (some true) none).upward = some true ∧ -55 ≤ (tAnneal (-55) none none).v ∧ (tAnneal (-60) none none).v < -55
    ∧ (tAnneal 0 (some false) none).upward = some false ∧ (tAnneal 0 none (some (-60))).final = some (-60)
    ∧ (tAnneal 0 none (some 60)).cls < 4 ∧ (tAnneal 0 none (some 60)).code = (tChannels none none).get (ISL_GOV_STATUS_STEP 5)
    ∧ (tChannels none none).get (ISL_ANL_STATUS_LOAD_CLASS 5) ≤ (tAnneal 0 none (some 60)).cls
    ∧ (tAnneal 0 none (some 65)).final = some 65 ∧ (60 : Int) < (tAnneal 65 (some true) none).v := by decide
/-- The pair before and after a restart, with `n` restarts in the last 600 s. -/
def tPair (n : Nat) (again : Bool) : State :=
  let s := tPhase phReady
  { s with exk := { s.exk with restarts := List.replicate n 0, restarting := again, preferred := 1, fwRunning := !again } }
theorem witness_pair : (tPair 1 false).exk.powered = true ∧ (tPair 1 false).exk.restarting = false ∧ (tPair 1 false).flag MGT_STATUS_HELD = false
    ∧ (tPair 1 false).exk.fwRunning = true ∧ (tPair 1 false).starting = false
    ∧ ((tPair 1 false).exk.uptimeUs :: (tPair 1 false).exk.restarts.filter fun t => decide ((tPair 1 false).exk.uptimeUs ≤ t + 600000000)).length < 3
    ∧ 3 ≤ ((tPair 2 false).exk.uptimeUs :: (tPair 2 false).exk.restarts.filter fun t => decide ((tPair 2 false).exk.uptimeUs ≤ t + 600000000)).length
    ∧ (tPhase phHub).starting = true ∧ (tPhase phHub).exk.fwRunning = true ∧ State.reset.exk.powered = false
    ∧ (tPair 1 true).exk.restarting = true ∧ (tPair 1 true).exk.preferred < 2 := by decide
/-- Sensors: one die at 125 °C, seen once before or not. -/
def tSensors (seen : List Nat) : State := let s := tPhase phReady; { s with exk := { s.exk with hotSeen := seen } }
theorem witness_telemetry : State.reset.exk.powered = false ∧ (tSensors []).exk.powered = true
    ∧ ((hotSensors [[20], [125]]).any fun k => (tSensors []).exk.hotSeen.contains k) = false
    ∧ ((hotSensors [[20], [125]]).any fun k => (tSensors (hotSensors [[20], [125]])).exk.hotSeen.contains k) = true
    ∧ ((tSensors []).pads.thermtripL = true) ∧ (tSensors []).get MGT_PWR_CTRL_WARN_W < min 65535 (([60000] : List Nat).foldl (· + ·) 0)
    ∧ (tSensors []).exk.powerWarned = false ∧ min 65535 (([100] : List Nat).foldl (· + ·) 0) ≤ (tSensors []).get MGT_PWR_CTRL_WARN_W
    ∧ 15200 < min 65535 (([60000] : List Nat).foldl (· + ·) 0) := by decide
def tLogs : State := (tPhase phReady).setFlag (HBR_FTL_STATUS_MOUNTED 0) true
theorem witness_log_copy : tLogs.farLogOk = true ∧ (tLogs.exk.farLog ++ tLogs.exk.staged.take 3).length ≤ 1048576
    ∧ State.reset.farLogOk = false := by decide

/-- The firmware runs, with records 7 and 8 staged; the same in minimal mode. -/
def tRec (n : Word) : EvRec :=
  { tick := 0, seq := n, kind := 0, sev := 0, source := 0, part := none, core := none, status := 0, payload := [], cold := 0 }
def tMbx (p : Nat) (a : Nat) : State :=
  let s := (tPhase p).put (MGT_MBX_ARG_ARG 0) a
  { s with exk := { s.exk with staged := [tRec 7, tRec 8] }, islands := [(0, { islandReset with railUp := true })] }
theorem witness_mailbox : State.reset.exk.fwRunning = false ∧ (tMbx phMinimal 0).minimal = true ∧ (tMbx phMinimal 0).exk.fwRunning = true
    ∧ (tMbx phReady 0).exk.fwRunning = true ∧ (tMbx phReady 0).minimal = false
    ∧ (tMbx phReady 8).exk.farLog ++ (tMbx phReady 8).exk.staged = [tRec 7] ++ tRec 8 :: [] ∧ (tRec 8).seq = (tMbx phReady 8).reg (MGT_MBX_ARG 0)
    ∧ (∀ q ∈ [tRec 7], q.seq ≠ (tRec 8).seq) ∧ (∀ q ∈ [tRec 7, tRec 8], q.seq ≠ (tMbx phReady 5).reg (MGT_MBX_ARG 0))
    ∧ ((tRec 7).seq - (tMbx phReady 5).reg (MGT_MBX_ARG 0)).toNat < 2 ^ 31
    ∧ 2 ^ 31 ≤ ((tRec 7).seq - (tMbx phReady 9).reg (MGT_MBX_ARG 0)).toNat
    ∧ (tMbx phReady 512).get (MGT_MBX_ARG_ARG 0) % 256 = 0 ∧ (tMbx phReady 512).get (MGT_MBX_ARG_ARG 0) < 262144
    ∧ (tMbx phReady 5).get (MGT_MBX_ARG_ARG 0) % 256 ≠ 0 ∧ (tMbx phReady 0).exk.ownerDigest = none := by decide
theorem witness_mailbox_islands : 16 ≤ (tMbx phReady 16).get (MGT_MBX_ARG_ARG 0) ∧ (tMbx phReady 0).get (MGT_MBX_ARG_ARG 0) < 16
    ∧ (tMbx phReady 0).flag (ISL_FLT_STATUS_QUENCHED 0) = false ∧ ((tMbx phReady 0).isl 0).railUp = true
    ∧ ((tMbx phReady 1).isl 1).railUp = false ∧ (tMbx phReady 0).annealOf 0 = none ∧ (tMbx phReady 0).ready = true
    ∧ (tMbx phHub 0).ready = false ∧ (tMbx phHub 0).minimal = false ∧ (tMbx phReady 0).exk.powered = true
    ∧ (tMbx phReady 0).flag MGT_MBX_MSG_PENDING = false ∧ ((tMbx phReady 0).setFlag MGT_MBX_MSG_PENDING true).flag MGT_MBX_MSG_PENDING = true := by
  decide
def tKeyCmd (n : Nat) : KeyCmd := { owner := 5, key := 6, index := n, seq := 1, minSec := 0, r := 0, s := 0 }
def tOwned (k : KeyCmd) : State :=
  let s := tMbx phReady 0
  { s with exk := { s.exk with ownerDigest := some (Config.sha384 (leBytes 96 k.owner.toNat)) } }
theorem witness_key : 8 ≤ (tKeyCmd 8).index ∧ (tKeyCmd 7).index < 8 ∧ (tMbx phReady 0).exk.ownerDigest ≠ some (Config.sha384 (leBytes 96 5))
    ∧ (tOwned (tKeyCmd 7)).exk.keys.length = 8
    ∧ (tOwned (tKeyCmd 7)).exk.ownerDigest = some (Config.sha384 (leBytes 96 (tKeyCmd 7).owner.toNat))
    ∧ (tOwned (tKeyCmd 7)).exk.keySeq < (tKeyCmd 7).seq.toNat := ⟨by decide, by decide, nofun, by decide, rfl, by decide⟩
theorem witness_mailbox_sound : ∀ e ∈ [(phMinimal, 0), (phReady, 8), (phReady, 5), (phReady, 512), (phHub, 0)],
    rising (tMbx e.1 e.2).regs = true ∧ Memory.wf (tMbx e.1 e.2) = true ∧ (tMbx e.1 e.2).fuses.sound = true := by decide
/-- A firmware update in state `u` with 4 bytes received. -/
def tUpdate (u : UpdState) (ok : Bool) : State :=
  let s := tPhase phReady
  { s with exk := { s.exk with update := u, updateBuf := [1, 2, 3, 4], verified := ok } }
theorem witness_update : State.reset.pldmUp = false ∧ (∀ u ∈ [UpdState.idle, .learn, .ready, .download, .verify, .apply],
      (tUpdate u true).pldmUp = true ∧ (tUpdate u true).exk.update = u)
    ∧ (4 = (tUpdate .download false).exk.updateBuf.length) ∧ ([5] : List Byte).length ≤ 4096 ∧ 4 + ([5] : List Byte).length ≤ 15 * 1048576
    ∧ (tUpdate .ready true).exk.slots.length = 2 ∧ (tUpdate .ready true).exk.verified = true ∧ (tUpdate .ready true).exk.fwRunning = true
    ∧ (tUpdate .ready false).exk.verified = false := by decide
def tTrial : State :=
  let s := tPhase phReady
  { s with exk := { s.exk with slots := [{ image := [], active := false, trial := true, failed := false },
                                         { image := [], active := true, trial := false, failed := false }], uptimeUs := 600000000 } }
theorem witness_trial : tTrial.exk.fwRunning = true ∧ (tTrial.fwSlot (tTrial.get MGT_STATUS_SLOT)).trial = true
    ∧ tTrial.exk.trialSince + 600000000 ≤ tTrial.exk.uptimeUs ∧ tTrial.exk.slots.length = 2 := by decide
theorem witness_out_of_band : (tMbx phReady 0).pldmUp = true ∧ State.reset.pldmUp = false ∧ 6 < (10#8).toNat ∧ (10#8) ≠ 9
    ∧ (0#8) ≠ 9 ∧ (3#8).toNat ≤ 6 ∧ 10 < (11#8).toNat := by decide

/-- A package whose host link is up, in phase `p`. -/
def tLinked (p : Nat) : State :=
  let s := (tHarbor { harborReset with objs := [(0, tObj), (1, { tImg with near := [(0, 8192), (1, 8193)] })] } (tPhase p))
  { s with pads := { s.pads with perstL := true, harborRail := true }, host := { s.host with held := false } }
def tHostVfs : State :=
  let s := tLinked phReady
  { s with host := { s.host with vfEnable := true, numVfs := 1 }, streams := [(0, tStream)] }
theorem witness_host : (tLinked phReady).linkUp = true ∧ (tLinked phReady).ready = true ∧ (tLinked phHub).ready = false
    ∧ (tLinked phHub).minimal = false ∧ State.reset.linkUp = false ∧ (tLinked phReady).host.vfEnable = false ∧ tHostVfs.host.vfEnable = true
    ∧ tHostVfs.host.numVfs ≤ 4096 ∧ (∀ e ∈ tHostVfs.streams, e.2.tenant < tHostVfs.host.numVfs) ∧ tHostVfs.saved = [] ∧ tHostVfs.resets = [] := by
  decide
/-- Every partition is the PF's. -/
def tAllPF : State := (List.range 128).foldl (fun s p => s.setFlag (TEN_PART_CTRL_PF p) true) tHostVfs
theorem witness_host_parts : (∀ p, p < 128 → tAllPF.ownerOf p = none) ∧ tAllPF.host = tHostVfs.host := by decide +kernel
/-- Aperture 1 of kind `k` at target `t`, page `p`. -/
def tApt (k t p : Nat) : State :=
  (((tLinked phReady).put (HUB_APT_CTRL_KIND 1) k).put (HUB_APT_TGT_TGT 1) t).put (HUB_APT_PAGE_PAGE 1) p
set_option maxRecDepth 8000 in
theorem witness_apertures : (tApt 0 0 0).linkUp = true ∧ (tApt 0 0 0).host.d3hot = false ∧ (tApt 0 0 0).get (HUB_APT_CTRL_KIND 1) = 0
    ∧ (tApt 1 5 0).get (HUB_APT_CTRL_KIND 1) = 1 ∧ (tApt 1 5 0).get (HUB_APT_TGT_TGT 1) = 5 ∧ (tApt 1 5 0).obj 5 = none
    ∧ (tApt 1 0xC0000000 2).obj 0xC0000000 = some tObj ∧ tObj.pages ≤ (tApt 1 0xC0000000 2).get (HUB_APT_PAGE_PAGE 1) + (65535#32).toNat / 65536
    ∧ (65535#32).toNat % 65536 + 1 ≤ 65536 ∧ (tApt 1 0xC0000000 1).get (HUB_APT_PAGE_PAGE 1) < tObj.pages
    ∧ (tApt 1 0xC0000000 0).harborOn 3 = true ∧ tObj.sealed = false ∧ lookup tObj.near 1 = some 4097 ∧ lookup tObj.mid 1 = none
    ∧ lookup tObj.far 1 = none ∧ ((tApt 1 0xC0000000 0).harbor 3).moves = []
    ∧ (4095#32).toNat % 65536 / 4096 = ((4095#32).toNat % 65536 + 1 - 1) / 4096
    ∧ (tApt 1 0xC0000001 0).obj 0xC0000001 = some { tImg with near := [(0, 8192), (1, 8193)] } ∧ tImg.sealed = true
    ∧ (tApt 3 0 4096).get (HUB_APT_CTRL_KIND 1) = 3 ∧ (tApt 3 0 4096).flag HUB_TIDE_STATUS_JOB_LOCK = false
    ∧ (tApt 3 0 4096).ready = true ∧ ((tApt 3 0 4096).harbor ((tApt 3 0 4096).get (HUB_APT_CTRL_HARBOR 1))).fenced = false
    ∧ (tApt 3 0 4096).flag (HUB_APT_CTRL_TIER 1) = false ∧ (4096 ≤ (tApt 3 0 4096).get (HUB_APT_PAGE_PAGE 1))
    ∧ ((tApt 3 0 4096).setFlag HUB_TIDE_STATUS_JOB_LOCK true).flag HUB_TIDE_STATUS_JOB_LOCK = true ∧ (tApt 3 0 4096).minimal = false := by decide
def tAptBoard (v : Bool) : State := (((tApt 2 0 0).setFlag RVR_MODE_BW true).setFlag (RVR_BOARD_EP_V 0) v).put (RVR_BOARD_EP_EP 0) 5
theorem witness_apertures_board : ((tAptBoard true).boardDest (0 % 2 ^ 20 * 2 ^ 32 + (64#32).toNat)) = some 5
    ∧ (tAptBoard true).get (HUB_APT_CTRL_KIND 1) = 2
    ∧ ((tAptBoard false).boardDest (0 % 2 ^ 20 * 2 ^ 32 + (64#32).toNat)) = none ∧ (64#32).toNat % 64 = 0
    ∧ (List.replicate 64 (1 : Byte)).length % 64 = 0 := by decide
/-- Tenant 0 with its function and EN, owner of partition 0 and of object 0 of harbor 3. -/
def tTenant (s : State) : State :=
  { s.setFlag (TEN_VF_CTRL_EN 0) true with host := { s.host with vfEnable := true, numVfs := 1 } }
theorem witness_tenant : State.reset.vfLive 0 = false ∧ (tTenant State.reset).vfLive 0 = true
    ∧ (tTenant State.reset).flag (TEN_VF_CTRL_EN 0) = true ∧ tHostVfs.vfLive 0 = true ∧ tHostVfs.flag (TEN_VF_CTRL_EN 0) = false := by decide
def tTenLoad : State :=
  tTenant ((tHarbor { harborReset with objs := [(0, { tImg with owner := some 0 })] } (tLoading psIdle [])).put (DB_ARG_ARG 0 1) 0xC0000000)
theorem witness_tenant_load : tTenLoad.ready = true ∧ tTenLoad.partState 0 = psIdle
    ∧ tTenLoad.mayLoad (loadReqOf (tTenLoad.get (DB_ARG_ARG 0 0)) (tTenLoad.get (DB_ARG_ARG 0 1)) (tTenLoad.get (DB_ARG_ARG 0 2)) (some 0)) = true
    ∧ tTenLoad.unserved 0 = false ∧ (tTenant (tLoading psIdle [])).mayLoad (loadReqOf 0 0xC0000000 0 (some 0)) = false
    ∧ (tTenant State.reset).ready = false := by decide
def tTenMove (st : Nat) (x : HarborSt) : State := tTenant (tMover st x)
theorem witness_tenant_moves : (tTenMove psRunning harborReset).mayCommand (some 0) 0 = true
    ∧ (tTenMove psRunning harborReset).minimal = false ∧ (tTenMove psRunning harborReset).saves = []
    ∧ (tTenMove psRunning harborReset).saveSetOk 0 ((tTenMove psRunning harborReset).saveSet 0
        (setWords ((List.range 6).map fun n => (tTenMove psRunning harborReset).get (DB_ARG_ARG 0 n)))) = true
    ∧ (tTenMove psRunning harborReset).partState 0 = psRunning
    ∧ (tTenant ((tMover psRunning harborReset).setFlag (TEN_PART_CTRL_PF 0) true)).mayCommand (some 0) 0 = false
    ∧ (tTenMove psIdle harborReset).partState 0 = psIdle
    ∧ ((tTenant tSavedIn).setOf 0 ((tTenant tSavedIn).saveSet 0
        (setWords ((List.range 6).map fun n => (tTenant tSavedIn).get (DB_ARG_ARG 0 n))))).isSome = true
    ∧ (tTenant tSavedIn).imageThere tSavedJob.job = true ∧ (tTenant tSavedIn).flag (HUB_RCV_PART_FENCED 0) = false
    ∧ (tTenMove psIdle harborReset).setOf 0 ((tTenMove psIdle harborReset).saveSet 0
        (setWords ((List.range 6).map fun n => (tTenMove psIdle harborReset).get (DB_ARG_ARG 0 n)))) = none := by decide
theorem witness_tenant_discard : ((tTenant tSavedIn).saved.find? fun j => j.live && j.handles.contains
      (some ((tTenant tSavedIn).get (DB_ARG_ARG 0 2)))) = some tSavedJob ∧ tSavedJob.owner = some (0 : Tenant).val
    ∧ { tSavedJob with owner := none }.owner ≠ some (0 : Tenant).val ∧ ((tTenant tSavedIn).restores.any fun r => tSavedJob.named r) = false
    ∧ tSavedJob.owner = some 0 ∧ (0 : Nat) < 4096 := by decide
theorem witness_tenant_reset : ((tTenant (tPart psRunning)).put (DB_ARG_ARG 0 0) 2).get (DB_ARG_ARG 0 0) % 8 = 2
    ∧ ((tTenant (tPart psRunning)).put (DB_ARG_ARG 0 0) 2).mayCommand (some 0) (bitsOf 2 3 7) = true
    ∧ lookup (tTenant (tPart psRunning)).jobs 0 = some tJob ∧ (tTenant (tPart psRunning)).saved = [] ∧ (tTenant (tPart psRunning)).reqs = []
    ∧ (tTenant (tPart psRunning)).get (DB_ARG_ARG 0 0) % 8 ≠ 2 := by decide
theorem witness_tenant_sound : ∀ s ∈ [tTenant State.reset, tTenLoad, tTenMove psRunning harborReset, tTenant tSavedIn, tTenant (tPart psRunning)],
    rising s.regs = true ∧ Memory.wf s = true ∧ s.fuses.sound = true := by decide
/-- Objects of tenant 0 in harbor 3: object 0, near; object 1, a committed weight object; a command on `i`. -/
def tTenObj (i a1 a2 : Nat) : State :=
  let s := tTenant (tHarbor { harborReset with objs := [(0, { tObj with owner := some 0 }), (1, { tImg with owner := some 0 }),
    (2, { tWeight with owner := some 0 })] } (tLinked phReady))
  (((s.put (DB_ARG_ARG 0 0) (0xC0000000 + i)).put (DB_ARG_ARG 0 1) a1).put (DB_ARG_ARG 0 2) a2).put (DB_ARG_ARG 0 3) 3
theorem witness_tenant_objects : (tTenObj 0 0 0).vfLive 0 = true ∧ (tTenObj 0 0 0).flag (TEN_VF_CTRL_EN 0) = true
    ∧ (tTenObj 0 0 0).get (DB_ARG_ARG 0 3) % 4 = 3 ∧ (tTenObj 0 0 0).flag (DB_ASYNC_OBJ_BUSY 0) = false
    ∧ (tTenObj 0 0 0).harborOn 3 = true ∧ (tTenant State.reset).harborOn 3 = false ∧ ((tTenObj 0 0 0).harbor 3).runs = []
    ∧ (tTenObj 0 0 0).objFor 3 0xC0000000 (some 0) = some { tObj with owner := some 0 } ∧ (tTenObj 5 0 0).objFor 3 0xC0000005 (some 0) = none
    ∧ (tTenObj 2 0 0).objFor 3 0xC0000002 (some 0) = some { tWeight with owner := some 0 } ∧ tWeight.cls = 0 ∧ bit tWeight.mask 2 = false
    ∧ (tTenObj 0 0 2).get (DB_ARG_ARG 0 2) < 2 ^ 25 ∧ tObj.holds 0 (bitsOf 2 0 24) = true ∧ bit tObj.mask 0 = true
    ∧ tObj.missing 0 (bitsOf 2 0 24) = [] ∧ ((tTenObj 0 0 0).setFlag (DB_ASYNC_OBJ_BUSY 0) true).flag (DB_ASYNC_OBJ_BUSY 0) = true := by decide
/-- The state in which a tenant's object command begins. -/
def tTenBegun (i a1 a2 : Nat) : State :=
  ((tTenObj i a1 a2).setFlag (DB_ASYNC_OBJ_BUSY 0) true).setHarbor 3 { (tTenObj i a1 a2).harbor 3 with runs := [] }
theorem witness_tenant_create : bit (2 ^ 13 + 2 ^ 16) 12 = false ∧ bitsOf (2 ^ 13 + 2 ^ 16) 0 12 = (0 : Tenant).val
    ∧ ((tTenBegun 0 0 0).objCreate 3 (2 ^ 13 + 2 ^ 16) 1 0 (some 0)).isSome = true
    ∧ (tTenBegun 0 0 0).objCreate 3 (2 ^ 13 + 2 ^ 16) 0 0 (some 0) = none
    ∧ ((tTenBegun 0 (3 * 65536) 0).objSetMask 3 0xC0000000 { tObj with owner := some 0 } (bitsOf (3 * 65536) 16 3)).isSome = true
    ∧ (3 * 65536) % 65536 = 0 ∧ 3 * 65536 < 2 ^ 19 ∧ bit (2 ^ 12) 12 = true := by decide
theorem witness_tenant_pages : (tTenObj 0 0 2).objFor 3 0xC0000000 (some 0) = some { tObj with owner := some 0 }
    ∧ tObj.holds 0 (2 % 2 ^ 24) = true ∧ (tTenObj 0 0 2).get (DB_ARG_ARG 0 3) % 4096 ≠ 0
    ∧ ((tTenObj 0 0 2).put (DB_ARG_ARG 0 3) 4096).get (DB_ARG_ARG 0 3) % 4096 = 0 ∧ { tObj with owner := some 0 }.sealed = false
    ∧ { tImg with owner := some 0 }.sealed = true := by decide
theorem witness_tenant_streams : (streamArgs 0x1000 0 0x2000 0 0 false).isSome = true ∧ lookup (tTenant State.reset).streams 0 = none
    ∧ streamArgs 0x1001 0 0x2000 0 0 false = none ∧ lookup (tTenant (tServe tStream)).streams 0 = some tStream ∧ tStream.tenant = (0 : Tenant).val
    ∧ { tStream with tenant := 1 }.tenant ≠ (0 : Tenant).val := by decide

/-- A plain register of BAR0, HUB_APT_PAGE of aperture 1, and writes that are whole, partial, clamped, or nowhere. -/
def tPageKey : Nat := (HUB_APT_PAGE 1).addr
def tFamOf (k : Nat) : RegFam × List Nat := (regAt k).getD (⟨"", 0, [], 0, []⟩, [])
theorem witness_register : (tLinked phReady).linkUp = true ∧ (tLinked phReady).host.d3hot = false ∧ State.reset.linkUp = false
    ∧ { State.reset.host with d3hot := true }.d3hot = true ∧ tPageKey = 4 * (BitVec.ofNat 26 (tPageKey / 4)).toNat ∧ tPageKey < 0x7000
    ∧ (regAt tPageKey).isSome = true ∧ (tLinked phReady).blockLive tPageKey = true ∧ (tFamOf tPageKey).1.addr ∉ actingRegs
    ∧ ((tLinked phReady).takeWord (tFamOf tPageKey).1 (tFamOf tPageKey).2 0 5).2 = false
    ∧ ((tLinked phReady).takeWord (tFamOf tPageKey).1 (tFamOf tPageKey).2 0 0xFFFFFFFF).2 = true
    ∧ regAt 0xFFFFC = none ∧ (5 : BitVec 4) ≠ 0 ∧ (5 : BitVec 4) ≠ 15 ∧ tPageKey + 4 < 2 ^ 28 ∧ tPageKey + 4 < 0x7000 := by decide +kernel
theorem witness_register_two : ∃ u, exec (.registerWrite false 0x1806 5 0 none) (tLinked phReady) = .next u ∧ u.linkUp = true
    ∧ u.host.d3hot = false := ⟨tLinked phReady, rfl, by decide, by decide⟩
/-- The doorbell page of tenant 0: whole writes of values at the ends of their ranges, and an offset without a register. -/
theorem witness_page : tHostVfs.linkUp = true ∧ tHostVfs.vfLive 0 = true ∧ tHostVfs.vfLive 1 = false ∧ (511#32).toNat < 512
    ∧ (65535#32).toNat < 65536 ∧ (127#32).toNat < 128 ∧ bit (511#32).toNat cToken = true
    ∧ bit ((tHostVfs.put (TEN_VF_CAUSE_CAUSE 0) 511).get (TEN_VF_CAUSE_CAUSE 0)) cToken = true := by decide
theorem witness_page_hole : regAt (0x10000000 + 0x10000 * (0 : Tenant).val + 0x1FFC) = none ∧ 0x1FFC % 4 = 0 := by decide +kernel
def tFabricUp : State :=
  let s := State.reset.put MGT_BOOT_FAB_FAB_OK 0xFFFF
  { s with pads := { s.pads with fabricRail := true } }
theorem witness_watchdog_limit : tFabricUp.fabricUp 3 = true ∧ (100 ≤ (100#32).toNat ∧ (1000000#32).toNat ≤ 1000000)
    ∧ ((99#32).toNat < 2 ^ 20 ∧ (99#32).toNat < 100) ∧ ((1000001#32).toNat < 2 ^ 20 ∧ 1000000 < (1000001#32).toNat) := by decide

/-- A queue of one command; the tide running and stopped. -/
def tQueue : State := { tRun with pending := [.fseqGo 0] }
def tTideRuns (b : Bool) : State := { State.reset with tide := { State.reset.tide with running := b } }
theorem witness_queue : tQueue.pending = Instr.fseqGo 0 :: [] ∧ (tTideRuns true).pending = [] ∧ (tTideRuns true).tide.running = true
    ∧ (tTideRuns false).tide.running = false := by decide
theorem witness_step_keeps : tQueue.Inv ∧ ∃ t, step tQueue = .next t := ⟨⟨by decide, by decide, by decide⟩, _, rfl⟩
theorem witness_command : ∃ t, exec (.fseqGo 0) tRun = .next t := ⟨_, rfl⟩
theorem witness_well_formed : (Instr.fseqGo 0).wf = true ∧ (Instr.mirrorAck 31 0xFFFFF 0).wf = true := by decide
/-- Reserved codes of the core instructions. -/
theorem witness_reserved : Machine.matLegal { tMatF with walk := 3 } = false ∧ 9 < (15 : BitVec 4).toNat ∧ 2 < (3 : BitVec 4).toNat
    ∧ 12 < (13 : BitVec 4).toNat ∧ 9 < (BitVec.ofNat 8 10).toNat % 256 ∧ (BitVec.ofNat 8 7).toNat % 256 ≠ 6 := by decide
/-- Tenant 0 commands beside the PF's partition 0. -/
def tBeside : State := tTenant ((tPart psRunning).setFlag (TEN_PART_CTRL_PF 0) true)
theorem witness_tenant_reach : (∀ e ∈ tBeside.streams, e.2.tenant < 4096) ∧ tBeside.saved = [] ∧ tBeside.harbors = []
    ∧ tBeside.ownerOf 0 ≠ some (0 : Tenant).val := by decide
theorem witness_tenant_reach_sound : tBeside.Inv ∧ (∀ h, ∀ r ∈ (tBeside.harbor h).runs, ∀ n, r.via = some n → n < 4096)
    ∧ ∃ t, exec (.dbPreempt 0) tBeside = .next t :=
  ⟨⟨by decide, by decide, by decide⟩, (fun _ _ hr => nomatch (show _ ∈ ([] : List ObjRun) from hr)), _, rfl⟩
theorem witness_tide : tRun.anyJob = true ∧ Instr.fseqGo 0 ≠ .deskewDone ∧ tRun.tide.now.toNat + 2 < 2 ^ 64 := by decide

/-! ### Ill-formed commands are refused by the check -/

def tBad : Granule := { plainGranule [] with data := [] }
theorem smoke_core : ∀ i ∈ [Instr.mm 0 { tMatF with walk := 3 }, .mmac 0 { tMatF with cvt := 0xB }, .vsfu 0 { tV with fn := 10 },
    .vred 0 { tV with fn := 3 }, .vld 0 { tV with fn := 11 }, .vst 0 { tV with cvt := 0xB }, .rmax 0 { tS with fmt := 11 },
    .rsum 0 { tS with fmt := 11 }, .rmean 0 { tS with fmt := 11 }, .rvar 0 { tS with fmt := 11 }, .rminmax 0 { tS with fmt := 11 },
    .alu 0 { tA with fn := 13 }, .alui 0 { tA with fn := 13 }, .amov 0 { tA with fn := 3 }, .get 0 { tA with imm := 10 },
    .put 0 { tA with imm := 5 }], i.wf = false := by decide
set_option maxRecDepth 8000 in
theorem smoke_granules : ∀ gs ∈ [[], [tBad]], ∀ i ∈ [Instr.ringFillArrival 0 0 0 0 gs true, .remoteWriteWindow 0 0 false 0 gs,
    .remoteWriteCredit 0 0 0 gs, .packetCommit 0 0 gs [], .scoreWrite 0 0 0 0 gs, .pageMoveRestart 0 0 0 gs, .candidateRecord 0 0 0 gs false,
    .packet 0 0 0 0 gs, .write 0 0 0 0 0 none gs, .ferryData 0 0 0 0 0 0 gs, .boardWr 0 0 0 0 gs, .boardData 0 0 gs,
    .transitForward 0 0 0 0 0 0 0 false 0 0 0 false gs], i.wf = false := by decide
theorem smoke_sizes : ∀ i ∈ [Instr.registerWrite false 1 0 15 (some (0, 15)), .governorEvaluation 0 [] 0,
    .packetCommit 0 0 [plainGranule []] [8], .gets 0 0 (2 ^ 34) false, .getm 0 0 (2 ^ 34) false, .puts 0 0 (2 ^ 34) false,
    .putm 0 0 (2 ^ 34) false, .pagePromote 0 0 (2 ^ 24), .stepMessageReceive 0 0 0 [{ slot := 256, pos := 0, count := 0, sample := false, isNew := false, toks := [], blocks := [] }],
    .stepMessageReceive 0 0 0 [{ slot := 0, pos := 0, count := 1, sample := false, isNew := false, toks := [], blocks := [] }],
    .servingFailover 0 0 [{ stream := 0, slot := 0, hdr := [], count := 0 }], .boardRd 0 0 0 0 0, .boardRd 0 0 0 0 257,
    .sensorSample [] (List.replicate 12 0) [] false, .sensorSample (List.replicate 25 []) (List.replicate 12 0) [] false,
    .sensorSample (List.replicate 25 (List.replicate 16 0)) [] [] false, .powerReport [] 0, .apertureRead 0 0 0, .apertureRead 0 4095 2,
    .apertureWrite 0 0 [], .apertureWrite 0 4095 [0, 0], .objWrite 0 [some ([], false)]], i.wf = false := by decide

/-! ### Results the spec works out -/

/-- The worked example of 03_number_formats.md: 3.3, −0.71, 12.5 and 0.02 become E4M3 elements under scale byte 0x7A. -/
theorem test_mx_block : toMXBlock 4 false true (fun _ => .nearest) ([0x40533333, 0xBF35C28F, 0x41480000, 0x3CA3D70A].map ofF32)
    = (0x7A, [0x6D, 0xDB, 0x7C, 0x32]) := by decide
/-- The same example's conversion of −33.015625 to BF16: at draw 0x0A3F0000, at the threshold, and to nearest. -/
theorem test_bf16_draws : convF fmtBF16 (.stochastic 0x0A3F0000) true (ofF32 0xC2041000) = .code 0xC205
    ∧ convF fmtBF16 (.stochastic 0x10000000) true (ofF32 0xC2041000) = .code 0xC204
    ∧ convF fmtBF16 .nearest true (ofF32 0xC2041000) = .code 0xC204 := by decide
/-- The worked example of 06_vector_special_functions.md: mean and variance of rows A and B. -/
theorem test_row_statistics : statRow .rvar [0x45800200, 0x45800400, 0x45800600, 0x45800800] = [0x45800500, 0x3DA00000]
    ∧ statRow .rvar [0x3F8CCCCD, 0x3F8CCCCD, 0x3F8CCCCD, 0x3F8CCCCD] = [0x3F8CCCCD, 0] := by decide
/-- The worked example of 12_serving.md: the low words of the three token ring entries. -/
theorem test_token_entries :
    let e (token seq : Nat) (fin noTok ack : Bool) : TokEntry :=
      { token := token, seq := seq, fin := fin, noTok := noTok, ack := ack, replay := false, pfx := false, status := 0, tag := 0 }
    leNat (((e 0 4 true true true).bytes false 100050).take 8) = 0x0700000400000000
    ∧ leNat (((e 907 2 true false false).bytes false 100420).take 8) = 0x010000020000038B
    ∧ leNat (((e 0 2 false true true).bytes false 100421).take 8) = 0x0600000200000000 := by decide
/-- The worked example of 18_host_interface.md: tenant 37 writes TAIL 10, and a late TAIL 6 is clamped. -/
def tTen37 (tail : Nat) : State :=
  { State.reset with host := { State.reset.host with vfEnable := true, numVfs := 4096 },
                     streams := [(0xA2C, { tStream with tenant := 37, rqLog := 10, head := 0, tail := tail })] }
def after (o : Host.Outcome State Fault Refusal) : State :=
  match o with
  | .next t => t
  | _ => State.reset
theorem test_doorbell : (lookup (after (exec (.requestDoorbell 37 0x000A0A2C) (tTen37 0))).streams 0xA2C).map (·.tail) = some 10
    ∧ (lookup (after (exec (.requestDoorbell 37 0x00060A2C) (tTen37 10))).streams 0xA2C).map (·.tail) = some 10
    ∧ (after (exec (.requestDoorbell 37 0x00060A2C) (tTen37 10))).get TEN_CLAMP_COUNT = 1
    ∧ (after (exec (.requestDoorbell 37 0x00060A2C) (tTen37 10))).get TEN_CLAMP_LAST_ADDR = 0x00250200 := by decide
/-- The worked example of 17_exkalet.md: from +15 mV the search goes down; the last passing offset −10 mV gives +5 mV. -/
theorem test_anneal : ((after (exec (.canaryRun 1 false) (tChannels (some (tAnneal 15 none none)) none))).channel 1).map (·.v) = some 10
    ∧ ((after (exec (.canaryRun 1 true) (tChannels (some (tAnneal (-15) (some false) none)) none))).channel 1).map (·.final)
      = some (some 5) := by decide
/-- The worked example of 13_ravor_fabric.md: B, expecting flit 102, discards flits 103 to 107 as gap and later duplicates. -/
theorem test_flits : (∀ n ∈ [103, 107], (after (exec (.dataFlitReceive 13 n 0 1 false) (tPort ptUp { portReset with exp := 102 }))).get
      (RVR_PORT_GAP_GAP_CNT 13) = 1)
    ∧ (after (exec (.dataFlitReceive 13 102 0 1 false) (tPort ptUp { portReset with exp := 108 }))).get (RVR_PORT_REPLAY_DUP_CNT 13) = 1
    ∧ ((after (exec (.dataFlitReceive 13 102 0 1 false) (tPort ptUp { portReset with exp := 102 }))).port 13).exp = 103 := by decide
/-- A step takes the command that waited longest (the queue is first in, first out). -/
theorem test_step_front : (after (step { tRun with pending := [.fseqGo 0, .fseqGo 1] })).pending = [.fseqGo 1]
    ∧ (after (step { tRun with pending := [.fseqGo 0, .fseqGo 1] })).flag (HUB_FSEQ_GO_GO 0) = true := by decide
/-- The table gives no row bits, so no word spells a command. -/
theorem test_no_words : decodeTableWord 32 0 = none ∧ State.reset.withFetchWord 32 0 = State.reset := ⟨rfl, rfl⟩

/-! Load checks (R262, R365) -/

/-- A core with one matrix descriptor whose output goes to ring 2. -/
def tHazTables : Tables :=
  { emptyTables with mats := [{ ringBacked := true, rowsLayout := false, base := 2, breg := 8, fmt := 0, rowsMax := 1, colsMax := 32,
                                rstride := 0, ctr := 64, wreg := 0 }] }
/-- Two MATs on one output ring share the queue unless a WAITM stands between them on every way (R252, R262). -/
theorem test_hazard_scope :
    matsApart tHazTables [1 * 2 ^ 60, 1 * 2 ^ 60, 0xA1 * 2 ^ 56] = false
    ∧ matsApart tHazTables [1 * 2 ^ 60, 0x83 * 2 ^ 56, 1 * 2 ^ 60, 0xA1 * 2 ^ 56] = true
    ∧ matsApart tHazTables [0x90 * 2 ^ 56 + 2 * 2 ^ 36 + 5 * 2 ^ 20, 1 * 2 ^ 60, 1 * 2 ^ 60, 0xA1 * 2 ^ 56] = false := by
  decide +kernel
/-- A sequence of five flasks in slots 0, 1, 0, 1, 2: entry 1 may meet flasks 0 and 2 in slot 0, never flask 3 beside flask 0
(R365, R375). -/
def tOrderImage : Image :=
  { emptyImage with seq := [0, 1, 2, 3, 4].map fun i =>
      { flask := i, slot := if i = 4 then 2 else i % 2, next := (i + 1) % 5, go := false, last := false, count := 1 } }
theorem test_standing :
    (tOrderImage.standing (seqOrder tOrderImage.seq 0 12) 6 0, tOrderImage.standing (seqOrder tOrderImage.seq 0 12) 6 1,
      tOrderImage.standing (seqOrder tOrderImage.seq 0 12) 7 1) = ([0, 2], [1], [1, 3]) := by decide

end Sys2Proof.Tests
end

/-! Tide fences: the collector's notices to the participants and their arrival (R61 to R63). -/

namespace Sys2Proof.Machine

/-- The completion tick put on its way to core `d` (R63). -/
def State.stampFence (s : State) (d : Nat) : State := s.setCore d { s.core d with fenceTick := some s.tide.now }
/-- The completion tick put on its way to each core of a list, one after the other. -/
def State.stampFences (s : State) (ds : List Nat) : State := ds.foldl State.stampFence s

@[simp] theorem stampFence_tide (s : State) (d : Nat) : (s.stampFence d).tide = s.tide := rfl

/-- A notice reaches its core alone. -/
theorem core_stampFence (s : State) (d e : Nat) :
    (s.stampFence d).core e = if e = d then { s.core e with fenceTick := some s.tide.now } else s.core e := by
  by_cases h : e = d
  · subst h; simp [State.stampFence]
  · simp [State.stampFence, core_setCore_ne s _ h, h]

/-- Every core of the list gets the same tick, that of the start, however often the list names it; no other core changes. -/
theorem core_stampFences (ds : List Nat) : ∀ (s : State) (e : Nat),
    (s.stampFences ds).core e = if e ∈ ds then { s.core e with fenceTick := some s.tide.now } else s.core e := by
  induction ds with
  | nil => intro s e; simp [State.stampFences]
  | cons d ds ih =>
    intro s e
    have step : (s.stampFences (d :: ds)).core e = ((s.stampFence d).stampFences ds).core e := rfl
    rw [step, ih, core_stampFence, stampFence_tide]
    by_cases hd : e = d <;> by_cases hm : e ∈ ds <;> simp [hd, hm]

/-- Notices change cores alone. -/
theorem stampFences_eq_cores (ds : List Nat) : ∀ s : State, s.stampFences ds = { s with cores := (s.stampFences ds).cores } := by
  induction ds with
  | nil => intro s; rfl
  | cons d ds ih => intro s; exact ih (s.stampFence d)

/-- FENCE_COMPLETION of a core that waits at a fence: the notices go out when there are participants and each has gathered,
else nothing changes (R62, R63). -/
theorem exec_fenceCompletion_of_fence {c : LCore} {s : State} {scope : Nat} (h : (s.core c).fence = some scope) :
    exec (.fenceCompletion c) s = .next
      (if s.fenceParts c scope ≠ [] ∧ ∀ d ∈ s.fenceParts c scope, (s.core d).gathered scope = true then
        s.stampFences (s.fenceParts c scope) else s) := by
  change execFenceCompletion c s = _
  simp only [execFenceCompletion, h, Bool.and_eq_true, Bool.not_eq_true', List.isEmpty_eq_false_iff, List.all_eq_true]
  rfl

/-- One participant that has not gathered holds the fence back. -/
theorem exec_fenceCompletion_waits {c : LCore} {d : Nat} {s : State} {scope : Nat} (h : (s.core c).fence = some scope)
    (hd : d ∈ s.fenceParts c scope) (hg : (s.core d).gathered scope = false) :
    exec (.fenceCompletion c) s = .next s := by
  rw [exec_fenceCompletion_of_fence h, if_neg]
  rintro ⟨-, hall⟩
  simp [hall d hd] at hg

/-- FENCE_NOTICE_ARRIVAL with a tick on its way: the core resumes with it (R63). -/
theorem exec_fenceNoticeArrival_of_tick {c : LCore} {s : State} {n : DWord} (h : (s.core c).fenceTick = some n) :
    exec (.fenceNoticeArrival c) s
      = .next (s.setCore c { s.core c with ftick := n, fence := none, fenceTick := none }) := by
  change execFenceNoticeArrival c s = _
  simp only [execFenceNoticeArrival, h]

/-- Settles O21: the notices give every participant one tick, a participant that has not gathered holds them all back, and a
notice that arrives is taken by its core alone. -/
theorem fencesCompleteTogether : Obligations.FencesCompleteTogether := by
  unfold Obligations.FencesCompleteTogether
  intro c s scope
  refine ⟨fun hf hne hall => ?_, fun d hf hd hg => exec_fenceCompletion_waits hf hd hg, fun n hn => ?_⟩
  · have completes : exec (.fenceCompletion c) s = .next (s.stampFences (s.fenceParts c scope)) := by
      rw [exec_fenceCompletion_of_fence hf, if_pos ⟨hne, hall⟩]
    refine ⟨_, completes, fun d hd => ?_, fun d hd => ?_, stampFences_eq_cores _ s⟩
    · rw [core_stampFences, if_pos hd]
    · rw [core_stampFences, if_neg hd]
  · exact ⟨_, exec_fenceNoticeArrival_of_tick hn, core_setCore_self .., (CoreFrame.refl c [] s).setCore⟩

end Sys2Proof.Machine

/-! Registered models: what the status of a HUB_IMG command leaves alone, and UNREGISTER's two answers (R379). -/

namespace Sys2Proof.Machine

/-- A map that is changed value by value holds at each key the change of what it held. -/
theorem lookup_mapValues {α β : Type} (f : α → β) (m : SMap α) (k : Nat) :
    lookup (m.map fun e => (e.1, f e.2)) k = (lookup m k).map f := by
  induction m with
  | nil => rfl
  | cons e rest ih =>
    obtain ⟨j, v⟩ := e
    by_cases h : j = k <;> simp [lookup, h, ih]

/-- The registry keys of model `m` are those between its first key and the first of model `m + 1`. -/
theorem exrKey_range_iff (m k : Nat) : exrKey m 0 ≤ k ∧ k < exrKey (m + 1) 0 ↔ ∃ e < 4096, k = exrKey m e := by
  unfold exrKey
  constructor
  · rintro ⟨hlo, hhi⟩
    exact ⟨k - 4096 * m, by omega, by omega⟩
  · rintro ⟨e, he, rfl⟩
    omega

/-! ### The status of a HUB_IMG command -/

theorem onlyRegs_imgDone (s : State) (code check : Nat) : OnlyRegs [HUB_IMG_STATUS] s (s.imgDone code check) :=
  ((OnlyRegs.refl _ s).put List.mem_cons_self).put List.mem_cons_self

theorem imgDone_code (s : State) (code check : Nat) : (s.imgDone code check).get HUB_IMG_STATUS_CODE = code % 256 := by
  unfold State.imgDone
  rw [get_put_apart _ HUB_IMG_STATUS_CHECK HUB_IMG_STATUS_CODE _ rfl (by decide), get_put_self _ _ _ (by decide)]
  rfl

/-! ### The state without a model -/

/-- The ferry cache holds no expert of model `m`; everything else of the harbor is as it was. -/
def HarborSt.dropModel (x : HarborSt) (m : Nat) : HarborSt :=
  { x with cached := x.cached.filter fun f => decide (f.model ≠ m) }

theorem HarborSt.dropModel_harborReset (m : Nat) : harborReset.dropModel m = harborReset := rfl

theorem HarborSt.model_ne_of_mem_dropModel {x : HarborSt} {m : Nat} {f : FerryExpert} (h : f ∈ (x.dropModel m).cached) :
    f.model ≠ m :=
  of_decide_eq_true (List.mem_filter.mp h).2

/-- Model `m` out of the model table, the registry and the ferry caches. -/
def State.dropModel (s : State) (m : Nat) : State :=
  { s with
    models := erase s.models m
    registry := eraseRange s.registry (exrKey m 0) (exrKey (m + 1) 0)
    harbors := s.harbors.map fun e => (e.1, e.2.dropModel m) }

theorem harbor_dropModel (s : State) (m h : Nat) : (s.dropModel m).harbor h = (s.harbor h).dropModel m := by
  change lookupD (s.harbors.map _) h harborReset = (lookupD s.harbors h harborReset).dropModel m
  unfold lookupD
  rw [lookup_mapValues fun x : HarborSt => x.dropModel m]
  cases lookup s.harbors h with
  | none => exact (HarborSt.dropModel_harborReset m).symm
  | some x => rfl

theorem model_ne_of_mem_cached_dropModel (s : State) {m h : Nat} {f : FerryExpert} (hf : f ∈ ((s.dropModel m).harbor h).cached) :
    f.model ≠ m := by
  rw [harbor_dropModel] at hf
  exact HarborSt.model_ne_of_mem_dropModel hf

theorem objs_harbor_dropModel (s : State) (m h : Nat) : ((s.dropModel m).harbor h).objs = (s.harbor h).objs := by
  rw [harbor_dropModel]
  rfl

theorem lookup_models_dropModel (s : State) (m k : Nat) :
    lookup (s.dropModel m).models k = if k = m then none else lookup s.models k := lookup_erase ..

theorem lookup_registry_dropModel_exrKey (s : State) (m : Nat) {e : Nat} (he : e < 4096) :
    lookup (s.dropModel m).registry (exrKey m e) = none :=
  (lookup_eraseRange ..).trans (if_pos ((exrKey_range_iff m _).mpr ⟨e, he, rfl⟩))

theorem lookup_registry_dropModel_of_ne (s : State) {m k : Nat} (hk : ∀ e, e < 4096 → k ≠ exrKey m e) :
    lookup (s.dropModel m).registry k = lookup s.registry k := by
  refine (lookup_eraseRange ..).trans (if_neg fun hr => ?_)
  obtain ⟨e, he, hke⟩ := (exrKey_range_iff m k).mp hr
  exact hk e he hke

/-! ### UNREGISTER -/

theorem unregister_eq_refused {s : State} {m : Nat} (h : (s.jobs.any fun e => decide (e.2.model = some m)) = true) :
    s.unregister m = s.imgDone stRefusedFit 0 :=
  if_pos (by rw [h, Bool.or_true])

theorem unregister_eq_dropModel {s : State} {m : Nat} (hm : lookup s.models m ≠ none)
    (h : (s.jobs.any fun e => decide (e.2.model = some m)) = false) :
    s.unregister m = ((s.dropModel m).put HUB_EXR_STATUS_USED (s.dropModel m).exrUsed).imgDone stDone 0 :=
  if_neg (by rw [h, Bool.or_false, Option.isNone_iff_eq_none]; exact hm)

theorem exec_imgUnregister (s : State) :
    exec .imgUnregister s = .next (s.unregister (bitsOf (s.get (HUB_IMG_ARG_ARG 0)) 0 10)) := rfl

/-- Settles O32: a job that holds the model has the command refused, else the model leaves the model table, the registry and the
ferry caches, and no object leaves its harbor. -/
theorem unregisterFreesTheModel : Obligations.UnregisterFreesTheModel := by
  unfold Obligations.UnregisterFreesTheModel
  intro s m registered
  refine ⟨fun held => ?_, fun unheld => ?_⟩
  · have refused : exec .imgUnregister s = .next (s.imgDone stRefusedFit 0) := by
      rw [exec_imgUnregister, unregister_eq_refused held]
    exact ⟨_, refused, onlyRegs_imgDone .., imgDone_code ..⟩
  · have done : exec .imgUnregister s
        = .next (((s.dropModel m).put HUB_EXR_STATUS_USED (s.dropModel m).exrUsed).imgDone stDone 0) := by
      rw [exec_imgUnregister, unregister_eq_dropModel registered unheld]
    have counted : RegsBut [HUB_IMG_STATUS, HUB_EXR_STATUS] s
        ((s.dropModel m).put HUB_EXR_STATUS_USED (s.dropModel m).exrUsed) :=
      ((RegsBut.refl _ s).of_regs rfl).put (List.mem_cons_of_mem _ List.mem_cons_self)
    refine ⟨_, done, ?freed, ?others, imgDone_code .., ?entries, ?otherEntries, ?caches, ?objects, rfl, rfl, ?regs⟩
    case freed => exact (lookup_models_dropModel s m m).trans (if_pos rfl)
    case others => exact fun k hk => (lookup_models_dropModel s m k).trans (if_neg hk)
    case entries => exact fun e he => lookup_registry_dropModel_exrKey s m he
    case otherEntries => exact fun k hk => lookup_registry_dropModel_of_ne s hk
    case caches => exact fun hb x hx => model_ne_of_mem_cached_dropModel s hx
    case objects => exact objs_harbor_dropModel s m
    case regs => exact counted.trans ((onlyRegs_imgDone ..).2.mono (by simp))

end Sys2Proof.Machine
